-- ==== Sys2Proof/Word.lean ====
section
/-! DEFINITION. The words of the GWK-960, the numbers that name its registers, and the keyed lists
that hold its sparse storage.  Bit numbering and byte order follow R2. -/

namespace Sys2Proof

/-- A scalar register's contents, and an address. -/
abbrev Word := BitVec 64
/-- A byte of memory. -/
abbrev Byte := BitVec 8
/-- A row register's contents: lane `i` is bits `32 i + 31` down to `32 i` (R174). -/
abbrev Row := BitVec 16384
/-- A lane mask: bit `i` belongs to lane `i`. -/
abbrev Mask := BitVec 512
/-- A bundle as it stands in memory (R62). -/
abbrev Bits256 := BitVec 256

/-- G0 to G31. -/
abbrev GReg := BitVec 5
/-- P0 to P15. -/
abbrev PReg := BitVec 4
/-- M0 to M7. -/
abbrev MReg := BitVec 3
/-- V0 to V63. -/
abbrev VReg := BitVec 6
/-- T0 to T7. -/
abbrev TReg := BitVec 3

/-- A list of values by key, its keys strictly rising; a key that is not listed has a value that the
reader supplies. -/
abbrev Map (α : Type) := List (Nat × α)

/-- The value listed for a key, if there is one. -/
def Map.find? {α : Type} (m : Map α) (k : Nat) : Option α :=
  match m with
  | [] => none
  | (j, v) :: rest => if j = k then some v else Map.find? rest k

/-- The value of a key; `d` where the key is not listed. -/
def Map.getD {α : Type} (m : Map α) (k : Nat) (d : α) : α :=
  (Map.find? m k).getD d

/-- List `v` for `k`, in the place of what was listed before. -/
def Map.put {α : Type} (m : Map α) (k : Nat) (v : α) : Map α :=
  match m with
  | [] => [(k, v)]
  | (j, w) :: rest =>
    if k < j then (k, v) :: (j, w) :: rest
    else if k = j then (k, v) :: rest
    else (j, w) :: Map.put rest k v

/-- Take a key off the list. -/
def Map.del {α : Type} (m : Map α) (k : Nat) : Map α :=
  List.filter (fun e => e.1 != k) m

/-- Keep the entries that satisfy `p`. -/
def Map.keep {α : Type} (m : Map α) (p : Nat → α → Bool) : Map α :=
  List.filter (fun e => p e.1 e.2) m

/-- Lane `i` of a row. -/
def lane (r : Row) (i : Nat) : BitVec 32 := r.extractLsb' (32 * i) 32

/-- A row from its lanes below `n`; the others are zero. -/
def rowUpTo (n : Nat) (f : Nat → BitVec 32) : Row :=
  match n with
  | 0 => 0
  | k + 1 => rowUpTo k f ||| ((f k).setWidth 16384 <<< (32 * k))

/-- The row whose lane `i` is `f i`. -/
def rowOf (f : Nat → BitVec 32) : Row := rowUpTo 512 f

/-- A mask from its bits below `n`. -/
def maskUpTo (n : Nat) (f : Nat → Bool) : Mask :=
  match n with
  | 0 => 0
  | k + 1 => maskUpTo k f ||| ((BitVec.ofBool (f k)).setWidth 512 <<< k)

/-- The mask whose bit `i` is `f i`. -/
def maskOf (f : Nat → Bool) : Mask := maskUpTo 512 f

/-- Bits `lo + n - 1` down to `lo` of a number. -/
def bitsAt (w lo n : Nat) : Nat := (w >>> lo) % 2 ^ n

/-- The `n` numbers from `lo` on. -/
def upFrom (lo n : Nat) : List Nat := (List.range n).map (lo + ·)

/-- `a` rounded down to a multiple of `n`. -/
def alignDown (a n : Nat) : Nat := a / n * n

end Sys2Proof
end

