-- ==== Sys2Proof/Syntax.lean ====
section
/-! DEFINITION. The instruction set: one constructor for every row of the opcode table.  The first
part holds what a bundle can carry (R62 to R81), each operation with its guard and the empty policy
of each register source (R68); the second part holds the module's own steps, which have no encoding. -/

namespace Sys2Proof

/-- A slot's guard (R64): `inv` inverts the condition that `sel` names. -/
structure Guard where
  inv : Bool
  sel : BitVec 5
  deriving DecidableEq, Repr

/-- A G register source with its empty policy (R68): `trap` is the E bit. -/
structure GSrc where
  reg : GReg
  trap : Bool
  deriving DecidableEq, Repr

/-- A V register source with its empty policy (R68). -/
structure VSrc where
  reg : VReg
  trap : Bool
  deriving DecidableEq, Repr

/-- Access width of LD and ST (R74): 1, 2, 4 or 8 bytes. -/
inductive Width where | w8 | w16 | w32 | w64
  deriving DecidableEq, Repr

/-- Address space of LD and ST (R74), in the order of its codes. -/
inductive Space where | global | tsLinear | tsSwizzled | abuf
  deriving DecidableEq, Repr

/-- The local spaces of row accesses (R76), in the order of their codes. -/
inductive LSpace where | abuf | tsLinear | tsSwizzled
  deriving DecidableEq, Repr

/-- Ordering scopes (R74, R305), in the order of their codes. -/
inductive Scope where | core | pair | cluster | die | module | system
  deriving DecidableEq, Repr

/-- Ordering of an atomic (R74), in the order of its codes. -/
inductive AOrd where | relaxed | acquire | release | acqRel
  deriving DecidableEq, Repr

/-- Conditions of CMP (R74), in the order of their codes. -/
inductive Cond where | eq | ne | lt | le | gt | ge | ltu | leu | gtu | geu
  deriving DecidableEq, Repr

/-- Conditions of VCMP (R76). -/
inductive VCond where | eq | ne | lt | le | gt | ge
  deriving DecidableEq, Repr

/-- Rounding modes of an RM field (R46), in the order of their codes. -/
inductive RMode where | rne | rtz | rup | rdn
  deriving DecidableEq, Repr

/-- Operations of VRED and VSCAN (R162). -/
inductive RedOp where | add | max | min | or
  deriving DecidableEq, Repr

/-- Operations of SRED (R217) and of conjunction tags (R267), in the order of their codes. -/
inductive CombOp where | addI32 | addF32 | maxF32 | minF32 | or
  deriving DecidableEq, Repr

/-- Entry widths of VLUT (R166). -/
inductive EntW where | w8 | w16 | w32
  deriving DecidableEq, Repr

/-- Ports of TXM and selectors of RXM (R76), in the order of their codes. -/
inductive Port where | north | east | south | west | localBus
  deriving DecidableEq, Repr

/-- What a TLBI removes (R297), in the order of its codes. -/
inductive TlbiKind where | page | space | all
  deriving DecidableEq, Repr

/-- The access an XLATE asks about (R299), in the order of its codes. -/
inductive Access where | read | write | exec
  deriving DecidableEq, Repr

/-- Residency classes of code pages (R23), in the order of their codes. -/
inductive Residency where | pinned | warm | cold | stream
  deriving DecidableEq, Repr

/-- An operand stream of the array (R248). -/
inductive Stream where | fa | fb
  deriving DecidableEq, Repr

/-- The format tags (Table BND-15), in the order of their codes. -/
inductive Tag where | raw | int8 | int16 | int32 | fp32 | bf16 | fp16 | e4m3 | e5m2 | e2m1 | e8m0
  deriving DecidableEq, Repr

/-- A weight term (Table BND-5). -/
structure WTerm where
  reg : Bool
  index : BitVec 11
  s1 : Bool
  k1 : BitVec 3
  s2 : Bool
  k2 : BitVec 3
  e2 : Bool
  deriving DecidableEq, Repr

/-- Who hands a record to a queue (R321). -/
inductive EnqSource where | pushw | launch | launchi | join | host
  deriving DecidableEq, Repr

/-- In whose right a record is enqueued (R321): privilege, address space and priority cap; and the number of the job that it
belongs to (R318), 0 where it belongs to none. -/
structure EnqCtx where
  user : Bool
  asid : BitVec 12
  cprio : BitVec 6
  job : Nat
  deriving DecidableEq, Repr

/-- A zone's sensors (R365): the highest junction reading and the eight layer readings in quarter degrees, the flow in quarter
units. -/
structure ZoneSample where
  tj : Nat
  layers : List Nat
  meas : Nat
  deriving DecidableEq, Repr

/-- What the manifold's inlet sensors show (R365): temperature in quarter degrees, flow in quarter units. -/
structure Inlet where
  temp : Nat
  flow : Nat
  deriving DecidableEq, Repr

/-- A fabric message (Table FAB-5), its units already joined. -/
structure Msg where
  dst : Nat
  src : Nat
  agent : Nat
  hops : Nat
  vc : Nat
  cseq : Nat
  body : List Byte
  deriving DecidableEq, Repr

/-- A signed firmware image (R355), with its kind (0 management controller, 1 die controllers, 2 OWC service) and the errata mask
that it brings (R353). -/
structure FwImage where
  kind : Nat
  version : Nat
  length : Nat
  errata : BitVec 64
  body : List Byte
  signature : List Byte
  deriving DecidableEq, Repr, Inhabited

/-- The configuration record of Table PKG-1 but for QANNEX; PAIRQ by physical pair, FWMIN by image. -/
structure ConfigRecord where
  ver : Nat
  serial : List Byte
  dieMap : BitVec 4
  clMap : List (BitVec 32)
  pairQ : List (Nat × BitVec 3)
  tierMap : BitVec 96
  portMap : BitVec 144
  featMask : BitVec 256
  errata : BitVec 64
  fwMin : List (Nat × Nat)
  sealedCache : Bool
  sig : List Byte
  deriving DecidableEq, Repr

/-- A register that a REGISTER_WRITE step writes through a die controller or the host's window: a system
register of a core, SLPART of a slice (Table MEM-2), SCHCTL of a die, 64 bits of FEATSEL, a host queue's
register by its offset (Table PKG-5), FPSTAT of a port, the route entry of a module (Tables FAB-3, FAB-4),
SLOTBASE (R354), the host's decoder of the tier's window (R348): base in bits 31:0 and size in bits 63:32, in units of 256 MiB (log 23). -/
inductive RegTarget where
  | core (n : Nat) (q : BitVec 12)
  | slpart (sl j : Nat)
  | schctl (d : Nat)
  | featsel (j : Nat)
  | hostQueue (q off : Nat)
  | fpstat (p : Nat)
  | route (m : Nat)
  | slotbase
  | hdm
  deriving DecidableEq, Repr

/-- A block of a partial weight update (R97): the request record that its code was made from, the changed weights by place in
reading order with their new values, the virtual address of the block's entry, the fresh 64 KiB pages that the OWC service takes
for its span, and the doublewords that it writes into its own tables to map them (R98). -/
structure BlockUpdate where
  record : List Byte
  changes : List (Nat × Int)
  va : Nat
  pages : List Nat
  table : List (Nat × Word)
  deriving DecidableEq, Repr

/-- A partial weight update: GEN and GROOT of doubleword 2 of the ASTE for the new generation (R98), and the blocks. -/
structure WeightUpdate where
  gen : Word
  blocks : List BlockUpdate
  deriving DecidableEq, Repr

/-- A doorbell (R346): the tail, and the bytes that the host has written in its memory before it. -/
structure Doorbell where
  tail : BitVec 32
  bytes : List (Nat × Byte)
  deriving DecidableEq, Repr

/-- The instruction set and the module's steps. -/
inductive Instr where
  -- bundle forms
  | nop (count : BitVec 12)
  | wacc (vd : VReg) (mk : MReg) (ts : List WTerm)
  | wset (vd : VReg) (mk : MReg) (ts : List WTerm)
  | wneg (vd : VReg) (mk : MReg) (ts : List WTerm)
  -- S slot: integer
  | add (g : Guard) (d : GReg) (a b : GSrc)
  | sub (g : Guard) (d : GReg) (a b : GSrc)
  | mul (g : Guard) (d : GReg) (a b : GSrc)
  | mulh (g : Guard) (d : GReg) (a b : GSrc)
  | mulhu (g : Guard) (d : GReg) (a b : GSrc)
  | div (g : Guard) (d : GReg) (a b : GSrc)
  | divu (g : Guard) (d : GReg) (a b : GSrc)
  | rem (g : Guard) (d : GReg) (a b : GSrc)
  | remu (g : Guard) (d : GReg) (a b : GSrc)
  | and (g : Guard) (d : GReg) (a b : GSrc)
  | or (g : Guard) (d : GReg) (a b : GSrc)
  | xor (g : Guard) (d : GReg) (a b : GSrc)
  | andn (g : Guard) (d : GReg) (a b : GSrc)
  | shlReg (g : Guard) (d : GReg) (a b : GSrc)
  | shrReg (g : Guard) (d : GReg) (a b : GSrc)
  | sarReg (g : Guard) (d : GReg) (a b : GSrc)
  | rotReg (g : Guard) (d : GReg) (a b : GSrc)
  | shlImm (g : Guard) (d : GReg) (a : GSrc) (n : BitVec 6)
  | shrImm (g : Guard) (d : GReg) (a : GSrc) (n : BitVec 6)
  | sarImm (g : Guard) (d : GReg) (a : GSrc) (n : BitVec 6)
  | rotImm (g : Guard) (d : GReg) (a : GSrc) (n : BitVec 6)
  | min (g : Guard) (d : GReg) (a b : GSrc)
  | max (g : Guard) (d : GReg) (a b : GSrc)
  | minu (g : Guard) (d : GReg) (a b : GSrc)
  | maxu (g : Guard) (d : GReg) (a b : GSrc)
  | abs (g : Guard) (d : GReg) (a : GSrc)
  | sel (g : Guard) (d : GReg) (pc : PReg) (a b : GSrc)
  | mov (g : Guard) (d : GReg) (a : GSrc)
  | addi (g : Guard) (d : GReg) (a : GSrc) (imm : BitVec 24)
  | lea (g : Guard) (d : GReg) (a b : GSrc) (sh : BitVec 3)
  | cmp (g : Guard) (pd : PReg) (c : Cond) (a b : GSrc)
  | bfx (g : Guard) (d : GReg) (a : GSrc) (pos len : BitVec 6)
  | bfxz (g : Guard) (d : GReg) (a : GSrc) (pos len : BitVec 6)
  | bfi (g : Guard) (d : GReg) (a b : GSrc) (pos len : BitVec 6)
  | bfxVar (g : Guard) (d : GReg) (a b : GSrc) (len : BitVec 6)
  | bfxzVar (g : Guard) (d : GReg) (a b : GSrc) (len : BitVec 6)
  | bfiVar (g : Guard) (d : GReg) (a b c : GSrc) (len : BitVec 6)
  | fshl (g : Guard) (d : GReg) (a b c : GSrc)
  | fshr (g : Guard) (d : GReg) (a b c : GSrc)
  | clz (g : Guard) (d : GReg) (a : GSrc)
  | ctz (g : Guard) (d : GReg) (a : GSrc)
  | popc (g : Guard) (d : GReg) (a : GSrc)
  | brev (g : Guard) (d : GReg) (a : GSrc)
  | pand (g : Guard) (pd pa pb : PReg)
  | por (g : Guard) (pd pa pb : PReg)
  | pxor (g : Guard) (pd pa pb : PReg)
  | pnot (g : Guard) (pd pa : PReg)
  | pmov (g : Guard) (pd pa : PReg)
  | movi (g : Guard) (d : GReg) (imm : BitVec 32)
  | movhi (g : Guard) (d : GReg) (imm : BitVec 32)
  -- S slot: memory, ordering
  | ld (g : Guard) (t : GReg) (a : GSrc) (w : Width) (sp : Space) (acq : Bool) (sc : Scope) (off : BitVec 14)
  | st (g : Guard) (t : GSrc) (a : GSrc) (w : Width) (sp : Space) (rel : Bool) (sc : Scope) (off : BitVec 14)
  | aadd (g : Guard) (d : GReg) (a b : GSrc) (w64 : Bool) (sc : Scope) (o : AOrd)
  | aand (g : Guard) (d : GReg) (a b : GSrc) (w64 : Bool) (sc : Scope) (o : AOrd)
  | aor (g : Guard) (d : GReg) (a b : GSrc) (w64 : Bool) (sc : Scope) (o : AOrd)
  | axor (g : Guard) (d : GReg) (a b : GSrc) (w64 : Bool) (sc : Scope) (o : AOrd)
  | amin (g : Guard) (d : GReg) (a b : GSrc) (w64 : Bool) (sc : Scope) (o : AOrd) (u : Bool)
  | amax (g : Guard) (d : GReg) (a b : GSrc) (w64 : Bool) (sc : Scope) (o : AOrd) (u : Bool)
  | axchg (g : Guard) (d : GReg) (a b : GSrc) (w64 : Bool) (sc : Scope) (o : AOrd)
  | acas (g : Guard) (d : GReg) (a b c : GSrc) (w64 : Bool) (sc : Scope) (o : AOrd)
  | afadd (g : Guard) (d : GReg) (a b : GSrc) (sc : Scope) (o : AOrd)
  | afmax (g : Guard) (d : GReg) (a b : GSrc) (sc : Scope) (o : AOrd)
  | fence (g : Guard) (sc : Scope)
  | qmark (g : Guard)
  | vjoin (g : Guard)
  | ownCore (g : Guard) (a : GSrc)
  | ownEngine (g : Guard) (a : GSrc)
  | arma (g : Guard) (a : GSrc) (target : BitVec 24)
  | waitaCnt (g : Guard) (a : GSrc) (n : BitVec 24)
  | waitaGen (g : Guard) (a : GSrc) (gen : BitVec 16)
  | sysr (g : Guard) (d : GReg) (q : BitVec 12)
  | sysw (g : Guard) (a : GSrc) (q : BitVec 12)
  | rngs (g : Guard) (a b : GSrc)
  -- S slot: tags, pages, scheduling, coolant
  | taga (g : Guard) (d : GReg) (a : GSrc)
  | tagf (g : Guard) (a : GSrc)
  | tagq (g : Guard) (d : GReg) (a : GSrc)
  | pgref (g : Guard) (a : GSrc)
  | tlbi (g : Guard) (a b : GSrc) (k : TlbiKind)
  | xlate (g : Guard) (d : GReg) (a : GSrc) (acc : Access)
  | pop (g : Guard) (d : GReg) (a : GSrc)
  | popNb (g : Guard) (d : GReg) (a : GSrc)
  | pushw (g : Guard) (a : GSrc)
  | join (g : Guard) (a : GSrc)
  | launch (g : Guard) (a : GSrc)
  | launchi (g : Guard) (a b : GSrc)
  | bar (g : Guard) (n : BitVec 10)
  | bara (g : Guard) (n : BitVec 10)
  | barw (g : Guard) (n : BitVec 10)
  | talw (g : Guard) (d : GReg) (a : GSrc)
  | flowq (g : Guard) (d : GReg) (a : GSrc)
  -- S slot: control
  | br (g : Guard) (disp : BitVec 30)
  | bri (g : Guard) (a : GSrc)
  | brt (g : Guard) (a : GSrc) (pw px py pz : PReg)
  | call (g : Guard) (d : GReg) (disp : BitVec 30)
  | calli (g : Guard) (d : GReg) (a : GSrc)
  | ret (g : Guard) (a : GSrc)
  | lbm (g : Guard) (a : GSrc) (n : BitVec 6)
  | pfi (g : Guard) (n : BitVec 5) (disp : BitVec 30)
  | trap (g : Guard) (code : BitVec 16)
  | brk (g : Guard) (code : BitVec 16)
  | halt (g : Guard)
  | eret (g : Guard)
  -- V slots
  | vadd (g : Guard) (d : VReg) (a b : VSrc) (mk : MReg) (rm : RMode)
  | vsub (g : Guard) (d : VReg) (a b : VSrc) (mk : MReg) (rm : RMode)
  | vmul (g : Guard) (d : VReg) (a b : VSrc) (mk : MReg) (rm : RMode)
  | vmulh (g : Guard) (d : VReg) (a b : VSrc) (mk : MReg) (rm : RMode)
  | vfma (g : Guard) (d : VSrc) (a b : VSrc) (mk : MReg) (rm : RMode)
  | vmin (g : Guard) (d : VReg) (a b : VSrc) (mk : MReg) (rm : RMode)
  | vmax (g : Guard) (d : VReg) (a b : VSrc) (mk : MReg) (rm : RMode)
  | vabs (g : Guard) (d : VReg) (a : VSrc) (mk : MReg)
  | vneg (g : Guard) (d : VReg) (a : VSrc) (mk : MReg)
  | vand (g : Guard) (d : VReg) (a b : VSrc) (mk : MReg) (rm : RMode)
  | vor (g : Guard) (d : VReg) (a b : VSrc) (mk : MReg) (rm : RMode)
  | vxor (g : Guard) (d : VReg) (a b : VSrc) (mk : MReg) (rm : RMode)
  | vshl (g : Guard) (d : VReg) (a b : VSrc) (mk : MReg) (rm : RMode)
  | vshr (g : Guard) (d : VReg) (a b : VSrc) (mk : MReg) (rm : RMode)
  | vsar (g : Guard) (d : VReg) (a b : VSrc) (mk : MReg) (rm : RMode)
  | vcmp (g : Guard) (md : MReg) (c : VCond) (a b : VSrc) (mk : MReg)
  | vsel (g : Guard) (d : VReg) (a b : VSrc) (mk : MReg)
  | vmov (g : Guard) (d : VReg) (a : VSrc) (mk : MReg)
  | vbcast (g : Guard) (d : VReg) (a : GSrc) (mk : MReg)
  | vcvt (g : Guard) (d : VReg) (a : VSrc) (mk : MReg) (tgt : Tag) (rm : RMode) (sat : Bool)
  | vcvts (g : Guard) (d : VReg) (a : VSrc) (mk : MReg) (tgt : Tag) (sat : Bool)
  | vrq (g : Guard) (d : VReg) (a : VSrc) (b : GSrc) (mk : MReg) (rm : RMode) (sat : Bool)
  | vexp2 (g : Guard) (d : VReg) (a : VSrc) (mk : MReg) (rm : RMode)
  | vrcp (g : Guard) (d : VReg) (a : VSrc) (mk : MReg) (rm : RMode)
  | vrsq (g : Guard) (d : VReg) (a : VSrc) (mk : MReg) (rm : RMode)
  | vlog2 (g : Guard) (d : VReg) (a : VSrc) (mk : MReg) (rm : RMode)
  | vred (g : Guard) (d : VReg) (a : VSrc) (mk : MReg) (op : RedOp)
  | vscan (g : Guard) (d : VReg) (a : VSrc) (mk : MReg) (op : RedOp)
  | vperm (g : Guard) (d : VReg) (a b : VSrc) (mk : MReg)
  | vcomp (g : Guard) (d : VReg) (a : VSrc) (mk : MReg)
  | vexpd (g : Guard) (d : VReg) (a : VSrc) (mk : MReg)
  | vlut (g : Guard) (d : VReg) (a : VSrc) (b : GSrc) (mk : MReg) (ent : EntW)
  | vbfx (g : Guard) (d : VReg) (a b : VSrc) (mk : MReg) (len : BitVec 5)
  | vfsh (g : Guard) (d : VReg) (a b : VSrc) (mk : MReg) (sh : BitVec 5)
  | vpopc (g : Guard) (d : VReg) (a : VSrc) (mk : MReg)
  | vclz (g : Guard) (d : VReg) (a : VSrc) (mk : MReg)
  | vld (g : Guard) (d : VReg) (a : GSrc) (sp : LSpace) (off : BitVec 13)
  | vst (g : Guard) (d : VSrc) (a : GSrc) (sp : LSpace) (off : BitVec 13)
  | vldx (g : Guard) (d : VReg) (a : GSrc) (sp : LSpace) (b : VSrc) (mk : MReg)
  | vstx (g : Guard) (d : VSrc) (a : GSrc) (sp : LSpace) (b : VSrc) (mk : MReg)
  | vtag (g : Guard) (d : VReg) (t : Tag)
  | vmsk (g : Guard) (md : MReg) (a : VSrc)
  | vtst (g : Guard) (pd : PReg) (ma : MReg)
  | txm (g : Guard) (a : VSrc) (p : Port)
  | rxm (g : Guard) (d : VReg) (p : Port)
  -- M slot
  | mma (g : Guard) (t : TReg) (fa fb : BitVec 4) (kg : BitVec 6)
  | mmas (g : Guard) (t : TReg) (fa fb : BitVec 4) (kg : BitVec 6)
  | mmai (g : Guard) (t : TReg) (kg : BitVec 6)
  | tclr (g : Guard) (t : TReg)
  | trd (g : Guard) (d : VReg) (t : TReg) (row : BitVec 6)
  | twr (g : Guard) (a : VSrc) (t : TReg) (row : BitVec 6)
  | fqskip (g : Guard) (f : Stream) (n : BitVec 16)
  | msig (g : Guard) (d : GReg)
  | arrayOperationComplete (n : Nat)
  -- C slots
  | cpy (g : Guard) (a b c : GSrc) (inc : BitVec 7) (chk : Bool)
  | cpy2 (g : Guard) (a b c : GSrc) (inc : BitVec 7) (chk : Bool)
  | cpy3 (g : Guard) (a b c : GSrc) (inc : BitVec 7) (chk : Bool)
  | cpyx (g : Guard) (a b c : GSrc) (inc : BitVec 7)
  | unf (g : Guard) (a b c : GSrc) (inc : BitVec 7)
  | gth (g : Guard) (a b c : GSrc) (inc : BitVec 7)
  | sct (g : Guard) (a b c : GSrc) (inc : BitVec 7)
  | fill (g : Guard) (a b : GSrc) (inc : BitVec 7)
  | feed (g : Guard) (a b : GSrc) (inc : BitVec 7) (f : Stream)
  | xfmT (g : Guard) (a b c : GSrc) (inc : BitVec 7)
  | xfmCvt (g : Guard) (a b c : GSrc) (inc : BitVec 7)
  | xfmPack (g : Guard) (a b c : GSrc) (inc : BitVec 7)
  | pfd (g : Guard) (a b : GSrc)
  | pfc (g : Guard) (a b : GSrc) (cls : Residency)
  | sred (g : Guard) (a b c : GSrc) (inc : BitVec 7) (op : CombOp)
  | stg (g : Guard) (a b c : GSrc) (inc : BitVec 7) (chk : Bool)
  | cjs (g : Guard) (s : VSrc) (b : GSrc) (pos : BitVec 4)
  | cjsl (g : Guard) (a b : GSrc) (pos : BitVec 4)
  -- steps of a core and its engine (`n` is a CoreIndex)
  | segmentCommit (n : Nat)
  | rendezvousRelease (n : Nat)
  | copyPieceLand (n k : Nat)
  | arrivalIncrement (n k : Nat)
  | copyFaultReport (n : Nat)
  | engineWriteAccept (n k : Nat)
  | loadDeparture (n : Nat)
  | storeDeparture (n : Nat)
  | markerRemoval (n : Nat) (sq : Bool)
  | variableReply (n k : Nat)
  | freezeEnd (n : Nat)
  | freezeWatchdog (n : Nat)
  | recovery (n : Nat)
  | segctlCommit (n : Nat)
  | csreqSave (n : Nat) (area : Word)
  | csreqRestore (n : Nat) (area : Word)
  | csreqBadreq (n : Nat)
  | lsclrClra (n : Nat)
  | lsclrClrt (n : Nat)
  | traceSelect (n : Nat) (idx : BitVec 12)
  | traceTrigger (n : Nat)
  | registerWrite (r : RegTarget) (x : Word)
  | codeFetchMiss (n : Nat)
  | debugRequest (n : Nat) (hold : Bool)
  | debuggerRelease (n : Nat)
  -- steps of the memory (`sl` is a slice, 32 times its die plus its cluster)
  | orderPointServe (sl k : Nat)
  | lineFill (sl line : Nat)
  | atomicUpdate (sl k : Nat)
  | translationWalk (d k : Nat)
  | codePageStaging (d page : Nat)
  | slcfgWrite (sl : Nat) (x : Word)
  | asteWrite (asid : BitVec 12) (dw : Bool) (x : Word)
  | generationSwap (asid : BitVec 12) (x : Word)
  | generationRelease (asid gen : BitVec 12)
  | releaseRingWrite (dw : Nat) (x : Word)
  | dramRefresh (d ch layer : Nat)
  | stagingAreaSizing (d pages : Nat)
  -- steps of a pair and of a conjunction unit (`t` is a tag)
  | pairmodeWrite (p : Nat) (mode win : BitVec 2)
  | operandArrival (k : Nat)
  | resultDelivery (t : BitVec 32)
  | resultForward (t : BitVec 32)
  | operandRetry (n k : Nat)
  | sendRefusal (n : Nat)
  | orphanTimeout (t : BitVec 32)
  | tagFree (t : BitVec 32)
  | tagRetirementEnd (t : BitVec 32)
  | tagBlockRecordWrite (d blk : Nat) (x : Word)
  -- steps of the OWC service
  | blockRequest (record : List Byte)
  | partialWeightUpdate (asid : BitVec 12) (u : WeightUpdate)
  -- steps of a die controller
  | queueDescriptorWrite (d q : Nat) (dw0 dw1 dw2 : Word)
  | enqueue (d : Nat) (rec : BitVec 512) (src : EnqSource) (ctx : EnqCtx)
  | dispatchPlacement (d : Nat)
  | gangLaunch (d k : Nat)
  | gangCompletion (d gang : Nat)
  | gridCompletion (d grid : Nat)
  | gridRelease (d k : Nat)
  | popTimeout (n : Nat)
  | preemptionRequest (d gang : Nat) (kind : BitVec 2) (prio : BitVec 6)
  | preemptionRepeat (d gang : Nat)
  | barrierPhaseComplete (d gang n : Nat)
  | transitPhaseStart (d gang : Nat)
  | transitPhaseEnd (d gang : Nat)
  | routerProgramWrite (d cl k : Nat) (entries : List (BitVec 16))
  | droop (d cycles : Nat)
  -- steps of the package
  | moduleReset
  | start
  | hqtail (q : Nat) (x : Doorbell)
  | hostEntryTake (q : Nat)
  | jobCompletion (k : Nat)
  | cxlMemAccess (write : Bool) (addr : Nat) (n : Nat) (data : List Byte)
  | attestationRequest (nonce : BitVec 256)
  | firmwareUpdate (img : FwImage)
  | powerLossWarning
  | storageTransfer
  | checkpointRestore
  -- steps of the coolant
  | ephreq (k : Nat)
  | modflowWrite (x : Word)
  | slotAdvance
  | sensorSample (zones : List ZoneSample) (inlet : Inlet) (pressure : Nat)
  | dryChannelEvacuation (d z : Nat)
  -- steps of the fabric (`p` is a port)
  | flitReceive (p : Nat) (flit : List Byte)
  | retryRequest (p : Nat) (ack : BitVec 16)
  | portDown (p : Nat)
  | laneRetrain (p : Nat)
  | capability (p : Nat) (modnum flags : Byte)
  | fabcfgWrite (x : Word)
  | messageForward (m : Msg)
  | messageDelivery (k : Nat)
  | routeTimeout (k : Nat)
  | remoteCompletion (n k : Nat)
  | linkUp (p : Nat) (lanes : BitVec 2)
  deriving DecidableEq, Repr

end Sys2Proof
end

