-- ==== Sys2Proof/Config.lean ====
section
/-! DEFINITION. What one GWK-960 fixes and the free values: constants without a body, of which nothing
can be proved but that they have their type.  A claim holds whatever they are. -/

namespace Sys2Proof.Config

/-- R50: whether 0 × ∞ with a NaN addend sets NV; the rule's sentences give both (log 10). -/
opaque fmaNanNv : Bool

/-- R123: whether the element that stands at place `k` of those on their way lands in the cycle that
counter `tick` numbers (log 11). -/
opaque drains : Nat → Nat → Bool

/-- R300: which of the enabled moves is taken next; taken modulo their number (log 6). -/
opaque pick : Nat → Nat

/-- Reference ticks that pass during a step (log 6). -/
opaque elapsed : Nat → Nat

/-- R290: what a 16-byte unit written under one key reads as under another; the arguments are the key of
the writer, the key of the reader, the unit and its contents (log 12). -/
opaque otherKey : BitVec 8 → BitVec 8 → Nat → BitVec 128 → BitVec 128

/-- R135, R231: TINFO of the uncorrectable-data trap of a BRT entry; the rule names registers only (log 13). -/
opaque entryInfo : Word

/-- R145, R331: TINFO<63:8> of a rendezvous wait at an address, which the spec does not state (log 11). -/
opaque waitInfo : Nat → Nat
/-- R228: TSLOT of a watchdog trap, which the spec does not state (log 11). -/
opaque watchSlot : Nat → BitVec 3

/-- R89: the code that OWC emits under an errata mask that is not zero, whose notices the spec does not hold
(log 15). -/
opaque errataCode : BitVec 64 → List Byte → List (BitVec 256)

/-- R352: the errata bits that the compiler consults for a record (log 15). -/
opaque relmask : List Byte → BitVec 64

/-- R353: AES-256-GCM under KC, which the management controller never exports: byte `k` of the key stream of a nonce, and the tag of a
nonce, the associated data and the encrypted bytes (log 15). -/
opaque sealStream : BitVec 96 → Nat → BitVec 8
opaque sealTag : BitVec 96 → List Byte → List Byte → BitVec 128

/-- R350: dictionary `k` of the section that holds a 64 KiB page or a block's address; the spec does not say where
a section's dictionaries stand at run time (log 16). -/
opaque dictionary : Nat → Nat → Option (List (BitVec 8))

/-- R279: the set of a bank that a line belongs to; the spec gives no function (log 17). -/
opaque setOf : Nat → Nat

/-- R378: the request word of a fabric message, by what it asks (0 load, 1 store, 2 atomic, 3 conjunction operand,
4 reply, 5 acknowledgement), the operation, the length and the key; its layout is not given (log 18). -/
opaque requestWord : Nat → Nat → Nat → Nat → BitVec 64
/-- R378: the kind, operation, length and key that a request word states (log 18). -/
opaque requestOf : BitVec 64 → Nat × Nat × Nat × Nat

/-- R379: which live port of a route carries the message of counter `tick` (log 18). -/
opaque spread : Nat → Nat

/-- R294: the digest of a code page in its object's signed list; the spec does not say where the die keeps the lists (log 19). -/
opaque pageDigest : Nat → List Byte

/-- A byte that the context save engine writes: the layout of a save area is not architectural (log 25). -/
opaque saveByte : Nat → Nat → BitVec 8
/-- A byte of another module's memory as a die receives it at counter `tick`: it comes from outside (log 24). -/
opaque remoteByte : Nat → Nat → BitVec 8
/-- A code block of another module as the fetch expander receives it at counter `tick`, expanded; none where it
does not come or does not expand (log 24). -/
opaque remoteBlock : Nat → Nat → Option (List (BitVec 8))
/-- R284: what a load of the control space receives at counter `tick`; the spec does not say what stands there (log 20). -/
opaque controlWord : Nat → Nat → BitVec 64

/-- R341: fields of the part's configuration record (log 5). -/
opaque recordVersion : Nat
opaque serial : List Byte
opaque featMask : BitVec 256
opaque partErrata : BitVec 64
opaque fwMin : List (Nat × Nat)
opaque sealedCache : Bool
opaque recordSig : List Byte
/-- R341, R356: the bytes of a record's fields but QANNEX, and of a record with a QANNEX; their layout is not given (log 5). -/
opaque recordBytes : ConfigRecord → List Byte
opaque annexedBytes : ConfigRecord → List Byte → List Byte
/-- ML-DSA-65: whether a signature of a digest verifies under the vendor's key, and the attestation key's signature of a report
(log 5). -/
opaque verifies : List Byte → List Byte → Bool
opaque attestation : List Byte → List Byte
/-- R355: the header of an image by version and length, and the images that the part comes with, by kind (log 5). -/
opaque imageHeader : Nat → Nat → List Byte
opaque shipped : Nat → FwImage

end Sys2Proof.Config
end

