-- ==== Sys2Proof/Machine/Num.lean ====
section
/-! DEFINITION. Number formats and arithmetic: exact values, `Round`, `RoundSR`, `ExactSum`, `FMax` and
`FMin`, block scales, the generator and the fixed summation orders (R37 to R61). -/

namespace Sys2Proof.Machine

/-- An exact value: `fin neg m e` is m × 2^e with its sign, zero where m = 0 (R40). -/
inductive FVal where
  | nan
  | inf (neg : Bool)
  | fin (neg : Bool) (m : Nat) (e : Int)
  deriving DecidableEq, Repr

/-- A floating-point format (Table NUM-2): exponent and fraction bits, bias, whether it has infinities,
the canonical NaN, and the pattern of the largest finite magnitude. -/
structure Fmt where
  width : Nat
  ebits : Nat
  mbits : Nat
  bias : Nat
  hasInf : Bool
  nan : Option Nat
  maxPat : Nat
  deriving DecidableEq, Repr

def fmtFp32 : Fmt := ⟨32, 8, 23, 127, true, some 0x7FC00000, 0x7F7FFFFF⟩
def fmtBf16 : Fmt := ⟨16, 8, 7, 127, true, some 0x7FC0, 0x7F7F⟩
def fmtFp16 : Fmt := ⟨16, 5, 10, 15, true, some 0x7E00, 0x7BFF⟩
def fmtE4m3 : Fmt := ⟨8, 4, 3, 7, false, some 0x7F, 0x7E⟩
def fmtE5m2 : Fmt := ⟨8, 5, 2, 15, true, some 0x7E, 0x7B⟩
def fmtE2m1 : Fmt := ⟨4, 2, 1, 1, false, none, 7⟩

/-- The floating-point format of a tag. -/
def tagFmt (t : Tag) : Option Fmt :=
  match t with
  | .fp32 => some fmtFp32
  | .bf16 => some fmtBf16
  | .fp16 => some fmtFp16
  | .e4m3 => some fmtE4m3
  | .e5m2 => some fmtE5m2
  | .e2m1 => some fmtE2m1
  | .raw | .int8 | .int16 | .int32 | .e8m0 => none

/-- The exponent of the smallest normal. -/
def Fmt.emin (f : Fmt) : Int := 1 - (f.bias : Int)

/-- The pattern of an infinity's magnitude: the one above the largest finite. -/
def Fmt.infPat (f : Fmt) : Nat := f.maxPat + 1

/-- The sign bit of a format in a pattern. -/
def Fmt.signBit (f : Fmt) (neg : Bool) : Nat := if neg then 2 ^ (f.width - 1) else 0

/-- R40, R41: the value of a pattern. -/
def Fmt.value (f : Fmt) (x : Nat) : FVal :=
  let neg := bitsAt x (f.width - 1) 1 == 1
  let mag := bitsAt x 0 (f.width - 1)
  if f.hasInf && mag == f.infPat then .inf neg
  else if mag > f.maxPat then .nan
  else
    let e := mag / 2 ^ f.mbits
    let frac := mag % 2 ^ f.mbits
    if e = 0 then .fin neg frac (f.emin - f.mbits)
    else .fin neg (2 ^ f.mbits + frac) ((e : Int) - f.bias - f.mbits)

/-- A result: the pattern, and the flags in the places of FSTAT (Table NUM-6): NV 0, OF 1, UF 2, NX 3,
SAT 4. -/
structure FRes where
  bits : Nat
  flags : BitVec 5
  deriving DecidableEq, Repr

def flNV : BitVec 5 := 0b00001
def flOF : BitVec 5 := 0b00010
def flUF : BitVec 5 := 0b00100
def flNX : BitVec 5 := 0b01000
def flSAT : BitVec 5 := 0b10000

/-- How `Round` chooses between neighbours (Table NUM-4): a mode, or stochastically against `u` (R53). -/
inductive RSel where
  | mode (r : RMode)
  | sr (u : Nat)
  deriving DecidableEq, Repr

/-- Table NUM-4: is the upper neighbour chosen, where the magnitude is `n` steps and `rem / 2^sh` of a
step, not exact. -/
def roundsUp (r : RSel) (neg : Bool) (n rem sh : Nat) : Bool :=
  match r with
  | .mode .rne => 2 * rem > 2 ^ sh || (2 * rem == 2 ^ sh && n % 2 == 1)
  | .mode .rtz => false
  | .mode .rup => !neg
  | .mode .rdn => neg
  | .sr u => rem * 2 ^ 32 / 2 ^ sh > u

/-- Table NUM-5: the result beyond the largest finite value.  `fromInf` marks an infinite input. -/
def Fmt.overflow (f : Fmt) (neg : Bool) (r : RSel) (sat fromInf : Bool) : FRes :=
  let s := f.signBit neg
  let base : BitVec 5 := if fromInf then 0 else flOF ||| flNX
  if sat then ⟨s + f.maxPat, base ||| flSAT⟩
  else if f.hasInf then
    let toMax := match r with
      | .mode .rtz => true
      | .mode .rup => neg
      | .mode .rdn => !neg
      | .mode .rne => false
      | .sr _ => false
    ⟨if toMax then s + f.maxPat else s + f.infPat, base⟩
  else match f.nan with
    | some c => ⟨c, base ||| flNV⟩
    | none => ⟨s + f.maxPat, base ||| flSAT⟩

/-- The number of whole steps of 2^qe in m × 2^e, and what is left over 2^sh. -/
def stepsOf (m : Nat) (e qe : Int) : Nat × Nat × Nat :=
  if qe ≤ e then (m * 2 ^ (e - qe).toNat, 0, 0)
  else
    let sh := (qe - e).toNat
    (m / 2 ^ sh, m % 2 ^ sh, sh)

/-- R46, R53: `Round` of an exact value.  E2M1 always saturates (R47). -/
def Fmt.round (f : Fmt) (v : FVal) (r : RSel) (sat : Bool) : FRes :=
  match v with
  | .nan => match f.nan with
    | some c => ⟨c, 0⟩
    | none => ⟨0, flNV⟩
  | .inf neg =>
    if f.hasInf && !sat then ⟨f.signBit neg + f.infPat, 0⟩ else f.overflow neg r sat true
  | .fin neg m e =>
    if m = 0 then ⟨f.signBit neg, 0⟩
    else
      let qe := max ((Nat.log2 m : Int) + e) f.emin - f.mbits
      let (n, rem, sh) := stepsOf m e qe
      let inexact := rem != 0
      let n' := if inexact && roundsUp r neg n rem sh then n + 1 else n
      let pat := (qe + f.mbits - f.emin).toNat * 2 ^ f.mbits + n'
      if pat > f.maxPat then f.overflow neg r sat false
      else
        ⟨f.signBit neg + pat,
          (if inexact then flNX else 0) ||| (if inexact && pat < 2 ^ f.mbits then flUF else 0)⟩

/-- R49: `Round` to a signed integer of `w` bits; the result as a `w`-bit pattern. -/
def roundInt (w : Nat) (v : FVal) (r : RSel) : FRes :=
  let top := 2 ^ (w - 1)
  let ends (neg : Bool) : Nat := if neg then top else top - 1
  match v with
  | .nan => ⟨0, flNV⟩
  | .inf neg => ⟨ends neg, flSAT⟩
  | .fin neg m e =>
    let (n, rem, sh) := stepsOf m e 0
    let inexact := rem != 0
    let n' := if inexact && roundsUp r neg n rem sh then n + 1 else n
    if n' > (if neg then top else top - 1) then ⟨ends neg, flOF ||| flNX ||| flSAT⟩
    else ⟨if neg then (2 ^ w - n') % 2 ^ w else n', if inexact then flNX else 0⟩

/-- The exact value of an integer. -/
def FVal.ofInt (x : Int) : FVal := .fin (x < 0) x.natAbs 0

/-- An exact product (R50): NaN where 0 meets an infinity. -/
def FVal.mul (a b : FVal) : FVal :=
  match a, b with
  | .nan, _ => .nan
  | _, .nan => .nan
  | .inf s, .inf t => .inf (s != t)
  | .inf s, .fin t m _ => if m = 0 then .nan else .inf (s != t)
  | .fin s m _, .inf t => if m = 0 then .nan else .inf (s != t)
  | .fin s m e, .fin t n f => .fin (s != t) (m * n) (e + f)

/-- R50: 0 × ∞. -/
def FVal.zeroTimesInf (a b : FVal) : Bool :=
  match a, b with
  | .inf _, .fin _ m _ => m == 0
  | .fin _ m _, .inf _ => m == 0
  | _, _ => false

/-- R44: a value scaled by 2^k, exactly. -/
def FVal.scale (a : FVal) (k : Int) : FVal :=
  match a with
  | .fin s m e => .fin s m (e + k)
  | x => x

def FVal.isNan (a : FVal) : Bool := a == .nan
def FVal.isInf (a : FVal) : Bool := match a with | .inf _ => true | _ => false
def FVal.isInfOf (a : FVal) (neg : Bool) : Bool := a == .inf neg
def FVal.isNegZero (a : FVal) : Bool := match a with | .fin true 0 _ => true | _ => false
/-- The value with its sign turned. -/
def FVal.negate (a : FVal) : FVal :=
  match a with
  | .nan => .nan
  | .inf s => .inf !s
  | .fin s m e => .fin (!s) m e

/-- The exact sum of two dyadic numbers, each a signed numerator and an exponent. -/
def addDyadic (a b : Int × Int) : Int × Int :=
  let e := min a.2 b.2
  (a.1 * (2 ^ (a.2 - e).toNat : Nat) + b.1 * (2 ^ (b.2 - e).toNat : Nat), e)

/-- A finite value as a signed numerator and an exponent. -/
def FVal.dyadic (a : FVal) : Int × Int :=
  match a with
  | .fin s m e => (if s then -(m : Int) else m, e)
  | _ => (0, 0)

/-- The exact sum of finite values; a zero does not pull the exponent. -/
def sumDyadic (xs : List FVal) : Int × Int :=
  xs.foldl (fun acc x =>
    let d := x.dyadic
    if d.1 = 0 then acc else if acc.1 = 0 then d else addDyadic acc d) (0, 0)

/-- R51: `ExactSum`.  The flags are those of a unit that keeps FSTAT. -/
def exactSum (xs : List FVal) (f : Fmt) (r : RMode) : FRes :=
  if xs.any FVal.isNan then f.round .nan (.mode r) false
  else if xs.any (·.isInfOf false) && xs.any (·.isInfOf true) then
    ⟨(f.round .nan (.mode r) false).bits, flNV⟩
  else match xs.find? FVal.isInf with
    | some x => f.round x (.mode r) false
    | none =>
      let s := sumDyadic xs
      if s.1 = 0 then ⟨f.signBit (xs.all FVal.isNegZero || r == .rdn), 0⟩
      else f.round (.fin (s.1 < 0) s.1.natAbs s.2) (.mode r) false

/-- The order of R42 on patterns that are not NaN: −0 below +0. -/
def Fmt.key (f : Fmt) (x : Nat) : Int :=
  let mag := bitsAt x 0 (f.width - 1)
  if bitsAt x (f.width - 1) 1 == 1 then -(mag : Int) - 1 else mag

/-- R42: `FMax` on patterns. -/
def Fmt.fmax (f : Fmt) (a b : Nat) : Nat :=
  if (f.value a).isNan || (f.value b).isNan then f.nan.getD 0
  else if f.key a < f.key b then b else a

/-- R42: `FMin` on patterns. -/
def Fmt.fmin (f : Fmt) (a b : Nat) : Nat :=
  if (f.value a).isNan || (f.value b).isNan then f.nan.getD 0
  else if f.key b < f.key a then b else a

/-- R43: a scale's exponent, none for NaN. -/
def scaleExp (e : Nat) : Option Int := if e % 256 = 255 then none else some ((e % 256 : Nat) - 127 : Int)

/-- R44: an element under its block scale. -/
def FVal.scaled (a : FVal) (e : Nat) : FVal :=
  match scaleExp e with
  | some k => a.scale k
  | none => .nan

/-- EmaxOf (R45). -/
def emaxOf (t : Tag) : Int :=
  match t with
  | .e4m3 => 8
  | .e5m2 => 15
  | _ => 2

/-- R45: `ChooseScale` of a block for element format `t`. -/
def chooseScale (block : List FVal) (t : Tag) : Nat :=
  if block.any FVal.isNan then 0xFF
  else if (t == .e4m3 || t == .e2m1) && block.any FVal.isInf then 0xFF
  else
    let logs := block.filterMap fun x => match x with
      | .fin _ m e => if m = 0 then none else some ((Nat.log2 m : Int) + e)
      | _ => none
    match logs with
    | [] => 127
    | l :: ls =>
      let top := ls.foldl max l
      (min (max (top - emaxOf t + 127) 0) 254).toNat

/-- R54: one step of the generator: the output and the new state. -/
def rngNext (s0 s1 : Word) : Word × Word × Word :=
  let x := s0
  let y := s1
  let x := x ^^^ (x <<< 23)
  let x := x ^^^ (x >>> 17)
  let x := x ^^^ y ^^^ (y >>> 26)
  (x + y, y, x)

/-- R54: the state at reset of core `n`. -/
def rngReset (n : Nat) : Word × Word :=
  (0x243F6A8885A308D3 ^^^ BitVec.ofNat 64 n, 0x13198A2E03707344)

/-- R56: the random value of lane `i` in V slot `k`. -/
def laneRandom (w : Word) (i k : Nat) : Nat :=
  let x := w + BitVec.ofNat 64 i * 0x9E3779B97F4A7C15 + BitVec.ofNat 64 k * 0xD1B54A32D192ED03
  let x := (x ^^^ (x >>> 30)) * 0xBF58476D1CE4E5B9
  let x := (x ^^^ (x >>> 27)) * 0x94D049BB133111EB
  let x := x ^^^ (x >>> 31)
  (x >>> 32).toNat

/-- The largest power of two below `n`, for n ≥ 2 (R57). -/
def treeSplit (n : Nat) : Nat := 2 ^ Nat.log2 (n - 1)

/-- R57: `Tree` over the list's positions; `d` for the empty list.  `fuel` bounds the depth. -/
def treeFuel {α : Type} (fuel : Nat) (op : α → α → α) (d : α) (xs : List α) : α :=
  match fuel, xs with
  | _, [] => d
  | _, [x] => x
  | 0, x :: _ => x
  | k + 1, x :: y :: rest =>
    let h := treeSplit (rest.length + 2)
    op (treeFuel k op d ((x :: y :: rest).take h)) (treeFuel k op d ((x :: y :: rest).drop h))

/-- R57: `Tree`. -/
def tree {α : Type} (op : α → α → α) (d : α) (xs : List α) : α :=
  treeFuel (Nat.log2 xs.length + 2) op d xs

/-- R59: `ScanLane`: the inclusive prefix of lane `j`, from aligned blocks of the tree.  `b` counts the
bits of j + 1 still to be looked at, from the highest; `lo` is the lane reached. -/
def scanFrom {α : Type} (op : α → α → α) (d : α) (xs : List α) (j b lo : Nat) (acc : Option α) : α :=
  match b with
  | 0 => acc.getD d
  | k + 1 =>
    if bitsAt (j + 1) k 1 == 1 then
      let blk := tree op d ((xs.drop lo).take (2 ^ k))
      let acc' := match acc with
        | none => blk
        | some a => op a blk
      scanFrom op d xs j k (lo + 2 ^ k) (some acc')
    else scanFrom op d xs j k lo acc

/-- R59: lane `j` of a scan of 512 lanes. -/
def scanLane {α : Type} (op : α → α → α) (d : α) (xs : List α) (j : Nat) : α :=
  scanFrom op d xs j 10 0 none

/-- The FP32 sum of two patterns, rounded RNE, with its flags (R59, R61). -/
def addF32 (a b : Nat) : FRes := exactSum [fmtFp32.value a, fmtFp32.value b] fmtFp32 .rne

/-- A 32-bit combine (R61, R217, R267). -/
def combine32 (op : CombOp) (a b : BitVec 32) : BitVec 32 :=
  match op with
  | .addI32 => a + b
  | .addF32 => BitVec.ofNat 32 (addF32 a.toNat b.toNat).bits
  | .maxF32 => BitVec.ofNat 32 (fmtFp32.fmax a.toNat b.toNat)
  | .minF32 => BitVec.ofNat 32 (fmtFp32.fmin a.toNat b.toNat)
  | .or => a ||| b

end Sys2Proof.Machine
end

