-- ==== Sys2Proof/WellFormed.lean ====
section
/-! DEFINITION. Which terms of the instruction set stand for something the spec has: a guard that
selects a predicate or a leaf (R64), no trap policy on G0 (R68), no unassigned qualifier (R74, R76,
R77, R79), weight terms without set reserved bits (R66), and units that a full module presents. -/

namespace Sys2Proof

/-- R64: SEL 21 to 31 is reserved. -/
def Guard.wf (g : Guard) : Bool := g.sel.toNat ≤ 20

/-- R68: a field that names G0 carries no policy. -/
def GSrc.wf (a : GSrc) : Bool := !(a.reg == 0 && a.trap)

/-- R66: a register source uses six bits of INDEX, and E2 = 0 leaves S2 and K2 zero. -/
def WTerm.wf (t : WTerm) : Bool :=
  (!t.reg || decide (t.index.toNat < 64)) && (t.e2 || (!t.s2 && t.k2 == 0))

/-- R65: a W bundle carries ten terms. -/
def termsWf (ts : List WTerm) : Bool := ts.length == 10 && ts.all WTerm.wf

/-- R74, R113: a scope stands only beside acquire or release, and those only in global memory. -/
def ldstWf (sp : Space) (o : Bool) (sc : Scope) : Bool :=
  if o then sp == .global else sc == .core

/-- R158: RAW is no target of VCVT, and with target E8M0 the RM field names one of three elements. -/
def vcvtWf (tgt : Tag) (rm : RMode) : Bool :=
  match tgt with
  | .raw => false
  | .e8m0 => rm != .rdn
  | _ => true

/-- R159: the targets of VCVTS. -/
def vcvtsWf (tgt : Tag) : Bool :=
  match tgt with
  | .bf16 | .fp16 | .e4m3 | .e5m2 | .e2m1 => true
  | _ => false

/-- R251: tag codes 7 and 8 are E4M3 and E5M2. -/
def fp8Code (x : BitVec 4) : Bool := x == 7 || x == 8

/-- R251: the format pairs that MMA accepts. -/
def mmaWf (fa fb : BitVec 4) : Bool :=
  (fp8Code fa && fp8Code fb) || (fa == 9 && fb == 9) || (fa == 5 && fb == 5)

/-- R251: the format pairs that MMAS accepts. -/
def mmasWf (fa fb : BitVec 4) : Bool :=
  (fp8Code fa && fp8Code fb) || (fa == 9 && fb == 9)

/-- A CoreIndex of a full module (R54). -/
def coreWf (n : Nat) : Bool := n < 1024
/-- A die of a full module (Table SCP-1). -/
def dieWf (d : Nat) : Bool := d < 4
/-- A slice of a full module: 32 times the die plus the cluster. -/
def sliceWf (sl : Nat) : Bool := sl < 128
/-- A presented port of a full module (R373). -/
def portWf (p : Nat) : Bool := p < 144

/-- Does the register exist? -/
def RegTarget.wf (r : RegTarget) : Bool :=
  match r with
  | .core n _ => coreWf n
  | .slpart sl j => sliceWf sl && decide (j < 4)
  | .schctl d => dieWf d
  | .featsel j => j < 4
  | .hostQueue q off => decide (q < 64) && decide (off < 64) && off % 8 == 0
  | .fpstat p => portWf p
  | .route m => m < 256
  | .slotbase | .hdm => true

/-- The well-formed instructions. -/
def Instr.wf (i : Instr) : Bool :=
  match i with
  | .nop _ => true
  | .wacc _ _ ts | .wset _ _ ts | .wneg _ _ ts => termsWf ts
  | .add g _ a b | .sub g _ a b | .mul g _ a b | .mulh g _ a b | .mulhu g _ a b | .div g _ a b
  | .divu g _ a b | .rem g _ a b | .remu g _ a b | .and g _ a b | .or g _ a b | .xor g _ a b
  | .andn g _ a b | .shlReg g _ a b | .shrReg g _ a b | .sarReg g _ a b | .rotReg g _ a b
  | .min g _ a b | .max g _ a b | .minu g _ a b | .maxu g _ a b => g.wf && a.wf && b.wf
  | .shlImm g _ a _ | .shrImm g _ a _ | .sarImm g _ a _ | .rotImm g _ a _ => g.wf && a.wf
  | .abs g _ a | .mov g _ a | .clz g _ a | .ctz g _ a | .popc g _ a | .brev g _ a => g.wf && a.wf
  | .sel g _ _ a b => g.wf && a.wf && b.wf
  | .addi g _ a _ => g.wf && a.wf
  | .lea g _ a b _ => g.wf && a.wf && b.wf
  | .cmp g _ _ a b => g.wf && a.wf && b.wf
  | .bfx g _ a _ _ | .bfxz g _ a _ _ => g.wf && a.wf
  | .bfi g _ a b _ _ => g.wf && a.wf && b.wf
  | .bfxVar g _ a b _ | .bfxzVar g _ a b _ => g.wf && a.wf && b.wf
  | .bfiVar g _ a b c _ => g.wf && a.wf && b.wf && c.wf
  | .fshl g _ a b c | .fshr g _ a b c => g.wf && a.wf && b.wf && c.wf
  | .pand g _ _ _ | .por g _ _ _ | .pxor g _ _ _ => g.wf
  | .pnot g _ _ | .pmov g _ _ => g.wf
  | .movi g _ _ | .movhi g _ _ => g.wf
  | .ld g _ a _ sp o sc _ => g.wf && a.wf && ldstWf sp o sc
  | .st g t a _ sp o sc _ => g.wf && t.wf && a.wf && ldstWf sp o sc
  | .aadd g _ a b _ _ _ | .aand g _ a b _ _ _ | .aor g _ a b _ _ _ | .axor g _ a b _ _ _
  | .axchg g _ a b _ _ _ => g.wf && a.wf && b.wf
  | .amin g _ a b _ _ _ _ | .amax g _ a b _ _ _ _ => g.wf && a.wf && b.wf
  | .acas g _ a b c _ _ _ => g.wf && a.wf && b.wf && c.wf
  | .afadd g _ a b _ _ | .afmax g _ a b _ _ => g.wf && a.wf && b.wf
  | .fence g _ => g.wf
  | .qmark g | .vjoin g | .halt g | .eret g => g.wf
  | .ownCore g a | .ownEngine g a | .tagf g a | .pgref g a | .pushw g a | .join g a | .launch g a
  | .bri g a | .ret g a => g.wf && a.wf
  | .arma g a _ | .waitaCnt g a _ | .waitaGen g a _ | .sysw g a _ => g.wf && a.wf
  | .sysr g _ _ => g.wf
  | .rngs g a b | .launchi g a b => g.wf && a.wf && b.wf
  | .taga g _ a | .tagq g _ a | .pop g _ a | .popNb g _ a | .talw g _ a | .flowq g _ a
  | .calli g _ a => g.wf && a.wf
  | .tlbi g a b _ => g.wf && a.wf && b.wf
  | .xlate g _ a _ => g.wf && a.wf
  | .bar g _ | .bara g _ | .barw g _ => g.wf
  | .br g _ => g.wf
  | .brt g a _ _ _ _ => g.wf && a.wf
  | .call g _ _ => g.wf
  | .lbm g a _ => g.wf && a.wf
  | .pfi g _ _ => g.wf
  | .trap g _ | .brk g _ => g.wf
  | .vadd g _ _ _ _ _ | .vsub g _ _ _ _ _ | .vmul g _ _ _ _ _ | .vmulh g _ _ _ _ _
  | .vmin g _ _ _ _ _ | .vmax g _ _ _ _ _ | .vand g _ _ _ _ _ | .vor g _ _ _ _ _
  | .vxor g _ _ _ _ _ | .vshl g _ _ _ _ _ | .vshr g _ _ _ _ _ | .vsar g _ _ _ _ _ => g.wf
  | .vfma g _ _ _ _ _ => g.wf
  | .vabs g _ _ _ | .vneg g _ _ _ | .vmov g _ _ _ | .vcomp g _ _ _ | .vexpd g _ _ _
  | .vpopc g _ _ _ | .vclz g _ _ _ => g.wf
  | .vcmp g _ _ _ _ _ => g.wf
  | .vsel g _ _ _ _ | .vperm g _ _ _ _ => g.wf
  | .vbcast g _ a _ => g.wf && a.wf
  | .vcvt g _ _ _ tgt rm _ => g.wf && vcvtWf tgt rm
  | .vcvts g _ _ _ tgt _ => g.wf && vcvtsWf tgt
  | .vrq g _ _ b _ _ _ => g.wf && b.wf
  | .vexp2 g _ _ _ _ | .vrcp g _ _ _ _ | .vrsq g _ _ _ _ | .vlog2 g _ _ _ _ => g.wf
  | .vred g _ _ _ _ | .vscan g _ _ _ _ => g.wf
  | .vlut g _ _ b _ _ => g.wf && b.wf
  | .vbfx g _ _ _ _ _ | .vfsh g _ _ _ _ _ => g.wf
  | .vld g _ a _ _ => g.wf && a.wf
  | .vst g _ a _ _ => g.wf && a.wf
  | .vldx g _ a _ _ _ => g.wf && a.wf
  | .vstx g _ a _ _ _ => g.wf && a.wf
  | .vtag g _ _ | .vmsk g _ _ | .vtst g _ _ | .txm g _ _ | .rxm g _ _ => g.wf
  | .mma g _ fa fb _ => g.wf && mmaWf fa fb
  | .mmas g _ fa fb _ => g.wf && mmasWf fa fb
  | .mmai g _ _ => g.wf
  | .tclr g _ => g.wf
  | .trd g _ _ _ | .twr g _ _ _ => g.wf
  | .fqskip g _ _ => g.wf
  | .msig g _ => g.wf
  | .cpy g a b c _ _ | .cpy2 g a b c _ _ | .cpy3 g a b c _ _ | .stg g a b c _ _ =>
    g.wf && a.wf && b.wf && c.wf
  | .cpyx g a b c _ | .unf g a b c _ | .gth g a b c _ | .sct g a b c _ | .xfmT g a b c _
  | .xfmCvt g a b c _ | .xfmPack g a b c _ => g.wf && a.wf && b.wf && c.wf
  | .sred g a b c _ _ => g.wf && a.wf && b.wf && c.wf
  | .fill g a b _ | .pfd g a b => g.wf && a.wf && b.wf
  | .feed g a b _ _ => g.wf && a.wf && b.wf
  | .pfc g a b _ => g.wf && a.wf && b.wf
  | .cjs g _ b _ => g.wf && b.wf
  | .cjsl g a b _ => g.wf && a.wf && b.wf
  | .arrayOperationComplete n | .segmentCommit n | .rendezvousRelease n | .copyFaultReport n
  | .loadDeparture n | .storeDeparture n | .freezeEnd n | .freezeWatchdog n | .recovery n
  | .segctlCommit n | .csreqBadreq n | .lsclrClra n | .lsclrClrt n | .traceTrigger n
  | .codeFetchMiss n | .debuggerRelease n | .sendRefusal n | .popTimeout n => coreWf n
  | .copyPieceLand n _ | .arrivalIncrement n _ | .engineWriteAccept n _ | .variableReply n _
  | .operandRetry n _ | .remoteCompletion n _ => coreWf n
  | .markerRemoval n _ | .debugRequest n _ => coreWf n
  | .csreqSave n _ | .csreqRestore n _ => coreWf n
  | .traceSelect n _ => coreWf n
  | .registerWrite r _ => r.wf
  | .orderPointServe sl _ | .lineFill sl _ | .atomicUpdate sl _ => sliceWf sl
  | .slcfgWrite sl _ => sliceWf sl
  | .translationWalk d _ | .codePageStaging d _ | .stagingAreaSizing d _ | .gangLaunch d _
  | .gangCompletion d _ | .gridCompletion d _ | .gridRelease d _ | .preemptionRepeat d _
  | .transitPhaseStart d _ | .transitPhaseEnd d _ | .droop d _ => dieWf d
  | .dispatchPlacement d => dieWf d
  | .asteWrite _ _ _ | .generationSwap _ _ | .generationRelease _ _ => true
  | .releaseRingWrite dw _ => dw < 3
  | .dramRefresh d ch layer => dieWf d && decide (ch < 64) && decide (layer < 8)
  | .pairmodeWrite p _ _ => p < 512
  | .operandArrival _ | .resultDelivery _ | .resultForward _ | .orphanTimeout _ | .tagFree _
  | .tagRetirementEnd _ => true
  | .tagBlockRecordWrite d blk _ => dieWf d && decide (blk < 4096)
  | .blockRequest _ | .partialWeightUpdate _ _ => true
  | .queueDescriptorWrite d q _ _ _ => dieWf d && decide (q < 256)
  | .enqueue d _ _ _ => dieWf d
  | .preemptionRequest d _ _ _ => dieWf d
  | .barrierPhaseComplete d _ n => dieWf d && decide (n < 1024)
  | .routerProgramWrite d cl k es =>
    dieWf d && decide (cl < 32) && decide (k < 4) && decide (1 ≤ es.length ∧ es.length ≤ 4096)
  | .moduleReset | .start | .powerLossWarning | .storageTransfer | .checkpointRestore
  | .slotAdvance => true
  | .hqtail q _ | .hostEntryTake q => q < 64
  | .jobCompletion _ => true
  | .cxlMemAccess w _ n data => !w || n == data.length
  | .attestationRequest _ | .firmwareUpdate _ | .ephreq _ | .modflowWrite _ => true
  | .sensorSample zones _ _ => zones.length == 64 && zones.all fun z => z.layers.length == 8
  | .dryChannelEvacuation d z => dieWf d && decide (z < 16)
  | .flitReceive p f => portWf p && f.length == 256
  | .retryRequest p _ | .capability p _ _ | .linkUp p _ => portWf p
  | .portDown p | .laneRetrain p => portWf p
  | .fabcfgWrite _ | .messageDelivery _ | .routeTimeout _ => true
  | .messageForward m => m.dst < 256 && m.src < 256 && m.body.length ≤ 4096

end Sys2Proof
end

