-- ==== Sys2Proof/Decode.lean ====
section
/-! DEFINITION. The encodings: from a bundle's 256 bits to its slots (R62 to R79), with the verdicts
of decode checks 1 to 5 of Table BND-16 that the bits alone decide, and the encoder back.  Formats are
structures, so that a field stands at one place for both directions. -/

namespace Sys2Proof

/-- What a slot's bits are: the empty slot (R72), a reserved bit set (check 4), an unassigned opcode or
qualifier (check 5), or an operation.  R80 does not say which fields an unassigned opcode uses: every slot that holds one
is `unassigned`, whatever its other bits (DESIGN CHOICE, log 33).  An operation may still be unassigned by its values: `Instr.wf`. -/
inductive SlotRes where
  | empty
  | bad
  | unassigned
  | op (i : Instr)
  deriving DecidableEq, Repr

/-- Bit `n` of a word as a truth value. -/
def bitOf {k : Nat} (w : BitVec k) (n : Nat) : Bool := w.getLsbD n

/-- A Bool as one bit. -/
def bit1 (b : Bool) : BitVec 1 := BitVec.ofBool b

/-- R64: a guard from its six bits. -/
def Guard.ofBits (x : BitVec 6) : Guard := ⟨bitOf x 5, x.extractLsb' 0 5⟩
/-- R64: the six bits of a guard. -/
def Guard.bits (g : Guard) : BitVec 6 := bit1 g.inv ++ g.sel

/-- A slot's verdict from check 4 (`ok`) and its operation. -/
def slotIf (ok : Bool) (i : Instr) : SlotRes := if ok then .op i else .bad

/-- A slot's verdict from check 4 and an operation that a qualifier may leave unassigned. -/
def slotOpt (ok : Bool) (i : Option Instr) : SlotRes :=
  if ok then (match i with | some j => .op j | none => .unassigned) else .bad

/-! ### Formats of the S slot (Table BND-7) -/

/-- Format SR. -/
structure SR where
  d : BitVec 5
  a : BitVec 5
  ea : Bool
  b : BitVec 5
  eb : Bool
  c : BitVec 5
  ec : Bool
  q : BitVec 12
  deriving DecidableEq, Repr

/-- Format SI. -/
structure SI where
  d : BitVec 5
  a : BitVec 5
  ea : Bool
  imm : BitVec 24
  deriving DecidableEq, Repr

/-- Format SM. -/
structure SM where
  t : BitVec 5
  et : Bool
  a : BitVec 5
  ea : Bool
  wid : BitVec 2
  sp : BitVec 2
  ord : BitVec 2
  scope : BitVec 3
  off : BitVec 14
  deriving DecidableEq, Repr

/-- The SR fields of a slot. -/
def SR.of (w : BitVec 48) : SR :=
  { d := w.extractLsb' 30 5, a := w.extractLsb' 25 5, ea := bitOf w 24, b := w.extractLsb' 19 5,
    eb := bitOf w 18, c := w.extractLsb' 13 5, ec := bitOf w 12, q := w.extractLsb' 0 12 }

/-- An SR slot. -/
def SR.word (g : Guard) (op : BitVec 7) (x : SR) : BitVec 48 :=
  g.bits ++ op ++ x.d ++ x.a ++ bit1 x.ea ++ x.b ++ bit1 x.eb ++ x.c ++ bit1 x.ec ++ x.q

/-- The SI fields of a slot. -/
def SI.of (w : BitVec 48) : SI :=
  { d := w.extractLsb' 30 5, a := w.extractLsb' 25 5, ea := bitOf w 24, imm := w.extractLsb' 0 24 }

/-- An SI slot. -/
def SI.word (g : Guard) (op : BitVec 7) (x : SI) : BitVec 48 :=
  g.bits ++ op ++ x.d ++ x.a ++ bit1 x.ea ++ x.imm

/-- The SM fields of a slot. -/
def SM.of (w : BitVec 48) : SM :=
  { t := w.extractLsb' 30 5, et := bitOf w 29, a := w.extractLsb' 24 5, ea := bitOf w 23,
    wid := w.extractLsb' 21 2, sp := w.extractLsb' 19 2, ord := w.extractLsb' 17 2,
    scope := w.extractLsb' 14 3, off := w.extractLsb' 0 14 }

/-- An SM slot. -/
def SM.word (g : Guard) (op : BitVec 7) (x : SM) : BitVec 48 :=
  g.bits ++ op ++ x.t ++ bit1 x.et ++ x.a ++ bit1 x.ea ++ x.wid ++ x.sp ++ x.ord ++ x.scope ++ x.off

/-- R68: the E bit of a field that names G0 is reserved. -/
def gOk (r : BitVec 5) (e : Bool) : Bool := !(r == 0 && e)

/-- The fields B, C and Q unused, A used. -/
def SR.onlyA (x : SR) : Bool :=
  x.b == 0 && !x.eb && x.c == 0 && !x.ec && gOk x.a x.ea
/-- The fields C unused, A and B used. -/
def SR.onlyAB (x : SR) : Bool := x.c == 0 && !x.ec && gOk x.a x.ea && gOk x.b x.eb
/-- No register field but D used. -/
def SR.noSrc (x : SR) : Bool :=
  x.a == 0 && !x.ea && x.b == 0 && !x.eb && x.c == 0 && !x.ec
/-- A predicate field: bit 4 is reserved (R69). -/
def predOk (r : BitVec 5) : Bool := !bitOf r 4
/-- The predicate a field names. -/
def predOf (r : BitVec 5) : PReg := r.extractLsb' 0 4

def SR.ga (x : SR) : GSrc := ⟨x.a, x.ea⟩
def SR.gb (x : SR) : GSrc := ⟨x.b, x.eb⟩
def SR.gc (x : SR) : GSrc := ⟨x.c, x.ec⟩
def SI.ga (x : SI) : GSrc := ⟨x.a, x.ea⟩

/-! ### Codes of the qualifiers (R74, R76) -/

def Scope.ofCode (x : BitVec 3) : Option Scope :=
  match x.toNat with
  | 0 => some .core | 1 => some .pair | 2 => some .cluster | 3 => some .die | 4 => some .module
  | 5 => some .system | _ => none
def Scope.code : Scope → BitVec 3
  | .core => 0 | .pair => 1 | .cluster => 2 | .die => 3 | .module => 4 | .system => 5
def AOrd.ofCode (x : BitVec 2) : AOrd :=
  match x.toNat with
  | 0 => .relaxed | 1 => .acquire | 2 => .release | _ => .acqRel
def AOrd.code : AOrd → BitVec 2
  | .relaxed => 0 | .acquire => 1 | .release => 2 | .acqRel => 3
def Width.ofCode (x : BitVec 2) : Width :=
  match x.toNat with
  | 0 => .w8 | 1 => .w16 | 2 => .w32 | _ => .w64
def Width.code : Width → BitVec 2
  | .w8 => 0 | .w16 => 1 | .w32 => 2 | .w64 => 3
def Space.ofCode (x : BitVec 2) : Space :=
  match x.toNat with
  | 0 => .global | 1 => .tsLinear | 2 => .tsSwizzled | _ => .abuf
def Space.code : Space → BitVec 2
  | .global => 0 | .tsLinear => 1 | .tsSwizzled => 2 | .abuf => 3
def LSpace.ofCode (x : BitVec 2) : Option LSpace :=
  match x.toNat with
  | 0 => some .abuf | 1 => some .tsLinear | 2 => some .tsSwizzled | _ => none
def LSpace.code : LSpace → BitVec 2
  | .abuf => 0 | .tsLinear => 1 | .tsSwizzled => 2
def Cond.ofCode (x : BitVec 4) : Option Cond :=
  match x.toNat with
  | 0 => some .eq | 1 => some .ne | 2 => some .lt | 3 => some .le | 4 => some .gt | 5 => some .ge
  | 6 => some .ltu | 7 => some .leu | 8 => some .gtu | 9 => some .geu | _ => none
def Cond.code : Cond → BitVec 4
  | .eq => 0 | .ne => 1 | .lt => 2 | .le => 3 | .gt => 4 | .ge => 5
  | .ltu => 6 | .leu => 7 | .gtu => 8 | .geu => 9
def VCond.ofCode (x : BitVec 3) : Option VCond :=
  match x.toNat with
  | 0 => some .eq | 1 => some .ne | 2 => some .lt | 3 => some .le | 4 => some .gt | 5 => some .ge
  | _ => none
def VCond.code : VCond → BitVec 3
  | .eq => 0 | .ne => 1 | .lt => 2 | .le => 3 | .gt => 4 | .ge => 5
def RMode.ofCode (x : BitVec 2) : RMode :=
  match x.toNat with
  | 0 => .rne | 1 => .rtz | 2 => .rup | _ => .rdn
def RMode.code : RMode → BitVec 2
  | .rne => 0 | .rtz => 1 | .rup => 2 | .rdn => 3
def RedOp.ofCode (x : BitVec 3) : Option RedOp :=
  match x.toNat with
  | 0 => some .add | 1 => some .max | 2 => some .min | 3 => some .or | _ => none
def RedOp.code : RedOp → BitVec 3
  | .add => 0 | .max => 1 | .min => 2 | .or => 3
def CombOp.ofCode (x : BitVec 3) : Option CombOp :=
  match x.toNat with
  | 0 => some .addI32 | 1 => some .addF32 | 2 => some .maxF32 | 3 => some .minF32 | 4 => some .or
  | _ => none
def CombOp.code : CombOp → BitVec 3
  | .addI32 => 0 | .addF32 => 1 | .maxF32 => 2 | .minF32 => 3 | .or => 4
def EntW.ofCode (x : BitVec 2) : Option EntW :=
  match x.toNat with
  | 0 => some .w8 | 1 => some .w16 | 2 => some .w32 | _ => none
def EntW.code : EntW → BitVec 2
  | .w8 => 0 | .w16 => 1 | .w32 => 2
def Port.ofCode (x : BitVec 3) : Option Port :=
  match x.toNat with
  | 0 => some .north | 1 => some .east | 2 => some .south | 3 => some .west | 4 => some .localBus
  | _ => none
def Port.code : Port → BitVec 3
  | .north => 0 | .east => 1 | .south => 2 | .west => 3 | .localBus => 4
def TlbiKind.ofCode (x : BitVec 2) : Option TlbiKind :=
  match x.toNat with
  | 0 => some .page | 1 => some .space | 2 => some .all | _ => none
def TlbiKind.code : TlbiKind → BitVec 2
  | .page => 0 | .space => 1 | .all => 2
def Access.ofCode (x : BitVec 2) : Option Access :=
  match x.toNat with
  | 0 => some .read | 1 => some .write | 2 => some .exec | _ => none
def Access.code : Access → BitVec 2
  | .read => 0 | .write => 1 | .exec => 2
def Residency.ofCode (x : BitVec 2) : Residency :=
  match x.toNat with
  | 0 => .pinned | 1 => .warm | 2 => .cold | _ => .stream
def Residency.code : Residency → BitVec 2
  | .pinned => 0 | .warm => 1 | .cold => 2 | .stream => 3
def Tag.ofCode (x : BitVec 4) : Option Tag :=
  match x.toNat with
  | 0 => some .raw | 1 => some .int8 | 2 => some .int16 | 3 => some .int32 | 4 => some .fp32
  | 5 => some .bf16 | 6 => some .fp16 | 7 => some .e4m3 | 8 => some .e5m2 | 9 => some .e2m1
  | 10 => some .e8m0 | _ => none
def Tag.code : Tag → BitVec 4
  | .raw => 0 | .int8 => 1 | .int16 => 2 | .int32 => 3 | .fp32 => 4 | .bf16 => 5 | .fp16 => 6
  | .e4m3 => 7 | .e5m2 => 8 | .e2m1 => 9 | .e8m0 => 10
def Stream.ofCode (b : Bool) : Stream := if b then .fb else .fa
def Stream.code : Stream → Bool
  | .fa => false | .fb => true

/-! ### The S slot (Tables BND-9 and BND-10) -/

/-- Two sources and a destination. -/
def srThree (w : BitVec 48) (k : GReg → GSrc → GSrc → Instr) : SlotRes :=
  let x := SR.of w
  slotIf (x.onlyAB && x.q == 0) (k x.d x.ga x.gb)
/-- One source and a destination. -/
def srTwo (w : BitVec 48) (k : GReg → GSrc → Instr) : SlotRes :=
  let x := SR.of w
  slotIf (x.onlyA && x.q == 0) (k x.d x.ga)
/-- One source and no destination. -/
def srSrc (w : BitVec 48) (k : GSrc → Instr) : SlotRes :=
  let x := SR.of w
  slotIf (x.d == 0 && x.onlyA && x.q == 0) (k x.ga)
/-- Two sources and no destination. -/
def srSrc2 (w : BitVec 48) (k : GSrc → GSrc → Instr) : SlotRes :=
  let x := SR.of w
  slotIf (x.d == 0 && x.onlyAB && x.q == 0) (k x.ga x.gb)
/-- No field at all. -/
def srNone (w : BitVec 48) (i : Instr) : SlotRes :=
  let x := SR.of w
  slotIf (x.d == 0 && x.noSrc && x.q == 0) i
/-- A shift by an immediate: IMM24 beyond the count is reserved. -/
def siShift (w : BitVec 48) (k : GReg → GSrc → BitVec 6 → Instr) : SlotRes :=
  let x := SI.of w
  slotIf (gOk x.a x.ea && x.imm.extractLsb' 6 18 == 0) (k x.d x.ga (x.imm.extractLsb' 0 6))
/-- An immediate position (Q<11:6>) and LEN − 1 (Q<5:0>). -/
def srField (w : BitVec 48) (k : GReg → GSrc → BitVec 6 → BitVec 6 → Instr) : SlotRes :=
  let x := SR.of w
  slotIf x.onlyA (k x.d x.ga (x.q.extractLsb' 6 6) (x.q.extractLsb' 0 6))
/-- A position in a register and LEN − 1. -/
def srFieldVar (w : BitVec 48) (k : GReg → GSrc → GSrc → BitVec 6 → Instr) : SlotRes :=
  let x := SR.of w
  slotIf (x.onlyAB && x.q.extractLsb' 6 6 == 0) (k x.d x.ga x.gb (x.q.extractLsb' 0 6))
/-- Three sources. -/
def srFour (w : BitVec 48) (k : GReg → GSrc → GSrc → GSrc → Instr) : SlotRes :=
  let x := SR.of w
  slotIf (gOk x.a x.ea && gOk x.b x.eb && gOk x.c x.ec && x.q == 0) (k x.d x.ga x.gb x.gc)
/-- Predicates (R112). -/
def srPred3 (w : BitVec 48) (k : PReg → PReg → PReg → Instr) : SlotRes :=
  let x := SR.of w
  slotIf (predOk x.d && predOk x.a && !x.ea && predOk x.b && !x.eb && x.c == 0 && !x.ec && x.q == 0)
    (k (predOf x.d) (predOf x.a) (predOf x.b))
/-- One predicate source. -/
def srPred2 (w : BitVec 48) (k : PReg → PReg → Instr) : SlotRes :=
  let x := SR.of w
  slotIf (predOk x.d && predOk x.a && !x.ea && x.b == 0 && !x.eb && x.c == 0 && !x.ec && x.q == 0)
    (k (predOf x.d) (predOf x.a))
/-- An atomic: Q<11> W64, Q<10:8> SCOPE, Q<7:6> ORD; `u` says whether Q<5> is used. -/
def srAtomic (w : BitVec 48) (u : Bool)
    (k : GReg → GSrc → GSrc → Bool → Scope → AOrd → Bool → Instr) : SlotRes :=
  let x := SR.of w
  slotOpt (x.onlyAB && x.q.extractLsb' 0 5 == 0 && (u || !bitOf x.q 5))
    ((Scope.ofCode (x.q.extractLsb' 8 3)).map fun sc =>
      k x.d x.ga x.gb (bitOf x.q 11) sc (AOrd.ofCode (x.q.extractLsb' 6 2)) (bitOf x.q 5))
/-- A binary32 atomic: W64 = 1 is unassigned. -/
def srAtomicF (w : BitVec 48) (k : GReg → GSrc → GSrc → Scope → AOrd → Instr) : SlotRes :=
  let x := SR.of w
  slotOpt (x.onlyAB && x.q.extractLsb' 0 6 == 0)
    (if bitOf x.q 11 then none
     else (Scope.ofCode (x.q.extractLsb' 8 3)).map fun sc =>
      k x.d x.ga x.gb sc (AOrd.ofCode (x.q.extractLsb' 6 2)))
/-- ORD of LD and ST: 0 plain, 1 acquire or release. -/
def ordOf (x : BitVec 2) : Option Bool :=
  match x.toNat with
  | 0 => some false | 1 => some true | _ => none
/-- LD: ET is unused. -/
def decLd (w : BitVec 48) (g : Guard) : SlotRes :=
  let x := SM.of w
  slotOpt (!x.et && gOk x.a x.ea)
    ((ordOf x.ord).bind fun o => (Scope.ofCode x.scope).map fun sc =>
      .ld g x.t ⟨x.a, x.ea⟩ (Width.ofCode x.wid) (Space.ofCode x.sp) o sc x.off)
/-- ST. -/
def decSt (w : BitVec 48) (g : Guard) : SlotRes :=
  let x := SM.of w
  slotOpt (gOk x.t x.et && gOk x.a x.ea)
    ((ordOf x.ord).bind fun o => (Scope.ofCode x.scope).map fun sc =>
      .st g ⟨x.t, x.et⟩ ⟨x.a, x.ea⟩ (Width.ofCode x.wid) (Space.ofCode x.sp) o sc x.off)
/-- A barrier number in Q<9:0>. -/
def srBar (w : BitVec 48) (k : BitVec 10 → Instr) : SlotRes :=
  let x := SR.of w
  slotIf (x.d == 0 && x.noSrc && x.q.extractLsb' 10 2 == 0) (k (x.q.extractLsb' 0 10))
/-- A code in IMM24<15:0>. -/
def siCode (w : BitVec 48) (k : BitVec 16 → Instr) : SlotRes :=
  let x := SI.of w
  slotIf (x.d == 0 && x.a == 0 && !x.ea && x.imm.extractLsb' 16 8 == 0) (k (x.imm.extractLsb' 0 16))

/-- The S slot's operation, from its opcode on. -/
def decodeSOp (w : BitVec 48) (g : Guard) : SlotRes :=
  match (w.extractLsb' 35 7).toNat with
  | 0x01 => srThree w (.add g)
  | 0x02 => srThree w (.sub g)
  | 0x03 => srThree w (.mul g)
  | 0x04 => srThree w (.mulh g)
  | 0x05 => srThree w (.mulhu g)
  | 0x06 => srThree w (.div g)
  | 0x07 => srThree w (.divu g)
  | 0x08 => srThree w (.rem g)
  | 0x09 => srThree w (.remu g)
  | 0x0A => srThree w (.and g)
  | 0x0B => srThree w (.or g)
  | 0x0C => srThree w (.xor g)
  | 0x0D => srThree w (.andn g)
  | 0x0E => srThree w (.shlReg g)
  | 0x0F => srThree w (.shrReg g)
  | 0x10 => srThree w (.sarReg g)
  | 0x11 => srThree w (.rotReg g)
  | 0x12 => srThree w (.min g)
  | 0x13 => srThree w (.max g)
  | 0x14 => srThree w (.minu g)
  | 0x15 => srThree w (.maxu g)
  | 0x16 => srTwo w (.abs g)
  | 0x17 =>
    let x := SR.of w
    slotIf (gOk x.a x.ea && gOk x.b x.eb && predOk x.c && !x.ec && x.q == 0)
      (.sel g x.d (predOf x.c) x.ga x.gb)
  | 0x18 => srTwo w (.mov g)
  | 0x19 =>
    let x := SI.of w
    slotIf (gOk x.a x.ea) (.addi g x.d x.ga x.imm)
  | 0x1A => siShift w (.shlImm g)
  | 0x1B => siShift w (.shrImm g)
  | 0x1C => siShift w (.sarImm g)
  | 0x1D => siShift w (.rotImm g)
  | 0x1E =>
    let x := SR.of w
    slotIf (x.onlyAB && x.q.extractLsb' 3 9 == 0) (.lea g x.d x.ga x.gb (x.q.extractLsb' 0 3))
  | 0x1F =>
    let x := SR.of w
    slotOpt (predOk x.d && x.onlyAB && x.q.extractLsb' 4 8 == 0)
      ((Cond.ofCode (x.q.extractLsb' 0 4)).map fun c => .cmp g (predOf x.d) c x.ga x.gb)
  | 0x20 => srField w (.bfx g)
  | 0x21 => srField w (.bfxz g)
  | 0x22 =>
    let x := SR.of w
    slotIf x.onlyAB (.bfi g x.d x.ga x.gb (x.q.extractLsb' 6 6) (x.q.extractLsb' 0 6))
  | 0x23 => srFieldVar w (.bfxVar g)
  | 0x24 => srFieldVar w (.bfxzVar g)
  | 0x25 =>
    let x := SR.of w
    slotIf (gOk x.a x.ea && gOk x.b x.eb && gOk x.c x.ec && x.q.extractLsb' 6 6 == 0)
      (.bfiVar g x.d x.ga x.gb x.gc (x.q.extractLsb' 0 6))
  | 0x26 => srFour w (.fshl g)
  | 0x27 => srFour w (.fshr g)
  | 0x28 => srTwo w (.clz g)
  | 0x29 => srTwo w (.ctz g)
  | 0x2A => srTwo w (.popc g)
  | 0x2B => srTwo w (.brev g)
  | 0x2C => srPred3 w (.pand g)
  | 0x2D => srPred3 w (.por g)
  | 0x2E => srPred3 w (.pxor g)
  | 0x2F => srPred2 w (.pnot g)
  | 0x30 => srPred2 w (.pmov g)
  | 0x31 => decLd w g
  | 0x32 => decSt w g
  | 0x33 => srAtomic w false fun d a b k sc o _ => .aadd g d a b k sc o
  | 0x34 => srAtomic w false fun d a b k sc o _ => .aand g d a b k sc o
  | 0x35 => srAtomic w false fun d a b k sc o _ => .aor g d a b k sc o
  | 0x36 => srAtomic w false fun d a b k sc o _ => .axor g d a b k sc o
  | 0x37 => srAtomic w true fun d a b k sc o u => .amin g d a b k sc o u
  | 0x38 => srAtomic w true fun d a b k sc o u => .amax g d a b k sc o u
  | 0x39 => srAtomic w false fun d a b k sc o _ => .axchg g d a b k sc o
  | 0x3A =>
    let x := SR.of w
    slotOpt (gOk x.a x.ea && gOk x.b x.eb && gOk x.c x.ec && x.q.extractLsb' 0 6 == 0)
      ((Scope.ofCode (x.q.extractLsb' 8 3)).map fun sc =>
        .acas g x.d x.ga x.gb x.gc (bitOf x.q 11) sc (AOrd.ofCode (x.q.extractLsb' 6 2)))
  | 0x3B => srAtomicF w (.afadd g)
  | 0x3C => srAtomicF w (.afmax g)
  | 0x3D =>
    let x := SR.of w
    slotOpt (x.d == 0 && x.noSrc && x.q.extractLsb' 0 8 == 0 && !bitOf x.q 11)
      ((Scope.ofCode (x.q.extractLsb' 8 3)).map fun sc => .fence g sc)
  | 0x3E => srNone w (.qmark g)
  | 0x3F => srNone w (.vjoin g)
  | 0x40 =>
    let x := SR.of w
    slotIf (x.d == 0 && x.onlyA && x.q.extractLsb' 1 11 == 0)
      (if bitOf x.q 0 then .ownEngine g x.ga else .ownCore g x.ga)
  | 0x41 =>
    let x := SI.of w
    slotIf (x.d == 0 && gOk x.a x.ea) (.arma g x.ga x.imm)
  | 0x42 =>
    let x := SI.of w
    if bitOf x.d 0 then
      slotIf (x.d.extractLsb' 1 4 == 0 && gOk x.a x.ea && x.imm.extractLsb' 16 8 == 0)
        (.waitaGen g x.ga (x.imm.extractLsb' 0 16))
    else slotIf (x.d.extractLsb' 1 4 == 0 && gOk x.a x.ea) (.waitaCnt g x.ga x.imm)
  | 0x43 =>
    let x := SR.of w
    slotIf x.noSrc (.sysr g x.d x.q)
  | 0x44 =>
    let x := SR.of w
    slotIf (x.d == 0 && x.onlyA) (.sysw g x.ga x.q)
  | 0x45 => srSrc2 w (.rngs g)
  | 0x46 => srTwo w (.taga g)
  | 0x47 => srSrc w (.tagf g)
  | 0x48 => srTwo w (.tagq g)
  | 0x49 => srSrc w (.pgref g)
  | 0x4A =>
    let x := SR.of w
    slotOpt (x.d == 0 && x.onlyAB && x.q.extractLsb' 2 10 == 0)
      ((TlbiKind.ofCode (x.q.extractLsb' 0 2)).map fun k => .tlbi g x.ga x.gb k)
  | 0x4B =>
    let x := SR.of w
    slotOpt (x.onlyA && x.q.extractLsb' 2 10 == 0)
      ((Access.ofCode (x.q.extractLsb' 0 2)).map fun k => .xlate g x.d x.ga k)
  | 0x4C =>
    let x := SR.of w
    slotIf (x.onlyA && x.q.extractLsb' 1 11 == 0)
      (if bitOf x.q 0 then .popNb g x.d x.ga else .pop g x.d x.ga)
  | 0x4D => srSrc w (.pushw g)
  | 0x4E => srSrc w (.join g)
  | 0x4F => srSrc w (.launch g)
  | 0x50 => srSrc2 w (.launchi g)
  | 0x51 => srBar w (.bar g)
  | 0x52 => srBar w (.bara g)
  | 0x53 => srBar w (.barw g)
  | 0x54 => srTwo w (.talw g)
  | 0x55 => srTwo w (.flowq g)
  | 0x58 => slotIf (w.extractLsb' 30 5 == 0) (.br g (w.extractLsb' 0 30))
  | 0x59 => srSrc w (.bri g)
  | 0x5A =>
    slotIf (gOk (w.extractLsb' 30 5) (bitOf w 29) && w.extractLsb' 0 13 == 0)
      (.brt g ⟨w.extractLsb' 30 5, bitOf w 29⟩ (w.extractLsb' 25 4) (w.extractLsb' 21 4)
        (w.extractLsb' 17 4) (w.extractLsb' 13 4))
  | 0x5B => .op (.call g (w.extractLsb' 30 5) (w.extractLsb' 0 30))
  | 0x5C => srTwo w (.calli g)
  | 0x5D => srSrc w (.ret g)
  | 0x5E =>
    let x := SI.of w
    slotIf (x.d == 0 && gOk x.a x.ea && x.imm.extractLsb' 6 18 == 0)
      (.lbm g x.ga (x.imm.extractLsb' 0 6))
  | 0x5F => .op (.pfi g (w.extractLsb' 30 5) (w.extractLsb' 0 30))
  | 0x60 => siCode w (.trap g)
  | 0x61 => srNone w (.eret g)
  | 0x62 => srNone w (.halt g)
  | 0x63 => siCode w (.brk g)
  | 0x70 | 0x71 | 0x72 | 0x73 => .op (.movi g (w.extractLsb' 32 5) (w.extractLsb' 0 32))
  | 0x74 | 0x75 | 0x76 | 0x77 => .op (.movhi g (w.extractLsb' 32 5) (w.extractLsb' 0 32))
  | 0x00 => .bad
  | _ => .unassigned

/-- R72, R64: the empty slot and the guard come before the opcode. -/
def slotOf (zero : Bool) (g : Guard) (op : SlotRes) : SlotRes :=
  if zero then .empty else if g.wf then op else .bad

/-- An S slot. -/
def decodeS (w : BitVec 48) : SlotRes :=
  let g := Guard.ofBits (w.extractLsb' 42 6)
  slotOf (w == 0) g (decodeSOp w g)

/-! ### The V slots (Tables BND-8, BND-11 and BND-12) -/

/-- Format VR. -/
structure VR where
  d : BitVec 6
  a : BitVec 6
  ea : Bool
  b : BitVec 6
  eb : Bool
  mask : BitVec 3
  q : BitVec 5
  deriving DecidableEq, Repr

/-- The VR fields of a slot. -/
def VR.of (w : BitVec 40) : VR :=
  { d := w.extractLsb' 22 6, a := w.extractLsb' 16 6, ea := bitOf w 15, b := w.extractLsb' 9 6,
    eb := bitOf w 8, mask := w.extractLsb' 5 3, q := w.extractLsb' 0 5 }

/-- A VR slot. -/
def VR.word (g : Guard) (op : BitVec 6) (x : VR) : BitVec 40 :=
  g.bits ++ op ++ x.d ++ x.a ++ bit1 x.ea ++ x.b ++ bit1 x.eb ++ x.mask ++ x.q

def VR.va (x : VR) : VSrc := ⟨x.a, x.ea⟩
def VR.vb (x : VR) : VSrc := ⟨x.b, x.eb⟩
/-- A G register in a six-bit field: bit 5 is reserved. -/
def gOk6 (r : BitVec 6) (e : Bool) : Bool := !bitOf r 5 && gOk (r.extractLsb' 0 5) e
/-- The G register a six-bit field names. -/
def gOf6 (r : BitVec 6) (e : Bool) : GSrc := ⟨r.extractLsb' 0 5, e⟩

/-- Format VM: D, ED, A, EA, SP, OFF13. -/
def VM.word (g : Guard) (op : BitVec 6) (d : BitVec 6) (ed : Bool) (a : GSrc) (sp : LSpace)
    (off : BitVec 13) : BitVec 40 :=
  g.bits ++ op ++ d ++ bit1 ed ++ a.reg ++ bit1 a.trap ++ sp.code ++ off
/-- Format VX: D, ED, A, EA, SP, B, EB, MK. -/
def VX.word (g : Guard) (op : BitVec 6) (d : BitVec 6) (ed : Bool) (a : GSrc) (sp : LSpace)
    (b : VSrc) (mk : MReg) : BitVec 40 :=
  g.bits ++ op ++ d ++ bit1 ed ++ a.reg ++ bit1 a.trap ++ sp.code ++ b.reg ++ bit1 b.trap ++ mk
    ++ (0 : BitVec 3)

/-- Two row sources, a mask and a rounding mode. -/
def vrThree (w : BitVec 40) (k : VReg → VSrc → VSrc → MReg → RMode → Instr) : SlotRes :=
  let x := VR.of w
  slotIf (x.q.extractLsb' 2 3 == 0) (k x.d x.va x.vb x.mask (RMode.ofCode (x.q.extractLsb' 0 2)))
/-- One row source and a mask. -/
def vrTwo (w : BitVec 40) (k : VReg → VSrc → MReg → Instr) : SlotRes :=
  let x := VR.of w
  slotIf (x.b == 0 && !x.eb && x.q == 0) (k x.d x.va x.mask)
/-- One row source, a mask and a rounding mode. -/
def vrTwoRm (w : BitVec 40) (k : VReg → VSrc → MReg → RMode → Instr) : SlotRes :=
  let x := VR.of w
  slotIf (x.b == 0 && !x.eb && x.q.extractLsb' 2 3 == 0)
    (k x.d x.va x.mask (RMode.ofCode (x.q.extractLsb' 0 2)))
/-- One row source, a mask and an operation of R162. -/
def vrRed (w : BitVec 40) (k : VReg → VSrc → MReg → RedOp → Instr) : SlotRes :=
  let x := VR.of w
  slotOpt (x.b == 0 && !x.eb && x.q.extractLsb' 3 2 == 0)
    ((RedOp.ofCode (x.q.extractLsb' 0 3)).map (k x.d x.va x.mask))
/-- VM without ED. -/
def vmLd (w : BitVec 40) (g : Guard) : SlotRes :=
  slotOpt (!bitOf w 21 && gOk (w.extractLsb' 16 5) (bitOf w 15))
    ((LSpace.ofCode (w.extractLsb' 13 2)).map fun sp =>
      .vld g (w.extractLsb' 22 6) ⟨w.extractLsb' 16 5, bitOf w 15⟩ sp (w.extractLsb' 0 13))
/-- VM with ED. -/
def vmSt (w : BitVec 40) (g : Guard) : SlotRes :=
  slotOpt (gOk (w.extractLsb' 16 5) (bitOf w 15))
    ((LSpace.ofCode (w.extractLsb' 13 2)).map fun sp =>
      .vst g ⟨w.extractLsb' 22 6, bitOf w 21⟩ ⟨w.extractLsb' 16 5, bitOf w 15⟩ sp
        (w.extractLsb' 0 13))
/-- VX without ED. -/
def vxLd (w : BitVec 40) (g : Guard) : SlotRes :=
  slotOpt (!bitOf w 21 && gOk (w.extractLsb' 16 5) (bitOf w 15) && w.extractLsb' 0 3 == 0)
    ((LSpace.ofCode (w.extractLsb' 13 2)).map fun sp =>
      .vldx g (w.extractLsb' 22 6) ⟨w.extractLsb' 16 5, bitOf w 15⟩ sp
        ⟨w.extractLsb' 7 6, bitOf w 6⟩ (w.extractLsb' 3 3))
/-- VX with ED. -/
def vxSt (w : BitVec 40) (g : Guard) : SlotRes :=
  slotOpt (gOk (w.extractLsb' 16 5) (bitOf w 15) && w.extractLsb' 0 3 == 0)
    ((LSpace.ofCode (w.extractLsb' 13 2)).map fun sp =>
      .vstx g ⟨w.extractLsb' 22 6, bitOf w 21⟩ ⟨w.extractLsb' 16 5, bitOf w 15⟩ sp
        ⟨w.extractLsb' 7 6, bitOf w 6⟩ (w.extractLsb' 3 3))

/-- The V slot's operation, from its opcode on. -/
def decodeVOp (w : BitVec 40) (g : Guard) : SlotRes :=
  let x := VR.of w
  match (w.extractLsb' 28 6).toNat with
  | 0x01 => vrThree w (.vadd g)
  | 0x02 => vrThree w (.vsub g)
  | 0x03 => vrThree w (.vmul g)
  | 0x04 => vrThree w (.vmulh g)
  | 0x05 =>
    slotIf (x.q.extractLsb' 2 2 == 0)
      (.vfma g ⟨x.d, bitOf x.q 4⟩ x.va x.vb x.mask (RMode.ofCode (x.q.extractLsb' 0 2)))
  | 0x06 => vrThree w (.vmin g)
  | 0x07 => vrThree w (.vmax g)
  | 0x08 => vrTwo w (.vabs g)
  | 0x09 => vrTwo w (.vneg g)
  | 0x0A => vrThree w (.vand g)
  | 0x0B => vrThree w (.vor g)
  | 0x0C => vrThree w (.vxor g)
  | 0x0D => vrThree w (.vshl g)
  | 0x0E => vrThree w (.vshr g)
  | 0x0F => vrThree w (.vsar g)
  | 0x10 =>
    slotOpt (x.d.extractLsb' 3 3 == 0 && x.q.extractLsb' 3 2 == 0)
      ((VCond.ofCode (x.q.extractLsb' 0 3)).map fun c =>
        .vcmp g (x.d.extractLsb' 0 3) c x.va x.vb x.mask)
  | 0x11 => slotIf (x.q == 0) (.vsel g x.d x.va x.vb x.mask)
  | 0x12 => vrTwo w (.vmov g)
  | 0x13 =>
    slotIf (gOk6 x.a x.ea && x.b == 0 && !x.eb && x.q == 0) (.vbcast g x.d (gOf6 x.a x.ea) x.mask)
  | 0x14 =>
    slotOpt (!x.eb && x.q.extractLsb' 1 4 == 0)
      ((Tag.ofCode (x.b.extractLsb' 0 4)).map fun t =>
        .vcvt g x.d x.va x.mask t (RMode.ofCode (x.b.extractLsb' 4 2)) (bitOf x.q 0))
  | 0x15 =>
    slotOpt (x.b.extractLsb' 4 2 == 0 && !x.eb && x.q.extractLsb' 1 4 == 0)
      ((Tag.ofCode (x.b.extractLsb' 0 4)).map fun t => .vcvts g x.d x.va x.mask t (bitOf x.q 0))
  | 0x16 =>
    slotIf (gOk6 x.b x.eb && x.q.extractLsb' 3 2 == 0)
      (.vrq g x.d x.va (gOf6 x.b x.eb) x.mask (RMode.ofCode (x.q.extractLsb' 0 2)) (bitOf x.q 2))
  | 0x17 => vrTwoRm w (.vexp2 g)
  | 0x18 => vrTwoRm w (.vrcp g)
  | 0x19 => vrTwoRm w (.vrsq g)
  | 0x1A => vrTwoRm w (.vlog2 g)
  | 0x1B => vrRed w (.vred g)
  | 0x1C => vrRed w (.vscan g)
  | 0x1D => slotIf (x.q == 0) (.vperm g x.d x.va x.vb x.mask)
  | 0x1E => vrTwo w (.vcomp g)
  | 0x1F => vrTwo w (.vexpd g)
  | 0x20 =>
    slotOpt (gOk6 x.b x.eb && x.q.extractLsb' 2 3 == 0)
      ((EntW.ofCode (x.q.extractLsb' 0 2)).map fun e => .vlut g x.d x.va (gOf6 x.b x.eb) x.mask e)
  | 0x21 => .op (.vbfx g x.d x.va x.vb x.mask x.q)
  | 0x22 => .op (.vfsh g x.d x.va x.vb x.mask x.q)
  | 0x23 => vrTwo w (.vpopc g)
  | 0x24 => vrTwo w (.vclz g)
  | 0x25 => vmLd w g
  | 0x26 => vmSt w g
  | 0x27 => vxLd w g
  | 0x28 => vxSt w g
  | 0x29 =>
    slotOpt (x.a == 0 && !x.ea && x.b == 0 && !x.eb && x.mask == 0 && !bitOf x.q 4)
      ((Tag.ofCode (x.q.extractLsb' 0 4)).map fun t => .vtag g x.d t)
  | 0x2A =>
    slotIf (x.d.extractLsb' 3 3 == 0 && x.b == 0 && !x.eb && x.mask == 0 && x.q == 0)
      (.vmsk g (x.d.extractLsb' 0 3) x.va)
  | 0x2B =>
    slotIf (x.d.extractLsb' 4 2 == 0 && x.a.extractLsb' 3 3 == 0 && !x.ea && x.b == 0 && !x.eb
        && x.mask == 0 && x.q == 0)
      (.vtst g (x.d.extractLsb' 0 4) (x.a.extractLsb' 0 3))
  | 0x2C =>
    slotOpt (x.d == 0 && x.b == 0 && !x.eb && x.mask == 0 && x.q.extractLsb' 3 2 == 0)
      ((Port.ofCode (x.q.extractLsb' 0 3)).map fun p => .txm g x.va p)
  | 0x2D =>
    slotOpt (x.a == 0 && !x.ea && x.b == 0 && !x.eb && x.mask == 0 && x.q.extractLsb' 3 2 == 0)
      ((Port.ofCode (x.q.extractLsb' 0 3)).map fun p => .rxm g x.d p)
  | 0x00 => .bad
  | _ => .unassigned

/-- A V slot. -/
def decodeV (w : BitVec 40) : SlotRes :=
  let g := Guard.ofBits (w.extractLsb' 34 6)
  slotOf (w == 0) g (decodeVOp w g)

/-! ### The M slot (Table BND-13) -/

/-- The M slot's operation, from its opcode on.  MMAI names INT8 twice (R251). -/
def decodeMOp (w : BitVec 32) (g : Guard) : SlotRes :=
  match (w.extractLsb' 22 4).toNat with
  | 0x1 =>
    slotIf (w.extractLsb' 0 5 == 0)
      (.mma g (w.extractLsb' 19 3) (w.extractLsb' 15 4) (w.extractLsb' 11 4) (w.extractLsb' 5 6))
  | 0x2 =>
    slotIf (w.extractLsb' 0 5 == 0)
      (.mmas g (w.extractLsb' 19 3) (w.extractLsb' 15 4) (w.extractLsb' 11 4) (w.extractLsb' 5 6))
  | 0x3 =>
    slotOpt (w.extractLsb' 0 5 == 0)
      (if w.extractLsb' 11 8 = 0x11#8 then some (.mmai g (w.extractLsb' 19 3) (w.extractLsb' 5 6))
       else none)
  | 0x4 => slotIf (w.extractLsb' 0 19 == 0) (.tclr g (w.extractLsb' 19 3))
  | 0x5 =>
    slotIf (w.extractLsb' 0 7 == 0)
      (.trd g (w.extractLsb' 16 6) (w.extractLsb' 13 3) (w.extractLsb' 7 6))
  | 0x6 =>
    slotIf (w.extractLsb' 0 6 == 0)
      (.twr g ⟨w.extractLsb' 16 6, bitOf w 15⟩ (w.extractLsb' 12 3) (w.extractLsb' 6 6))
  | 0x7 =>
    slotIf (w.extractLsb' 0 5 == 0) (.fqskip g (Stream.ofCode (bitOf w 21)) (w.extractLsb' 5 16))
  | 0x8 => slotIf (w.extractLsb' 0 17 == 0) (.msig g (w.extractLsb' 17 5))
  | 0x0 => .bad
  | _ => .unassigned

/-- An M slot. -/
def decodeM (w : BitVec 32) : SlotRes :=
  let g := Guard.ofBits (w.extractLsb' 26 6)
  slotOf (w == 0) g (decodeMOp w g)

/-! ### The C slots (Table BND-14) -/

/-- Layout CC (R78). -/
structure CC where
  a : BitVec 5
  ea : Bool
  b : BitVec 5
  eb : Bool
  c : BitVec 5
  ec : Bool
  inc : BitVec 7
  chk : Bool
  sub : BitVec 3
  deriving DecidableEq, Repr

/-- The CC fields of a slot. -/
def CC.of (w : BitVec 40) : CC :=
  { a := w.extractLsb' 24 5, ea := bitOf w 23, b := w.extractLsb' 18 5, eb := bitOf w 17,
    c := w.extractLsb' 12 5, ec := bitOf w 11, inc := w.extractLsb' 4 7, chk := bitOf w 3,
    sub := w.extractLsb' 0 3 }

/-- A CC slot. -/
def CC.word (g : Guard) (op : BitVec 5) (x : CC) : BitVec 40 :=
  g.bits ++ op ++ x.a ++ bit1 x.ea ++ x.b ++ bit1 x.eb ++ x.c ++ bit1 x.ec ++ x.inc ++ bit1 x.chk
    ++ x.sub

def CC.ga (x : CC) : GSrc := ⟨x.a, x.ea⟩
def CC.gb (x : CC) : GSrc := ⟨x.b, x.eb⟩
def CC.gc (x : CC) : GSrc := ⟨x.c, x.ec⟩
/-- A and B used. -/
def CC.abOk (x : CC) : Bool := gOk x.a x.ea && gOk x.b x.eb
/-- A, B and C used. -/
def CC.abcOk (x : CC) : Bool := x.abOk && gOk x.c x.ec
/-- A and B used, C not. -/
def CC.abOnly (x : CC) : Bool := x.abOk && x.c == 0 && !x.ec

/-- A copy that may be checked. -/
def ccChk (w : BitVec 40) (k : GSrc → GSrc → GSrc → BitVec 7 → Bool → Instr) : SlotRes :=
  let x := CC.of w
  slotIf (x.abcOk && x.sub == 0) (k x.ga x.gb x.gc x.inc x.chk)
/-- A copy that may not: CHK = 1 is unassigned. -/
def ccPlain (w : BitVec 40) (k : GSrc → GSrc → GSrc → BitVec 7 → Instr) : SlotRes :=
  let x := CC.of w
  slotOpt (x.abcOk && x.sub == 0) (if x.chk then none else some (k x.ga x.gb x.gc x.inc))

/-- The C slot's operation, from its opcode on. -/
def decodeCOp (w : BitVec 40) (g : Guard) : SlotRes :=
  let x := CC.of w
  match (w.extractLsb' 29 5).toNat with
  | 0x01 => ccChk w (.cpy g)
  | 0x02 => ccChk w (.cpy2 g)
  | 0x03 => ccChk w (.cpy3 g)
  | 0x04 => ccPlain w (.cpyx g)
  | 0x05 => ccPlain w (.unf g)
  | 0x06 => ccPlain w (.gth g)
  | 0x07 => ccPlain w (.sct g)
  | 0x08 =>
    slotOpt (x.abOnly && x.sub == 0) (if x.chk then none else some (.fill g x.ga x.gb x.inc))
  | 0x09 =>
    slotOpt (x.abOnly && x.sub.extractLsb' 1 2 == 0)
      (if x.chk then none else some (.feed g x.ga x.gb x.inc (Stream.ofCode (bitOf x.sub 0))))
  | 0x0A =>
    slotOpt x.abcOk
      (if x.chk then none
       else match x.sub.toNat with
        | 0 => some (.xfmT g x.ga x.gb x.gc x.inc)
        | 1 => some (.xfmCvt g x.ga x.gb x.gc x.inc)
        | 2 => some (.xfmPack g x.ga x.gb x.gc x.inc)
        | _ => none)
  | 0x0B =>
    slotOpt (x.abOnly && x.inc == 0 && x.sub == 0) (if x.chk then none else some (.pfd g x.ga x.gb))
  | 0x0C =>
    slotOpt (x.abOnly && x.inc == 0 && !bitOf x.sub 2)
      (if x.chk then none else some (.pfc g x.ga x.gb (Residency.ofCode (x.sub.extractLsb' 0 2))))
  | 0x0D =>
    slotOpt x.abcOk
      (if x.chk then none else (CombOp.ofCode x.sub).map (.sred g x.ga x.gb x.gc x.inc))
  | 0x0E => ccChk w (.stg g)
  | 0x0F =>
    slotIf (gOk (w.extractLsb' 17 5) (bitOf w 16) && w.extractLsb' 0 12 == 0)
      (.cjs g ⟨w.extractLsb' 23 6, bitOf w 22⟩ ⟨w.extractLsb' 17 5, bitOf w 16⟩
        (w.extractLsb' 12 4))
  | 0x10 =>
    slotIf (x.abOk && !bitOf w 16 && w.extractLsb' 0 12 == 0)
      (.cjsl g x.ga x.gb (w.extractLsb' 12 4))
  | 0x00 => .bad
  | _ => .unassigned

/-- A C slot. -/
def decodeC (w : BitVec 40) : SlotRes :=
  let g := Guard.ofBits (w.extractLsb' 34 6)
  slotOf (w == 0) g (decodeCOp w g)

/-! ### Bundles -/

/-- R66: a weight term; none where a reserved bit is set (check 3). -/
def decodeTerm (w : BitVec 24) : Option WTerm :=
  let t : WTerm :=
    { reg := bitOf w 23, index := w.extractLsb' 12 11, s1 := bitOf w 11, k1 := w.extractLsb' 8 3,
      s2 := bitOf w 7, k2 := w.extractLsb' 4 3, e2 := bitOf w 3 }
  if w.extractLsb' 0 3 == 0 && t.wf then some t else none

/-- The encoding of a weight term. -/
def WTerm.word (t : WTerm) : BitVec 24 :=
  bit1 t.reg ++ t.index ++ bit1 t.s1 ++ t.k1 ++ bit1 t.s2 ++ t.k2 ++ bit1 t.e2 ++ (0 : BitVec 3)

/-- R65: the terms of a W bundle, term 0 first; none at the first term that fails check 3. -/
def decodeTerms (w : Bits256) (js : List Nat) : Option (List WTerm) :=
  match js with
  | [] => some []
  | j :: rest =>
    match decodeTerm (w.extractLsb' (216 - 24 * j) 24), decodeTerms w rest with
    | some t, some ts => some (t :: ts)
    | _, _ => none

/-- The slots of a G bundle and its header marks (Table BND-2). -/
structure GBundle where
  ckpt : Bool
  rdv : Bool
  transit : Bool
  s : SlotRes
  v0 : SlotRes
  v1 : SlotRes
  m : SlotRes
  c0 : SlotRes
  c1 : SlotRes
  deriving DecidableEq, Repr

/-- A bundle by its form (Table BND-1).  `illegal` fails check 1, 2 or 3 of Table BND-16. -/
inductive Bundle where
  | illegal
  | idle (count : BitVec 12)
  | weight (i : Instr)
  | general (b : GBundle)
  deriving DecidableEq, Repr

/-- R63: a G bundle's slots. -/
def decodeG (w : Bits256) : GBundle :=
  { ckpt := bitOf w 253, rdv := bitOf w 252, transit := bitOf w 251
    s := decodeS (w.extractLsb' 192 48), v0 := decodeV (w.extractLsb' 152 40)
    v1 := decodeV (w.extractLsb' 112 40), m := decodeM (w.extractLsb' 80 32)
    c0 := decodeC (w.extractLsb' 40 40), c1 := decodeC (w.extractLsb' 0 40) }

/-- R65: the operation of a W bundle. -/
def weightOf (mode : Nat) (vd : VReg) (mk : MReg) (ts : List WTerm) : Option Instr :=
  match mode with
  | 0 => some (.wacc vd mk ts)
  | 1 => some (.wset vd mk ts)
  | 2 => some (.wneg vd mk ts)
  | _ => none

/-- Checks 1 to 3 of Table BND-16, and the slots (R62 to R67). -/
def decodeBundle (w : Bits256) : Bundle :=
  match (w.extractLsb' 254 2).toNat with
  | 0 => if w.extractLsb' 240 11 == 0 then .general (decodeG w) else .illegal
  | 1 =>
    if w.extractLsb' 240 3 == 0 then
      match decodeTerms w (List.range 10) with
      | some ts =>
        match weightOf (w.extractLsb' 252 2).toNat (w.extractLsb' 246 6) (w.extractLsb' 243 3) ts with
        | some i => .weight i
        | none => .illegal
      | none => .illegal
    else .illegal
  | 2 => if w.extractLsb' 0 242 == 0 then .idle (w.extractLsb' 242 12) else .illegal
  | _ => .illegal

/-- R2: the number whose little-endian bytes these are. -/
def leNat (bs : List Byte) : Nat :=
  match bs with
  | [] => 0
  | b :: rest => b.toNat + 256 * leNat rest

/-- R2: the `n` little-endian bytes of a number. -/
def leBytes (n x : Nat) : List Byte :=
  match n with
  | 0 => []
  | k + 1 => BitVec.ofNat 8 x :: leBytes k (x / 256)

/-- A bundle from its 32 bytes; none where a byte is missing. -/
def decodeBytes (bs : List Byte) : Option Bundle :=
  if 32 ≤ bs.length then some (decodeBundle (BitVec.ofNat 256 (leNat (bs.take 32)))) else none

/-! ### The encoder -/

/-- SR from its sources, a field not given being zero. -/
def srMk (d : BitVec 5) (a : GSrc := ⟨0, false⟩) (b : GSrc := ⟨0, false⟩) (c : GSrc := ⟨0, false⟩)
    (q : BitVec 12 := 0) : SR :=
  { d := d, a := a.reg, ea := a.trap, b := b.reg, eb := b.trap, c := c.reg, ec := c.trap, q := q }
/-- A predicate as a five-bit field. -/
def pf (p : PReg) : BitVec 5 := (0 : BitVec 1) ++ p
/-- A predicate as a source field. -/
def ps (p : PReg) : GSrc := ⟨pf p, false⟩
/-- Q of an atomic. -/
def atomicQ (w64 : Bool) (sc : Scope) (o : AOrd) (u : Bool) : BitVec 12 :=
  bit1 w64 ++ sc.code ++ o.code ++ bit1 u ++ (0 : BitVec 5)
/-- Q of an immediate bit field. -/
def fieldQ (pos len : BitVec 6) : BitVec 12 := pos ++ len
/-- An atomic slot. -/
def atomicWord (g : Guard) (op : BitVec 7) (d : GReg) (a b : GSrc) (w64 : Bool) (sc : Scope)
    (o : AOrd) (u : Bool) : BitVec 48 :=
  SR.word g op (srMk d a b (q := atomicQ w64 sc o u))

/-- The S slot of an instruction that has one. -/
def encodeS (i : Instr) : Option (BitVec 48) :=
  match i with
  | .add g d a b => some (SR.word g 0x01 (srMk d a b))
  | .sub g d a b => some (SR.word g 0x02 (srMk d a b))
  | .mul g d a b => some (SR.word g 0x03 (srMk d a b))
  | .mulh g d a b => some (SR.word g 0x04 (srMk d a b))
  | .mulhu g d a b => some (SR.word g 0x05 (srMk d a b))
  | .div g d a b => some (SR.word g 0x06 (srMk d a b))
  | .divu g d a b => some (SR.word g 0x07 (srMk d a b))
  | .rem g d a b => some (SR.word g 0x08 (srMk d a b))
  | .remu g d a b => some (SR.word g 0x09 (srMk d a b))
  | .and g d a b => some (SR.word g 0x0A (srMk d a b))
  | .or g d a b => some (SR.word g 0x0B (srMk d a b))
  | .xor g d a b => some (SR.word g 0x0C (srMk d a b))
  | .andn g d a b => some (SR.word g 0x0D (srMk d a b))
  | .shlReg g d a b => some (SR.word g 0x0E (srMk d a b))
  | .shrReg g d a b => some (SR.word g 0x0F (srMk d a b))
  | .sarReg g d a b => some (SR.word g 0x10 (srMk d a b))
  | .rotReg g d a b => some (SR.word g 0x11 (srMk d a b))
  | .min g d a b => some (SR.word g 0x12 (srMk d a b))
  | .max g d a b => some (SR.word g 0x13 (srMk d a b))
  | .minu g d a b => some (SR.word g 0x14 (srMk d a b))
  | .maxu g d a b => some (SR.word g 0x15 (srMk d a b))
  | .abs g d a => some (SR.word g 0x16 (srMk d a))
  | .sel g d p a b => some (SR.word g 0x17 (srMk d a b (ps p)))
  | .mov g d a => some (SR.word g 0x18 (srMk d a))
  | .addi g d a imm => some (SI.word g 0x19 ⟨d, a.reg, a.trap, imm⟩)
  | .shlImm g d a n => some (SI.word g 0x1A ⟨d, a.reg, a.trap, (0 : BitVec 18) ++ n⟩)
  | .shrImm g d a n => some (SI.word g 0x1B ⟨d, a.reg, a.trap, (0 : BitVec 18) ++ n⟩)
  | .sarImm g d a n => some (SI.word g 0x1C ⟨d, a.reg, a.trap, (0 : BitVec 18) ++ n⟩)
  | .rotImm g d a n => some (SI.word g 0x1D ⟨d, a.reg, a.trap, (0 : BitVec 18) ++ n⟩)
  | .lea g d a b sh => some (SR.word g 0x1E (srMk d a b (q := (0 : BitVec 9) ++ sh)))
  | .cmp g pd c a b => some (SR.word g 0x1F (srMk (pf pd) a b (q := (0 : BitVec 8) ++ c.code)))
  | .bfx g d a pos len => some (SR.word g 0x20 (srMk d a (q := fieldQ pos len)))
  | .bfxz g d a pos len => some (SR.word g 0x21 (srMk d a (q := fieldQ pos len)))
  | .bfi g d a b pos len => some (SR.word g 0x22 (srMk d a b (q := fieldQ pos len)))
  | .bfxVar g d a b len => some (SR.word g 0x23 (srMk d a b (q := fieldQ 0 len)))
  | .bfxzVar g d a b len => some (SR.word g 0x24 (srMk d a b (q := fieldQ 0 len)))
  | .bfiVar g d a b c len => some (SR.word g 0x25 (srMk d a b c (fieldQ 0 len)))
  | .fshl g d a b c => some (SR.word g 0x26 (srMk d a b c))
  | .fshr g d a b c => some (SR.word g 0x27 (srMk d a b c))
  | .clz g d a => some (SR.word g 0x28 (srMk d a))
  | .ctz g d a => some (SR.word g 0x29 (srMk d a))
  | .popc g d a => some (SR.word g 0x2A (srMk d a))
  | .brev g d a => some (SR.word g 0x2B (srMk d a))
  | .pand g d a b => some (SR.word g 0x2C (srMk (pf d) (ps a) (ps b)))
  | .por g d a b => some (SR.word g 0x2D (srMk (pf d) (ps a) (ps b)))
  | .pxor g d a b => some (SR.word g 0x2E (srMk (pf d) (ps a) (ps b)))
  | .pnot g d a => some (SR.word g 0x2F (srMk (pf d) (ps a)))
  | .pmov g d a => some (SR.word g 0x30 (srMk (pf d) (ps a)))
  | .movi g d imm => some (g.bits ++ 0b111#3 ++ 0b00#2 ++ d ++ imm)
  | .movhi g d imm => some (g.bits ++ 0b111#3 ++ 0b01#2 ++ d ++ imm)
  | .ld g t a w sp o sc off =>
    some (SM.word g 0x31 ⟨t, false, a.reg, a.trap, w.code, sp.code, (0 : BitVec 1) ++ bit1 o,
      sc.code, off⟩)
  | .st g t a w sp o sc off =>
    some (SM.word g 0x32 ⟨t.reg, t.trap, a.reg, a.trap, w.code, sp.code, (0 : BitVec 1) ++ bit1 o,
      sc.code, off⟩)
  | .aadd g d a b w sc o => some (atomicWord g 0x33 d a b w sc o false)
  | .aand g d a b w sc o => some (atomicWord g 0x34 d a b w sc o false)
  | .aor g d a b w sc o => some (atomicWord g 0x35 d a b w sc o false)
  | .axor g d a b w sc o => some (atomicWord g 0x36 d a b w sc o false)
  | .amin g d a b w sc o u => some (atomicWord g 0x37 d a b w sc o u)
  | .amax g d a b w sc o u => some (atomicWord g 0x38 d a b w sc o u)
  | .axchg g d a b w sc o => some (atomicWord g 0x39 d a b w sc o false)
  | .acas g d a b c w sc o => some (SR.word g 0x3A (srMk d a b c (atomicQ w sc o false)))
  | .afadd g d a b sc o => some (atomicWord g 0x3B d a b false sc o false)
  | .afmax g d a b sc o => some (atomicWord g 0x3C d a b false sc o false)
  | .fence g sc =>
    some (SR.word g 0x3D (srMk 0 (q := (0 : BitVec 1) ++ sc.code ++ (0 : BitVec 8))))
  | .qmark g => some (SR.word g 0x3E (srMk 0))
  | .vjoin g => some (SR.word g 0x3F (srMk 0))
  | .ownCore g a => some (SR.word g 0x40 (srMk 0 a))
  | .ownEngine g a => some (SR.word g 0x40 (srMk 0 a (q := 1)))
  | .arma g a t => some (SI.word g 0x41 ⟨0, a.reg, a.trap, t⟩)
  | .waitaCnt g a n => some (SI.word g 0x42 ⟨0, a.reg, a.trap, n⟩)
  | .waitaGen g a n => some (SI.word g 0x42 ⟨1, a.reg, a.trap, (0 : BitVec 8) ++ n⟩)
  | .sysr g d q => some (SR.word g 0x43 (srMk d (q := q)))
  | .sysw g a q => some (SR.word g 0x44 (srMk 0 a (q := q)))
  | .rngs g a b => some (SR.word g 0x45 (srMk 0 a b))
  | .taga g d a => some (SR.word g 0x46 (srMk d a))
  | .tagf g a => some (SR.word g 0x47 (srMk 0 a))
  | .tagq g d a => some (SR.word g 0x48 (srMk d a))
  | .pgref g a => some (SR.word g 0x49 (srMk 0 a))
  | .tlbi g a b k => some (SR.word g 0x4A (srMk 0 a b (q := (0 : BitVec 10) ++ k.code)))
  | .xlate g d a k => some (SR.word g 0x4B (srMk d a (q := (0 : BitVec 10) ++ k.code)))
  | .pop g d a => some (SR.word g 0x4C (srMk d a))
  | .popNb g d a => some (SR.word g 0x4C (srMk d a (q := 1)))
  | .pushw g a => some (SR.word g 0x4D (srMk 0 a))
  | .join g a => some (SR.word g 0x4E (srMk 0 a))
  | .launch g a => some (SR.word g 0x4F (srMk 0 a))
  | .launchi g a b => some (SR.word g 0x50 (srMk 0 a b))
  | .bar g n => some (SR.word g 0x51 (srMk 0 (q := (0 : BitVec 2) ++ n)))
  | .bara g n => some (SR.word g 0x52 (srMk 0 (q := (0 : BitVec 2) ++ n)))
  | .barw g n => some (SR.word g 0x53 (srMk 0 (q := (0 : BitVec 2) ++ n)))
  | .talw g d a => some (SR.word g 0x54 (srMk d a))
  | .flowq g d a => some (SR.word g 0x55 (srMk d a))
  | .br g x => some (g.bits ++ 0x58#7 ++ (0 : BitVec 5) ++ x)
  | .bri g a => some (SR.word g 0x59 (srMk 0 a))
  | .brt g a w x y z =>
    some (g.bits ++ 0x5A#7 ++ a.reg ++ bit1 a.trap ++ w ++ x ++ y ++ z ++ (0 : BitVec 13))
  | .call g d x => some (g.bits ++ 0x5B#7 ++ d ++ x)
  | .calli g d a => some (SR.word g 0x5C (srMk d a))
  | .ret g a => some (SR.word g 0x5D (srMk 0 a))
  | .lbm g a n => some (SI.word g 0x5E ⟨0, a.reg, a.trap, (0 : BitVec 18) ++ n⟩)
  | .pfi g n x => some (g.bits ++ 0x5F#7 ++ n ++ x)
  | .trap g c => some (SI.word g 0x60 ⟨0, 0, false, (0 : BitVec 8) ++ c⟩)
  | .eret g => some (SR.word g 0x61 (srMk 0))
  | .halt g => some (SR.word g 0x62 (srMk 0))
  | .brk g c => some (SI.word g 0x63 ⟨0, 0, false, (0 : BitVec 8) ++ c⟩)
  | _ => none

/-- VR from its fields. -/
def vrMk (d : BitVec 6) (a : VSrc := ⟨0, false⟩) (b : VSrc := ⟨0, false⟩) (mk : MReg := 0)
    (q : BitVec 5 := 0) : VR :=
  { d := d, a := a.reg, ea := a.trap, b := b.reg, eb := b.trap, mask := mk, q := q }
/-- A G source as a six-bit field. -/
def gv (a : GSrc) : VSrc := ⟨(0 : BitVec 1) ++ a.reg, a.trap⟩
/-- Q of a rounding mode. -/
def rmQ (rm : RMode) : BitVec 5 := (0 : BitVec 3) ++ rm.code

/-- The V slot of an instruction that has one. -/
def encodeV (i : Instr) : Option (BitVec 40) :=
  match i with
  | .vadd g d a b mk rm => some (VR.word g 0x01 (vrMk d a b mk (rmQ rm)))
  | .vsub g d a b mk rm => some (VR.word g 0x02 (vrMk d a b mk (rmQ rm)))
  | .vmul g d a b mk rm => some (VR.word g 0x03 (vrMk d a b mk (rmQ rm)))
  | .vmulh g d a b mk rm => some (VR.word g 0x04 (vrMk d a b mk (rmQ rm)))
  | .vfma g d a b mk rm =>
    some (VR.word g 0x05 (vrMk d.reg a b mk (bit1 d.trap ++ (0 : BitVec 2) ++ rm.code)))
  | .vmin g d a b mk rm => some (VR.word g 0x06 (vrMk d a b mk (rmQ rm)))
  | .vmax g d a b mk rm => some (VR.word g 0x07 (vrMk d a b mk (rmQ rm)))
  | .vabs g d a mk => some (VR.word g 0x08 (vrMk d a (mk := mk)))
  | .vneg g d a mk => some (VR.word g 0x09 (vrMk d a (mk := mk)))
  | .vand g d a b mk rm => some (VR.word g 0x0A (vrMk d a b mk (rmQ rm)))
  | .vor g d a b mk rm => some (VR.word g 0x0B (vrMk d a b mk (rmQ rm)))
  | .vxor g d a b mk rm => some (VR.word g 0x0C (vrMk d a b mk (rmQ rm)))
  | .vshl g d a b mk rm => some (VR.word g 0x0D (vrMk d a b mk (rmQ rm)))
  | .vshr g d a b mk rm => some (VR.word g 0x0E (vrMk d a b mk (rmQ rm)))
  | .vsar g d a b mk rm => some (VR.word g 0x0F (vrMk d a b mk (rmQ rm)))
  | .vcmp g md c a b mk =>
    some (VR.word g 0x10 (vrMk ((0 : BitVec 3) ++ md) a b mk ((0 : BitVec 2) ++ c.code)))
  | .vsel g d a b mk => some (VR.word g 0x11 (vrMk d a b mk))
  | .vmov g d a mk => some (VR.word g 0x12 (vrMk d a (mk := mk)))
  | .vbcast g d a mk => some (VR.word g 0x13 (vrMk d (gv a) (mk := mk)))
  | .vcvt g d a mk t rm sat =>
    some (VR.word g 0x14 (vrMk d a ⟨rm.code ++ t.code, false⟩ mk ((0 : BitVec 4) ++ bit1 sat)))
  | .vcvts g d a mk t sat =>
    some (VR.word g 0x15 (vrMk d a ⟨(0 : BitVec 2) ++ t.code, false⟩ mk ((0 : BitVec 4) ++ bit1 sat)))
  | .vrq g d a b mk rm sat =>
    some (VR.word g 0x16 (vrMk d a (gv b) mk ((0 : BitVec 2) ++ bit1 sat ++ rm.code)))
  | .vexp2 g d a mk rm => some (VR.word g 0x17 (vrMk d a (mk := mk) (q := rmQ rm)))
  | .vrcp g d a mk rm => some (VR.word g 0x18 (vrMk d a (mk := mk) (q := rmQ rm)))
  | .vrsq g d a mk rm => some (VR.word g 0x19 (vrMk d a (mk := mk) (q := rmQ rm)))
  | .vlog2 g d a mk rm => some (VR.word g 0x1A (vrMk d a (mk := mk) (q := rmQ rm)))
  | .vred g d a mk o => some (VR.word g 0x1B (vrMk d a (mk := mk) (q := (0 : BitVec 2) ++ o.code)))
  | .vscan g d a mk o => some (VR.word g 0x1C (vrMk d a (mk := mk) (q := (0 : BitVec 2) ++ o.code)))
  | .vperm g d a b mk => some (VR.word g 0x1D (vrMk d a b mk))
  | .vcomp g d a mk => some (VR.word g 0x1E (vrMk d a (mk := mk)))
  | .vexpd g d a mk => some (VR.word g 0x1F (vrMk d a (mk := mk)))
  | .vlut g d a b mk e => some (VR.word g 0x20 (vrMk d a (gv b) mk ((0 : BitVec 3) ++ e.code)))
  | .vbfx g d a b mk n => some (VR.word g 0x21 (vrMk d a b mk n))
  | .vfsh g d a b mk n => some (VR.word g 0x22 (vrMk d a b mk n))
  | .vpopc g d a mk => some (VR.word g 0x23 (vrMk d a (mk := mk)))
  | .vclz g d a mk => some (VR.word g 0x24 (vrMk d a (mk := mk)))
  | .vld g d a sp off => some (VM.word g 0x25 d false a sp off)
  | .vst g d a sp off => some (VM.word g 0x26 d.reg d.trap a sp off)
  | .vldx g d a sp b mk => some (VX.word g 0x27 d false a sp b mk)
  | .vstx g d a sp b mk => some (VX.word g 0x28 d.reg d.trap a sp b mk)
  | .vtag g d t => some (VR.word g 0x29 (vrMk d (q := (0 : BitVec 1) ++ t.code)))
  | .vmsk g md a => some (VR.word g 0x2A (vrMk ((0 : BitVec 3) ++ md) a))
  | .vtst g pd ma =>
    some (VR.word g 0x2B (vrMk ((0 : BitVec 2) ++ pd) ⟨(0 : BitVec 3) ++ ma, false⟩))
  | .txm g a p => some (VR.word g 0x2C (vrMk 0 a (q := (0 : BitVec 2) ++ p.code)))
  | .rxm g d p => some (VR.word g 0x2D (vrMk d (q := (0 : BitVec 2) ++ p.code)))
  | _ => none

/-- The M slot of an instruction that has one. -/
def encodeM (i : Instr) : Option (BitVec 32) :=
  match i with
  | .mma g t fa fb kg => some (g.bits ++ 1#4 ++ t ++ fa ++ fb ++ kg ++ (0 : BitVec 5))
  | .mmas g t fa fb kg => some (g.bits ++ 2#4 ++ t ++ fa ++ fb ++ kg ++ (0 : BitVec 5))
  | .mmai g t kg => some (g.bits ++ 3#4 ++ t ++ 1#4 ++ 1#4 ++ kg ++ (0 : BitVec 5))
  | .tclr g t => some (g.bits ++ 4#4 ++ t ++ (0 : BitVec 19))
  | .trd g d t row => some (g.bits ++ 5#4 ++ d ++ t ++ row ++ (0 : BitVec 7))
  | .twr g a t row => some (g.bits ++ 6#4 ++ a.reg ++ bit1 a.trap ++ t ++ row ++ (0 : BitVec 6))
  | .fqskip g f n => some (g.bits ++ 7#4 ++ bit1 f.code ++ n ++ (0 : BitVec 5))
  | .msig g d => some (g.bits ++ 8#4 ++ d ++ (0 : BitVec 17))
  | _ => none

/-- CC from its fields. -/
def ccMk (a b : GSrc) (c : GSrc := ⟨0, false⟩) (inc : BitVec 7 := 0) (chk : Bool := false)
    (sub : BitVec 3 := 0) : CC :=
  { a := a.reg, ea := a.trap, b := b.reg, eb := b.trap, c := c.reg, ec := c.trap, inc := inc,
    chk := chk, sub := sub }

/-- The C slot of an instruction that has one. -/
def encodeC (i : Instr) : Option (BitVec 40) :=
  match i with
  | .cpy g a b c inc chk => some (CC.word g 0x01 (ccMk a b c inc chk))
  | .cpy2 g a b c inc chk => some (CC.word g 0x02 (ccMk a b c inc chk))
  | .cpy3 g a b c inc chk => some (CC.word g 0x03 (ccMk a b c inc chk))
  | .cpyx g a b c inc => some (CC.word g 0x04 (ccMk a b c inc))
  | .unf g a b c inc => some (CC.word g 0x05 (ccMk a b c inc))
  | .gth g a b c inc => some (CC.word g 0x06 (ccMk a b c inc))
  | .sct g a b c inc => some (CC.word g 0x07 (ccMk a b c inc))
  | .fill g a b inc => some (CC.word g 0x08 (ccMk a b (inc := inc)))
  | .feed g a b inc f =>
    some (CC.word g 0x09 (ccMk a b (inc := inc) (sub := (0 : BitVec 2) ++ bit1 f.code)))
  | .xfmT g a b c inc => some (CC.word g 0x0A (ccMk a b c inc))
  | .xfmCvt g a b c inc => some (CC.word g 0x0A (ccMk a b c inc (sub := 1)))
  | .xfmPack g a b c inc => some (CC.word g 0x0A (ccMk a b c inc (sub := 2)))
  | .pfd g a b => some (CC.word g 0x0B (ccMk a b))
  | .pfc g a b r => some (CC.word g 0x0C (ccMk a b (sub := (0 : BitVec 1) ++ r.code)))
  | .sred g a b c inc o => some (CC.word g 0x0D (ccMk a b c inc (sub := o.code)))
  | .stg g a b c inc chk => some (CC.word g 0x0E (ccMk a b c inc chk))
  | .cjs g s b pos =>
    some (g.bits ++ 0x0F#5 ++ s.reg ++ bit1 s.trap ++ b.reg ++ bit1 b.trap ++ pos ++ (0 : BitVec 12))
  | .cjsl g a b pos =>
    some (g.bits ++ 0x10#5 ++ a.reg ++ bit1 a.trap ++ b.reg ++ bit1 b.trap ++ (0 : BitVec 1) ++ pos
      ++ (0 : BitVec 12))
  | _ => none

/-- The ten terms of a W bundle. -/
def termsWord (ts : List WTerm) : BitVec 240 :=
  match ts with
  | [t0, t1, t2, t3, t4, t5, t6, t7, t8, t9] =>
    t0.word ++ t1.word ++ t2.word ++ t3.word ++ t4.word ++ t5.word ++ t6.word ++ t7.word ++ t8.word
      ++ t9.word
  | _ => 0

/-- A G bundle from its six slots. -/
def gWord (s : BitVec 48) (v0 v1 : BitVec 40) (m : BitVec 32) (c0 c1 : BitVec 40) : Bits256 :=
  (0 : BitVec 16) ++ s ++ v0 ++ v1 ++ m ++ c0 ++ c1

/-- The bundle that holds an instruction and nothing else (in V0 and C0, where it has a choice); none
for a step that has no encoding. -/
def encode (i : Instr) : Option Bits256 :=
  match i with
  | .nop n => some (0b10#2 ++ n ++ (0 : BitVec 242))
  | .wacc vd mk ts => some (0b0100#4 ++ vd ++ mk ++ (0 : BitVec 3) ++ termsWord ts)
  | .wset vd mk ts => some (0b0101#4 ++ vd ++ mk ++ (0 : BitVec 3) ++ termsWord ts)
  | .wneg vd mk ts => some (0b0110#4 ++ vd ++ mk ++ (0 : BitVec 3) ++ termsWord ts)
  | _ =>
    match encodeS i, encodeV i, encodeM i, encodeC i with
    | some s, _, _, _ => some (gWord s 0 0 0 0 0)
    | _, some v, _, _ => some (gWord 0 v 0 0 0 0)
    | _, _, some m, _ => some (gWord 0 0 0 m 0 0)
    | _, _, _, some c => some (gWord 0 0 0 0 c 0)
    | _, _, _, _ => none

/-- The slots of a G bundle in the order of the checks (Table BND-16): S, V0, V1, M, C0, C1. -/
def GBundle.slots (b : GBundle) : List SlotRes := [b.s, b.v0, b.v1, b.m, b.c0, b.c1]

/-- The instruction of a bundle that holds one and nothing else. -/
def Bundle.single? (b : Bundle) : Option Instr :=
  match b with
  | .illegal => none
  | .idle n => some (.nop n)
  | .weight i => some i
  | .general x =>
    match x.slots.filter (fun r => r != .empty) with
    | [.op i] => some i
    | _ => none

/-- The bundle that the opcode table's bits stand for: 32 bits are an M slot, 48 an S slot, 40 a V slot
and 256 a whole bundle; the table gives bits to M slots alone. -/
def tableBundle (nbits w : Nat) : Bits256 :=
  if nbits = 32 then gWord 0 0 0 (BitVec.ofNat 32 w) 0 0
  else if nbits = 48 then gWord (BitVec.ofNat 48 w) 0 0 0 0 0
  else if nbits = 40 then gWord 0 (BitVec.ofNat 40 w) 0 0 0 0
  else BitVec.ofNat 256 w

/-- The instruction that the decoder reads from the opcode table's bits. -/
def decodeTableWord (nbits w : Nat) : Option Instr :=
  (decodeBundle (tableBundle nbits w)).single?

end Sys2Proof
end

