-- ==== Sys2Proof/Machine/State.lean ====
section
/-! DEFINITION. The state of a GWK-960 module as plain data: the cores with their contexts, buffers,
queues, engines and arrays, the memory, the dies, the package, the coolant and the fabric.  Every list
keyed by a number is sparse: a unit that is not listed is in its reset state. -/

namespace Sys2Proof.Machine

/-! ### Memory -/

/-- Bytes by address, rising, none listed that equals the value of an unlisted byte. -/
abbrev Memory := List Host.Cell

/-- What a byte that nothing has written reads as (log 2). -/
def Memory.unlisted : Byte := 0

/-- The byte at an address. -/
def Memory.read (m : Memory) (a : Nat) : Byte :=
  match m with
  | [] => Memory.unlisted
  | (b, x) :: rest => if b = a then x else if a < b then Memory.unlisted else Memory.read rest a

/-- The canonical form, from address `lo` on. -/
def Memory.wfFrom (m : Memory) (lo : Nat) : Bool :=
  match m with
  | [] => true
  | (b, x) :: rest => decide (lo ≤ b) && x != Memory.unlisted && Memory.wfFrom rest (b + 1)

/-- The canonical form: addresses strictly rising, and no entry that an unlisted address reads as. -/
def Memory.wf (m : Memory) : Bool := Memory.wfFrom m 0

/-! ### A core's registers and results in flight -/

/-- A scalar register: value, full/empty bit and poison mark (R99, R101, R102). -/
structure GCell where
  v : Word
  full : Bool
  poison : Bool
  deriving DecidableEq, Repr

/-- A row register: lanes, format tag, full/empty bit and poison mark (R148, R174). -/
structure VCell where
  row : Row
  tag : Tag
  full : Bool
  poison : Bool
  deriving DecidableEq, Repr

def GCell.zero : GCell := ⟨0, true, false⟩
def VCell.zero : VCell := ⟨0, .raw, true, false⟩

/-- The register file (Table CST-2): bit `i` of `p` is Pi, bit `k` of `lf` is LFk. -/
structure Regs where
  g : Vector GCell 32
  p : BitVec 16
  m : Vector Mask 8
  v : Vector VCell 64
  lf : BitVec 5
  deriving DecidableEq, Repr

def Regs.zero : Regs :=
  { g := Vector.replicate 32 GCell.zero, p := 0, m := Vector.replicate 8 0,
    v := Vector.replicate 64 VCell.zero, lf := 0 }

/-- Where a result goes when it lands.  A row result carries the mask of the lanes it writes, the tag it
gives (none: the register keeps its tag) and whether a W bundle made it (R86).  `rx` is a row that RXM is
receiving, `tx` a row that TXM is driving, which lands nowhere (R332). -/
inductive Dst where
  | g (d : GReg) (x : Word) (poison : Bool)
  | p (d : PReg) (b : Bool)
  | leaf (k : Nat)
  | m (d : MReg) (x : Mask) (mask : Mask)
  | v (d : VReg) (x : Row) (mask : Mask) (tag : Option Tag) (poison : Bool) (w : Bool)
  | rx (d : VReg) (sel : Port) (x : Row)
  | tx (p : Port) (x : Row)
  deriving DecidableEq, Repr

/-- A result in flight: it lands at the end of the `rem`-th cycle from now, with the flags and WOVF bits
that it sets (R52, R85, R100). -/
structure Land where
  rem : Nat
  dst : Dst
  flags : BitVec 5
  ovf : Word
  deriving DecidableEq, Repr

/-- The sequencer state (R130). -/
structure Seqr where
  pend : BitVec 2
  tgt : Word
  loop : Bool
  lstart : Word
  llen : BitVec 6
  lrem : BitVec 32
  deriving DecidableEq, Repr

def Seqr.zero : Seqr := ⟨0, 0, false, 0, 0, 0⟩

/-- A reply written to a register: at once, or at ERET where it is parked (R222). `own` marks a request
that a trap handler issued. -/
structure Reply where
  id : Nat
  dst : Dst
  own : Bool
  deriving DecidableEq, Repr

/-- A slot's request in a commit record (R243): slot, raw bits and the operands as bytes. -/
structure ReqRec where
  slot : Nat
  raw : Nat
  bytes : List Byte
  deriving DecidableEq, Repr

/-- The part of a context that a rollback restores (Table CST-8), with its program counter, the results
in flight, the barrier arrival counts and the pending BAR wait (R330), the thermal snapshot as TALW would
reply it for each zone (R367), idle cycles of an N bundle already run (R146), the snapshot buffer, the capture record (R224), the requests of a partially trapped bundle's other
slots, the signature (R243), and in a segment-entry state the privilege in which the segment was entered. -/
structure Ctx where
  pc : Word
  regs : Regs
  seqr : Seqr
  rdv : BitVec 32
  fstat : BitVec 5
  wovf : Word
  cycle : Word
  s0 : Word
  s1 : Word
  queue : List Word
  bars : Map (BitVec 16)
  barWait : Option (BitVec 10)
  thermal : Option (List Word)
  idleRun : Nat
  pipe : List Land
  snap : List Land
  parked : List Reply
  caph : Word
  capa : Word
  capb : Word
  capc : Word
  owed : List ReqRec
  sig : Word
  priv : Bool
  deriving DecidableEq, Repr

/-! ### Run state, traps and freezes -/

/-- A freeze: its reason (Table TRP-4), what the watchdog trap's TINFO<63:8> would hold, and the ticks
it has lasted (R228). -/
structure Freeze where
  reason : Nat
  info : Nat
  ticks : Nat
  deriving DecidableEq, Repr

/-- Why a core is STOPPED (Table CST-1); a hold keeps the freeze that it interrupts (R228).  `lost` is
the stop of R371. -/
inductive StopCause where
  | halted
  | debugger (f : Option Freeze)
  | gated (f : Option Freeze)
  | retired
  | doubleTrap
  | lost
  deriving DecidableEq, Repr

/-- Table CST-1. -/
inductive RunState where
  | idle
  | run
  | frozen (f : Freeze)
  | stopped (c : StopCause)
  deriving DecidableEq, Repr

/-- The trap registers (Table TRP-2) and the copy fault record (R206). -/
structure TrapRegs where
  tcause : Word
  tbundle : Word
  tslot : Word
  tinfo : Word
  tvec : Word
  fwdog : BitVec 32
  tseq : Word
  ttgt : Word
  tscr0 : Word
  tscr1 : Word
  tscr2 : Word
  tscr3 : Word
  cfr0 : Word
  cfr1 : Word
  cfr2 : Word
  cfr3 : Word
  deriving DecidableEq, Repr

def TrapRegs.zero : TrapRegs :=
  { tcause := 0, tbundle := 0, tslot := 0, tinfo := 0, tvec := 0, fwdog := 5000, tseq := 0, ttgt := 0,
    tscr0 := 0, tscr1 := 0, tscr2 := 0, tscr3 := 0, cfr0 := 0, cfr1 := 0, cfr2 := 0, cfr3 := 0 }

/-- A boundary event that waits to be taken (R220, R221). -/
structure BEvent where
  code : Nat
  sub : Nat
  info : Word
  deriving DecidableEq, Repr

/-- A trap to be taken: class, sub-cause, slot and TINFO. -/
structure TrapInfo where
  code : Nat
  sub : Nat
  slot : Nat
  info : Word
  deriving DecidableEq, Repr

/-! ### Local storage -/

/-- A physical TSPAD line's count of accepted engine writes and its FAILED mark (R181). -/
structure Line where
  count : Nat
  failed : Bool
  deriving DecidableEq, Repr

/-- A held or committed local store (R116): its bundle, slot and segment, its view, the physical address of its
first byte (a TSPAD store stays in one line) and its bytes.  `joined` says
that a VJOIN has made it visible through both views (R124).  Records of one store may be several. -/
structure WRec where
  seq : Nat
  slot : Nat
  seg : Nat
  view : LSpace
  joined : Bool
  addr : Nat
  bytes : List Byte
  deriving DecidableEq, Repr

/-- A byte that a core store has replaced, as copies released before that store's segment still read it (R205):
of ABUF or not, the physical address, the store's segment. -/
structure Old where
  abuf : Bool
  addr : Nat
  seg : Nat
  byte : Byte
  deriving DecidableEq, Repr

/-- ABUF, TSPAD and the writes on their way to them (R116, R123, R177 to R182).  `draining` holds
committed records whose elements have not all reached the bank, with the cycles they may still take;
`olds` are bytes that outstanding copies read as they were; `newer` are stores of a trap handler that have reached a bank
while older stores are held. -/
structure Local where
  abuf : Memory
  tspad : Memory
  lines : Map Line
  owner : BitVec 64
  wbuf : List WRec
  draining : List (Nat × WRec)
  olds : List Old
  newer : List WRec
  eccA : List Nat
  eccT : List Nat
  deriving DecidableEq, Repr

/-! ### Accesses of a core (R301, R302) -/

/-- A walk that a core waits for, and a walk that found no translation. -/
structure Walk where
  asid : BitVec 12
  gen : Word
  va : Nat
  deriving DecidableEq, Repr


/-- The operations of the atomics units (R119). -/
inductive AtomOp where
  | add | and | or | xor | minS | minU | maxS | maxU | xchg | cas | fadd | fmax
  deriving DecidableEq, Repr

/-- What an access of a core is; a POP carries its queue, its destination, the time at which it left and its address space, a TAGA
its descriptor and address space.  The last eight are
the requests of other agents: a read, a write and a combination by the copy `id` of a core's engine, of the stream bytes (or the
other bytes that it needs) from `lo` on, where `whole` says that the copy writes the whole line; a prefetch of a line; a table entry
that walker `k` of a die reads; a write of a conjunction unit (`put`); a request of another module, and one of the host. -/
inductive AccKind where
  | load (d : Dst) (pa n : Nat) (acq : Bool) (sc : Scope) (fw : List (Nat × Byte))
  | brtEntry (pa : Nat) (fw : List (Nat × Byte))
  | xlate (d : GReg) (va : Word) (acc : Access) (w : Walk) (user : Bool)
  | tagq (d : GReg) (t : BitVec 32)
  | flowq (d : GReg) (x : Word)
  | pop (d : GReg) (q : Nat) (ts : Nat) (nb : Bool) (since : Nat) (asid : BitVec 12)
  | store (pa : Nat) (bytes : List Byte) (rel : Bool) (sc : Scope)
  | atomic (op : AtomOp) (d : GReg) (pa n : Nat) (b c : Word) (sc : Scope) (o : AOrd)
  | pgref (x : Word) (asid : BitVec 12) (sz : Nat)
  | taga (d : GReg) (desc : List Word) (asid : BitVec 12)
  | tagf (t : BitVec 32)
  | pushw (rec : BitVec 512) (x : EnqCtx)
  | launch (rec : BitVec 512) (x : EnqCtx)
  | launchi (rec : BitVec 512) (x : EnqCtx)
  | join (x : EnqCtx)
  | fence (sc : Scope)
  | qmark
  | barrier (n : BitVec 10) (p : BitVec 16)
  | engRead (core id lo n : Nat)
  | engWrite (core id lo : Nat) (bytes : List Byte) (whole : Bool)
  | engSred (core id lo : Nat) (op : CombOp) (x : Word)
  | put (bytes : List Byte)
  | touch
  | pte (die k : Nat)
  | ask (m : Msg)
  | host (n : Nat) (bytes : Option (List Byte))
  deriving DecidableEq, Repr

/-- An access in the load queue, the store queue or both, in program order: `held` until its segment
commits, `departed` when it has left its queue, `performed` when it has been served.  `own` marks an
access of a trap handler; `seg` is the segment that issued it; `commit` counts the checkpoint that
released it, and of a load those made when it issued; `opens` marks an access of the checkpoint bundle that opened its
segment (R120); `part` is the partition of the core that made it (R281); `home`, `key`, `cached` and `cbf`
come from its translation. -/
structure Acc where
  id : Nat
  kind : AccKind
  held : Bool
  departed : Bool
  performed : Bool
  own : Bool
  seg : Nat
  commit : Nat
  opens : Bool
  part : BitVec 4
  pa : Nat
  home : Nat
  key : BitVec 8
  cached : Bool
  cbf : Bool
  deriving DecidableEq, Repr

/-! ### The copy engine (R195 to R219) -/

/-- What a copy does with its latched operands. -/
inductive CopyOp where
  | cpy | cpy2 | cpy3 | cpyx | unf | gth | sct | fill
  | feed (f : Stream)
  | xfmT | xfmCvt | xfmPack
  | pfd
  | pfc (r : Residency)
  | sred (op : CombOp)
  | stg
  deriving DecidableEq, Repr

/-- A translation held by a core (R289, R293): the address space, the root table of its code generation
(0 where none was used), the page's virtual address, its size code, the address of the leaf entry that the walk read, and the
leaf's two doublewords. -/
structure Tlb where
  asid : BitVec 12
  gen : Word
  va : Nat
  sz : Nat
  ent : Nat
  lo : Word
  hi : Word
  deriving DecidableEq, Repr

/-- An accepted part `lo` to `hi - 1` of a copy's stream, with the translations of its source and destination. -/
structure Piece where
  lo : Nat
  hi : Nat
  src : Option Tlb
  dst : Option Tlb
  deriving DecidableEq, Repr

/-- A copy: the values latched at issue, where it was issued, its address space, and how far it has come.
`acc` is the end of the accepted part of the stream, `writes` the accepted pieces that have not landed whole,
`done` the landed parts of those and `sent` the parts on their way to a home; `aux` are the stretches that it reads beside its
stream (`Copy.place`), `got` the bytes read by number, `asked` the stretches on their way from a home; `tries`
the readings of a checked block that have failed (R207); `spos` and `base` the source place and the bytes expanded so far
of CPYX, `idx` the index values of GTH and SCT and `idxBad` the element whose index could not be read, with status and address;
`mark` and `commits` are the release mark (R313): the accesses before a number that a checkpoint up to a count has released; `ctx`
is the context that issued it, `own` that a trap handler did, `stop` the status, offset and address of a fault. -/
structure Copy where
  id : Nat
  op : CopyOp
  a : Word
  b : Word
  c : Word
  desc : List Word
  inc : BitVec 7
  chk : Bool
  slot : Nat
  bundle : Word
  asid : BitVec 12
  gen : Word
  seg : Nat
  mark : Nat
  commits : Nat
  acc : Nat
  writes : List Piece
  done : List (Nat × Nat)
  sent : List (Nat × Nat)
  aux : List Piece
  got : Map Byte
  asked : List (Nat × Nat)
  tries : Nat
  spos : Nat
  idx : Map Word
  idxBad : Option (Nat × Nat × Word)
  base : Nat
  ctx : Nat
  own : Bool
  stop : Option (Nat × Nat × Word)
  deriving DecidableEq, Repr

/-- A conjunction send (R266): tag, position, the TSPAD address that CJSL reads, the format, the row once it is known,
its context and segment; `sent` marks one that another module has yet to answer, `waiting` one that was refused and
will be retried from time `due` on (R272), `stop` the status of one that has stopped (R273). -/
structure Send where
  id : Nat
  tag : BitVec 32
  pos : BitVec 4
  src : Option Nat
  fmt : Option Tag
  row : Option Row
  ctx : Nat
  asid : BitVec 12
  seg : Nat
  sent : Bool
  refused : Nat
  due : Nat
  waiting : Bool
  stop : Option Nat
  deriving DecidableEq, Repr

/-- What the held copy queue and the engine carry. -/
inductive EngItem where
  | copy (c : Copy)
  | send (s : Send)
  deriving DecidableEq, Repr

/-! ### The array (R247 to R258) -/

/-- A tile's kind (R247). -/
inductive Kind where | clear | fp32 | int32
  deriving DecidableEq, Repr

/-- A tile: rows of 64 elements, kind, and the rows that are poisoned (R256). -/
structure Tile where
  rows : Map (BitVec 2048)
  kind : Kind
  poison : BitVec 64
  deriving DecidableEq, Repr

def Tile.zero : Tile := ⟨[], .clear, 0⟩

/-- A byte of an operand stream and the segment whose FEED appended it (R257): none for a trap handler's (R259). -/
abbrev FByte := Byte × Option Nat

/-- An operand stream: bytes to come, and the bytes consumed in the segment, with the segment of the
operation that consumed each (R258). -/
structure Fifo where
  data : List FByte
  kept : List (FByte × Nat)
  deriving DecidableEq, Repr

def Fifo.zero : Fifo := ⟨[], []⟩

/-- A queued array operation (R249). -/
inductive ArrKind where
  | mma (sparse : Bool) (fa fb : BitVec 4)
  | mmai
  | skip (f : Stream)
  deriving DecidableEq, Repr

/-- A queued array operation with its tile, the K-groups (or the bytes of FQSKIP) still to come, its segment,
whether a trap handler issued it (R259), and its place among the segment's array operations (R256). -/
structure ArrOp where
  kind : ArrKind
  t : TReg
  groups : Nat
  seg : Nat
  own : Bool
  idx : Nat
  deriving DecidableEq, Repr

/-- A core's share of the array: its tiles with their checkpoint images, its streams and queue, ASIG
with its image, the bytes that the segment consumes (R258), the array operations it has issued, the place
of the failed one (R256), the uncorrectable elements by tile and row, and whether the next K-group fails its residue check
(R256).  `kindNow` is the kind as issued operations have set it (R251); `hand` are the tiles as trap handlers have left them
since the segment's entry (R259). -/
structure Arr where
  tiles : Map Tile
  images : Map Tile
  kindNow : Map Kind
  kindImg : Map Kind
  fa : Fifo
  fb : Fifo
  queue : List ArrOp
  asig : Word
  asigImg : Word
  usedA : Nat
  usedB : Nat
  issued : Nat
  failed : Option Nat
  ecc : List (Nat × Nat)
  residue : Bool
  hand : Map Tile
  deriving DecidableEq, Repr

def Arr.zero : Arr :=
  { tiles := [], images := [], kindNow := [], kindImg := [], fa := Fifo.zero, fb := Fifo.zero,
    queue := [], asig := 0, asigImg := 0, usedA := 0, usedB := 0, issued := 0, failed := none, ecc := [], residue := false,
    hand := [] }

/-! ### Fetch and translation -/

/-- A line of the code cache: its physical address, its way and its four bundles. -/
structure CodeLine where
  pa : Nat
  way : Nat
  b0 : Bits256
  b1 : Bits256
  b2 : Bits256
  b3 : Bits256
  deriving DecidableEq, Repr

/-- The code cache (R187), most recent line first; the block buffer (R189): the physical address of the expanded
block and its bytes; a line delivered without a fill (R190); blocks that failed to expand; the loop buffer by bundle
address (R192); the core's translations, the walks it waits for and those that found none (R293); the lines that PFI
asks for (R141); the TLBIs that wait for a pin or a walk (R297): kind, address space and address; the walks that a
copy or an XLATE of the core waits for and those that found none, with its number. -/
structure Fetch where
  lines : List CodeLine
  block : Option (Nat × List Byte)
  direct : Option CodeLine
  failed : List Nat
  loopBuf : List (Nat × Bits256)
  tlb : List Tlb
  walks : List Walk
  misses : List Walk
  pfi : List (List Nat)
  tlbis : List (TlbiKind × BitVec 12 × Nat)
  asks : List (Nat × Walk)
  gone : List (Nat × Walk)
  deriving DecidableEq, Repr

def Fetch.zero : Fetch :=
  { lines := [], block := none, direct := none, failed := [], loopBuf := [], tlb := [], walks := [], misses := [],
    pfi := [], tlbis := [], asks := [], gone := [] }

/-! ### Sequencing between bundles -/

/-- What a trap records of its bundle: the address, the sequencer state in which it was issued, whether
it completed, the target of its taken transfer, idle cycles run. -/
structure TrapAt where
  pc : Word
  seqr : Seqr
  done : Bool
  xfer : Option Word
  idle : Nat
  deriving DecidableEq, Repr

/-- Where a core stands between two bundles: idle cycles left of an N bundle, cycles
left after VJOIN, a replay due at the next turn, the nullifier's latched predicates with the
unstable ones and the skips left (R138), HALT in progress and whether its commit is still to come, TRANSIT run, the
phase cycle of a transit phase (R331), the count of bundles, the
arrival word's generation that a waiting WAITA has latched (R127), the BRT entry that has arrived, the
commits of a protected pair that wait (cycles left, segment and its entry, R244), the barrier that a handler's BAR
waits for, rollbacks so far, whether the bundle at hand has made its commit and has still its effect, with a watchdog trap to
follow (R228), the bytes that the replies written since the last core cycle bring to the commit record (R243), an LSCLR clear in progress (CLRA and CLRT, R194) and the bundle that asked for it, whether the bundle
at the program counter has made its commit already, and whether the segment's entry is such a bundle. -/
structure Between where
  idle : Nat
  vjoin : Nat
  replay : Bool
  nulP : BitVec 16
  nulLf : BitVec 5
  nulBadP : BitVec 16
  nulBadLf : BitVec 5
  nulLeft : Nat
  halting : Bool
  haltCommit : Bool
  transit : Bool
  phase : Option Nat
  seqno : Nat
  nextId : Nat
  seg : Nat
  commits : Nat
  waita : Option (BitVec 16)
  brt : Option (Word × Bool)
  closing : List (Nat × Nat × Ctx)
  ownWait : Option (BitVec 10)
  rolls : Nat
  mid : Option Bool
  replied : List Byte
  clear : Option (Bool × Bool)
  doneAt : Option TrapAt
  ckpted : Bool
  entryCk : Bool
  deriving DecidableEq, Repr

def Between.zero : Between :=
  { idle := 0, vjoin := 0, replay := false, nulP := 0, nulLf := 0, nulBadP := 0,
    nulBadLf := 0, nulLeft := 0, halting := false, haltCommit := false, transit := false, phase := none, seqno := 0, nextId := 0, seg := 0,
    commits := 0, waita := none, brt := none, closing := [], ownWait := none, rolls := 0, mid := none, replied := [], clear := none, doneAt := none,
    ckpted := false, entryCk := false }

/-- Recovery (R231): phase 0 none, 1 first rerun, 2 second rerun; the first rerun's length and
signature; whether it met a fault; whether the recovery began in a transit phase (R331). -/
structure Recov where
  phase : Nat
  n1 : Word
  s1 : Word
  fault : Bool
  phased : Bool
  deriving DecidableEq, Repr

/-- The trace buffer (R236): entries by index, the next index, entries left after a trigger, and whether
the debug trap of TRAPON is due. -/
structure Trace where
  trctl : Word
  entries : Map (BitVec 128)
  idx : BitVec 12
  sel : BitVec 12
  left : Option Nat
  due : Bool
  deriving DecidableEq, Repr

/-- Registers of a core that are not restored by rollback (Tables of 08, 10, 12, 15, 17 and 21), the number by which the model
names the resident context, and its job (R318). -/
structure CoreRegs where
  csstat : Word
  ccway : Word
  part : BitVec 4
  asarea : Word
  asid : BitVec 12
  sasid : BitVec 12
  useu : Bool
  genroot : Word
  gang : Word
  ctxId : Nat
  cprio : BitVec 6
  lpart : Word
  thctl : Word
  ephstat : Word
  job : Nat
  deriving DecidableEq, Repr

/-- What a SAVE has pinned (R233, R259): the pages of the save area and of the array save area, each 4 KiB with its key, and
the translations that cover them. -/
structure Pins where
  pages : List (Nat × BitVec 8)
  arr : List (Nat × BitVec 8)
  tlbs : List Tlb
  deriving DecidableEq, Repr
/-- A SAVE that the context save engine runs: its area, the ticks it has lasted, its pins once it has checked. -/
structure Saving where
  area : Word
  ticks : Nat
  pins : Option Pins
  deriving DecidableEq, Repr

/-- A core.  `backs` are the array states before the commits of a protected pair that wait, by segment (R244). `incs` are increments on their way to TSPAD's banks (address, amount), `saving` is a SAVE under way. -/
structure Core where
  run : RunState
  sup : Bool
  ctx : Ctx
  entry : Ctx
  trap : TrapRegs
  regs : CoreRegs
  loc : Local
  accs : List Acc
  replies : List Reply
  held : List EngItem
  owns : List (Nat × Nat)
  engine : List EngItem
  incs : List (Nat × Nat)
  arr : Arr
  backs : List (Nat × Arr)
  fetch : Fetch
  btw : Between
  recov : Recov
  saving : Option Saving
  trace : Trace
  pending : List BEvent
  deriving DecidableEq, Repr

/-! ### The module -/

/-- A pair's control port (Table PAR-1). -/
structure Pair where
  aq : Bool
  q1 : Bool
  q0 : Bool
  win : BitVec 2
  mode : BitVec 2
  deriving DecidableEq, Repr

def Pair.reset : Pair := ⟨false, false, false, 0, 1⟩

/-- What a die controller is told: HALT of a core (R143), a double trap with both causes (R222), a retirement (R231), a
context lost (R371), a discarded record (R321). -/
inductive Report where
  | halted (core : Nat)
  | doubleTrap (core : Nat) (first second : Nat) (info : Word)
  | retired (core : Nat)
  | stopped (core : Nat)
  | discarded (die queue : Nat)
  deriving DecidableEq, Repr

/-- The bundle that is being issued (log 6): the core, the slot, its raw bits, whether the program
counter has already moved, whether the cycle has already ended, whether it carries TRANSIT and CKPT, operands that a replay supplies, the
word popped for stochastic rounding, the requests and system-register writes for the commit record. -/
structure Issue where
  cur : Nat
  slot : Nat
  raw : Nat
  advanced : Bool
  ended : Bool
  transit : Bool
  ck : Bool
  ov : Option (Word × Word × Word)
  word : Word
  reqs : List ReqRec
  sysw : List (BitVec 12 × Word)
  deriving DecidableEq, Repr

def Issue.zero : Issue :=
  { cur := 0, slot := 0, raw := 0, advanced := false, ended := false, transit := false, ck := false, ov := none, word := 0,
    reqs := [], sysw := [] }

def Ctx.reset (n : Nat) : Ctx :=
  { pc := 0, regs := Regs.zero, seqr := Seqr.zero, rdv := 0, fstat := 0, wovf := 0, cycle := 0,
    s0 := 0x243F6A8885A308D3 ^^^ BitVec.ofNat 64 n, s1 := 0x13198A2E03707344, queue := [], bars := [], barWait := none, thermal := none, idleRun := 0, pipe := [],
    snap := [], parked := [], caph := 0, capa := 0, capb := 0, capc := 0, owed := [], sig := 0, priv := true }

def CoreRegs.reset (n : Nat) : CoreRegs :=
  { csstat := 0, ccway := 0xFFFFFFFFFFFFFFFF, part := 0, asarea := 0, asid := 0, sasid := 0,
    useu := false, genroot := 0, gang := 0, ctxId := n, cprio := 0, lpart := 0, thctl := 0,
    ephstat := 0, job := 0 }

def Local.reset : Local :=
  { abuf := [], tspad := [], lines := [], owner := 0, wbuf := [], draining := [], olds := [], newer := [], eccA := [],
    eccT := [] }

/-- The core with CoreIndex `n` after module reset (R172, Table CST-2). -/
def Core.reset (n : Nat) : Core :=
  { run := .idle, sup := true, ctx := Ctx.reset n, entry := Ctx.reset n,
    trap := TrapRegs.zero, regs := CoreRegs.reset n, loc := Local.reset, accs := [], replies := [],
    held := [], owns := [], engine := [], incs := [], arr := Arr.zero, backs := [], fetch := Fetch.zero, btw := Between.zero,
    recov := ⟨0, 0, 0, false, false⟩, saving := none,
    trace := { trctl := 0, entries := [], idx := 0, sel := 0, left := none, due := false }, pending := [] }

/-- An address-space table entry (Table MEM-5). -/
structure Aste where
  dw0 : Word
  dw1 : Word
  dw2 : Word
  deriving DecidableEq, Repr

/-- A slice (R279 to R283): SLCFG and SLPART, the staging window, the lines present with their ways in order of recency,
the miss-status registers with their lists, the ingress queue and the atomics units' updates.  A request is named by its source
and number. -/
structure Slice where
  slcfg : Word
  slpart : Vector Word 4
  window : Memory
  present : List (Nat × Nat)
  mshr : List (Nat × List (Nat × Nat))
  ingress : List (Nat × Nat)
  updates : List (Nat × Nat)
  deriving DecidableEq, Repr

def Slice.reset : Slice :=
  { slcfg := 0, slpart := Vector.replicate 4 0xFFFFFFFFFFFFFFFF, window := [], present := [], mshr := [],
    ingress := [], updates := [] }

/-- A staged code page (R294, R295): die, page, GOOD or FAILED, class, time of last use; and the copy that was verified: the
page's bytes with the keys they were written under, the bundles of a page that the OWC service installed, and the staging's
counter, at which the blocks of another module's page were received. -/
structure Staged where
  die : Nat
  page : Nat
  good : Bool
  cls : Residency
  used : Nat
  image : Memory
  keys : Map (BitVec 8)
  code : Option (List Bits256)
  tick : Nat
  deriving DecidableEq, Repr

/-- What the die controllers log of memory: an uncorrectable address (R285), a walk over uncorrectable table data (R291), a
release without a record (R298), a write that the sealed granule map refuses (R292). -/
inductive MemEvent where
  | uncorrectable (pa : Nat)
  | walk (asid va : Nat)
  | release (d0 d1 : Nat)
  | sealed (pa : Nat)
  deriving DecidableEq, Repr

/-- A walker at work (R289, R293): its die and number, what it walks, the level of the entry that it reads and the entry's
address, and whether it goes through GENROOT's table. -/
structure Walker where
  die : Nat
  num : Nat
  w : Walk
  level : Nat
  at_ : Nat
  via : Bool
  deriving DecidableEq, Repr

/-- What the module presents (R340 to R342): of each presented die its physical number, and its presented clusters by
physical number; the tier channels. -/
structure Shape where
  dies : List Nat
  clusters : List (List Nat)
  tiers : Nat
  deriving DecidableEq, Repr

/-- A module that presents everything. -/
def Shape.full : Shape := ⟨[0, 1, 2, 3], List.replicate 4 (List.range 32), 96⟩
/-- ND. -/
def Shape.nd (x : Shape) : Nat := x.dies.length
/-- NCL of a die. -/
def Shape.ncl (x : Shape) (d : Nat) : Nat := (x.clusters.getD d []).length
/-- The physical number of a die's cluster, by which it has its place in the mesh (R358). -/
def Shape.place (x : Shape) (d cl : Nat) : Nat := (x.clusters.getD d []).getD cl cl
/-- The physical number of a presented pair, by which the configuration record names it (R341). -/
def Shape.physPair (x : Shape) (p : Nat) : Nat := 128 * x.dies.getD (p / 128) (p / 128) + 4 * x.place (p / 128) (p / 4 % 32) + p % 4
/-- The cluster at a place of a die's mesh. -/
def Shape.clusterAt (x : Shape) (d place : Nat) : Option Nat :=
  if (x.clusters.getD d []).contains place then some ((x.clusters.getD d []).idxOf place) else none

/-- Global memory (R284 to R292): what the module presents, bytes, the key under which each 16-byte unit was written, 32-byte units with an
uncorrectable error, sealed 2 MiB granules, the address-space table, the release ring (Table MEM-11), the
inbound channels by source and slice (R309), the requests of agents other than cores by number, with the next number, the
walkers at work, the error log, the refresh state of each stack layer and
channel, the translation caches of the clusters (R293), the staged code pages and the size of each die's
staging area in pages (R294, R295), and the bundles of the code pages that the OWC service has installed (log 21). -/
structure Mem where
  shape : Shape
  bytes : Memory
  keys : Map (BitVec 8)
  ecc : List Nat
  sealed : List Nat
  astes : Map Aste
  ring0 : Word
  ring1 : Word
  tail : BitVec 32
  head : BitVec 32
  channels : Map (List Nat)
  reqs : Map Acc
  nextReq : Nat
  walkers : List Walker
  slices : Map Slice
  log : List MemEvent
  refresh : Map (Nat × Bool)
  ctlb : Map (List Tlb)
  staged : List Staged
  areas : Map Nat
  images : Map (List Bits256)
  deriving DecidableEq, Repr

def Mem.reset : Mem :=
  { shape := Shape.full, bytes := [], keys := [], ecc := [], sealed := [], astes := [], ring0 := 0x2000000000000000, ring1 := 0,
    tail := 0, head := 0, channels := [], reqs := [], nextReq := 0, walkers := [], slices := [], log := [], refresh := [], ctlb := [],
    staged := [], areas := [], images := [] }

/-! ### Conjunction units (R260 to R276) -/

/-- Table CJN-5's states. -/
inductive TagState where | free | idle | opened | broken | retired
  deriving DecidableEq, Repr

/-- A value in the matching store: the positions `lo` to `hi - 1` that it covers, whether it waits for the
next round, and whether it stands in the overflow region (R271). -/
structure HeldVal where
  lo : Nat
  hi : Nat
  row : Row
  next : Bool
  spilled : Bool
  deriving DecidableEq, Repr

/-- A tag record (R263): descriptor, owner, state, and the values held; `since` is the time at which the
orphan timer, or the retirement interval, began. -/
structure TagRec where
  scope : BitVec 2
  arity : Nat
  op : CombOp
  forward : Bool
  inc : BitVec 7
  dcore : Nat
  aw : Nat
  dest : Nat
  fpos : BitVec 4
  ftag : BitVec 32
  orph : Word
  owner : Nat
  asid : BitVec 12
  state : TagState
  round : BitVec 16
  disc : Nat
  pres : BitVec 16
  next : BitVec 16
  held : List HeldVal
  since : Nat
  deriving DecidableEq, Repr

/-- Who sends an operand: the tag whose result is forwarded, or an agent of another module's fabric channel. -/
inductive Sender where
  | tag (t : BitVec 32)
  | module_ (m agent cseq : Nat)
  deriving DecidableEq, Repr

/-- An operand on its way that no engine of this module holds (R269, R382), with the refusals it has met (R272); it
does not arrive before time `due`. -/
structure Operand where
  src : Sender
  tag : BitVec 32
  pos : BitVec 4
  fmt : Option Tag
  row : Row
  refused : Nat
  due : Nat
  deriving DecidableEq, Repr

/-- A completed round's result with the record of its tag. -/
structure Result where
  tag : BitVec 32
  row : Row
  tr : TagRec
  deriving DecidableEq, Repr

/-- The conjunction units: tag-block records by die and block, tag records by die and pool index, operands
on their way, results to be delivered or forwarded, oldest first, and the events of broken tags that wait for the writes of the
orphan area (R274): the numbers of those requests, from and below, the context and the event. -/
structure Conj where
  blocks : Map Word
  tags : Map TagRec
  flying : List Operand
  results : List Result
  told : List (Nat × Nat × Nat × BEvent)
  deriving DecidableEq, Repr

/-! ### Scheduling (R318 to R336) -/

/-- A record in a queue: sequence number, time of arrival, its priority after R321, its grid in a dispatch queue, its place in the
ring in memory (none where the die could not write it there, log 32), and whether a retired core's claim has returned it to the
front (R328). -/
structure QRec where
  bits : BitVec 512
  seq : Nat
  time : Nat
  prio : Nat
  grid : Option Nat
  slot : Option Nat
  first : Bool
  deriving DecidableEq, Repr

/-- A record that a POP has taken (R328): the context, the segment of its POP, the context's rollbacks then. -/
structure Claim where
  ctx : Nat
  seg : Nat
  rolls : Nat
  r : QRec
  deriving DecidableEq, Repr

/-- A queue (Table SCH-3): doubleword 0, BASE, LOG2, POPLIM, DROP, the records, those that a
context has claimed (R328), the next sequence number, the records that wait in the die (R321). -/
structure Queue where
  dw0 : Word
  base : Word
  log2 : BitVec 5
  poplim : BitVec 24
  drop : BitVec 16
  recs : List QRec
  claims : List Claim
  next : Nat
  waiting : List QRec
  deriving DecidableEq, Repr

def Queue.reset : Queue :=
  { dw0 := 0, base := 0, log2 := 6, poplim := 2000, drop := 0, recs := [], claims := [], next := 0, waiting := [] }

/-- A barrier of a gang (R330): C, and by rank the phase after the highest one that a context has arrived at. -/
structure Barrier where
  done : BitVec 16
  at_ : Map (BitVec 16)
  deriving DecidableEq, Repr

def Barrier.reset : Barrier := ⟨0xFFFF, []⟩

/-- A gang: its record, grid and instance, its pairs, the cores of its contexts by rank, whether it has been
launched, its barriers, a transit phase (program, phase cycle), the slot of its placement and whether it holds its
reservation, the pre-emption request last sent with its time, the ranks that are saved, its code generation, its
record's arrival, the stores and atomics that a SAVE has left behind on a core (R233), and the ranks of contexts that have halted
and given up their core (R329). -/
structure Gang where
  record : BitVec 512
  grid : Nat
  inst : Nat
  pairs : List Nat
  cores : List Nat
  launched : Bool
  bars : Map Barrier
  transit : Option (Nat × Nat)
  slot : Nat
  holds : Bool
  preempt : Option (Word × Nat)
  saved : List Nat
  gen : Nat
  time : Nat
  left : List (Nat × Nat)
  done : List Nat
  deriving DecidableEq, Repr

/-- A grid (R325 to R327): record, queue, right, instances, how many have been placed and have completed, the physical
address and key of LAUNCHI's count, the physical address of the dependence word that it waits for, whether that
has been released, and its job. -/
structure Grid where
  record : BitVec 512
  queue : Nat
  prio : Nat
  total : Nat
  placed : Nat
  finished : Nat
  idx : Option (Nat × BitVec 8)
  waiting : Option Nat
  released : Bool
  job : Nat
  deriving DecidableEq, Repr

/-- A record that is set aside, by its grid, or the saved gang whose record it is (R329), with the pairs reserved for it (R323). -/
structure Aside where
  grid : Nat
  gang : Option Nat
  pairs : List Nat
  deriving DecidableEq, Repr

/-- A router's program (R333). -/
structure Program where
  xlen : Nat
  entries : List (BitVec 16)
  deriving DecidableEq, Repr

/-- A die controller: queues, gangs, grids, set-aside records, the queue last served at each priority, router programs by
cluster and number, SCHCTL, DSTR, tasks by address space and generation, numbers to give next, and what a
router drives in the next cycle (by cluster and output; the local bus is output 4). -/
structure Die where
  queues : Map Queue
  gangs : Map Gang
  grids : Map Grid
  aside : List Aside
  robin : Map Nat
  programs : Map Program
  schctl : Word
  dstr : Word
  tasks : Map Nat
  nextGang : Nat
  nextGrid : Nat
  wires : Map (BitVec 4096)
  deriving DecidableEq, Repr

def Die.reset : Die :=
  { queues := [], gangs := [], grids := [], aside := [], robin := [], programs := [], schctl := 0x801,
    dstr := 0, tasks := [], nextGang := 1, nextGrid := 0, wires := [] }

/-- A saved context (R232 to R235): what Table CST-8 saves, with the mode of its pair, the physical address of its
array area, a recovery under way (R231), and whether it has been restored. -/
structure Saved where
  ctx : Ctx
  entry : Ctx
  trap : TrapRegs
  regs : CoreRegs
  held : List EngItem
  accs : List Acc
  owns : List (Nat × Nat)
  wbuf : List WRec
  arr : Arr
  loopBuf : List (Nat × Bits256)
  btw : Between
  mode : BitVec 2
  arrAt : Option Nat
  recov : Recov
  restored : Bool
  deriving DecidableEq, Repr

/-! ### Coolant (R358 to R371) -/

/-- Where a zone stands in Table CLT-9: `dry` with the time of t0, `primed` after a successful attempt. -/
inductive ZoneState where
  | normal
  | dry (t0 : Nat)
  | gatedDry (t0 : Nat)
  | primed
  | failed
  deriving DecidableEq, Repr

/-- A zone record (R365): temperatures in quarter degrees, measured flow, throttling for the junction and
for the DRAM, layers with doubled refresh, successive samples with low flow, with low manifold pressure, with
a plant fault and with 90 % of the opening. -/
structure Zone where
  tj : Nat
  td : Nat
  meas : Nat
  throtJ : Bool
  throtD : Bool
  ref2x : BitVec 8
  low : Nat
  press : Nat
  plant : Nat
  good : Nat
  state : ZoneState
  deriving DecidableEq, Repr

def Zone.reset : Zone :=
  { tj := 140, td := 140, meas := 12, throtJ := false, throtD := false, ref2x := 0, low := 0,
    press := 0, plant := 0, good := 0, state := .normal }

/-- A request in the ephemeris arbiter (R359, R363): a core's commit with its record's address, or a write of MODFLOW. -/
inductive EphReq where
  | commit (core : Nat) (addr : Word)
  | flow (x : Word)
  deriving DecidableEq, Repr

/-- The coolant: ephemeris by die and slot, MODFLOW, zone records by die and zone, requests, the number of the next interval of
1000 ticks to be sampled (R365). -/
structure Cool where
  eph : Map Word
  modflow : Nat
  zones : Map Zone
  reqs : List EphReq
  sampled : Nat
  deriving DecidableEq, Repr

def Cool.reset : Cool := { eph := [], modflow := 240, zones := [], reqs := [], sampled := 0 }

/-! ### Package (R340 to R357) -/

/-- A host queue (Table PKG-5). -/
structure HostQ where
  base : Word
  cfg : Word
  head : BitVec 32
  tail : BitVec 32
  cqbase : Word
  cqtail : BitVec 32
  cqhead : BitVec 32
  err : Bool
  deriving DecidableEq, Repr

def HostQ.reset : HostQ :=
  { base := 0, cfg := 6, head := 0, tail := 0, cqbase := 0, cqtail := 0, cqhead := 0, err := false }

/-- A registered root join word (R346): its job's number, its address in the job's space, the queue, HEAD at the taking. -/
structure Root where
  id : Nat
  addr : Word
  asid : BitVec 12
  die : Nat
  queue : Nat
  head : BitVec 32
  finished : Option Bool
  deriving DecidableEq, Repr

/-- An entry of the OWC translation cache (R352): key (request digest, compiler version, errata mask, feature
set), RELMASK and the block's pages as stored: the bundles' bytes, encrypted in sealed mode under a nonce of 96 bits, with the
tag of 128 bits that seals the entry (R353). -/
structure OwcEntry where
  digest : List Byte
  compiler : Nat
  errata : BitVec 64
  features : BitVec 128
  relmask : BitVec 64
  code : List Byte
  auth : BitVec 128
  nonce : BitVec 96
  deriving DecidableEq, Repr

/-- What the OWC service answers to a block request (R88, R89, R93, R94). -/
inductive OwcReply where
  | code (bundles : List Bits256)
  | range
  | feature
  | span
  deriving DecidableEq, Repr

/-- What the safe region holds (R357). -/
structure Safe where
  bytes : Memory
  keys : Map (BitVec 8)
  abufs : Map Memory
  tspads : Map Memory
  dies : Map Die
  hqs : Map HostQ
  roots : List Root
  saves : Map Saved
  lost : List Nat
  deriving DecidableEq, Repr

/-- The package: the configuration record that the module has verified (R341), MODCTL.STATE, FEATSEL, FEATACT, host queues, root words, host memory, MSI-X signals sent, the
OWC cache, the compiler's version and the errata mask, running and pending images, the safe region, the
management controller's log, quarantine bits that survive a reset (QANNEX), reports sent to the host, answers of the OWC
service, code generations passed to it for release (R325), the pages of each code generation that the service has installed (by
address space and generation, R98), the time of a power-loss warning, the peer and the ports of
a storage transfer (R383) with the next unit of device memory to send and those sent with their ports, the number of the next job,
SLOTBASE (R354), whether START has been taken, and the window of the tier that the host's decoder has placed: base and size in
units of 256 MiB (R348). -/
structure Pkg where
  record : ConfigRecord
  state : Nat
  featsel : BitVec 256
  featact : BitVec 256
  hqs : Map HostQ
  roots : List Root
  hostMem : Memory
  msix : List Nat
  owc : List OwcEntry
  compiler : Nat
  errata : BitVec 64
  nonce : BitVec 96
  running : Map FwImage
  pendingFw : Map FwImage
  safe : Option Safe
  log : List (Nat × Word)
  qannex : Map (BitVec 3)
  out : List (List Byte)
  owcOut : List OwcReply
  released : List (Nat × Nat)
  gens : Map (List Nat)
  warned : Option Nat
  storage : Option (Nat × List Nat)
  unsent : Nat
  sent : List (Nat × Nat)
  nextJob : Nat
  slotbase : Word
  started : Bool
  window : Nat × Nat
  deriving DecidableEq, Repr

/-- The configuration record of the part that State.reset stands for: it presents everything; its other fields are free values
(log 5). -/
def ConfigRecord.part : ConfigRecord :=
  { ver := Config.recordVersion, serial := Config.serial, dieMap := 0xF, clMap := List.replicate 4 0xFFFFFFFF, pairQ := []
    tierMap := BitVec.allOnes 96, portMap := BitVec.allOnes 144, featMask := Config.featMask, errata := Config.partErrata
    fwMin := Config.fwMin, sealedCache := Config.sealedCache, sig := Config.recordSig }

/-- FEATSEL and FEATACT hold feature 0 at reset (Table PKG-2). -/
def Pkg.reset : Pkg :=
  { record := ConfigRecord.part, state := 0, featsel := 1, featact := 1, hqs := [], roots := [], hostMem := [], msix := [], owc := [],
    compiler := (Config.shipped 2).version, errata := Config.partErrata, nonce := 0, running := [(0, Config.shipped 0), (1, Config.shipped 1), (2, Config.shipped 2)], pendingFw := [], safe := none, log := [],
    qannex := [], out := [], owcOut := [], released := [], gens := [], warned := none, storage := none, unsent := 0, sent := []
    nextJob := 1, slotbase := 0, started := false, window := (0, 0) }

/-! ### Fabric (R373 to R383) -/

/-- A port's link: next SEQ to send, SEQ expected, the retry buffer, flits to be sent again, the credits used of each
channel, successive retries of one flit, a retraining, the units to be sent with their channels, what has been received
of a message by channel, the credits owed by channel, whether a retry request, an acknowledgement or a capability flit is
due, the messages forwarded that the neighbour may not have, and the flits sent. -/
structure Link where
  next : BitVec 16
  expect : BitVec 16
  retry : List (BitVec 16 × List Byte)
  resend : List (List Byte)
  used : Map Nat
  retries : Nat
  training : Bool
  units : List (Nat × List Byte)
  rx : Map (List Byte)
  owed : Map Nat
  nak : Bool
  ackDue : Bool
  cap : Bool
  carry : List Msg
  wire : List (List Byte)
  deriving DecidableEq, Repr

def Link.reset : Link :=
  { next := 0, expect := 0, retry := [], resend := [], used := [], retries := 0, training := false, units := [],
    rx := [], owed := [], nak := false, ackDue := false, cap := false, carry := [], wire := [] }

/-- A fabric channel (R379) by agent, module and virtual channel: next CSEQ, unacknowledged messages with the
port each was sent on and the time, the CSEQ expected, early arrivals. -/
structure Chan where
  next : Nat
  unacked : List (Msg × Nat × Nat)
  expect : Nat
  early : List Msg
  deriving DecidableEq, Repr

def Chan.reset : Chan := { next := 0, unacked := [], expect := 0, early := [] }

/-- What waits for a remote module's completion (R381): an access of a core, or the bytes `lo` to `hi - 1`
of a copy's stream, or a send; `write` says that they are on their way to their destination.  `agent`, `vc` and `cseq`
name the request's message. -/
structure Remote where
  core : Nat
  copy : Bool
  id : Nat
  lo : Nat
  hi : Nat
  write : Bool
  module_ : Nat
  agent : Nat
  vc : Nat
  cseq : Nat
  deriving DecidableEq, Repr

/-- The fabric: FABCFG, FPSTAT by port, route entries, links, channels out and in, requests that wait for a
completion, messages that await their channel's turn, and completions that have come: module, request, status, data. -/
structure Fabric where
  cfg : Word
  fpstat : Map Word
  routes : Map Word
  links : Map Link
  out : Map Chan
  inn : Map Chan
  waiting : List Remote
  arrived : List Msg
  replies : List (Nat × Nat × Nat × List Byte)
  log : List Msg
  deriving DecidableEq, Repr

def Fabric.reset : Fabric :=
  { cfg := 0x186A0, fpstat := [], routes := [], links := [], out := [], inn := [], waiting := [],
    arrived := [], replies := [], log := [] }

/-- The module: cores by CoreIndex, pairs, memory, dies, tags, coolant, package, fabric, saved contexts by
physical area, boundary events of contexts that are not resident, reports of the cores, the bundle being
issued, outside events not yet taken, reference ticks since reset and the counter of steps (log 6). -/
structure State where
  cores : Map Core
  pairs : Map Pair
  mem : Mem
  conj : Conj
  dies : Map Die
  cool : Cool
  pkg : Pkg
  fab : Fabric
  saves : Map Saved
  absent : List (Nat × BEvent)
  nextCtx : Nat
  reports : List Report
  iss : Issue
  inbox : List Instr
  time : Nat
  tick : Nat
  deriving DecidableEq, Repr

/-- Why the machine stops (see NOTES.md, ## Stops). -/
inductive Fault where
  /-- The head of the inbox is no event of this module: it names a unit that no module has (`Instr.wf` is
  false) or it is a bundle operation. Raised by `step` alone; safe, since nothing outside sends it. -/
  | noSuchUnit
  deriving DecidableEq, Repr

/-- Why an instruction has no meaning. -/
inductive Refusal where
  /-- Raised by `exec` alone, for an instruction that the model does not cover yet; safe. -/
  | notModelled (mnemonic : String)
  deriving DecidableEq, Repr

/-- The module right after reset (R172, R345). -/
def State.reset : State :=
  { cores := [], pairs := [], mem := Mem.reset,
    conj := { blocks := [], tags := [], flying := [], results := [], told := [] },
    dies := [], cool := Cool.reset, pkg := Pkg.reset, fab := Fabric.reset, saves := [], absent := [],
    nextCtx := 1024, reports := [], iss := Issue.zero, inbox := [], time := 0, tick := 0 }

end Sys2Proof.Machine
end

