-- ==== Sys2Proof/Machine/Ops.lean ====
section
/-! DEFINITION. The shared operations: reading and writing registers, results in flight and the end of a
core cycle (R100, R151), the commit signature (R243), the sequencer record of a trap (R147), taking a
trap and returning from one (R222 to R226). -/

namespace Sys2Proof.Machine

/-! ### Cores -/

/-- MODNUM (Table FAB-2). -/
def Fabric.modnum (f : Fabric) : Nat := bitsAt f.cfg.toNat 48 8
/-- Core `n`. -/
def State.core (s : State) (n : Nat) : Core := Map.getD s.cores n (Core.reset n)
/-- Put core `n`. -/
def State.setCore (s : State) (n : Nat) (c : Core) : State :=
  { s with cores := Map.put s.cores n c }
/-- The core whose bundle is being issued. -/
def State.me (s : State) : Core := s.core s.iss.cur
/-- Put the core whose bundle is being issued. -/
def State.setMe (s : State) (c : Core) : State := s.setCore s.iss.cur c
/-- Change the core whose bundle is being issued. -/
def State.onMe (s : State) (f : Core → Core) : State := s.setMe (f s.me)

/-- The die of a core (Table SCL-8). -/
def dieOf (n : Nat) : Nat := n / 256
/-- The cluster of a core within its die. -/
def clusterOf (n : Nat) : Nat := n / 8 % 32
/-- The slice of a core's cluster: 32 times the die plus the cluster. -/
def sliceOf (n : Nat) : Nat := n / 8
/-- The pair of a core (R239). -/
def pairOf (n : Nat) : Nat := n / 2
/-- A pair's control port. -/
def State.pair (s : State) (p : Nat) : Pair := Map.getD s.pairs p Pair.reset
/-- R239: is the core's pair in protected mode. -/
def State.protected_ (s : State) (n : Nat) : Bool := (s.pair (pairOf n)).mode == 1
/-- R241: the core that acts for core `n`: of a protected pair its leader, core 0. -/
def State.leader (s : State) (n : Nat) : Nat := if s.protected_ n then 2 * pairOf n else n

/-- A die. -/
def State.die (s : State) (d : Nat) : Die := Map.getD s.dies d Die.reset
def State.setDie (s : State) (d : Nat) (x : Die) : State := { s with dies := Map.put s.dies d x }

/-! ### Memory -/

/-- Write one byte; the list stays canonical. -/
def Memory.write (m : Memory) (a : Nat) (x : Byte) : Memory :=
  match m with
  | [] => if x = Memory.unlisted then [] else [(a, x)]
  | (b, y) :: rest =>
    if a < b then (if x = Memory.unlisted then (b, y) :: rest else (a, x) :: (b, y) :: rest)
    else if a = b then (if x = Memory.unlisted then rest else (a, x) :: rest)
    else (b, y) :: Memory.write rest a x

/-- Write bytes at rising addresses. -/
def Memory.writeBytes (m : Memory) (a : Nat) (xs : List Byte) : Memory :=
  match xs with
  | [] => m
  | x :: rest => Memory.writeBytes (Memory.write m a x) (a + 1) rest

/-- Read `n` bytes at rising addresses. -/
def Memory.readBytes (m : Memory) (a n : Nat) : List Byte := (upFrom a n).map (Memory.read m)

/-- R2: the little-endian number of `n` bytes. -/
def Memory.readLe (m : Memory) (a n : Nat) : Nat := leNat (Memory.readBytes m a n)

/-- R2: write a number as `n` little-endian bytes. -/
def Memory.writeLe (m : Memory) (a n x : Nat) : Memory := Memory.writeBytes m a (leBytes n x)

/-! ### Registers (R99) -/

def Regs.gCell (r : Regs) (d : GReg) : GCell := r.g[d.toNat]'(d.isLt)
def Regs.vCell (r : Regs) (d : VReg) : VCell := r.v[d.toNat]'(d.isLt)
def Regs.setG (r : Regs) (d : GReg) (x : GCell) : Regs :=
  { r with g := r.g.set d.toNat x d.isLt }
def Regs.setV (r : Regs) (d : VReg) (x : VCell) : Regs :=
  { r with v := r.v.set d.toNat x d.isLt }
/-- R99: G0 reads as zero. -/
def Regs.gv (r : Regs) (d : GReg) : Word := if d = 0 then 0 else (r.gCell d).v
/-- R99: G0 is always full. -/
def Regs.gFull (r : Regs) (d : GReg) : Bool := d == 0 || (r.gCell d).full
/-- R102: G0 is never poisoned. -/
def Regs.gPoison (r : Regs) (d : GReg) : Bool := d != 0 && (r.gCell d).poison
/-- R99: P0 reads as 1. -/
def Regs.pv (r : Regs) (d : PReg) : Bool := d == 0 || r.p.getLsbD d.toNat
/-- R149: M0 reads as all ones. -/
def Regs.mv (r : Regs) (d : MReg) : Mask := if d = 0 then BitVec.allOnes 512 else r.m[d.toNat]'(d.isLt)

/-- A bit vector with bit `i` set to `b`. -/
def putBit {k : Nat} (x : BitVec k) (i : Nat) (b : Bool) : BitVec k :=
  if b then x ||| (1#k <<< i) else x &&& ~~~(1#k <<< i)

/-- R99: a write to P0 is discarded. -/
def Regs.setP (r : Regs) (d : PReg) (b : Bool) : Regs :=
  if d = 0 then r else { r with p := putBit r.p d.toNat b }
/-- R149: a write to M0 is discarded; disabled lanes keep their bits. -/
def Regs.setM (r : Regs) (d : MReg) (x mask : Mask) : Regs :=
  if d = 0 then r
  else { r with m := r.m.set d.toNat ((x &&& mask) ||| (r.m[d.toNat]'(d.isLt) &&& ~~~mask)) d.isLt }
/-- R99: a write to G0 is discarded. -/
def Regs.writeG (r : Regs) (d : GReg) (x : GCell) : Regs := if d = 0 then r else r.setG d x
/-- R135: LF0 to LF4, one-hot. -/
def Regs.setLeaf (r : Regs) (k : Nat) : Regs := { r with lf := 1#5 <<< k }

/-- Lanes of `x` where the mask is set, of `old` elsewhere (R149). -/
def mergeRow (mask : Mask) (x old : Row) : Row :=
  rowOf fun i => if mask.getLsbD i then lane x i else lane old i

/-- R101, R151: a landing result's write.  The full bit stays as it is: a register that a later-issued
operation has left empty stays empty, and every other destination is full since its issue. -/
def Regs.apply (r : Regs) (d : Dst) : Regs :=
  match d with
  | .g d x p => r.writeG d { r.gCell d with v := x, poison := p }
  | .p d b => r.setP d b
  | .leaf k => r.setLeaf k
  | .m d x mask => r.setM d x mask
  | .v d x mask tag p _ =>
    let old := r.vCell d
    r.setV d { old with row := mergeRow mask x old.row, tag := tag.getD old.tag, poison := p }
  | .rx d _ x => r.setV d { r.vCell d with row := x, tag := .raw, poison := false }
  | .tx _ _ => r

/-- R101: a reply's write, which makes its register full. -/
def Regs.applyReply (r : Regs) (d : Dst) : Regs :=
  let r := r.apply d
  match d with
  | .g d _ _ => r.writeG d { r.gCell d with full := true }
  | .v d .. => r.setV d { r.vCell d with full := true }
  | _ => r

/-- R101: leave a G register empty. -/
def Regs.emptyG (r : Regs) (d : GReg) : Regs := r.writeG d { r.gCell d with full := false }

/-! ### Guards (R64, R137) -/

/-- The condition that SEL names. -/
def Regs.selected (r : Regs) (sel : BitVec 5) : Bool :=
  if sel.toNat < 16 then r.pv (sel.extractLsb' 0 4) else r.lf.getLsbD (sel.toNat - 16)
/-- R137: a guard as its predicate or leaf stands. -/
def Regs.guard (r : Regs) (g : Guard) : Bool := r.selected g.sel != g.inv

/-! ### Results in flight -/

/-- Put a result in flight with latency `l`. -/
def Ctx.send (x : Ctx) (l : Nat) (d : Dst) (flags : BitVec 5 := 0) (ovf : Word := 0) : Ctx :=
  { x with pipe := x.pipe ++ [⟨l, d, flags, ovf⟩] }
/-- Put a result of the issuing core in flight. -/
def State.send (s : State) (l : Nat) (d : Dst) (flags : BitVec 5 := 0) (ovf : Word := 0) : State :=
  s.onMe fun c => { c with ctx := c.ctx.send l d flags ovf }

/-- The results that land at the end of this cycle. -/
def landing (xs : List Land) : List Land := xs.filter fun l => l.rem ≤ 1
/-- The results that stay in flight, one cycle nearer. -/
def staying (xs : List Land) : List Land :=
  (xs.filter fun l => decide (1 < l.rem)).map fun l => { l with rem := l.rem - 1 }

/-- One landing: its write, its flags (R52) and its WOVF bits, which R85 gives no time for and which set here with the
result (DESIGN CHOICE, log 33). -/
def Ctx.land (x : Ctx) (l : Land) : Ctx :=
  { x with regs := x.regs.apply l.dst, fstat := x.fstat ||| l.flags, wovf := x.wovf ||| l.ovf }

/-- The landings of one cycle, in issue order: the write of the later-issued bundle stands (R151). -/
def Ctx.advance (x : Ctx) : Ctx :=
  let y := (landing x.pipe).foldl Ctx.land x
  { y with pipe := staying x.pipe }

/-! ### The commit signature (R243) -/

/-- One bit of a Crc64 step, polynomial 0x42F0_E1EB_A9EA_3693. -/
def crcBit (r : Word) : Word :=
  if r.getLsbD 63 then (r <<< 1) ^^^ 0x42F0E1EBA9EA3693 else r <<< 1
/-- A byte into the Crc64, its most significant bit first. -/
def crcByte (r : Word) (b : Byte) : Word :=
  let r := r ^^^ (b.setWidth 64 <<< 56)
  crcBit (crcBit (crcBit (crcBit (crcBit (crcBit (crcBit (crcBit r)))))))
/-- R243: Crc64 over bytes. -/
def crc64 (r : Word) (bs : List Byte) : Word := bs.foldl crcByte r

/-- The header of a landing write (Table PAR-9). -/
def writeHeader (cls reg tag : Nat) (full poison : Bool) : List Byte :=
  [BitVec.ofNat 8 cls, BitVec.ofNat 8 reg, BitVec.ofNat 8 (reg / 256), BitVec.ofNat 8 tag,
    BitVec.ofNat 8 (full.toNat + 2 * poison.toNat)]

/-- A row write's bytes, where `r` is what it leaves (Table PAR-9). -/
def landBytesV (r : Regs) (d : VReg) (p : Bool) : List Byte :=
  let c := r.vCell d
  writeHeader 1 d.toNat c.tag.code.toNat c.full p ++ leBytes 2048 c.row.toNat

/-- A landing write's bytes, where `r` is what it leaves (Table PAR-9). -/
def landBytes (r : Regs) (d : Dst) : List Byte :=
  match d with
  | .g d x p => writeHeader 0 d.toNat 0 (r.gFull d) p ++ leBytes 8 x.toNat
  | .v d _ _ _ p _ => landBytesV r d p
  | .rx d _ _ => landBytesV r d false
  | .tx _ _ => []
  | .p d b => writeHeader 2 d.toNat 0 false false ++ leBytes 1 b.toNat
  | .m d .. => writeHeader 3 d.toNat 0 false false ++ leBytes 64 (r.mv d).toNat
  | .leaf k =>
    (List.range 5).flatMap fun j => writeHeader 4 j 0 false false ++ leBytes 1 (j == k).toNat

/-- A request's bytes (Table PAR-9). -/
def ReqRec.toBytes (x : ReqRec) : List Byte :=
  [BitVec.ofNat 8 x.slot, 0, 0, 0, 0, 0, 0, 0] ++ leBytes 8 x.raw ++ x.bytes

/-- Results land one after another: each write is recorded as it leaves its register (R151, R243). -/
def Regs.writes (r : Regs) (ds : List Dst) : List Byte :=
  match ds with
  | [] => []
  | d :: rest => landBytes (r.apply d) d ++ Regs.writes (r.apply d) rest

/-- The commit record of a cycle: the address of its bundle (none: no bundle issued), the bytes of the replies written
since the last cycle, the results that land on `r`, the system registers written and the requests in slot order (R243). -/
def commitRecord (addr : Option Word) (replied : List Byte) (r : Regs) (ds : List Dst) (sysw : List (BitVec 12 × Word))
    (reqs : List ReqRec) : List Byte :=
  leBytes 8 ((addr.getD (BitVec.allOnes 64)).toNat)
    ++ replied ++ r.writes ds
    ++ sysw.flatMap (fun x => writeHeader 5 x.1.toNat 0 false false ++ leBytes 8 x.2.toNat)
    ++ (reqs.filter fun x => x.slot == 0).flatMap ReqRec.toBytes
    ++ (reqs.filter fun x => x.slot != 0).flatMap ReqRec.toBytes

/-! ### TCAUSE and TSEQ (Tables TRP-3 and CTL-4) -/

def TrapRegs.intrap (t : TrapRegs) : Bool := t.tcause.getLsbD 17
def TrapRegs.ppriv (t : TrapRegs) : Bool := t.tcause.getLsbD 16
def TrapRegs.code (t : TrapRegs) : Nat := bitsAt t.tcause.toNat 0 8
/-- Table TRP-3: TCAUSE at trap entry. -/
def causeWord (code sub : Nat) (ppriv : Bool) : Word :=
  BitVec.ofNat 64 (code + 256 * sub + 65536 * ppriv.toNat + 131072)
/-- INTRAP set or cleared. -/
def TrapRegs.setIntrap (t : TrapRegs) (b : Bool) : TrapRegs := { t with tcause := putBit t.tcause 17 b }

/-- Is the core in a trap handler (R222). -/
def Core.inTrap (c : Core) : Bool := c.sup && c.trap.intrap

/-- The position of an address in the loop body (Table CTL-4). -/
def lposOf (pc lstart : Word) : Nat := (pc - lstart).toNat / 32

/-- R147: TSEQ for a bundle at `pc` issued in sequencer state `q`.  With LOOP 0, LPOS is 0 and LLEN and LREM are as they
last stood (DESIGN CHOICE, log 33). -/
def tseqWord (q : Seqr) (pc : Word) (xfer done : Bool) (idle : Nat) : Word :=
  BitVec.ofNat 64
    (q.lrem.toNat * 2 ^ 32 + q.loop.toNat * 2 ^ 31 + q.llen.toNat * 2 ^ 25
      + (if q.loop then lposOf pc q.lstart % 64 else 0) * 2 ^ 19 + q.pend.toNat * 2 ^ 17
      + xfer.toNat * 2 ^ 13 + done.toNat * 2 ^ 12 + idle % 4096)

/-- The fields of TSEQ. -/
def tseqLrem (w : Word) : BitVec 32 := w.extractLsb' 32 32
def tseqLoop (w : Word) : Bool := w.getLsbD 31
def tseqLlen (w : Word) : BitVec 6 := w.extractLsb' 25 6
def tseqLpos (w : Word) : BitVec 6 := w.extractLsb' 19 6
def tseqPend (w : Word) : BitVec 2 := w.extractLsb' 17 2
def tseqXfer (w : Word) : Bool := w.getLsbD 13
def tseqDone (w : Word) : Bool := w.getLsbD 12
def tseqIdle (w : Word) : Nat := (w.extractLsb' 0 12).toNat

/-- R147: the TSEQ values at which ERET raises the illegal-operation trap. -/
def tseqIllegal (w : Word) : Bool :=
  tseqPend w == 3 || (tseqLoop w && decide ((tseqLlen w).toNat < (tseqLpos w).toNat))
    || (tseqXfer w && (tseqPend w != 0)) || (tseqXfer w && !tseqDone w)

/-- R147: the sequencer state that ERET loads. -/
def seqrOf (tseq ttgt tbundle : Word) : Seqr :=
  { pend := tseqPend tseq, tgt := ttgt, loop := tseqLoop tseq,
    lstart := tbundle - BitVec.ofNat 64 (32 * (tseqLpos tseq).toNat), llen := tseqLlen tseq,
    lrem := tseqLrem tseq }

/-! ### Advance (R130) -/

/-- The address after a bundle that holds no taken transfer and starts no loop. -/
def advance (q : Seqr) (pc : Word) : Word × Seqr :=
  if q.pend ≠ 0 then
    let q' := { q with pend := q.pend - 1 }
    if q'.pend = 0 then (q.tgt, q') else (pc + 32, q')
  else if q.loop && pc == q.lstart + BitVec.ofNat 64 (32 * q.llen.toNat) then
    if q.lrem ≠ 0 then (q.lstart, { q with lrem := q.lrem - 1 })
    else (pc + 32, { q with loop := false })
  else (pc + 32, q)

/-- The address after a bundle that holds a taken transfer to `x`. -/
def transfer (q : Seqr) (pc x : Word) : Word × Seqr :=
  (pc + 32, { q with pend := 2, tgt := x, loop := false })

/-- LbmStart (R139), where no loop runs; `n` is the body's length. -/
def lbmStart (q : Seqr) (pc : Word) (n : Nat) (count : BitVec 32) : Word × Seqr :=
  if count = 0 then (pc + BitVec.ofNat 64 (32 * (n + 1)), q)
  else
    (pc + 32,
      { q with
        loop := true, lstart := pc + 32, llen := BitVec.ofNat 6 (n - 1), lrem := count - 1 })

/-- R192: the loop buffer is valid only while LOOP = 1. -/
def Fetch.keepLoop (f : Fetch) (loop : Bool) : Fetch := if loop then f else { f with loopBuf := [] }

/-- Move the program counter and the sequencer state; the end of a loop empties the loop buffer, and a trap
handler without a loop of its own leaves it as it is (R192). -/
def Core.goto (c : Core) (t : Word × Seqr) : Core :=
  { c with
    ctx := { c.ctx with pc := t.1, seqr := t.2 }
    fetch := c.fetch.keepLoop (t.2.loop || !c.ctx.seqr.loop) }

/-- Pass the bundle at the program counter (R130). -/
def Core.pass (c : Core) : Core := c.goto (advance c.ctx.seqr c.ctx.pc)

/-! ### Trace (R236) -/

/-- Table TRP-10: recording stops; the debug trap is due where TRAPON is 1. -/
def Trace.freeze (t : Trace) : Trace :=
  { t with left := none, trctl := putBit t.trctl 62 true, due := t.due || t.trctl.getLsbD 61 }

/-- Add an entry to the trace buffer while TRCTL.EN is 1 and recording has not stopped; a pending
countdown sets FROZEN when it ends. -/
def Trace.add (t : Trace) (time kind info : Nat) (addr : Word) : Trace :=
  if t.trctl.getLsbD 63 && !t.trctl.getLsbD 62 then
    let e := BitVec.ofNat 128
      (time % 2 ^ 32 * 2 ^ 96 + kind * 2 ^ 88 + info % 2 ^ 24 * 2 ^ 64 + addr.toNat / 32 * 32)
    let t := { t with entries := Map.put t.entries t.idx.toNat e, idx := t.idx + 1 }
    match t.left with
    | some 0 | none => t
    | some (k + 1) =>
      if k = 0 then t.freeze
      else { t with left := some k }
  else t

/-- Record an event of a core. -/
def Core.traced (c : Core) (time kind info : Nat) (addr : Word) : Core :=
  { c with trace := c.trace.add time kind info addr }

/-- Table TRP-10: a trigger: FROZEN sets after POST further entries. -/
def Trace.trigger (t : Trace) : Trace :=
  if t.trctl.getLsbD 63 && !t.trctl.getLsbD 62 && t.left.isNone then
    let post := bitsAt t.trctl.toNat 36 12
    if post = 0 then t.freeze else { t with left := some post }
  else t

/-- Table TRP-10: trap class `code` triggers where its TRC bit is set. -/
def Trace.trapTrigger (t : Trace) (code : Nat) : Trace :=
  if decide (1 ≤ code ∧ code ≤ 19) && t.trctl.getLsbD code then t.trigger else t

/-- The end of a freeze: the core runs, and the trace notes how long the freeze has lasted (Table TRP-9). -/
def Core.thaw (c : Core) (time : Nat) : Core :=
  match c.run with
  | .frozen f => { c with run := .run }.traced time 4 (min f.ticks 0xFFFFFF) c.ctx.pc
  | _ => c

/-! ### Taking a trap (R222) -/

/-- A trap at the bundle that the core stands at. -/
def Core.at (c : Core) : TrapAt :=
  { pc := c.ctx.pc, seqr := c.ctx.seqr, done := false, xfer := none, idle := c.ctx.idleRun }

/-- R222, steps 1 to 4; the capture record is valid where the S slot has still to be replayed (log 14).
The results in flight move to the snapshot buffer, the trap registers are
written, and the core issues from TVEC in supervisor mode with PEND and LOOP at 0; R222 gives no value of the other
sequencer fields, which are zero here (DESIGN CHOICE, log 33). -/
def Core.enter (c : Core) (t : TrapInfo) (w : TrapAt) : Core :=
  let regs := { c.trap with
    tcause := causeWord t.code t.sub c.sup
    tbundle := w.pc &&& ~~~31
    tslot := BitVec.ofNat 64 t.slot
    tinfo := t.info
    tseq := tseqWord w.seqr w.pc w.xfer.isSome w.done w.idle
    ttgt := (match w.xfer with
      | some x => x &&& ~~~31
      | none => w.seqr.tgt &&& ~~~31) }
  { c with
    run := .run
    sup := true
    accs := c.accs.filter fun a => match a.kind with | .brtEntry _ _ => false | _ => true
    fetch := { c.fetch with misses := [], failed := [], direct := none }
    trap := regs
    ctx := { c.ctx with
      pc := c.trap.tvec
      seqr := { Seqr.zero with pend := 0 }
      idleRun := 0
      snap := c.ctx.pipe
      pipe := []
      caph := putBit c.ctx.caph 63 c.btw.replay }
    btw := { c.btw with
      idle := 0, replay := false, nulLeft := 0, mid := none, waita := none, brt := none, transit := false } }

/-- R222: a synchronous trap.  In a handler it is a double trap: the core stops. -/
def State.trapWith (s : State) (n : Nat) (t : TrapInfo) (w : TrapAt) : State :=
  let c := (s.core n).thaw s.time
  if c.inTrap then
    { s.setCore n { c with run := .stopped .doubleTrap } with
      reports := s.reports ++ [.doubleTrap n c.trap.code t.code t.info] }
  else
    let c' := c.enter t w
    let c' := { c' with trace := c'.trace.trapTrigger t.code }
    s.setCore n (c'.traced s.time 2 (c'.trap.tcause.toNat % 2 ^ 24) w.pc)

/-- R220: a refused or boundary trap at the bundle that core `n` stands at. -/
def State.trapAt (s : State) (n : Nat) (t : TrapInfo) : State := s.trapWith n t (s.core n).at

/-- The issuing bundle traps: nothing more is done for it. -/
def State.refuse (s : State) (t : TrapInfo) : State :=
  let s' := s.trapAt s.iss.cur t
  { s' with iss := { s'.iss with advanced := true, ended := true } }

/-- Post a boundary event to core `n` (R221). -/
def State.post (s : State) (n : Nat) (e : BEvent) : State :=
  let c := s.core n
  s.setCore n { c with pending := c.pending ++ [e] }

/-- Is a context resident on the core? -/
def Core.resident (c : Core) : Bool :=
  match c.run with
  | .idle => false
  | .stopped .halted | .stopped .retired | .stopped .doubleTrap | .stopped .lost => false
  | _ => true

/-- The cores that are listed; every other one is in its reset state, IDLE. -/
def State.listed (s : State) : List Nat := s.cores.map (·.1)

/-! ### The end of a core cycle -/

/-- R226: cycles of a handler are not counted. -/
def Core.count (c : Core) : Core :=
  if c.inTrap then c else { c with ctx := { c.ctx with cycle := c.ctx.cycle + 1 } }

/-- The results in flight advance, and the cycle's commit record enters SIG (R243). -/
def Core.endCycle (c : Core) (addr : Option Word) (sysw : List (BitVec 12 × Word))
    (reqs : List ReqRec) : Core :=
  let x := c.ctx.advance
  let bs := commitRecord addr c.btw.replied c.ctx.regs ((landing c.ctx.pipe).map (·.dst)) sysw reqs
  { c with
    ctx := { x with sig := crc64 x.sig bs }
    btw := { c.btw with replied := [] } }

end Sys2Proof.Machine
end

