-- ==== Sys2Proof/Machine/Bank.lean ====
section
/-! DEFINITION. TSPAD and ABUF: views, lines, owners, the forwarding of held and draining stores
(R123, R179 to R182), and arrival words (R183). -/

namespace Sys2Proof.Machine

/-- R180: the physical line of a line of the swizzled view, and back. -/
def swz (l : Nat) : Nat := l / 16 * 16 + ((l % 16) ^^^ (l / 16 % 16))

/-- The size of a local space (R114). -/
def LSpace.size (v : LSpace) : Nat :=
  match v with
  | .abuf => 1048576
  | _ => 262144

/-- The physical address of a byte of a view (R179): for ABUF its address. -/
def physOf (v : LSpace) (a : Nat) : Nat :=
  match v with
  | .abuf => a % 1048576
  | .tsLinear => a % 262144
  | .tsSwizzled => swz (a % 262144 / 128) * 128 + a % 128

/-- Line `l`'s count and mark. -/
def Local.line (l : Local) (i : Nat) : Line := Map.getD l.lines i ⟨0, false⟩
def Local.setLine (l : Local) (i : Nat) (x : Line) : Local := { l with lines := Map.put l.lines i x }
/-- R181: a line's full bit. -/
def Local.full (l : Local) (i : Nat) : Bool := (l.line i).count == 0 && !(l.line i).failed
/-- R179: is the tile of a physical TSPAD address owned by the engine. -/
def Local.engineOwns (l : Local) (a : Nat) : Bool := l.owner.getLsbD (a % 262144 / 4096)
/-- The byte of a bank. -/
def Local.bank (l : Local) (v : LSpace) (p : Nat) : Byte :=
  match v with
  | .abuf => Memory.read l.abuf p
  | _ => Memory.read l.tspad p
/-- Write bytes to a bank at a physical address. -/
def Local.store (l : Local) (v : LSpace) (p : Nat) (bs : List Byte) : Local :=
  match v with
  | .abuf => { l with abuf := Memory.writeBytes l.abuf p bs }
  | _ => { l with tspad := Memory.writeBytes l.tspad p bs }

/-- A core store of segment `seg` reaches a bank: outstanding copies of earlier segments keep reading what it
replaces (R205). -/
def Local.storeBy (l : Local) (seg : Nat) (v : LSpace) (p : Nat) (bs : List Byte) : Local :=
  let old := (upFrom p bs.length).map fun a => (⟨v == .abuf, a, seg, l.bank v a⟩ : Old)
  { l.store v p bs with olds := l.olds ++ old }
/-- A write of the engine at physical addresses ends the older reading of its bytes. -/
def Local.storeEngine (l : Local) (v : LSpace) (p : Nat) (bs : List Byte) : Local :=
  { l.store v p bs with
    olds := l.olds.filter fun o => !(o.abuf == (v == .abuf) && decide (p ≤ o.addr ∧ o.addr < p + bs.length)) }

/-- The byte that a record stores at a physical address, if it stores one there. -/
def WRec.byteAt (r : WRec) (p : Nat) : Option Byte :=
  if r.addr ≤ p then r.bytes[p - r.addr]? else none

/-- Do a record and a view share a write path (R123)? -/
def WRec.through (r : WRec) (v : LSpace) : Bool :=
  r.view == v || (r.joined && v != .abuf && r.view != .abuf)

/-- The younger of two stored bytes: of the later bundle, and of the later slot of one bundle (R170). -/
def younger (acc : Option (Nat × Nat × Byte)) (r : WRec) (b : Byte) : Option (Nat × Nat × Byte) :=
  match acc with
  | some (q, k, _) => if decide (q < r.seq) || (q == r.seq && decide (k ≤ r.slot)) then some (r.seq, r.slot, b) else acc
  | none => some (r.seq, r.slot, b)

/-- The byte at a physical address that a load through view `v` of a bundle numbered `seq` sees: the
youngest earlier store of the view, held or draining, and otherwise the bank's byte (R123, R170).  R123 bounds what loads
through the other view may return by what such loads have returned; bytes that a load has taken from its own view's write
path bind no load through the other one (DESIGN CHOICE, log 33). -/
def Local.see (l : Local) (v : LSpace) (seq p : Nat) : Byte :=
  let recs := (l.newer ++ (l.draining.map (·.2)) ++ l.wbuf).filter fun r => decide (r.seq < seq)
  let hit := recs.foldl (fun acc r =>
    if r.through v then (match r.byteAt p with | some b => younger acc r b | none => acc) else acc) none
  match hit with
  | some (_, _, b) => b
  | none => l.bank v p

/-- `n` bytes that a load at address `a` of a view sees, wrapping at the end of the space. -/
def Local.load (l : Local) (v : LSpace) (seq a n : Nat) : List Byte :=
  (upFrom a n).map fun x => l.see v seq (physOf v x)

/-- The physical TSPAD lines that `n` bytes at address `a` of a view touch. -/
def linesOf (v : LSpace) (a n : Nat) : List Nat :=
  match v with
  | .abuf => []
  | _ => ((upFrom a n).map fun x => physOf v x / 128).dedup

/-- The first empty line of an access, with its linear address. -/
def Local.emptyLine (l : Local) (v : LSpace) (a n : Nat) : Option Nat :=
  ((linesOf v a n).find? fun i => !l.full i).map (· * 128)

/-- Do the bytes of an access meet an uncorrectable element (R178)? -/
def Local.bad (l : Local) (v : LSpace) (a n : Nat) : Bool :=
  (upFrom a n).any fun x =>
    match v with
    | .abuf => l.eccA.contains (physOf v x / 8)
    | _ => l.eccT.contains (physOf v x / 8)

/-- Writing whole elements removes their errors. -/
def Local.heal (l : Local) (v : LSpace) (p n : Nat) : Local :=
  let gone (e : Nat) : Bool := decide (p ≤ e * 8 ∧ e * 8 + 8 ≤ p + n)
  match v with
  | .abuf => { l with eccA := l.eccA.filter fun e => !gone e }
  | _ => { l with eccT := l.eccT.filter fun e => !gone e }

/-- Split a store at address `a` of a view into records that each stay in one physical line. -/
def recsOf (v : LSpace) (seq slot seg a : Nat) (bs : List Byte) : List WRec :=
  match bs with
  | [] => []
  | b :: rest =>
    let p := physOf v a
    match recsOf v seq slot seg (a + 1) rest with
    | r :: rs =>
      if r.addr = p + 1 && p / 128 == r.addr / 128 then { r with addr := p, bytes := b :: r.bytes } :: rs
      else ⟨seq, slot, seg, v, false, p, [b]⟩ :: r :: rs
    | [] => [⟨seq, slot, seg, v, false, p, [b]⟩]

/-- R170: a store enters the write buffer after the stores of earlier bundles and of earlier slots of
its own bundle. -/
def insertRec (xs : List WRec) (r : WRec) : List WRec :=
  match xs with
  | [] => [r]
  | x :: rest =>
    if r.seq < x.seq || (r.seq == x.seq && decide (r.slot < x.slot)) then r :: x :: rest
    else x :: insertRec rest r

/-- Hold a local store. -/
def Local.hold (l : Local) (v : LSpace) (seq slot seg a : Nat) (bs : List Byte) : Local :=
  { l with wbuf := (recsOf v seq slot seg a bs).foldl insertRec l.wbuf }

/-- R116: the write-buffer entries of TSPAD: one per view and line. -/
def tsEntries (rs : List WRec) : List (LSpace × Nat) :=
  ((rs.filter fun r => r.view != .abuf).map fun r => (r.view, r.addr / 128)).dedup
/-- R116: the write-buffer entries of ABUF: one per row. -/
def abEntries (rs : List WRec) : List Nat :=
  ((rs.filter fun r => r.view == .abuf).map fun r => r.addr / 512).dedup

/-- A record as pieces that each stay in one aligned 8-byte element. -/
def elementsOf (r : WRec) : List WRec :=
  (((upFrom r.addr r.bytes.length).map (· / 8)).dedup).map fun e =>
    let lo := max r.addr (e * 8)
    let hi := min (r.addr + r.bytes.length) (e * 8 + 8)
    { r with addr := lo, bytes := (r.bytes.drop (lo - r.addr)).take (hi - lo) }

/-- R116, R123, R304 part 1: records of committed segments leave the write buffer: ABUF stores reach
their rows, TSPAD stores set out for the banks, which they reach within two cycles. -/
def Local.commit (l : Local) (upto : Nat) : Local :=
  let out := l.wbuf.filter fun r => decide (r.seg ≤ upto)
  let keep := l.wbuf.filter fun r => !decide (r.seg ≤ upto)
  let ab := out.filter fun r => r.view == .abuf
  let ts := out.filter fun r => r.view != .abuf
  let l1 := ab.foldl (fun l r => (l.storeBy r.seg .abuf r.addr r.bytes).heal .abuf r.addr r.bytes.length) l
  { l1 with
    wbuf := keep
    newer := []
    draining := l1.draining ++ (ts.flatMap elementsOf).map fun r => (2, r) }

/-- R170: a record sets out before those of later slots of its own bundle. -/
def insertDrain (xs : List (Nat × WRec)) (x : Nat × WRec) : List (Nat × WRec) :=
  match xs with
  | [] => [x]
  | y :: rest =>
    if y.2.seq == x.2.seq && decide (x.2.slot < y.2.slot) then x :: y :: rest else y :: insertDrain rest x

/-- Send a store straight to the banks: a handler's store is not held (R222). One to ABUF lands in its own cycle. -/
def Local.storeNow (l : Local) (v : LSpace) (seq slot seg a : Nat) (bs : List Byte) : Local :=
  let k := if v == .abuf then 1 else 2
  { l with draining :=
      (((recsOf v seq slot seg a bs).flatMap elementsOf).map fun r => (k, r)).foldl insertDrain l.draining }

/-- The landed records that the write buffer holds an older store beside: a load of the core still sees them first. -/
def Local.covers (l : Local) (xs : List WRec) : List WRec :=
  xs.filter fun r => l.wbuf.any fun h => decide (h.seq < r.seq)

/-- The elements that land now: those at their last cycle and those that the free value `f` names by
their place; every record of such an element lands, in order (R123). -/
def Local.drain (l : Local) (f : Nat → Bool) : Local :=
  let marked := l.draining.zipIdx.filter fun x => x.1.1 ≤ 1 || f x.2
  let elem (r : WRec) : Bool × Nat := (r.view == .abuf, r.addr / 8)
  let elems := marked.map fun x => elem x.1.2
  let now := l.draining.filter fun x => elems.contains (elem x.2)
  let later := l.draining.filter fun x => !elems.contains (elem x.2)
  let l1 := now.foldl (fun l x =>
    (l.storeBy x.2.seg x.2.view x.2.addr x.2.bytes).heal x.2.view x.2.addr x.2.bytes.length) l
  { l1 with
    draining := later.map fun x => (x.1 - 1, x.2)
    newer := l.newer ++ l.covers (now.map (·.2)) }

/-- R124: the records of bundles before `seq` are visible through both views. -/
def Local.join (l : Local) (seq : Nat) : Local :=
  { l with wbuf := l.wbuf.map fun r => if r.seq < seq then { r with joined := true } else r }

/-- Every element lands. -/
def Local.flush (l : Local) : Local := l.drain fun _ => true

/-- R205: a byte as a copy reads it that sees the stores of the segments before `upto`: those that have set out, and none of
a later one. -/
def Local.seenBy (l : Local) (upto : Nat) (v : LSpace) (p : Nat) : Byte :=
  match l.olds.find? fun o => o.abuf == (v == .abuf) && o.addr == p && decide (upto ≤ o.seg) with
  | some o => o.byte
  | none =>
    let hit := l.draining.foldl (fun acc x =>
      if decide (x.2.seg < upto) && (x.2.view == .abuf) == (v == .abuf) then (x.2.byteAt p).or acc else acc) none
    hit.getD (l.bank v p)

/-- The first segment whose stores a copy does not see: the one after its own (R205), and of a FEED, which is not held, its own
(R215). -/
def Copy.upto (c : Copy) : Nat := match c.op with | .feed _ => if c.own then c.seg + 1 else c.seg | _ => c.seg + 1

/-- The bytes that no outstanding copy can still ask for are forgotten. -/
def Core.forgetOlds (c : Core) : Core :=
  { c with loc := { c.loc with olds := c.loc.olds.filter fun o => c.engine.any fun e =>
    match e with
    | .copy x => decide (x.upto ≤ o.seg)
    | .send x => decide (x.seg < o.seg) } }

/-- The drain of one core cycle. -/
def Core.drain (c : Core) (tick : Nat) : Core :=
  ({ c with loc := c.loc.drain (Config.drains tick) }).forgetOlds

/-! ### Owners (R125) -/

/-- Set the owner of the tile of a TSPAD address. -/
def Local.setOwner (l : Local) (a : Nat) (engine : Bool) : Local :=
  { l with owner := putBit l.owner (a % 262144 / 4096) engine }
/-- Is an engine write accepted into the tile and not landed (R125)? -/
def Local.tileBusy (l : Local) (a : Nat) : Bool :=
  (upFrom (a % 262144 / 4096 * 32) 32).any fun i => (l.line i).count != 0

/-! ### Arrival words (R183) -/

/-- ArrivalAdd. -/
def arrivalAdd (w : Word) (n : Nat) : Word :=
  let count := bitsAt w.toNat 0 24
  let target := bitsAt w.toNat 24 24
  let gen := bitsAt w.toNat 48 16
  if n = 0 then w
  else
    let c := count + n
    if target = 0 then BitVec.ofNat 64 (gen * 2 ^ 48 + c % 2 ^ 24)
    else
      let k := c / target
      BitVec.ofNat 64 ((gen + k) % 2 ^ 16 * 2 ^ 48 + target * 2 ^ 24 + (c - k * target) % 2 ^ 24)

/-- The word of a bank at a linear address. -/
def Local.word (l : Local) (a : Nat) : Word := BitVec.ofNat 64 (Memory.readLe l.tspad (a % 262144) 8)
/-- Write a word to its bank. -/
def Local.setWord (l : Local) (a : Nat) (x : Word) : Local :=
  { l with tspad := Memory.writeLe l.tspad (a % 262144) 8 x.toNat }
/-- R184: an increment at its bank. -/
def Local.increment (l : Local) (a n : Nat) : Local := l.setWord a (arrivalAdd (l.word a) n)

/-- R126: ARMA: count 0, the target, the generation unchanged. -/
def Local.arm (l : Local) (a : Nat) (target : BitVec 24) : Local :=
  let w := l.word a
  l.setWord a (BitVec.ofNat 64 (bitsAt w.toNat 48 16 * 2 ^ 48 + target.toNat * 2 ^ 24))

/-- R194: a cleared TSPAD. -/
def Local.clearT (l : Local) : Local :=
  { l with tspad := [], lines := [], owner := 0, eccT := [], newer := l.newer.filter fun r => r.view == .abuf }
/-- R194: a cleared ABUF. -/
def Local.clearA (l : Local) : Local := { l with abuf := [], eccA := [], newer := l.newer.filter fun r => r.view != .abuf }

end Sys2Proof.Machine
end

