-- ==== Sys2Proof/Machine/Tile.lean ====
section
/-! DEFINITION. The matrix array's data: tiles, operand streams, K-groups, the queued operations, and
what commit and rollback do to them (R247 to R258). -/

namespace Sys2Proof.Machine

/-! ### Tiles -/

/-- Tile `t` of a core. -/
def Arr.tile (a : Arr) (t : Nat) : Tile := Map.getD a.tiles t Tile.zero
def Arr.setTile (a : Arr) (t : Nat) (x : Tile) : Arr := { a with tiles := Map.put a.tiles t x }
/-- The kind of a tile as issued operations have set it (R251). -/
def Arr.kindOf (a : Arr) (t : Nat) : Kind := Map.getD a.kindNow t .clear
def Arr.setKind (a : Arr) (t : Nat) (k : Kind) : Arr := { a with kindNow := Map.put a.kindNow t k }
/-- Element [m][n] of a tile. -/
def Tile.elem (x : Tile) (m n : Nat) : BitVec 32 := (Map.getD x.rows m 0).extractLsb' (32 * n) 32
/-- A tile row from its 64 elements. -/
def tileRow (f : Nat → BitVec 32) : BitVec 2048 :=
  (List.range 64).foldl (fun acc k => acc ||| ((f k).setWidth 2048 <<< (32 * k))) 0

/-- Does a queued operation name the tile (R249)? FQSKIP names none. -/
def ArrOp.names (o : ArrOp) (t : Nat) : Bool :=
  match o.kind with
  | .skip _ => false
  | _ => o.t.toNat == t
/-- R249: a tile is busy while a queued operation names it. -/
def Arr.busy (a : Arr) (t : Nat) : Bool := a.queue.any (·.names t)
/-- R249: what the watchdog trap's TINFO<63:8> names: the awaited tile, or that of the oldest
operation. -/
def Arr.oldestInfo (a : Arr) : Nat :=
  match a.queue with
  | [] => 0x100
  | o :: _ => match o.kind with
    | .skip _ => 0x108
    | _ => 0x100 + o.t.toNat

/-- Table PAR-3. -/
def Arr.tbusy (a : Arr) : Word :=
  BitVec.ofNat 64 (a.queue.length * 256
    + ((List.range 8).map fun t => if a.busy t then 2 ^ t else 0).sum)

/-! ### K-groups (R248, Table PAR-2) -/

/-- The bytes per record of a format code. -/
def recBytes (sparse : Bool) (f : BitVec 4) : Nat :=
  if f = 9 then (if sparse then 12 else 16) else if f = 5 then 64 else if sparse then 20 else 32
/-- Has the format scales? -/
def hasScale (f : BitVec 4) : Bool := f == 7 || f == 8 || f == 9
/-- Table PAR-2: bytes of a K-group. -/
def groupBytes (sparse : Bool) (f : BitVec 4) : Nat :=
  64 * recBytes sparse f + (if hasScale f then 64 else 0)
/-- Bytes that one step of an operation takes from FA and from FB: a K-group, or a byte of FQSKIP. -/
def ArrKind.unit (k : ArrKind) : Nat × Nat :=
  match k with
  | .mma sp fa fb => (groupBytes sp fa, groupBytes false fb)
  | .mmai => (2048, 2048)
  | .skip .fa => (1, 0)
  | .skip .fb => (0, 1)
/-- Bytes that an operation consumes from FA and from FB (R258). -/
def ArrOp.uses (o : ArrOp) : Nat × Nat := (o.groups * o.kind.unit.1, o.groups * o.kind.unit.2)

/-- Element `k` of a record of format `f`, as bits; INT8 has code 1. -/
def recElem (f : BitVec 4) (r : List Byte) (k : Nat) : Nat :=
  if f = 9 then bitsAt (r.getD (k / 2) 0).toNat (4 * (k % 2)) 4
  else if f = 5 then (r.getD (2 * k) 0).toNat + 256 * (r.getD (2 * k + 1) 0).toNat
  else (r.getD k 0).toNat

/-- R252: element `k` of a compressed record: the kept elements, then four metadata bytes. -/
def sparseElem (f : BitVec 4) (r : List Byte) (k : Nat) : Nat :=
  let q := k / 4
  let md := bitsAt (r.getD ((if f = 9 then 8 else 16) + q / 2) 0).toNat (4 * (q % 2)) 4
  let j0 := md % 4
  let j1 := md / 4
  if k % 4 = j1 then recElem f r (2 * q + 1)
  else if k % 4 = j0 then recElem f r (2 * q)
  else 0

/-- A decoded group: element [m][k] and scale [m]. -/
def groupElem (sparse : Bool) (f : BitVec 4) (bs : List Byte) (m k : Nat) : Nat :=
  let n := recBytes sparse f
  let r := (bs.drop (m * n)).take n
  if sparse then sparseElem f r k else recElem f r k
/-- The scale of record `m`. -/
def groupScale (sparse : Bool) (f : BitVec 4) (bs : List Byte) (m : Nat) : Nat :=
  (bs.getD (64 * recBytes sparse f + m) 0).toNat

/-- The number format of a code. -/
def codeFmt (f : BitVec 4) : Fmt :=
  if f = 7 then fmtE4m3 else if f = 8 then fmtE5m2 else if f = 9 then fmtE2m1 else fmtBf16

/-- An element with its scale (R251): exact, 1 for formats without scales. -/
def scaledElem (f : BitVec 4) (x s : Nat) : FVal :=
  let v := (codeFmt f).value x
  if hasScale f then v.scaled s else v

/-- One element of one K-group (R60): the rounded sum of the tile's element and 32 products. -/
def mmaElem (sp : Bool) (fa fb : BitVec 4) (ga gb : List Byte) (m n : Nat) (old : BitVec 32) :
    BitVec 32 :=
  let sa := groupScale sp fa ga m
  let sb := groupScale false fb gb n
  let ps := (List.range 32).map fun k =>
    (scaledElem fa (groupElem sp fa ga m k) sa).mul (scaledElem fb (groupElem false fb gb n k) sb)
  BitVec.ofNat 32 (exactSum (fmtFp32.value old.toNat :: ps) fmtFp32 .rne).bits

/-- One element of one INT8 K-group, modulo 2^32. -/
def mmaiElem (ga gb : List Byte) (m n : Nat) (old : BitVec 32) : BitVec 32 :=
  (List.range 32).foldl (fun acc k =>
    acc + (BitVec.ofNat 8 (groupElem false 1 ga m k)).signExtend 32
      * (BitVec.ofNat 8 (groupElem false 1 gb n k)).signExtend 32) old

/-- A tile after one K-group. -/
def groupStep (k : ArrKind) (ga gb : List Byte) (t : Tile) : Tile :=
  let f (m n : Nat) : BitVec 32 :=
    match k with
    | .mma sp fa fb => mmaElem sp fa fb ga gb m n (t.elem m n)
    | .mmai => mmaiElem ga gb m n (t.elem m n)
    | .skip _ => t.elem m n
  { t with rows := (List.range 64).map fun m => (m, tileRow (f m)) }

/-! ### Streams (R248, R257, R258) -/

/-- Take `n` bytes; an operation of the current segment has them kept while the segment lasts. -/
def Fifo.take (f : Fifo) (n seg : Nat) (keep : Bool) : List Byte × Fifo :=
  let out := f.data.take n
  (out.map (·.1),
    { data := f.data.drop n
      kept := if keep then f.kept ++ out.map fun b => (b, seg) else f.kept })
/-- Room in a stream of 32 KiB, kept bytes counted. -/
def Fifo.room (f : Fifo) : Nat := 32768 - (f.data.length + f.kept.length)
/-- Append bytes of a FEED of a segment, or of a trap handler. -/
def Fifo.append (f : Fifo) (bs : List Byte) (seg : Option Nat) : Fifo :=
  { f with data := f.data ++ bs.map fun b => (b, seg) }
/-- Append bytes to a stream. -/
def Arr.feed (a : Arr) (f : Stream) (bs : List Byte) (seg : Option Nat) : Arr :=
  match f with
  | .fa => { a with fa := a.fa.append bs seg }
  | .fb => { a with fb := a.fb.append bs seg }
/-- R258: at a commit nothing is retained. -/
def Fifo.commit (f : Fifo) : Fifo := { f with kept := [] }
/-- R257, step 4: consumed bytes return to the front and bytes of the FEEDs of segment `seg`, and of one that has followed it,
are discarded. -/
def Fifo.rollback (f : Fifo) (seg : Nat) : Fifo :=
  { data := ((f.kept.map (·.1)) ++ f.data).filter fun b => match b.2 with | some k => decide (k < seg) | none => true
    kept := [] }

/-- The steps of an operation whose bytes are there (R250). -/
def Arr.stepsReady (a : Arr) (o : ArrOp) : Nat :=
  let u := o.kind.unit
  let n (have_ need : Nat) : Nat := if need = 0 then o.groups else have_ / need
  min o.groups (min (n a.fa.data.length u.1) (n a.fb.data.length u.2))

/-- R255: the fold of a completed operation into ASIG. -/
def asigFold (sig : Word) (t : Nat) (x : Tile) : Word :=
  crc64 sig (BitVec.ofNat 8 t :: (List.range 64).flatMap fun m =>
    leBytes 256 (Map.getD x.rows m 0).toNat)

/-- The K-groups of an operation, one after another, over its stream bytes. -/
def runGroups (k : ArrKind) (na nb n : Nat) (ba bb : List Byte) (t : Tile) : Tile :=
  match n with
  | 0 => t
  | j + 1 => runGroups k na nb j (ba.drop na) (bb.drop nb) (groupStep k (ba.take na) (bb.take nb) t)

/-- R251: `n` steps of the oldest operation; `now` is the core's segment.  After its last one the operation
leaves the queue and is folded into ASIG; an operation of an earlier segment reaches the images too (R257). -/
def Arr.work (a : Arr) (o : ArrOp) (rest : List ArrOp) (n now : Nat) : Arr :=
  let u := o.kind.unit
  let keep := !o.own && o.seg == now
  let (ba, fa) := a.fa.take (n * u.1) o.seg keep
  let (bb, fb) := a.fb.take (n * u.2) o.seg keep
  let last := n == o.groups
  let a := { a with fa := fa, fb := fb, queue := if last then rest else { o with groups := o.groups - n } :: rest }
  match o.kind with
  | .skip _ => a
  | k =>
    let t := o.t.toNat
    let x := runGroups k u.1 u.2 n ba bb (a.tile t)
    let x := { x with kind := (match k with | .mmai => Kind.int32 | _ => Kind.fp32) }
    let sig := if last then asigFold a.asig t x else a.asig
    let a := { a.setTile t x with asig := sig, hand := if o.own then Map.put a.hand t x else a.hand }
    if !o.own && decide (o.seg < now) then
      { a with
        images := Map.put a.images t x
        asigImg := if last then asigFold a.asigImg t x else a.asigImg }
    else a

/-- R257: a commit: the images take the tiles' values; those of tiles that earlier operations still name
follow as the operations complete. -/
def Arr.commit (a : Arr) : Arr :=
  { a with
    images := a.tiles
    kindImg := a.kindNow
    asigImg := a.asig
    fa := a.fa.commit
    fb := a.fb.commit
    usedA := 0
    usedB := 0
    issued := 0
    failed := none
    hand := [] }

/-- The kind that the queued operations leave a tile with (R251). -/
def Arr.kindBy (_ : Arr) (q : List ArrOp) (t : Nat) (k : Kind) : Kind :=
  q.foldl (fun k o => if o.names t then (match o.kind with | .mmai => Kind.int32 | _ => Kind.fp32) else k) k

/-- R257: a rollback of segment `seg`: its operations leave the queue, tiles, kinds, poison marks and ASIG
return to the images, the streams to their state at entry.  What trap handlers have done to tiles stands (R259). -/
def Arr.rollback (a : Arr) (seg : Nat) : Arr :=
  let q := a.queue.filter fun o => o.own || decide (o.seg < seg)
  { a with
    queue := q
    tiles := a.hand.foldl (fun m e => Map.put m e.1 e.2) a.images
    kindNow := (List.range 8).foldl (fun m t =>
      let k := match Map.find? a.hand t with | some x => x.kind | none => Map.getD a.kindImg t .clear
      Map.put m t (a.kindBy (q.filter (·.own)) t k)) []
    asig := a.asigImg
    fa := a.fa.rollback seg
    fb := a.fb.rollback seg
    usedA := 0
    usedB := 0
    issued := 0
    ecc := a.ecc.filter fun e => a.hand.any fun h => h.1 == e.1 }

end Sys2Proof.Machine
end

