-- ==== Sys2Proof/Machine/Segment.lean ====
section
/-! DEFINITION. Segments: commit, rollback, replies and recovery (R225 to R231, R244, R304). -/

namespace Sys2Proof.Machine

/-! ### Replies (R101, R222) -/

/-- The register of a reply in a context. -/
def Ctx.reply (x : Ctx) (d : Dst) : Ctx := { x with regs := x.regs.applyReply d }

/-- A reply written to the context itself, with its part of the commit record (R243). -/
def Core.written (c : Core) (d : Dst) : Core :=
  let x := c.ctx.reply d
  { c with ctx := x, btw := { c.btw with replied := c.btw.replied ++ landBytes x.regs d } }

/-- R222, R231: write a reply: parked in a handler where the trapped context asked for it; a reply to a
request of an earlier segment also reaches the segment-entry state. -/
def Core.answer (c : Core) (r : Reply) (seg : Nat) : Core :=
  let old := !r.own && decide (seg < c.btw.seg)
  let entry := if old then c.entry.reply r.dst else c.entry
  let closing := c.btw.closing.map fun x => if !r.own && decide (seg < x.2.1) then
    (x.1, x.2.1, x.2.2.reply r.dst) else x
  let c := { c with entry := entry, btw := { c.btw with closing := closing } }
  if c.inTrap && !r.own then { c with ctx := { c.ctx with parked := c.ctx.parked ++ [r] } }
  else c.written r.dst

/-- R223: the parked replies are written. -/
def Core.unpark (c : Core) : Core :=
  let c := c.ctx.parked.foldl (fun c r => c.written r.dst) c
  { c with ctx := { c.ctx with parked := [] } }

/-! ### Commit (R304) -/

/-- The held accesses of segments up to `seg` are released in place. -/
def releaseAccs (accs : List Acc) (seg commit : Nat) : List Acc :=
  accs.map fun a => if a.held && decide (a.seg ≤ seg) then { a with held := false, commit := commit }
    else a

/-- The number of the youngest access that is released and not yet performed, plus one: the release mark
(R313) covers every access below it. -/
def releaseMark (accs : List Acc) : Nat :=
  accs.foldl (fun m a => if a.held then m else max m (a.id + 1)) 0

/-- The segment of an item of the held copy queue. -/
def EngItem.seg (e : EngItem) : Nat := match e with | .copy c => c.seg | .send x => x.seg
/-- An item of the held copy queue with its release mark: it covers the accesses before number `m` that the first `k`
checkpoints have released (R313). -/
def EngItem.marked (e : EngItem) (m k : Nat) : EngItem :=
  match e with
  | .copy c => .copy { c with mark := m, commits := k }
  | .send x => .send x

/-- Is it a copy of a kind that is held and released, among the 64 that the engine keeps (R200)?  FEED, PFD and PFC are not
(R201). -/
def isCopy (e : EngItem) : Bool :=
  match e with
  | .copy c => (match c.op with | .feed _ | .pfd | .pfc _ => false | _ => true)
  | .send _ => false
def Core.engineRoom (c : Core) (n : Nat) : Bool :=
  decide ((c.engine.filter isCopy).length + n ≤ 64)

/-- R304: the four parts of a commit of the segments up to `seg`. -/
def Core.commitParts (c : Core) (seg : Nat) : Core :=
  let loc := c.loc.commit seg
  let mine := c.owns.filter fun x => decide (x.1 ≤ seg)
  let loc := if mine.isEmpty then loc else mine.foldl (fun l x => l.setOwner x.2 true) loc.flush
  let accs := releaseAccs c.accs seg c.btw.commits
  let out := c.held.filter fun e => decide (e.seg ≤ seg)
  { c with
    loc := loc
    owns := c.owns.filter fun x => !decide (x.1 ≤ seg)
    accs := accs
    held := c.held.filter fun e => !decide (e.seg ≤ seg)
    engine := c.engine ++ out.map fun e => e.marked (releaseMark accs) c.btw.commits }

/-- The state of the context as segment entry records it, with SIG zero (R243) and the privilege at hand. -/
def Core.record (c : Core) (ck : Bool) : Core :=
  let x := { c.ctx with sig := 0, priv := c.sup }
  { c with ctx := x, entry := x, btw := { c.btw with entryCk := ck } }

/-- R145, R244: close the segment and open the next.  `wait` holds the effects back for two cycles, as a
protected pair does. -/
def Core.checkpoint (c : Core) (wait ck : Bool) : Core :=
  let seg := c.btw.seg
  let backs := if wait then c.backs ++ [(seg, c.arr)] else c.backs
  let c := { c with arr := c.arr.commit, backs := backs, btw := { c.btw with commits := c.btw.commits + 1 } }
  let c :=
    if wait then { c with btw := { c.btw with closing := c.btw.closing ++ [(2, seg, c.entry)] } }
    else c.commitParts seg
  let c := { c with btw := { c.btw with seg := seg + 1 } }
  c.record ck

/-- A protected pair's commits come two core cycles nearer; those whose time has come complete (R244). -/
def Core.closeDue (c : Core) : Core :=
  let due := c.btw.closing.filter fun x => x.1 ≤ 1
  let rest := c.btw.closing.filter fun x => decide (1 < x.1)
  let c := due.foldl (fun c x => c.commitParts x.2.1) c
  { c with
    backs := c.backs.filter fun b => rest.any fun x => x.2.1 == b.1
    btw := { c.btw with closing := rest.map fun x => (x.1 - 1, x.2.1, x.2.2) } }

/-! ### Rollback (R231, R257, R304) -/

/-- Is the access removed by a rollback of segment `seg`: every held entry, marker and undeparted load of
the segment, and the loads whose replies are discarded. -/
def Acc.rolledBack (a : Acc) (seg : Nat) : Bool := !a.own && decide (seg ≤ a.seg)

/-- Is the engine item a FEED of segment `seg` (R257)? -/
def EngItem.feedOf (e : EngItem) (seg : Nat) : Bool :=
  match e with
  | .copy c => (match c.op with | .feed _ => !c.own && decide (seg ≤ c.seg) | _ => false)
  | .send _ => false

/-- R231: discard held effects, in-flight results and replies of the segment; restore the segment-entry
state and its privilege.  A rollback in a handler leaves the handler; what a handler has had copied stands (R222). -/
def Core.rollback (c : Core) : Core :=
  let (seg, entry) := match c.btw.closing with
    | x :: _ => (x.2.1, x.2.2)
    | [] => (c.btw.seg, c.entry)
  { c with
    run := .run
    sup := entry.priv
    trap := if c.inTrap then c.trap.setIntrap false else c.trap
    ctx := entry
    entry := entry
    loc := { c.loc with wbuf := c.loc.wbuf.filter fun r => decide (r.seg < seg), newer := [] }
    accs := c.accs.filter fun a => !a.rolledBack seg
    replies := c.replies.filter fun r => r.own || c.accs.any fun a => a.id == r.id && decide (a.seg < seg)
    held := c.held.filter fun e => decide (e.seg < seg)
    owns := c.owns.filter fun x => decide (x.1 < seg)
    engine := c.engine.filter fun e => !e.feedOf seg
    arr := { (((c.backs.find? fun b => b.1 == seg).map (·.2)).getD c.arr).rollback seg with failed := c.arr.failed }
    backs := []
    fetch := c.fetch.keepLoop entry.seqr.loop
    btw := { c.btw with
      mid := none, idle := 0, vjoin := 0, replay := entry.caph.getLsbD 63, nulLeft := 0, transit := false, phase := none, ownWait := none, rolls := c.btw.rolls + 1
      waita := none, brt := none, closing := [], clear := none, doneAt := none, halting := false, haltCommit := false, seg := seg, replied := []
      ckpted := c.btw.entryCk } }

/-- A rollback of core `n`, with its trace entry and trigger (R236). -/
def State.rollback (s : State) (n : Nat) : State :=
  let c := (s.core n).thaw s.time
  let c' := c.rollback
  let t := c'.trace
  let t := if t.trctl.getLsbD 21 then t.trigger else t
  s.setCore n ({ c' with trace := t }.traced s.time 6 0 c'.ctx.pc)

/-! ### Recovery (R231) -/

/-- The quarantine bits of a pair as QANNEX keeps them: Q0, Q1, AQ from bit 0. -/
def qbits (p : Pair) : BitVec 3 := BitVec.ofNat 3 (p.q0.toNat + 2 * p.q1.toNat + 4 * p.aq.toNat)

/-- R231, R246: a core is retired: STOPPED with its segment-entry state, quarantined, reported; a pair with
both cores quarantined goes offline. -/
def State.retire (s : State) (n : Nat) : State :=
  let s := s.rollback n
  let c := s.core n
  let s := s.setCore n { c with run := .stopped .retired, recov := ⟨0, 0, 0, false, false⟩ }
  let p := pairOf n
  let x := s.pair p
  let both := s.protected_ n
  let x := { x with q0 := x.q0 || both || n % 2 == 0, q1 := x.q1 || both || n % 2 == 1 }
  let x := if x.q0 && x.q1 then { x with mode := 0 } else x
  { s with
    pairs := Map.put s.pairs p x
    pkg := { s.pkg with qannex := Map.put s.pkg.qannex (s.mem.shape.physPair p) (qbits x) }
    reports := s.reports ++ .retired n :: (if both then [.retired (n + 1)] else []) }

/-- R331: is the core in a transit phase, and not in a handler? -/
def Core.inPhase (c : Core) : Bool := c.btw.phase.isSome && !c.inTrap
/-- R231: start recovery, or meet uncorrectable data in a rerun: the trap is then refused at the consuming
bundle of the first rerun, and a second rerun with a fault retires the core. `t` is that trap. -/
def State.recover (s : State) (n : Nat) (t : TrapInfo) : State :=
  let c := s.core n
  match c.recov.phase with
  | 0 =>
    let s := s.rollback n
    s.setCore n { s.core n with recov := ⟨1, 0, 0, false, c.inPhase⟩ }
  | 1 =>
    let s := s.setCore n { c with recov := ⟨0, 0, 0, false, false⟩ }
    s.trapAt n t
  | _ => s.retire n

/-- R244: a lockstep mismatch: it starts recovery; in the first rerun it is that rerun's fault, and the
second rerun then retires the core. -/
def State.mismatch (s : State) (n : Nat) : State :=
  let c := s.core n
  match c.recov.phase with
  | 0 =>
    let s := s.rollback n
    s.setCore n { s.core n with recov := ⟨1, 0, 0, false, c.inPhase⟩ }
  | 1 =>
    let s := s.rollback n
    s.setCore n { s.core n with recov := ⟨2, 0, 0, true, c.recov.phased⟩ }
  | _ => s.retire n

/-- What the end of a rerun at a checkpoint or HALT brings (R231): go on with the commit, start the second
rerun, or retire. -/
inductive RerunEnd where
  | commit
  | again (r : Recov)
  | retire
  deriving DecidableEq, Repr

/-- The end of a rerun: its length in core cycles and its signature against the first one's. -/
def Core.rerunEnd (c : Core) : RerunEnd :=
  let n := c.ctx.cycle - c.entry.cycle
  match c.recov.phase with
  | 0 => .commit
  | 1 => .again ⟨2, n, c.ctx.sig, false, c.recov.phased⟩
  | _ => if c.recov.fault || n != c.recov.n1 || c.ctx.sig != c.recov.s1 then .retire else .commit

end Sys2Proof.Machine
end

