-- ==== Sys2Proof/Machine/Operands.lean ====
section
/-! DEFINITION. The mould of a slot operation: its sources and destinations, the checks of R221 in their
order, what a failed check does, and its effect.  Every operand form of the slots is read here. -/

namespace Sys2Proof.Machine

/-- A register source with its empty policy (R68). -/
inductive Src where
  | g (a : GSrc)
  | v (a : VSrc)
  deriving DecidableEq, Repr

/-- A held effect that an operation adds (Table TRP-5), by its TINFO number. -/
inductive HeldUse where
  | ts (view : LSpace) (line : Nat)
  | ab (row : Nat)
  | store
  | atomic
  | copy
  | own
  | fa (n : Nat)
  | fb (n : Nat)
  deriving DecidableEq, Repr

/-- The outcome of translating an S slot's global access: done, a walk is needed, or a fault. -/
inductive XRes where
  | ok
  | miss (va : Nat)
  | fault (sub : Nat) (addr : Word)
  deriving DecidableEq, Repr

/-- What a bundle does as it begins to wait: it latches a WAITA's generation (R127), or reads an entry of a
branch target table at a physical address (R135). -/
inductive Begin where
  | none
  | gen (g : BitVec 16)
  | entry (pa : Nat) (t : Tlb)
  deriving DecidableEq, Repr

/-- What R221 says of a bundle. -/
inductive Verdict where
  | go
  | trap (t : TrapInfo)
  | freeze (reason info : Nat) (b : Begin)
  | recover (t : TrapInfo)
  deriving DecidableEq, Repr

/-- A slot operation.  `srcs` are its register sources in field order, `gd` and `vd` the destinations it
waits for, `wait` a further cause to freeze
among item 3 of R221, `ask` one that asks for data (R135), `bad` uncorrectable data that has come (item 5), `late` what comes
after every check (R125, R127), `tag` the TINFO of a format-tag mismatch, `chk` the operand,
alignment, owner and other checks of the slot, `uses` its held effects, `xlat` the translation of an S
slot's access, `cap` the capture record's values, `reqs` the operand bytes of its commit record where it
sends or holds a request, and `run` its effect.  `needs` are the features that it belongs to (Table PKG-3), `assigned`
whether its values are assigned, `sup` whether it is privileged: decode checks 5 and 6 of Table BND-16. -/
structure Op where
  guard : Guard
  needs : List Nat := []
  assigned : State → Bool := fun _ => true
  sup : Bool := false
  srcs : List Src := []
  gd : Option GReg := none
  vd : Option VReg := none
  wait : State → Option (Nat × Nat) := fun _ => none
  ask : State → Verdict := fun _ => .go
  bad : State → Option TrapInfo := fun _ => none
  late : State → Verdict := fun _ => .go
  tag : State → Option Word := fun _ => none
  chk : State → Option TrapInfo := fun _ => none
  uses : State → List HeldUse := fun _ => []
  xlat : State → XRes := fun _ => .ok
  cap : State → Word × Word × Word := fun _ => (0, 0, 0)
  reqs : State → Option (List Byte) := fun _ => none
  run : State → State

/-! ### Features and privilege (Table BND-16, checks 5 and 6; Table PKG-3) -/

/-- An operation that belongs to further features. -/
def Op.under (o : Op) (fs : List Nat) : Op := { o with needs := o.needs ++ fs }
/-- A privileged operation. -/
def Op.privileged (o : Op) : Op := { o with sup := true }
/-- The feature of SCOPE value 5. -/
def scopeNeeds (sc : Scope) : List Nat := if sc == .system then [8] else []
/-- The feature of tag code 9. -/
def tagNeeds (t : Tag) : List Nat := if t == .e2m1 then [4] else []
/-- The feature of a format code 9. -/
def codeNeeds (fa fb : BitVec 4) : List Nat := if fa == 9 || fb == 9 then [4] else []
/-- The feature of barrier numbers 1020 to 1023. -/
def barNeeds (n : BitVec 10) : List Nat := if 1020 ≤ n.toNat then [6] else []
/-- Is every feature of a list selected in FEATACT? -/
def State.active (s : State) (fs : List Nat) : Bool := fs.all fun k => s.pkg.featact.getLsbD k
/-- Check 5. -/
def Op.legal (o : Op) (s : State) : Bool := o.assigned s && s.active o.needs
/-- Check 6. -/
def Op.allowed (o : Op) (s : State) : Bool := !o.sup || s.me.sup
/-- Checks 5 and 6 of the slot at hand: TINFO holds its raw bits. -/
def Op.decodeTrap (o : Op) (s : State) : Option TrapInfo :=
  if !o.legal s then some ⟨2, 0, s.iss.slot, BitVec.ofNat 64 s.iss.raw⟩
  else if !o.allowed s then some ⟨3, 0, s.iss.slot, BitVec.ofNat 64 s.iss.raw⟩
  else none

/-! ### Operands (R5, R99, R224) -/

/-- The value read for field A: in a replay, TCAPA. -/
def State.opA (s : State) (a : GSrc) : Word :=
  match s.iss.ov with
  | some (x, _, _) => x
  | none => s.me.ctx.regs.gv a.reg
/-- The value read for field B, or T of ST: in a replay, TCAPB. -/
def State.opB (s : State) (a : GSrc) : Word :=
  match s.iss.ov with
  | some (_, x, _) => x
  | none => s.me.ctx.regs.gv a.reg
/-- The value read for field C: in a replay, TCAPC. -/
def State.opC (s : State) (a : GSrc) : Word :=
  match s.iss.ov with
  | some (_, _, x) => x
  | none => s.me.ctx.regs.gv a.reg
/-- A predicate as it stands. -/
def State.opP (s : State) (p : PReg) : Bool := s.me.ctx.regs.pv p
/-- A mask as it stands (R149). -/
def State.opM (s : State) (m : MReg) : Mask := s.me.ctx.regs.mv m
/-- A row register as it stands. -/
def State.opV (s : State) (a : VReg) : VCell := s.me.ctx.regs.vCell a

/-! ### The checks of R221 -/

/-- The number of a register in TINFO (Table TRP-1, code 5). -/
def Src.num (x : Src) : Nat :=
  match x with
  | .g a => a.reg.toNat
  | .v a => 128 + a.reg.toNat

/-- Is the source empty? -/
def Core.srcEmpty (c : Core) (x : Src) : Bool :=
  match x with
  | .g a => !c.ctx.regs.gFull a.reg
  | .v a => !(c.ctx.regs.vCell a.reg).full

/-- Is the source poisoned? -/
def Core.srcPoison (c : Core) (x : Src) : Bool :=
  match x with
  | .g a => c.ctx.regs.gPoison a.reg
  | .v a => (c.ctx.regs.vCell a.reg).poison

/-- Has the source the trap policy? -/
def Src.traps (x : Src) : Bool := match x with | .g a => a.trap | .v a => a.trap

/-- The destination register of an access. -/
def AccKind.dst (k : AccKind) : Option GReg :=
  match k with
  | .load (.g d _ _) _ _ _ _ _ => some d
  | .xlate d _ _ _ _ => some d
  | .tagq d _ => some d
  | .flowq d _ => some d
  | .pop d .. => some d
  | .atomic _ d _ _ _ _ _ _ => some d
  | .taga d .. => some d
  | _ => none

/-- R120, rule 2: does the register await an operation that its segment still holds? -/
def Core.awaits (c : Core) (x : Src) : Bool :=
  match x with
  | .g a => c.accs.any fun e => e.held && e.seg == c.btw.seg && !e.own && e.kind.dst == some a.reg
  | .v _ => false

/-- R120, R221 item 2: the empty-register trap of a source.  In a checkpoint bundle, whose commit comes
before its slots, the mark of rule 2 and its policy do not apply. -/
def Core.emptyTrap (c : Core) (ck : Bool) (slot : Nat) (x : Src) : Option TrapInfo :=
  if c.srcEmpty x then
    if !ck && c.awaits x then some ⟨5, 0, slot, BitVec.ofNat 64 (x.num + 256)⟩
    else if x.traps then some ⟨5, 0, slot, BitVec.ofNat 64 x.num⟩
    else none
  else none

/-- R221 item 3: the freeze for a source.  A checkpoint bundle that has not committed yet does not wait for
a held operation. -/
def Core.emptyWait (c : Core) (ck : Bool) (x : Src) : Option (Nat × Nat) :=
  if c.srcEmpty x && !(ck && c.awaits x) then some (1, x.num) else none

/-- The destinations of an operation, as sources that wait. -/
def Op.dests (o : Op) : List Src :=
  (match o.gd with | some d => if d = 0 then [] else [Src.g ⟨d, false⟩] | none => [])
    ++ (match o.vd with | some d => [Src.v ⟨d, false⟩] | none => [])

/-- The number of a held effect's resource (Table TRP-5). -/
def HeldUse.num (u : HeldUse) : Nat :=
  match u with
  | .ts _ _ => 1 | .ab _ => 2 | .store => 3 | .atomic => 4 | .copy => 5 | .own => 6
  | .fa _ => 7 | .fb _ => 7

/-- What the segment holds so far, as a list of uses: line and row entries once each.  A send that is being retried keeps its slot
of the held queue (R272). -/
def Core.heldUses (c : Core) : List HeldUse :=
  let rs := c.loc.wbuf.filter fun r => r.seg == c.btw.seg
  (tsEntries rs).map (fun x => .ts x.1 x.2) ++ (abEntries rs).map .ab
    ++ (c.accs.filter fun a => a.held && a.seg == c.btw.seg).map (fun a =>
      match a.kind with
      | .store .. => .store
      | _ => .atomic)
    ++ (c.held.filter fun e => e.seg == c.btw.seg).map (fun _ => .copy)
    ++ (c.engine.filter fun e => match e with
      | .send x => x.refused != 0 && x.stop.isNone && x.ctx == c.regs.ctxId
      | .copy _ => false).map (fun _ => .copy)
    ++ (c.owns.filter fun x => x.1 == c.btw.seg).map (fun _ => .own)
    ++ [.fa c.arr.usedA, .fb c.arr.usedB]

/-- Add uses; an entry that is held already is not counted again. -/
def addUses (have_ new : List HeldUse) : List HeldUse :=
  new.foldl (fun acc u =>
    match u with
    | .ts _ _ | .ab _ => if acc.contains u then acc else acc ++ [u]
    | _ => acc ++ [u]) have_

/-- The first resource over its limit (Table TRP-5). -/
def overLimit (us : List HeldUse) : Option Nat :=
  let n (k : Nat) : Nat := (us.filter fun u => u.num == k).length
  let bytes (f : HeldUse → Nat) : Nat := (us.map f).sum
  if n 1 > 64 then some 1
  else if n 2 > 16 then some 2
  else if n 3 > 64 then some 3
  else if n 4 > 16 then some 4
  else if n 5 > 32 then some 5
  else if n 6 > 64 then some 6
  else if bytes (fun u => match u with | .fa k => k | _ => 0) > 32768
      || bytes (fun u => match u with | .fb k => k | _ => 0) > 32768 then some 7
  else none

/-- R221 item 6: operand checks and segment capacity, slot by slot; `have_` is what is held before. -/
def checkSlots (s : State) (have_ : List HeldUse) (ops : List (Nat × Op)) : Option TrapInfo :=
  match ops with
  | [] => none
  | (k, o) :: rest =>
    match o.chk { s with iss := { s.iss with slot := k } } with
    | some t => some { t with slot := k }
    | none =>
      let new := o.uses { s with iss := { s.iss with slot := k } }
      let us := addUses have_ new
      match (if new.isEmpty then none else overLimit us) with
      | some r => some ⟨9, 0, k, BitVec.ofNat 64 r⟩
      | none => checkSlots s us rest

/-- R221 item 7: a walk that the S slot's access waits for. -/
def Op.walk (o : Op) (s : State) : Option (Nat × Nat) :=
  match o.xlat s with
  | .miss va => some (3, va % 2 ^ 56 / 256)
  | _ => none

/-- The state with the slot at hand set. -/
def State.atSlot (s : State) (k : Nat) : State := { s with iss := { s.iss with slot := k } }

/-- A wait inside a slot: it is no check of R221, and the commit of a checkpoint bundle comes before it (R145). -/
def Verdict.inSlot (v : Verdict) : Bool := match v with | .freeze r _ _ => r != 3 | _ => false

/-- R221, items 2 to 7, over the slots of a bundle whose guards are true, in slot order.  The spec gives no place in that
order to the checks of a delay bundle, of a nested LBM, of ERET's TSEQ, and of TXM and RXM outside a TRANSIT bundle (R132,
R139, R147, R145): they stand in item 6, as checks of the slot under its guard (DESIGN CHOICE, log 33).  `ck` says that
the bundle is a checkpoint that has yet to commit. -/
def State.verdict (s : State) (ck : Bool) (ops : List (Nat × Op)) : Verdict :=
  let c := s.me
  let replay := s.iss.ov.isSome
  let srcs (o : Op) : List Src := if replay then [] else o.srcs
  match ops.findSome? fun x => (srcs x.2).findSome? (c.emptyTrap ck x.1) with
  | some t => .trap t
  | none =>
  match ops.findSome? fun x => ((srcs x.2 ++ x.2.dests).findSome? (c.emptyWait ck)).or
      (x.2.wait (s.atSlot x.1)) with
  | some f => .freeze f.1 f.2 .none
  | none =>
  match (ops.map fun x => x.2.ask (s.atSlot x.1)).find? (· != .go) with
  | some v => v
  | none =>
  match ops.findSome? fun x => (x.2.tag (s.atSlot x.1)).map fun i => (⟨4, 0, x.1, i⟩ : TrapInfo) with
  | some t => .trap t
  | none =>
  match ops.findSome? fun x => ((srcs x.2).find? c.srcPoison).map fun y => (x.1, y) with
  | some (k, y) => .recover ⟨10, 0, k, BitVec.ofNat 64 y.num⟩
  | none =>
  match ops.findSome? fun x => x.2.bad (s.atSlot x.1) with
  | some t => .recover t
  | none =>
  match checkSlots s (if ck || c.inTrap then [] else c.heldUses) ops with
  | some t => .trap t
  | none =>
  match ops.findSome? fun x => x.2.walk (s.atSlot x.1) with
  | some f => .freeze f.1 f.2 .none
  | none =>
  match (ops.map fun x => x.2.late (s.atSlot x.1)).find? (fun v => v != .go && !(ck && v.inSlot)) with
  | some v => v
  | none => .go

/-! ### What follows a failed check -/

/-- The address space of an access (R288). -/
def Core.space (c : Core) : BitVec 12 :=
  if c.sup && !c.regs.useu then c.regs.sasid else c.regs.asid
/-- GENROOT where translation is under the context, otherwise 0 (R287). -/
def Core.gen (c : Core) : Word :=
  if c.sup && !c.regs.useu then 0 else if c.regs.genroot.getLsbD 0 then c.regs.genroot else 0
/-- The walk for an address. -/
def Core.walkFor (c : Core) (va : Nat) : Walk := ⟨c.space, c.gen, alignDown va 4096⟩

/-- R293: ask for a walk; a walk under way is joined.  None is asked for while a TLBI waits (R297). -/
def Core.wantWalk (c : Core) (va : Nat) : Core :=
  let w := c.walkFor va
  if c.fetch.walks.contains w || !c.fetch.tlbis.isEmpty then c
  else { c with fetch := { c.fetch with walks := c.fetch.walks ++ [w] } }

/-- Is a core frozen for a reason? -/
def Core.frozenFor (c : Core) (r : Nat) : Bool := match c.run with | .frozen f => f.reason == r | _ => false

/-- Begin or keep a freeze of the issuing core (R227). -/
def State.freeze (s : State) (reason info : Nat) : State :=
  let s := s.onMe fun c =>
    { c with run := (match c.run with
      | .frozen f => if f.reason = reason then .frozen { f with info := info }
        else .frozen ⟨reason, info, f.ticks⟩
      | _ => .frozen ⟨reason, info, 0⟩) }
  { s with iss := { s.iss with advanced := true, ended := true } }

/-- An access as the core issues it (R302): held where it is to be, unless a trap handler issues it (R222); `cbf` says
that it reads a page of compressed blocks (R296). -/
def Core.newAcc (c : Core) (k : AccKind) (held : Bool) (pa home : Nat) (key : BitVec 8) (cached cbf : Bool) : Acc :=
  { id := c.btw.nextId, kind := k, held := held && !c.inTrap, departed := false, performed := false,
    own := c.inTrap, seg := c.btw.seg, commit := c.btw.commits, opens := c.btw.ckpted && !c.inTrap, pa := pa, home := home, key := key,
    part := c.regs.part, cached := cached, cbf := cbf }
/-- An access joins the core's queues, in program order. -/
def Core.enters (c : Core) (a : Acc) : Core :=
  { c with accs := c.accs ++ [a], btw := { c.btw with nextId := c.btw.nextId + 1 } }
/-- Add an access in program order (R302). -/
def Core.addAcc (c : Core) (k : AccKind) (held : Bool) (pa home : Nat) (key : BitVec 8) (cached : Bool) : Core :=
  c.enters (c.newAcc k held pa home key cached false)

/-- R303: the byte at a physical address that the youngest earlier store not yet served writes. -/
def forwardByte (accs : List Acc) (home pa : Nat) : Option Byte :=
  accs.foldl (fun acc a =>
    match a.kind with
    | .store p bs _ _ =>
      if !a.performed && a.home == home && decide (p ≤ pa) then
        (match bs[pa - p]? with | some b => some b | none => acc)
      else acc
    | _ => acc) none

/-- R303: the bytes that a load takes from the core's own stores. -/
def forwards (accs : List Acc) (home pa n : Nat) : List (Nat × Byte) :=
  (upFrom pa n).filterMap fun x => (forwardByte accs home x).map fun b => (x, b)

/-- The home of a leaf (Table MEM-8). -/
def Tlb.home (t : Tlb) : Nat := bitsAt t.hi.toNat 28 8
/-- The key of a translation. -/
def Tlb.key (t : Tlb) : BitVec 8 := t.hi.extractLsb' 20 8
/-- C of a translation. -/
def Tlb.cached (t : Tlb) : Bool := t.lo.getLsbD 7

/-- CBF of a translation. -/
def Tlb.cbf (t : Tlb) : Bool := t.lo.getLsbD 6

/-- Is the access a read of a branch target table? -/
def AccKind.isEntry (k : AccKind) : Bool := match k with | .brtEntry _ _ => true | _ => false

/-- R135: ask for a table entry as a global load, unless it has been asked for already. -/
def Core.askEntry (c : Core) (pa : Nat) (t : Tlb) : Core :=
  if c.accs.any (fun a => a.kind.isEntry && !a.performed) then c
  else
    let fw := forwards c.accs t.home pa 8
    let c' := c.enters (c.newAcc (.brtEntry pa fw) false pa t.home t.key t.cached t.cbf)
    if fw.length = 8 then
      { c with btw := { c.btw with brt := some (BitVec.ofNat 64 (leNat (fw.map (·.2))), false) } }
    else c'

/-- What the core does as its bundle begins to wait. -/
def Core.begin (c : Core) (b : Begin) : Core :=
  match b with
  | .none => { c with btw := { c.btw with waita := Option.none } }
  | .gen g => { c with btw := { c.btw with waita := some g } }
  | .entry pa t => c.askEntry pa t

/-- Act on a verdict other than `go`. -/
def State.stop (s : State) (v : Verdict) : State :=
  match v with
  | .go => s
  | .trap t => s.refuse t
  | .freeze r i b =>
    let s := s.freeze r i
    s.onMe fun c => (if r = 3 then c.wantWalk (i * 256) else c).begin b
  | .recover t =>
    let s := s.recover s.iss.cur t
    { s with iss := { s.iss with advanced := true, ended := true } }

/-- R224: the capture record of the S slot. -/
def captureWord (raw : Nat) : Word := BitVec.ofNat 64 (2 ^ 63 + raw % 2 ^ 48)

/-- R220, R224, R225: a partial trap: the other slots of the bundle have taken effect, the cycle counts,
and the S slot's operands become the capture record. -/
def State.partialTrap (s : State) (sub : Nat) (addr : Word) (cap : Word × Word × Word) : State :=
  let replay := s.iss.ov.isSome
  let raw := s.iss.raw
  let s := s.onMe fun c =>
    let c := if replay then c else c.count
    { c with
      btw := { c.btw with replay := true }
      ctx := { c.ctx with
        caph := captureWord raw, capa := cap.1, capb := cap.2.1, capc := cap.2.2
        owed := if replay then c.ctx.owed else s.iss.reqs } }
  s.refuse ⟨7, sub, 0, addr⟩

/-- Note a request for the commit record (R243). -/
def State.noteReq (s : State) (bs : Option (List Byte)) : State :=
  match bs with
  | none => s
  | some b =>
    { s with iss := { s.iss with reqs := s.iss.reqs ++ [⟨s.iss.slot, s.iss.raw, b⟩] } }

/-- An operation that the checks let go: a translation fault is a partial trap, and otherwise it has its
effect. -/
def Op.fire (o : Op) (s : State) : State :=
  match o.xlat s with
  | .fault sub addr => s.partialTrap sub addr (o.cap s)
  | _ => o.run (s.noteReq (o.reqs s))

/-- R80, R81, R99, R137, R221: a slot operation at issue.  The decode checks do not depend on the guard; a false guard
has no effect; a replay executes what was issued under a true one (R224). -/
def Op.exec (o : Op) (s : State) : State :=
  match o.decodeTrap s with
  | some t => s.refuse t
  | none =>
    if s.iss.ov.isSome || s.me.ctx.regs.guard o.guard then
      match s.verdict false [(s.iss.slot, o)] with
      | .go => o.fire s
      | v => s.stop v
    else s

/-- A slot operation's outcome: every form of it goes on. -/
def runOp (o : Op) (s : State) : Host.Outcome State Fault Refusal := .next (o.exec s)

/-! ### Bytes of the commit record's operands (Table PAR-9) -/

/-- A G operand. -/
def gBytes (x : Word) : List Byte := leBytes 8 x.toNat
/-- A V operand. -/
def vBytes (x : VCell) : List Byte := leBytes 2048 x.row.toNat
/-- A descriptor. -/
def descBytes (xs : List Word) : List Byte := xs.flatMap gBytes

end Sys2Proof.Machine
end

