-- ==== Sys2Proof/Machine/Flags.lean ====
section
/-! DEFINITION. Conditions and flags: the compares of CMP and VCMP (R111, R156) and the clearing writes of
FSTAT and WOVF (R52, R85). -/

namespace Sys2Proof.Machine

/-- R111: CMP's conditions. -/
def Cond.holds (c : Cond) (a b : Word) : Bool :=
  match c with
  | .eq => a == b
  | .ne => a != b
  | .lt => a.slt b
  | .le => a.sle b
  | .gt => b.slt a
  | .ge => b.sle a
  | .ltu => a.ult b
  | .leu => a.ule b
  | .gtu => b.ult a
  | .geu => b.ule a

/-- R156: a condition over an order, none where the operands are unordered. -/
def VCond.holds (c : VCond) (o : Option Ordering) : Bool :=
  match c, o with
  | .ne, none => true
  | _, none => false
  | .eq, some x => x == .eq
  | .ne, some x => x != .eq
  | .lt, some x => x == .lt
  | .le, some x => x != .gt
  | .gt, some x => x == .gt
  | .ge, some x => x != .lt

/-- The order of two integers. -/
def ordInt (a b : Int) : Ordering := if a < b then .lt else if a = b then .eq else .gt

/-- R156: the order of two FLT elements: none with a NaN, +0 equal to −0. -/
def Fmt.order (f : Fmt) (a b : Nat) : Option Ordering :=
  if (f.value a).isNan || (f.value b).isNan then none
  else
    let mag (x : Nat) : Int := if f.key x < 0 then f.key x + 1 else f.key x
    some (ordInt (mag a) (mag b))

/-- R52: the flags of FSTAT that a write of `x` leaves. -/
def w1cFstat (f : BitVec 5) (x : Word) : BitVec 5 := f &&& ~~~(x.extractLsb' 0 5)
/-- R85: the bits of WOVF that a write of `x` leaves. -/
def w1cWovf (w x : Word) : Word := w &&& ~~~x

end Sys2Proof.Machine
end

