-- ==== Sys2Proof/Machine/Scalar.lean ====
section
/-! DEFINITION. The S slot's integer, bit-field, bit-count, move, compare and predicate operations (R103 to
R112).  Each has its description as an `Op` and its meaning. -/

namespace Sys2Proof.Machine

open Host

/-- A result of fixed latency `l` for G register `d`. -/
def aluOp (g : Guard) (d : GReg) (srcs : List Src) (l : Nat) (f : State → Word) : Op :=
  { guard := g, srcs := srcs, gd := some d, run := fun s => s.send l (.g d (f s) false) }

/-- Two register sources. -/
def alu2 (g : Guard) (d : GReg) (a b : GSrc) (l : Nat) (f : Word → Word → Word) : Op :=
  aluOp g d [.g a, .g b] l fun s => f (s.opA a) (s.opB b)
/-- One register source. -/
def alu1 (g : Guard) (d : GReg) (a : GSrc) (f : Word → Word) : Op :=
  aluOp g d [.g a] 1 fun s => f (s.opA a)
/-- Three register sources. -/
def alu3 (g : Guard) (d : GReg) (a b c : GSrc) (f : Word → Word → Word → Word) : Op :=
  aluOp g d [.g a, .g b, .g c] 1 fun s => f (s.opA a) (s.opB b) (s.opC c)

/-! ### Values -/

/-- The shift count of a register: its bits 5:0 (R103). -/
def count6 (b : Word) : Nat := bitsAt b.toNat 0 6
def shl64 (a : Word) (n : Nat) : Word := a <<< n
def shr64 (a : Word) (n : Nat) : Word := a >>> n
def sar64 (a : Word) (n : Nat) : Word := a.sshiftRight n
/-- Rotation left: D<(i + n) mod 64> := A<i>. -/
def rot64 (a : Word) (n : Nat) : Word := a.rotateLeft n
/-- R103: ABS; the least value maps to itself. -/
def abs64 (a : Word) : Word := if a.slt 0 then 0 - a else a
/-- R104: the high half of the signed product. -/
def mulh64 (a b : Word) : Word := BitVec.ofInt 64 ((a.toInt * b.toInt) / 2 ^ 64)
/-- R104: the high half of the unsigned product. -/
def mulhu64 (a b : Word) : Word := BitVec.ofNat 64 (a.toNat * b.toNat / 2 ^ 64)
/-- R39, Table NUM-1. -/
def div64 (a b : Word) : Word := if b = 0 then BitVec.allOnes 64 else a.sdiv b
def divu64 (a b : Word) : Word := if b = 0 then BitVec.allOnes 64 else a / b
def rem64 (a b : Word) : Word := if b = 0 then a else a.srem b
def remu64 (a b : Word) : Word := if b = 0 then a else a % b

/-- `len` ones. -/
def ones (len : Nat) : Word := BitVec.ofNat 64 (2 ^ len - 1)
/-- R107: Field: bits above 63 read as zero. -/
def field64 (a : Word) (pos len : Nat) : Word := (a >>> pos) &&& ones len
/-- R107: the field sign-extended from its `len` bits. -/
def fieldS64 (a : Word) (pos len : Nat) : Word :=
  let f := field64 a pos len
  if f.getLsbD (len - 1) then f ||| ~~~ones len else f
/-- R108: insert the low `len` bits of `b` at `pos`. -/
def insert64 (a b : Word) (pos len : Nat) : Word :=
  let m := ones len <<< pos
  (a &&& ~~~m) ||| ((b <<< pos) &&& m)
/-- R109: the funnel shift count. -/
def count64 (c : Word) : Nat := min c.toNat 64
def fshl64 (a b c : Word) : Word := ((a ++ b) <<< count64 c).extractLsb' 64 64
def fshr64 (a b c : Word) : Word := ((a ++ b) >>> count64 c).extractLsb' 0 64

/-- R110: the zero bits above the highest set bit of a `w`-bit number. -/
def clzNat (w x : Nat) : Nat := if x = 0 then w else w - 1 - Nat.log2 x
/-- R110: the zero bits below the lowest set bit, `w` for zero. -/
def ctzNat (w x : Nat) : Nat :=
  match w with
  | 0 => 0
  | k + 1 => if x % 2 = 1 then 0 else 1 + ctzNat k (x / 2)
/-- R110: the set bits among the low `w`. -/
def popcNat (w x : Nat) : Nat :=
  match w with
  | 0 => 0
  | k + 1 => x % 2 + popcNat k (x / 2)
/-- R110: the low `w` bits reversed, above `acc`. -/
def brevNat (w x acc : Nat) : Nat :=
  match w with
  | 0 => acc
  | k + 1 => brevNat k (x / 2) (2 * acc + x % 2)

/-! ### Register forms (R103, R104) -/

def opAdd (g : Guard) (d : GReg) (a b : GSrc) : Op := alu2 g d a b 1 (· + ·)
def opSub (g : Guard) (d : GReg) (a b : GSrc) : Op := alu2 g d a b 1 (· - ·)
def opMul (g : Guard) (d : GReg) (a b : GSrc) : Op := alu2 g d a b 3 (· * ·)
def opMulh (g : Guard) (d : GReg) (a b : GSrc) : Op := alu2 g d a b 3 mulh64
def opMulhu (g : Guard) (d : GReg) (a b : GSrc) : Op := alu2 g d a b 3 mulhu64
def opDiv (g : Guard) (d : GReg) (a b : GSrc) : Op := alu2 g d a b 18 div64
def opDivu (g : Guard) (d : GReg) (a b : GSrc) : Op := alu2 g d a b 18 divu64
def opRem (g : Guard) (d : GReg) (a b : GSrc) : Op := alu2 g d a b 18 rem64
def opRemu (g : Guard) (d : GReg) (a b : GSrc) : Op := alu2 g d a b 18 remu64
def opAnd (g : Guard) (d : GReg) (a b : GSrc) : Op := alu2 g d a b 1 (· &&& ·)
def opOr (g : Guard) (d : GReg) (a b : GSrc) : Op := alu2 g d a b 1 (· ||| ·)
def opXor (g : Guard) (d : GReg) (a b : GSrc) : Op := alu2 g d a b 1 (· ^^^ ·)
def opAndn (g : Guard) (d : GReg) (a b : GSrc) : Op := alu2 g d a b 1 fun x y => x &&& ~~~y
def opShlReg (g : Guard) (d : GReg) (a b : GSrc) : Op := alu2 g d a b 1 fun x y => shl64 x (count6 y)
def opShrReg (g : Guard) (d : GReg) (a b : GSrc) : Op := alu2 g d a b 1 fun x y => shr64 x (count6 y)
def opSarReg (g : Guard) (d : GReg) (a b : GSrc) : Op := alu2 g d a b 1 fun x y => sar64 x (count6 y)
def opRotReg (g : Guard) (d : GReg) (a b : GSrc) : Op := alu2 g d a b 1 fun x y => rot64 x (count6 y)
def opMin (g : Guard) (d : GReg) (a b : GSrc) : Op :=
  alu2 g d a b 1 fun x y => if y.slt x then y else x
def opMax (g : Guard) (d : GReg) (a b : GSrc) : Op :=
  alu2 g d a b 1 fun x y => if x.slt y then y else x
def opMinu (g : Guard) (d : GReg) (a b : GSrc) : Op :=
  alu2 g d a b 1 fun x y => if y.ult x then y else x
def opMaxu (g : Guard) (d : GReg) (a b : GSrc) : Op :=
  alu2 g d a b 1 fun x y => if x.ult y then y else x
def opAbs (g : Guard) (d : GReg) (a : GSrc) : Op := alu1 g d a abs64
def opSel (g : Guard) (d : GReg) (p : PReg) (a b : GSrc) : Op :=
  aluOp g d [.g a, .g b] 1 fun s => if s.opP p then s.opA a else s.opB b
def opMov (g : Guard) (d : GReg) (a : GSrc) : Op := alu1 g d a id
def opLea (g : Guard) (d : GReg) (a b : GSrc) (sh : BitVec 3) : Op :=
  alu2 g d a b 1 fun x y => x + shl64 y sh.toNat

def execAdd (g : Guard) (d : GReg) (a b : GSrc) (s : State) := runOp (opAdd g d a b) s
def execSub (g : Guard) (d : GReg) (a b : GSrc) (s : State) := runOp (opSub g d a b) s
def execMul (g : Guard) (d : GReg) (a b : GSrc) (s : State) := runOp (opMul g d a b) s
def execMulh (g : Guard) (d : GReg) (a b : GSrc) (s : State) := runOp (opMulh g d a b) s
def execMulhu (g : Guard) (d : GReg) (a b : GSrc) (s : State) := runOp (opMulhu g d a b) s
def execDiv (g : Guard) (d : GReg) (a b : GSrc) (s : State) := runOp (opDiv g d a b) s
def execDivu (g : Guard) (d : GReg) (a b : GSrc) (s : State) := runOp (opDivu g d a b) s
def execRem (g : Guard) (d : GReg) (a b : GSrc) (s : State) := runOp (opRem g d a b) s
def execRemu (g : Guard) (d : GReg) (a b : GSrc) (s : State) := runOp (opRemu g d a b) s
def execAnd (g : Guard) (d : GReg) (a b : GSrc) (s : State) := runOp (opAnd g d a b) s
def execOr (g : Guard) (d : GReg) (a b : GSrc) (s : State) := runOp (opOr g d a b) s
def execXor (g : Guard) (d : GReg) (a b : GSrc) (s : State) := runOp (opXor g d a b) s
def execAndn (g : Guard) (d : GReg) (a b : GSrc) (s : State) := runOp (opAndn g d a b) s
def execShlReg (g : Guard) (d : GReg) (a b : GSrc) (s : State) := runOp (opShlReg g d a b) s
def execShrReg (g : Guard) (d : GReg) (a b : GSrc) (s : State) := runOp (opShrReg g d a b) s
def execSarReg (g : Guard) (d : GReg) (a b : GSrc) (s : State) := runOp (opSarReg g d a b) s
def execRotReg (g : Guard) (d : GReg) (a b : GSrc) (s : State) := runOp (opRotReg g d a b) s
def execMin (g : Guard) (d : GReg) (a b : GSrc) (s : State) := runOp (opMin g d a b) s
def execMax (g : Guard) (d : GReg) (a b : GSrc) (s : State) := runOp (opMax g d a b) s
def execMinu (g : Guard) (d : GReg) (a b : GSrc) (s : State) := runOp (opMinu g d a b) s
def execMaxu (g : Guard) (d : GReg) (a b : GSrc) (s : State) := runOp (opMaxu g d a b) s
def execAbs (g : Guard) (d : GReg) (a : GSrc) (s : State) := runOp (opAbs g d a) s
def execSel (g : Guard) (d : GReg) (p : PReg) (a b : GSrc) (s : State) := runOp (opSel g d p a b) s
def execMov (g : Guard) (d : GReg) (a : GSrc) (s : State) := runOp (opMov g d a) s
def execLea (g : Guard) (d : GReg) (a b : GSrc) (sh : BitVec 3) (s : State) :=
  runOp (opLea g d a b sh) s

/-! ### Immediate forms (R105, R106) -/

def opShlImm (g : Guard) (d : GReg) (a : GSrc) (n : BitVec 6) : Op :=
  alu1 g d a fun x => shl64 x n.toNat
def opShrImm (g : Guard) (d : GReg) (a : GSrc) (n : BitVec 6) : Op :=
  alu1 g d a fun x => shr64 x n.toNat
def opSarImm (g : Guard) (d : GReg) (a : GSrc) (n : BitVec 6) : Op :=
  alu1 g d a fun x => sar64 x n.toNat
def opRotImm (g : Guard) (d : GReg) (a : GSrc) (n : BitVec 6) : Op :=
  alu1 g d a fun x => rot64 x n.toNat
def opAddi (g : Guard) (d : GReg) (a : GSrc) (imm : BitVec 24) : Op :=
  alu1 g d a fun x => x + imm.signExtend 64
def opMovi (g : Guard) (d : GReg) (imm : BitVec 32) : Op := aluOp g d [] 1 fun _ => imm.signExtend 64
/-- MOVHI reads its destination under the wait policy. -/
def opMovhi (g : Guard) (d : GReg) (imm : BitVec 32) : Op :=
  alu1 g d ⟨d, false⟩ fun x => imm ++ x.extractLsb' 0 32

def execShlImm (g : Guard) (d : GReg) (a : GSrc) (n : BitVec 6) (s : State) := runOp (opShlImm g d a n) s
def execShrImm (g : Guard) (d : GReg) (a : GSrc) (n : BitVec 6) (s : State) := runOp (opShrImm g d a n) s
def execSarImm (g : Guard) (d : GReg) (a : GSrc) (n : BitVec 6) (s : State) := runOp (opSarImm g d a n) s
def execRotImm (g : Guard) (d : GReg) (a : GSrc) (n : BitVec 6) (s : State) := runOp (opRotImm g d a n) s
def execAddi (g : Guard) (d : GReg) (a : GSrc) (imm : BitVec 24) (s : State) :=
  runOp (opAddi g d a imm) s
def execMovi (g : Guard) (d : GReg) (imm : BitVec 32) (s : State) := runOp (opMovi g d imm) s
def execMovhi (g : Guard) (d : GReg) (imm : BitVec 32) (s : State) := runOp (opMovhi g d imm) s

/-! ### Bit fields and bit counts (R107 to R110); LEN is encoded less one -/

def opBfx (g : Guard) (d : GReg) (a : GSrc) (pos len : BitVec 6) : Op :=
  alu1 g d a fun x => fieldS64 x pos.toNat (len.toNat + 1)
def opBfxz (g : Guard) (d : GReg) (a : GSrc) (pos len : BitVec 6) : Op :=
  alu1 g d a fun x => field64 x pos.toNat (len.toNat + 1)
def opBfi (g : Guard) (d : GReg) (a b : GSrc) (pos len : BitVec 6) : Op :=
  alu2 g d a b 1 fun x y => insert64 x y pos.toNat (len.toNat + 1)
def opBfxVar (g : Guard) (d : GReg) (a b : GSrc) (len : BitVec 6) : Op :=
  alu2 g d a b 1 fun x y => fieldS64 x y.toNat (len.toNat + 1)
def opBfxzVar (g : Guard) (d : GReg) (a b : GSrc) (len : BitVec 6) : Op :=
  alu2 g d a b 1 fun x y => field64 x y.toNat (len.toNat + 1)
def opBfiVar (g : Guard) (d : GReg) (a b c : GSrc) (len : BitVec 6) : Op :=
  alu3 g d a b c fun x y z => insert64 x y z.toNat (len.toNat + 1)
def opFshl (g : Guard) (d : GReg) (a b c : GSrc) : Op := alu3 g d a b c fshl64
def opFshr (g : Guard) (d : GReg) (a b c : GSrc) : Op := alu3 g d a b c fshr64
def opClz (g : Guard) (d : GReg) (a : GSrc) : Op :=
  alu1 g d a fun x => BitVec.ofNat 64 (clzNat 64 x.toNat)
def opCtz (g : Guard) (d : GReg) (a : GSrc) : Op :=
  alu1 g d a fun x => BitVec.ofNat 64 (ctzNat 64 x.toNat)
def opPopc (g : Guard) (d : GReg) (a : GSrc) : Op :=
  alu1 g d a fun x => BitVec.ofNat 64 (popcNat 64 x.toNat)
def opBrev (g : Guard) (d : GReg) (a : GSrc) : Op :=
  alu1 g d a fun x => BitVec.ofNat 64 (brevNat 64 x.toNat 0)

def execBfx (g : Guard) (d : GReg) (a : GSrc) (pos len : BitVec 6) (s : State) :=
  runOp (opBfx g d a pos len) s
def execBfxz (g : Guard) (d : GReg) (a : GSrc) (pos len : BitVec 6) (s : State) :=
  runOp (opBfxz g d a pos len) s
def execBfi (g : Guard) (d : GReg) (a b : GSrc) (pos len : BitVec 6) (s : State) :=
  runOp (opBfi g d a b pos len) s
def execBfxVar (g : Guard) (d : GReg) (a b : GSrc) (len : BitVec 6) (s : State) :=
  runOp (opBfxVar g d a b len) s
def execBfxzVar (g : Guard) (d : GReg) (a b : GSrc) (len : BitVec 6) (s : State) :=
  runOp (opBfxzVar g d a b len) s
def execBfiVar (g : Guard) (d : GReg) (a b c : GSrc) (len : BitVec 6) (s : State) :=
  runOp (opBfiVar g d a b c len) s
def execFshl (g : Guard) (d : GReg) (a b c : GSrc) (s : State) := runOp (opFshl g d a b c) s
def execFshr (g : Guard) (d : GReg) (a b c : GSrc) (s : State) := runOp (opFshr g d a b c) s
def execClz (g : Guard) (d : GReg) (a : GSrc) (s : State) := runOp (opClz g d a) s
def execCtz (g : Guard) (d : GReg) (a : GSrc) (s : State) := runOp (opCtz g d a) s
def execPopc (g : Guard) (d : GReg) (a : GSrc) (s : State) := runOp (opPopc g d a) s
def execBrev (g : Guard) (d : GReg) (a : GSrc) (s : State) := runOp (opBrev g d a) s

/-! ### Compares and predicates (R111, R112) -/

/-- A predicate result of latency 1. -/
def predOp (g : Guard) (pd : PReg) (srcs : List Src) (f : State → Bool) : Op :=
  { guard := g, srcs := srcs, run := fun s => s.send 1 (.p pd (f s)) }

def opCmp (g : Guard) (pd : PReg) (c : Cond) (a b : GSrc) : Op :=
  predOp g pd [.g a, .g b] fun s => Cond.holds c (s.opA a) (s.opB b)
def opPand (g : Guard) (pd pa pb : PReg) : Op := predOp g pd [] fun s => s.opP pa && s.opP pb
def opPor (g : Guard) (pd pa pb : PReg) : Op := predOp g pd [] fun s => s.opP pa || s.opP pb
def opPxor (g : Guard) (pd pa pb : PReg) : Op := predOp g pd [] fun s => s.opP pa != s.opP pb
def opPnot (g : Guard) (pd pa : PReg) : Op := predOp g pd [] fun s => !s.opP pa
def opPmov (g : Guard) (pd pa : PReg) : Op := predOp g pd [] fun s => s.opP pa

def execCmp (g : Guard) (pd : PReg) (c : Cond) (a b : GSrc) (s : State) := runOp (opCmp g pd c a b) s
def execPand (g : Guard) (pd pa pb : PReg) (s : State) := runOp (opPand g pd pa pb) s
def execPor (g : Guard) (pd pa pb : PReg) (s : State) := runOp (opPor g pd pa pb) s
def execPxor (g : Guard) (pd pa pb : PReg) (s : State) := runOp (opPxor g pd pa pb) s
def execPnot (g : Guard) (pd pa : PReg) (s : State) := runOp (opPnot g pd pa) s
def execPmov (g : Guard) (pd pa : PReg) (s : State) := runOp (opPmov g pd pa) s

end Sys2Proof.Machine
end

