-- ==== Sys2Proof/Machine/Xlate.lean ====
section
/-! DEFINITION. Translation and global memory: the address map (R284), page-table entries and walks (R289,
R290), the checks of an access (R291, R292), homes (R280) and keyed bytes (R290). -/

namespace Sys2Proof.Machine

/-! ### The address map (Table MEM-4) -/

/-- Is the address in a stack that the module presents? -/
def Shape.inStack (x : Shape) (pa : Nat) : Bool := decide (pa / 2 ^ 36 < x.nd) && decide (pa % 2 ^ 36 < 2 ^ 35)
/-- The bytes of the tier as presented, without the safe region of 160 GiB at its top (R340, R357). -/
def Shape.tierBytes (x : Shape) : Nat := x.tiers * 2 ^ 36 - 160 * 2 ^ 30
/-- Is it in the tier? -/
def Shape.inTier (x : Shape) (pa : Nat) : Bool := decide (0x100000000000 ≤ pa ∧ pa < 0x100000000000 + x.tierBytes)
/-- Is it in the control space? -/
def inControl (pa : Nat) : Bool := decide (0xF00000000000 ≤ pa ∧ pa < 0xF00100000000)
/-- Is it assigned? -/
def Shape.assigned (x : Shape) (pa : Nat) : Bool := x.inStack pa || x.inTier pa || inControl pa

/-- R280: the home die. -/
def Shape.homeDie (x : Shape) (pa : Nat) : Nat :=
  if x.inStack pa then pa / 2 ^ 36
  else ((bitsAt pa 12 2 ^^^ bitsAt pa 20 2) ^^^ bitsAt pa 28 2) % x.nd
/-- R280: the home slice, numbered over the module. -/
def Shape.homeSlice (x : Shape) (pa : Nat) : Nat :=
  x.homeDie pa * 32
    + (((bitsAt pa 7 5 ^^^ bitsAt pa 12 5) ^^^ bitsAt pa 17 5) ^^^ bitsAt pa 22 5) % x.ncl (x.homeDie pa)
/-- R280: the bank of the home slice. -/
def homeBank (pa : Nat) : Nat := bitsAt pa 7 4 ^^^ bitsAt pa 27 4

/-! ### Page-table entries (Table MEM-8) -/

def pteV (lo : Word) : Bool := lo.getLsbD 0
def pteLeaf (lo : Word) : Bool := lo.getLsbD 1
def pteR (lo : Word) : Bool := lo.getLsbD 2
def pteW (lo : Word) : Bool := lo.getLsbD 3
def pteX (lo : Word) : Bool := lo.getLsbD 4
def pteSeal (lo : Word) : Bool := lo.getLsbD 5
def pteCbf (lo : Word) : Bool := lo.getLsbD 6
def pteC (lo : Word) : Bool := lo.getLsbD 7
def pteG64 (lo : Word) : Bool := lo.getLsbD 8
def pteRc (lo : Word) : Nat := bitsAt lo.toNat 9 2
def ptePa (lo : Word) : Nat := bitsAt lo.toNat 12 40 * 4096
def pteKey (hi : Word) : BitVec 8 := hi.extractLsb' 20 8
def pteHome (hi : Word) : Nat := bitsAt hi.toNat 28 8
def pteOwner (hi : Word) : BitVec 12 := hi.extractLsb' 36 12
def pteShare (hi : Word) : Nat := bitsAt hi.toNat 48 16

/-- The bytes of a page of size code 0 to 3 (R298). -/
def pageBytes (sz : Nat) : Nat :=
  match sz with
  | 0 => 4096
  | 1 => 65536
  | 2 => 2 ^ 21
  | _ => 2 ^ 30

/-- R290: no reserved bit set. -/
def pteClean (lo hi : Word) : Bool :=
  bitsAt lo.toNat 52 12 == 0 && !lo.getLsbD 11 && bitsAt hi.toNat 0 20 == 0
/-- R290: a well-formed pointer. -/
def ptePointer (lo hi : Word) : Bool := pteV lo && pteClean lo hi && !pteLeaf lo && hi == 0
/-- R290: a well-formed leaf of a page of size code `sz`, `viaGen` through GENROOT's table. -/
def Shape.leafOk (x : Shape) (lo hi : Word) (sz : Nat) (viaGen : Bool) : Bool :=
  pteV lo && pteClean lo hi && pteLeaf lo && ptePa lo % pageBytes sz == 0 && x.assigned (ptePa lo)
    && !(pteW lo && (pteSeal lo || pteCbf lo)) && !(pteX lo && sz != 1)
    && !(viaGen && !(pteSeal lo && pteX lo))

/-! ### Keyed memory -/

/-- The 16 bytes of a unit under a key (R290). -/
def Mem.unit (m : Mem) (u : Nat) (key : BitVec 8) : BitVec 128 :=
  let x := BitVec.ofNat 128 (Memory.readLe m.bytes (u * 16) 16)
  let k := Map.getD m.keys u 0
  if k = key then x else Config.otherKey k key u x

/-- A byte under a key. -/
def Mem.byte (m : Mem) (key : BitVec 8) (a : Nat) : Byte := (m.unit (a / 16) key).extractLsb' (8 * (a % 16)) 8

/-- Bytes under a key. -/
def Mem.load (m : Mem) (key : BitVec 8) (a n : Nat) : List Byte := (upFrom a n).map (m.byte key)

/-- Does a range meet an uncorrectable error (R285)? -/
def Mem.bad (m : Mem) (a n : Nat) : Bool := (upFrom a n).any fun x => m.ecc.contains (x / 32)

/-- Bring a unit under a key: it is decrypted under the writer's key and encrypted again. -/
def Mem.rekey (m : Mem) (u : Nat) (key : BitVec 8) : Mem :=
  if Map.getD m.keys u 0 = key then m
  else
    { m with
      bytes := Memory.writeLe m.bytes (u * 16) 16 (m.unit u key).toNat
      keys := if key = 0 then Map.del m.keys u else Map.put m.keys u key }

/-- Write bytes under a key. -/
def Mem.store (m : Mem) (key : BitVec 8) (a : Nat) (bs : List Byte) : Mem :=
  let units := ((upFrom a bs.length).map (· / 16)).dedup
  let m := units.foldl (fun m u => m.rekey u key) m
  let whole (u : Nat) : Bool := decide (a ≤ u * 32 ∧ u * 32 + 32 ≤ a + bs.length)
  { m with
    bytes := Memory.writeBytes m.bytes a bs
    ecc := m.ecc.filter fun u => !whole u }

/-- A doubleword of a table, as a plain load reads it. -/
def Mem.dword (m : Mem) (a : Nat) : Word := BitVec.ofNat 64 (leNat (m.load 0 a 8))

/-! ### Walks (R287, R289, R293) -/

/-- Address space `a`'s entry. -/
def Mem.aste (m : Mem) (a : BitVec 12) : Aste := Map.getD m.astes a.toNat ⟨0, 0, 0⟩

/-- The entry at an address; none where it is uncorrectable (R291). -/
def Mem.pte (m : Mem) (a : Nat) : Option (Word × Word) :=
  if m.bad a 16 then none else some (m.dword a, m.dword (a + 8))

/-- What a walk does next: it reads the entry of a level, through GENROOT's table or not; it has found a leaf, of a size code,
in an entry; or the address is not present. -/
inductive WalkStep where
  | read (level ent : Nat) (via : Bool)
  | leaf (sz ent : Nat) (lo hi : Word)
  | absent
  deriving DecidableEq, Repr

/-- R287, R289: how a walk begins. `gen` is GENROOT where it is valid for the context, otherwise 0. -/
def Mem.walkStart (m : Mem) (asid : BitVec 12) (gen : Word) (va : Nat) : WalkStep :=
  let e := m.aste asid
  let idx := bitsAt va 39 17
  if !e.dw0.getLsbD 63 || decide (2 ^ bitsAt e.dw0.toNat 58 5 ≤ idx) then .absent
  else if gen.getLsbD 0 && idx == bitsAt e.dw1.toNat 0 17 then
    .read 2 (bitsAt gen.toNat 13 39 * 8192 + 16 * bitsAt va 30 9) true
  else .read 3 (bitsAt e.dw0.toNat 0 52 + 16 * idx) false

/-- R289, R290: what the entry that a level reads gives. -/
def Shape.walkNext (x : Shape) (level ent va : Nat) (via : Bool) (lo hi : Word) : WalkStep :=
  let leaf (sz : Nat) : WalkStep := if x.leafOk lo hi sz via then .leaf sz ent lo hi else .absent
  let down (next lowest : Nat) : WalkStep :=
    if ptePointer lo hi then .read next (ptePa lo + 16 * bitsAt va lowest 9) via else .absent
  match level with
  | 3 => down 2 30
  | 2 => if pteLeaf lo then leaf 3 else down 1 21
  | 1 => if pteLeaf lo then leaf 2 else down 0 12
  | _ => leaf (if pteG64 lo then 1 else 0)

/-- A walk from a step on, with `fuel` entries still to read at most. -/
def Mem.walkFrom (m : Mem) (asid : BitVec 12) (gen : Word) (va fuel : Nat) (x : WalkStep) : Option Tlb :=
  match x, fuel with
  | .absent, _ => none
  | .leaf sz ent lo hi, _ => some ⟨asid, gen, alignDown va (pageBytes sz), sz, ent, lo, hi⟩
  | .read _ _ _, 0 => none
  | .read level ent via, k + 1 =>
    match m.pte ent with
    | none => none
    | some (lo, hi) => m.walkFrom asid gen va k (m.shape.walkNext level ent va via lo hi)

/-- R287, R289: a walk: the translation; none where the address is not present. -/
def Mem.walk (m : Mem) (asid : BitVec 12) (gen : Word) (va : Nat) : Option Tlb :=
  m.walkFrom asid gen va 4 (m.walkStart asid gen va)

/-- The physical address of an address that a translation covers. -/
def Tlb.pa (t : Tlb) (va : Nat) : Nat := ptePa t.lo + va % pageBytes t.sz

/-- Bytes at a virtual address in a space, where every page is present and readable. -/
def Mem.readVa (m : Mem) (asid : BitVec 12) (gen : Word) (va n : Nat) : Option (List Byte) :=
  (upFrom va n).mapM fun a =>
    if a / 2 ^ 56 ≠ 0 then none
    else match m.walk asid gen a with
      | some t => if pteR t.lo then some (m.byte (pteKey t.hi) (t.pa a)) else none
      | none => none

/-! ### A core's translations (R288, R291 to R293) -/

/-- Does a cached translation cover an address? -/
def Tlb.covers (t : Tlb) (asid : BitVec 12) (gen : Word) (va : Nat) : Bool :=
  t.asid == asid && t.gen == gen && t.va == alignDown va (pageBytes t.sz)
/-- What an access is, for check 2 of Table MEM-9. -/
inductive AccessType where
  | load | store | atomic | fetch | pgref
  deriving DecidableEq, Repr

/-- R292: is a physical address in a sealed granule? -/
def Mem.isSealed (m : Mem) (pa : Nat) : Bool := m.sealed.contains (pa / 2 ^ 21)

/-- Checks 2 and 3 of Table MEM-9, and R292: the SUB of the fault. -/
def Mem.checkLeaf (m : Mem) (k : AccessType) (user : Bool) (asid : BitVec 12) (lo hi : Word) (pa : Nat) :
    Option Nat :=
  let perm := match k with
    | .load => pteR lo
    | .store => pteW lo
    | .atomic => pteR lo && pteW lo
    | .fetch => pteX lo
    | .pgref => pteW lo && (!user || pteOwner hi == asid)
  let writes := k == .store || k == .atomic
  if !perm then some 2
  else if writes && m.isSealed pa then some 2
  else if writes && decide (1 < pteShare hi) then some 3
  else none

/-- R293: what the caches of core `n` and of its cluster hold for an address. -/
def State.cached (s : State) (n : Nat) (asid : BitVec 12) (gen : Word) (va : Nat) : Option Tlb :=
  ((s.core n).fetch.tlb.find? (·.covers asid gen va)).or
    (List.find? (fun t : Tlb => t.covers asid gen va) (Map.getD s.mem.ctlb (sliceOf n) []))

/-- The outcome of a translation. -/
inductive Tr where
  | hit (pa : Nat) (t : Tlb)
  | miss
  | fault (sub : Nat)
  deriving DecidableEq, Repr

/-- R291, R293: translate an access of a core through what it holds; while a TLBI of its own waits, the access waits too
(R297). -/
def State.translate (s : State) (c : Core) (k : AccessType) (va : Word) : Tr :=
  if va.toNat / 2 ^ 56 ≠ 0 then .fault 1
  else
    let asid := c.space
    let gen := c.gen
    match c.fetch.tlb.find? (·.covers asid gen va.toNat) with
    | some t =>
      let pa := t.pa va.toNat
      if !c.fetch.tlbis.isEmpty then .miss
      else
      (match s.mem.checkLeaf k (!c.sup) asid t.lo t.hi pa with
      | some sub => .fault sub
      | none => .hit pa t)
    | none =>
      if c.fetch.misses.any fun w => w.asid == asid && w.gen == gen && w.va == alignDown va.toNat 4096
      then .fault 1 else .miss

/-- A translation as the S slot's checks see it. -/
def Tr.xres (t : Tr) (va : Word) : XRes :=
  match t with
  | .hit _ _ => .ok
  | .miss => .miss va.toNat
  | .fault sub => .fault sub va

/-- Is the core frozen for a walk of its own bundle, and for this one (R227)? -/
def Core.demands (c : Core) (w : Walk) : Bool :=
  match c.run with
  | .frozen f | .stopped (.debugger (some f)) | .stopped (.gated (some f)) =>
    f.reason == 3 && c.walkFor (f.info * 256) == w
  | _ => false
/-- R141: the PFI whose page a walk has found not present drops its remaining lines. -/
def Core.dropPfi (c : Core) (w : Walk) : List (List Nat) :=
  match c.fetch.pfi with
  | (va :: more) :: rest => if c.walkFor va == w then rest else (va :: more) :: rest
  | xs => xs
/-- R293: a walk's result enters the core's cache of 256; one that finds nothing is remembered until the
access that waits for it takes its fault, and ends a PFI (R141, R238); a copy and an XLATE find it in `gone`. -/
def Core.walked (c : Core) (w : Walk) (r : Option Tlb) : Core :=
  let f := { c.fetch with
    walks := c.fetch.walks.filter (· != w), asks := c.fetch.asks.filter fun a => a.2 != w }
  match r with
  | some t => { c with fetch := { f with tlb := (t :: f.tlb).take 256 } }
  | none => { c with fetch := { f with
      pfi := c.dropPfi w
      misses := if c.demands w then w :: f.misses else f.misses
      gone := (c.fetch.asks.filter fun a => a.2 == w) ++ f.gone } }

/-- A fault that has been taken is forgotten: the access walks again when it issues again. -/
def Core.forgetMisses (c : Core) : Core := { c with fetch := { c.fetch with misses := [] } }

/-! ### Removing translations (R191, R297) -/

/-- Does a TLBI remove a translation? -/
def Tlb.removedBy (t : Tlb) (k : TlbiKind) (asid : BitVec 12) (va : Nat) : Bool :=
  match k with
  | .all => true
  | .space => t.asid == asid
  | .page => t.asid == asid && t.va == alignDown va (pageBytes t.sz)

/-- A code page: its first physical address and its size. -/
abbrev CodePage := Nat × Nat
/-- Does one of some pages hold an address? -/
def inPages (ps : List CodePage) (pa : Nat) : Bool := ps.any fun p => decide (p.1 ≤ pa ∧ pa < p.1 + p.2)
/-- R191: the code lines and the block buffer of some pages are invalidated. -/
def Fetch.dropPages (f : Fetch) (ps : List CodePage) : Fetch :=
  { f with
    lines := f.lines.filter fun l => !inPages ps l.pa
    failed := f.failed.filter fun b => !inPages ps (1024 * b)
    block := (match f.block with
      | some b => if inPages ps b.1 then none else some b
      | none => none) }

/-- R191, R297: what a TLBI removes from one core: translations, and the code lines and block buffer of
each code page whose translation the module loses. -/
def Core.tlbi (c : Core) (k : TlbiKind) (asid : BitVec 12) (va : Nat) (pages : List CodePage) : Core :=
  let f := c.fetch.dropPages pages
  { c with fetch := { f with tlb := f.tlb.filter fun t => !t.removedBy k asid va, misses := [] } }

/-- Is a page homed in another module? -/
def State.remote (s : State) (home : Nat) : Bool := home != s.fab.modnum
/-- What names an address of code on a die: its physical address, with its home where that is another module. -/
def State.codePa (s : State) (t : Tlb) (pa : Nat) : Nat :=
  if s.remote (pteHome t.hi) then pteHome t.hi * 2 ^ 52 + pa else pa

/-- The code pages whose translations a TLBI removes anywhere in the module. -/
def State.tlbiPages (s : State) (k : TlbiKind) (asid : BitVec 12) (va : Nat) : List CodePage :=
  let all := (s.cores.flatMap fun e => e.2.fetch.tlb) ++ s.mem.ctlb.flatMap fun e => e.2
  ((all.filter fun t => t.removedBy k asid va && pteX t.lo).map fun t => (s.codePa t (ptePa t.lo), pageBytes t.sz)).dedup

/-- R297: a TLBI acts on every core and cluster of the module. -/
def State.invalidate (s : State) (k : TlbiKind) (asid : BitVec 12) (va : Nat) : State :=
  let pages := s.tlbiPages k asid va
  { s with
    cores := s.cores.map fun e => (e.1, e.2.tlbi k asid va pages)
    mem := { s.mem with
      ctlb := s.mem.ctlb.map fun e => (e.1, List.filter (fun t => !Tlb.removedBy t k asid va) e.2) } }

/-- The translations of the pages that the SAVEs under way hold pinned (R233, R259). -/
def State.pins (s : State) : List Tlb :=
  s.cores.flatMap fun e => match e.2.saving.bind (·.pins) with | some p => p.tlbs | none => []
/-- Is a page of `n` bytes at a physical address pinned? -/
def State.pinned (s : State) (pa n : Nat) : Bool :=
  s.pins.any fun t => decide (ptePa t.lo < pa + n ∧ pa < ptePa t.lo + pageBytes t.sz)
/-- Does a walker read what a TLBI removes? -/
def Walk.concerns (w : Walk) (k : TlbiKind) (asid : BitVec 12) (va : Nat) : Bool :=
  match k with
  | .all => true
  | .space => w.asid == asid
  | .page => w.asid == asid && w.va / 2 ^ 30 == va / 2 ^ 30
/-- R297, R233: must a TLBI wait for a pin on a page that it concerns, or for a walk that may have read what it removes? -/
def State.tlbiHeld (s : State) (k : TlbiKind) (asid : BitVec 12) (va : Nat) : Bool :=
  (s.pins.any fun t => t.removedBy k asid va) || s.mem.walkers.any fun x => x.w.concerns k asid va
/-- R297: a TLBI of core `n` completes, or waits for a pin or a walk. -/
def State.tlbiBy (s : State) (n : Nat) (k : TlbiKind) (asid : BitVec 12) (va : Nat) : State :=
  if s.tlbiHeld k asid va then
    let c := s.core n
    s.setCore n { c with fetch := { c.fetch with tlbis := c.fetch.tlbis ++ [(k, asid, va)] } }
  else s.invalidate k asid va
/-- A TLBI of core `n` completes when the pins have been released and the walks have ended. -/
def State.tlbiEnds (s : State) (n : Nat) : Option State :=
  let c := s.core n
  match c.fetch.tlbis with
  | [] => none
  | (k, asid, va) :: rest =>
    if s.tlbiHeld k asid va then none
    else some ((s.setCore n { c with fetch := { c.fetch with tlbis := rest } }).invalidate k asid va)

end Sys2Proof.Machine
end

