-- ==== Sys2Proof/Machine/Access.lean ====
section
/-! DEFINITION. The S slot's loads, stores, atomics, ordering operations, owners and arrival words (R113 to
R127), and its page operations (R297 to R299). -/

namespace Sys2Proof.Machine

/-- Bytes of an access. -/
def widthBytes (w : Width) : Nat := match w with | .w8 => 1 | .w16 => 2 | .w32 => 4 | .w64 => 8
/-- The local space of a scalar access, none for global. -/
def spaceLoc (sp : Space) : Option LSpace :=
  match sp with
  | .global => none
  | .tsLinear => some .tsLinear
  | .tsSwizzled => some .tsSwizzled
  | .abuf => some .abuf

/-- R114: the effective address. -/
def State.ea (s : State) (a : GSrc) (off : BitVec 14) : Word := s.opA a + off.signExtend 64

/-- R114: the misalignment trap of an address. -/
def misaligned (x : Word) (n : Nat) : Option TrapInfo :=
  if x.toNat % n ≠ 0 then some ⟨6, 0, 0, x⟩ else none

/-- TINFO's address bits of a freeze (R228). -/
def addrInfo (a : Nat) : Nat := a % 2 ^ 56 / 256

/-! ### Entering the queues (R302) -/

/-- R101: leave a destination empty. -/
def Core.emptyG (c : Core) (d : GReg) : Core :=
  { c with ctx := { c.ctx with regs := c.ctx.regs.emptyG d } }

/-- R303: a global load enters the load queue; one whose bytes all come from the core's own stores is
performed at issue. -/
def Core.globalLoad (c : Core) (d : Dst) (mk : BitVec 64 → Dst) (pa n : Nat) (t : Tlb) (acq : Bool)
    (sc : Scope) : Core :=
  let home := pteHome t.hi
  let fw := forwards c.accs home pa n
  let a := c.newAcc (.load d pa n acq sc fw) false pa home t.key (pteC t.lo) t.cbf
  if fw.length = n then
    let x := BitVec.ofNat 64 (leNat (fw.map (·.2)))
    { c.enters { a with departed := true, performed := true } with
      replies := c.replies ++ [⟨a.id, mk x, a.own⟩] }
  else c.enters a

/-! ### LD and ST (R113 to R117) -/

/-- LD. -/
def opLd (g : Guard) (t : GReg) (a : GSrc) (w : Width) (sp : Space) (acq : Bool) (sc : Scope)
    (off : BitVec 14) : Op :=
  let n := widthBytes w
  let ea (s : State) := s.ea a off
  { guard := g, needs := scopeNeeds sc, srcs := [.g a], gd := some t
    wait := fun s => match spaceLoc sp with
      | some v => (s.me.loc.emptyLine v (ea s).toNat 1).map fun l => (2, addrInfo l)
      | none => none
    chk := fun s => misaligned (ea s) n
    xlat := fun s => match spaceLoc sp with
      | some _ => .ok
      | none => (s.translate s.me .load (ea s)).xres (ea s)
    cap := fun s => (s.opA a, 0, 0)
    reqs := fun s => some (gBytes (s.opA a))
    run := fun s =>
      match spaceLoc sp with
      | some v =>
        let c := s.me
        let bs := c.loc.load v c.btw.seqno (ea s).toNat n
        s.send 4 (.g t (BitVec.ofNat 64 (leNat bs)) (c.loc.bad v (ea s).toNat n))
      | none =>
        match s.translate s.me .load (ea s) with
        | .hit pa e => s.onMe fun c =>
          (c.globalLoad (.g t 0 false) (fun x => .g t x false) pa n e acq sc).emptyG t
        | _ => s }

/-- The write-buffer entries of a local store (R116). -/
def storeUses (v : LSpace) (a n : Nat) : List HeldUse :=
  let rs := recsOf v 0 0 0 a (List.replicate n 0)
  (tsEntries rs).map (fun x => .ts x.1 x.2) ++ (abEntries rs).map .ab

/-- R116: a local store is held, a handler's is written at once (R222). -/
def Core.localStore (c : Core) (v : LSpace) (slot a : Nat) (bs : List Byte) : Core :=
  if c.inTrap then { c with loc := c.loc.storeNow v c.btw.seqno slot c.btw.seg a bs }
  else { c with loc := c.loc.hold v c.btw.seqno slot c.btw.seg a bs }

/-- R116: the permission trap of a store into a tile that the engine owns. -/
def ownerTrap (c : Core) (v : LSpace) (a : Nat) : Option TrapInfo :=
  match v with
  | .abuf => none
  | _ =>
    if c.loc.engineOwns (physOf v a) then some ⟨7, 2, 0, BitVec.ofNat 64 (a % 262144)⟩ else none

/-- ST. -/
def opSt (g : Guard) (t a : GSrc) (w : Width) (sp : Space) (rel : Bool) (sc : Scope)
    (off : BitVec 14) : Op :=
  let n := widthBytes w
  let ea (s : State) := s.ea a off
  { guard := g, needs := scopeNeeds sc, srcs := [.g a, .g t]
    chk := fun s => (misaligned (ea s) n).or (match spaceLoc sp with
      | some v => ownerTrap s.me v (ea s).toNat
      | none => none)
    uses := fun s => if s.me.inTrap then [] else match spaceLoc sp with
      | some v => storeUses v (ea s).toNat n
      | none => [.store]
    xlat := fun s => match spaceLoc sp with
      | some _ => .ok
      | none => (s.translate s.me .store (ea s)).xres (ea s)
    cap := fun s => (s.opA a, s.opB t, 0)
    reqs := fun s => some (gBytes (s.opA a) ++ gBytes (s.opB t))
    run := fun s =>
      let bs := leBytes n (s.opB t).toNat
      match spaceLoc sp with
      | some v => s.onMe fun c => c.localStore v 0 (ea s).toNat bs
      | none =>
        match s.translate s.me .store (ea s) with
        | .hit pa e => s.onMe fun c =>
          c.addAcc (.store pa bs rel sc) true pa (pteHome e.hi) e.key (pteC e.lo)
        | _ => s }

def execLd (g : Guard) (t : GReg) (a : GSrc) (w : Width) (sp : Space) (acq : Bool) (sc : Scope)
    (off : BitVec 14) (s : State) := runOp (opLd g t a w sp acq sc off) s
def execSt (g : Guard) (t a : GSrc) (w : Width) (sp : Space) (rel : Bool) (sc : Scope)
    (off : BitVec 14) (s : State) := runOp (opSt g t a w sp rel sc off) s

/-! ### Atomics (R118 to R120) -/

/-- An atomic: held, its destination empty until the reply. -/
def atomicOp (g : Guard) (d : GReg) (a : GSrc) (srcs : List Src) (n : Nat) (sc : Scope)
    (k : State → Nat → AccKind) (bytes : State → List Byte) (c : State → Word × Word) : Op :=
  { guard := g, needs := scopeNeeds sc, srcs := .g a :: srcs, gd := some d
    chk := fun s => misaligned (s.opA a) n
    uses := fun s => if s.me.inTrap then [] else [.atomic]
    xlat := fun s => (s.translate s.me .atomic (s.opA a)).xres (s.opA a)
    cap := fun s => (s.opA a, (c s).1, (c s).2)
    reqs := fun s => some (gBytes (s.opA a) ++ bytes s)
    run := fun s =>
      match s.translate s.me .atomic (s.opA a) with
      | .hit pa e => s.onMe fun c =>
        (c.addAcc (k s pa) true pa (pteHome e.hi) e.key (pteC e.lo)).emptyG d
      | _ => s }

/-- An atomic with one operand. -/
def atomic2 (op : AtomOp) (g : Guard) (d : GReg) (a b : GSrc) (n : Nat) (sc : Scope) (o : AOrd) : Op :=
  atomicOp g d a [.g b] n sc (fun s pa => .atomic op d pa n (s.opB b) 0 sc o)
    (fun s => gBytes (s.opB b)) (fun s => (s.opB b, 0))

/-- Bytes of W64. -/
def atomBytes (w64 : Bool) : Nat := if w64 then 8 else 4

def opAadd (g : Guard) (d : GReg) (a b : GSrc) (w : Bool) (sc : Scope) (o : AOrd) : Op :=
  atomic2 .add g d a b (atomBytes w) sc o
def opAand (g : Guard) (d : GReg) (a b : GSrc) (w : Bool) (sc : Scope) (o : AOrd) : Op :=
  atomic2 .and g d a b (atomBytes w) sc o
def opAor (g : Guard) (d : GReg) (a b : GSrc) (w : Bool) (sc : Scope) (o : AOrd) : Op :=
  atomic2 .or g d a b (atomBytes w) sc o
def opAxor (g : Guard) (d : GReg) (a b : GSrc) (w : Bool) (sc : Scope) (o : AOrd) : Op :=
  atomic2 .xor g d a b (atomBytes w) sc o
def opAmin (g : Guard) (d : GReg) (a b : GSrc) (w : Bool) (sc : Scope) (o : AOrd) (u : Bool) : Op :=
  atomic2 (if u then .minU else .minS) g d a b (atomBytes w) sc o
def opAmax (g : Guard) (d : GReg) (a b : GSrc) (w : Bool) (sc : Scope) (o : AOrd) (u : Bool) : Op :=
  atomic2 (if u then .maxU else .maxS) g d a b (atomBytes w) sc o
def opAxchg (g : Guard) (d : GReg) (a b : GSrc) (w : Bool) (sc : Scope) (o : AOrd) : Op :=
  atomic2 .xchg g d a b (atomBytes w) sc o
def opAcas (g : Guard) (d : GReg) (a b c : GSrc) (w : Bool) (sc : Scope) (o : AOrd) : Op :=
  let n := atomBytes w
  atomicOp g d a [.g b, .g c] n sc (fun s pa => .atomic .cas d pa n (s.opB b) (s.opC c) sc o)
    (fun s => gBytes (s.opB b) ++ gBytes (s.opC c)) (fun s => (s.opB b, s.opC c))
def opAfadd (g : Guard) (d : GReg) (a b : GSrc) (sc : Scope) (o : AOrd) : Op :=
  atomic2 .fadd g d a b 4 sc o
def opAfmax (g : Guard) (d : GReg) (a b : GSrc) (sc : Scope) (o : AOrd) : Op :=
  atomic2 .fmax g d a b 4 sc o

def execAadd (g : Guard) (d : GReg) (a b : GSrc) (w : Bool) (sc : Scope) (o : AOrd) (s : State) :=
  runOp (opAadd g d a b w sc o) s
def execAand (g : Guard) (d : GReg) (a b : GSrc) (w : Bool) (sc : Scope) (o : AOrd) (s : State) :=
  runOp (opAand g d a b w sc o) s
def execAor (g : Guard) (d : GReg) (a b : GSrc) (w : Bool) (sc : Scope) (o : AOrd) (s : State) :=
  runOp (opAor g d a b w sc o) s
def execAxor (g : Guard) (d : GReg) (a b : GSrc) (w : Bool) (sc : Scope) (o : AOrd) (s : State) :=
  runOp (opAxor g d a b w sc o) s
def execAmin (g : Guard) (d : GReg) (a b : GSrc) (w : Bool) (sc : Scope) (o : AOrd) (u : Bool)
    (s : State) := runOp (opAmin g d a b w sc o u) s
def execAmax (g : Guard) (d : GReg) (a b : GSrc) (w : Bool) (sc : Scope) (o : AOrd) (u : Bool)
    (s : State) := runOp (opAmax g d a b w sc o u) s
def execAxchg (g : Guard) (d : GReg) (a b : GSrc) (w : Bool) (sc : Scope) (o : AOrd) (s : State) :=
  runOp (opAxchg g d a b w sc o) s
def execAcas (g : Guard) (d : GReg) (a b c : GSrc) (w : Bool) (sc : Scope) (o : AOrd) (s : State) :=
  runOp (opAcas g d a b c w sc o) s
def execAfadd (g : Guard) (d : GReg) (a b : GSrc) (sc : Scope) (o : AOrd) (s : State) :=
  runOp (opAfadd g d a b sc o) s
def execAfmax (g : Guard) (d : GReg) (a b : GSrc) (sc : Scope) (o : AOrd) (s : State) :=
  runOp (opAfmax g d a b sc o) s

/-! ### Ordering operations (R121, R122, R124) -/

/-- A marker in the queues. -/
def markerOp (g : Guard) (k : AccKind) : Op :=
  { guard := g, reqs := fun _ => some [], run := fun s => s.onMe fun c => c.addAcc k false 0 0 0 true }

def opFence (g : Guard) (sc : Scope) : Op := (markerOp g (.fence sc)).under (scopeNeeds sc)
def opQmark (g : Guard) : Op := markerOp g .qmark
/-- VJOIN: later loads of either view see every earlier store; two cycles without a bundle follow. -/
def opVjoin (g : Guard) : Op :=
  { guard := g
    run := fun s => s.onMe fun c =>
      { c with loc := c.loc.flush.join c.btw.seqno, btw := { c.btw with vjoin := 2 } } }

def execFence (g : Guard) (sc : Scope) (s : State) := runOp (opFence g sc) s
def execQmark (g : Guard) (s : State) := runOp (opQmark g) s
def execVjoin (g : Guard) (s : State) := runOp (opVjoin g) s

/-! ### Owners and arrival words (R125 to R127) -/

/-- OWN.CORE: wait for the engine's accepted writes, then take the tile. -/
def opOwnCore (g : Guard) (a : GSrc) : Op :=
  { guard := g, srcs := [.g a]
    late := fun s =>
      let x := (s.opA a).toNat % 262144
      if s.me.loc.engineOwns x && s.me.loc.tileBusy x then .freeze 6 (addrInfo x) .none else .go
    reqs := fun s => some (gBytes (s.opA a))
    run := fun s => s.onMe fun c =>
      { c with loc := c.loc.setOwner ((s.opA a).toNat % 262144) false } }

/-- OWN.ENGINE: held; in a handler it takes effect at issue. -/
def opOwnEngine (g : Guard) (a : GSrc) : Op :=
  { guard := g, srcs := [.g a]
    uses := fun s =>
      if s.me.inTrap || s.me.loc.engineOwns ((s.opA a).toNat % 262144) then [] else [.own]
    reqs := fun s => some (gBytes (s.opA a))
    run := fun s =>
      let x := (s.opA a).toNat % 262144
      if s.me.loc.engineOwns x then s
      else s.onMe fun c =>
        if c.inTrap then { c with loc := c.loc.flush.setOwner x true }
        else { c with owns := c.owns ++ [(c.btw.seg, x)] } }

/-- ARMA. -/
def opArma (g : Guard) (a : GSrc) (target : BitVec 24) : Op :=
  { guard := g, srcs := [.g a]
    chk := fun s => misaligned (s.opA a) 8
    reqs := fun s => some (gBytes (s.opA a))
    run := fun s => s.onMe fun c => { c with loc := c.loc.arm (s.opA a).toNat target } }

/-- R127: the generation that WAITA compares with: latched when it first issued. -/
def State.waitGen (s : State) (w : Word) : BitVec 16 := s.me.btw.waita.getD (w.extractLsb' 48 16)

/-- WAITA in either form; `sat` says whether the word satisfies it, given the latched generation. -/
def waitaOp (g : Guard) (a : GSrc) (sat : Word → BitVec 16 → Bool) : Op :=
  { guard := g, srcs := [.g a]
    chk := fun s => misaligned (s.opA a) 8
    late := fun s =>
      let x := (s.opA a).toNat % 262144
      let w := s.me.loc.word x
      if sat w (s.waitGen w) then .go else .freeze 5 (addrInfo x) (.gen (s.waitGen w))
    reqs := fun s => some (gBytes (s.opA a))
    run := fun s => s.onMe fun c => { c with btw := { c.btw with waita := none } } }

def opWaitaCnt (g : Guard) (a : GSrc) (n : BitVec 24) : Op :=
  waitaOp g a fun w g0 => decide (n.toNat ≤ bitsAt w.toNat 0 24) || w.extractLsb' 48 16 != g0
def opWaitaGen (g : Guard) (a : GSrc) (gen : BitVec 16) : Op :=
  waitaOp g a fun w _ => decide ((w.extractLsb' 48 16 - gen).toNat < 2 ^ 15)

def execOwnCore (g : Guard) (a : GSrc) (s : State) := runOp (opOwnCore g a) s
def execOwnEngine (g : Guard) (a : GSrc) (s : State) := runOp (opOwnEngine g a) s
def execArma (g : Guard) (a : GSrc) (t : BitVec 24) (s : State) := runOp (opArma g a t) s
def execWaitaCnt (g : Guard) (a : GSrc) (n : BitVec 24) (s : State) := runOp (opWaitaCnt g a n) s
def execWaitaGen (g : Guard) (a : GSrc) (n : BitVec 16) (s : State) := runOp (opWaitaGen g a n) s

/-! ### Page operations (R297 to R299) -/

/-- PGREF: translated and checked at issue, then held as an atomic. -/
def opPgref (g : Guard) (a : GSrc) : Op :=
  let va (s : State) : Word := s.opA a &&& 0x00FFFFFFFFFFFFFF
  { guard := g, srcs := [.g a]
    chk := fun s => if bitsAt (s.opA a).toNat 56 7 ≠ 0 then some ⟨2, 0, 0, s.opA a⟩ else none
    uses := fun s => if s.me.inTrap then [] else [.atomic]
    xlat := fun s => (s.translate s.me .pgref (va s)).xres (va s)
    cap := fun s => (s.opA a, 0, 0)
    reqs := fun s => some (gBytes (s.opA a))
    run := fun s =>
      match s.translate s.me .pgref (va s) with
      | .hit _ t => s.onMe fun c => c.addAcc (.pgref (s.opA a) t.asid t.sz) true t.ent s.fab.modnum 0 true
      | _ => s }

/-- TLBI, a supervisor instruction (R297). -/
def opTlbi (g : Guard) (a b : GSrc) (k : TlbiKind) : Op :=
  { guard := g, sup := true
    srcs := (match k with | .page => [.g a, .g b] | .space => [.g b] | .all => [])
    run := fun s => s.tlbiBy s.iss.cur k ((s.opB b).extractLsb' 0 12) ((s.opA a).toNat % 2 ^ 56) }

/-- XLATE. -/
def opXlate (g : Guard) (d : GReg) (a : GSrc) (acc : Access) : Op :=
  { guard := g, srcs := [.g a], gd := some d
    cap := fun s => (s.opA a, 0, 0)
    reqs := fun s => some (gBytes (s.opA a))
    run := fun s => s.onMe fun c =>
      (c.addAcc (.xlate d (s.opA a) acc (c.walkFor (s.opA a).toNat) (!c.sup)) false 0 0 0 true).emptyG d }

def execPgref (g : Guard) (a : GSrc) (s : State) := runOp (opPgref g a) s
def execTlbi (g : Guard) (a b : GSrc) (k : TlbiKind) (s : State) := runOp (opTlbi g a b k) s
def execXlate (g : Guard) (d : GReg) (a : GSrc) (acc : Access) (s : State) :=
  runOp (opXlate g d a acc) s

end Sys2Proof.Machine
end

