-- ==== Sys2Proof/Machine/Cbf.lean ====
section
/-! DEFINITION. CRC-32C (R207) and compressed blocks (R208, R296, R350). -/

namespace Sys2Proof.Machine

/-- One bit of the reflected Castagnoli CRC. -/
def crc32Bit (r : BitVec 32) : BitVec 32 := if r.getLsbD 0 then (r >>> 1) ^^^ 0x82F63B78 else r >>> 1
/-- A byte, its least significant bit first. -/
def crc32Byte (r : BitVec 32) (b : Byte) : BitVec 32 :=
  let r := r ^^^ b.setWidth 32
  crc32Bit (crc32Bit (crc32Bit (crc32Bit (crc32Bit (crc32Bit (crc32Bit (crc32Bit r)))))))
/-- R207: the CRC-32C of bytes. -/
def crc32c (bs : List Byte) : BitVec 32 := ~~~(bs.foldl crc32Byte 0xFFFFFFFF)

/-- A block's header (Table PKG-7). -/
structure CbfHead where
  expLen : Nat
  cLen : Nat
  dict : Nat
  raw : Bool
  chk : BitVec 32
  deriving DecidableEq, Repr

/-- The header of 16 bytes; none where a reserved byte is not zero or RAW is neither 0 nor 1. -/
def cbfHead (bs : List Byte) : Option CbfHead :=
  let at_ (i : Nat) : Nat := (bs.getD i 0).toNat
  if bs.length < 16 then none
  else if at_ 6 ≠ 0 || at_ 7 ≠ 0 || (upFrom 12 4).any (fun i => at_ i != 0) || 1 < at_ 5 || 15 < at_ 4 then none
  else
    some { expLen := at_ 0 + 256 * at_ 1 + 1, cLen := at_ 2 + 256 * at_ 3, dict := at_ 4
           raw := at_ 5 == 1
           chk := BitVec.ofNat 32 (at_ 8 + 256 * (at_ 9 + 256 * (at_ 10 + 256 * at_ 11))) }

/-- The bytes of the body: CLEN, which a raw block of 65536 bytes has at 0 (Table PKG-7). -/
def CbfHead.bodyLen (h : CbfHead) : Nat := if h.raw && h.cLen == 0 && h.expLen == 65536 then 65536 else h.cLen

/-- R350: Ext: the bytes from here on, until one below 255, added up; the rest of the body. -/
def cbfExt (body : List Byte) (n : Nat) : Option (Nat × List Byte) :=
  match body with
  | [] => none
  | b :: rest => if b.toNat = 255 then cbfExt rest (n + 255) else some (n + b.toNat, rest)

/-- A length nibble with its extension. -/
def cbfLen (nib : Nat) (body : List Byte) : Option (Nat × List Byte) :=
  if nib = 15 then cbfExt body 15 else some (nib, body)

/-- Append `m` bytes of history at distance `off`; `hist` is the history reversed. -/
def cbfCopy (m off : Nat) (hist : List Byte) : Option (List Byte) :=
  match m with
  | 0 => some hist
  | k + 1 =>
    if off = 0 then none
    else match hist[off - 1]? with
      | none => none
      | some b => cbfCopy k off (b :: hist)

/-- R350: the loop of Expand over `body`; `hist` is the dictionary and the output, reversed. -/
def cbfLoop (fuel : Nat) (body hist : List Byte) : Option (List Byte) :=
  match fuel, body with
  | 0, _ => none
  | _, [] => none
  | f + 1, t :: rest =>
    match cbfLen (t.toNat / 16) rest with
    | none => none
    | some (l, rest) =>
      if rest.length < l then none
      else
        let hist := (rest.take l).reverse ++ hist
        match rest.drop l with
        | [] => some hist
        | [_] => none
        | o0 :: o1 :: rest =>
          match (if t.toNat % 16 = 15 then cbfExt rest 19 else some (t.toNat % 16 + 4, rest)) with
          | none => none
          | some (m, rest) =>
            match cbfCopy m (o0.toNat + 256 * o1.toNat) hist with
            | none => none
            | some hist => cbfLoop f rest hist

/-- R350: a block's expanded bytes; none for a block failure.  `dict` gives the section's dictionaries. -/
def cbfExpand (h : CbfHead) (body : List Byte) (dict : Nat → Option (List Byte)) : Option (List Byte) :=
  let out : Option (List Byte) :=
    match (if h.dict = 0 then some [] else dict h.dict) with
    | none => none
    | some d =>
      if h.raw then some body else (cbfLoop (body.length + 1) body d.reverse).map fun r => r.reverse.drop d.length
  match out with
  | none => none
  | some x => if x.length = h.expLen && crc32c x == h.chk then some x else none

/-- R350: block `k` of the stored image of the code page at `page` (a 64 KiB page number), read under a key;
none for a block failure.  A page that the OWC service installed gives its bundles (log 21). -/
def Mem.codeBlock (m : Mem) (key : BitVec 8) (page k : Nat) : Option (List Byte) :=
  match Map.find? m.images page with
  | some bs => some (((bs.drop (32 * k)).take 32).flatMap fun b => leBytes 32 b.toNat)
  | none =>
  let base := page * 65536
  let w := leNat (m.load key (base + 4 * k) 4)
  let off := bitsAt w 0 20
  if bitsAt w 20 12 ≠ 0 then none
  else match cbfHead (m.load key (base + off) 16) with
    | none => none
    | some h =>
      let n := h.bodyLen
      if h.expLen ≠ 1024 then none
      else cbfExpand h (m.load key (base + off + 16) n) (Config.dictionary page)

/-- R294: block `k` of a staged copy, which stays as it was verified whatever is written to its page. -/
def Staged.block (x : Staged) (m : Mem) (key : BitVec 8) (k : Nat) : Option (List Byte) :=
  if 2 ^ 36 ≤ x.page then Config.remoteBlock x.tick (x.page * 64 + k)
  else
    let m := { m with
      bytes := x.image, keys := x.keys
      images := (match x.code with | some c => [(x.page, c)] | none => []) }
    m.codeBlock key x.page k

/-- R208, R296: a byte of a page as a load or a copy receives it: expanded where the page is CBF-backed (log 16);
none for a block failure. -/
def Mem.plainByte (m : Mem) (t : Tlb) (pa : Nat) : Option Byte :=
  if pteCbf t.lo then (m.codeBlock (pteKey t.hi) (pa / 65536) (pa % 65536 / 1024)).bind fun b => b[pa % 1024]?
  else some (m.byte (pteKey t.hi) pa)

end Sys2Proof.Machine
end

