-- ==== Sys2Proof/Machine/Net.lean ====
section
/-! DEFINITION. Messages of the fabric as their source makes them (R378, R379), and the bytes of pages that a page-table
leaf places in this module or in another (R312, R381). -/

namespace Sys2Proof.Machine

/-- A channel's key: source agent, destination module, virtual channel (R379). -/
def chanKey (agent dst vc : Nat) : Nat := (agent * 256 + dst) * 4 + vc
/-- FPSTAT.WIDTH of a port. -/
def Fabric.width (f : Fabric) (p : Nat) : Nat := bitsAt (Map.getD f.fpstat p 0).toNat 62 2
/-- The live ports of the route to a module (Table FAB-4). -/
def Fabric.livePorts (f : Fabric) (dst : Nat) : List Nat :=
  let e := Map.getD f.routes dst 0
  if e.getLsbD 63 then
    ((List.range (bitsAt e.toNat 32 2 + 1)).map fun k => bitsAt e.toNat (8 * k) 8).filter fun p =>
      f.width p != 0
  else []
/-- No port: the message waits for a route (R380). -/
def noPort : Nat := 144
/-- The port that carries a message sent at counter `tick`. -/
def Fabric.portFor (f : Fabric) (dst tick : Nat) : Nat :=
  match f.livePorts dst with
  | [] => noPort
  | p :: ps => (p :: ps).getD (Config.spread tick % (p :: ps).length) p

/-- The agents of a module: a core, its engine, a conjunction unit, the die controllers (log 18). -/
def agentCore (n : Nat) : Nat := n
def agentEngine (n : Nat) : Nat := 1024 + n
def agentUnit (sl : Nat) : Nat := 2048 + sl
def agentDie (d : Nat) : Nat := 2304 + d
/-- The management controller, which sends device memory to a storage peer (R383). -/
def agentMgmt : Nat := 2308

/-- A message's bytes: request word, address, data (R378). -/
def messageBody (kind op len addr : Nat) (key : BitVec 8) (data : List Byte) : List Byte :=
  leBytes 8 (Config.requestWord kind op len key.toNat).toNat ++ leBytes 8 addr ++ data
/-- What a reply names as its request: the agent, its virtual channel and CSEQ (log 18). -/
def replyKey (agent vc cseq : Nat) : Nat := (agent * 4 + vc) * 2 ^ 24 + cseq

/-- The header of a message of `nu` units (Table FAB-5). -/
def msgHeader (m : Msg) (nu : Nat) : Nat :=
  m.dst % 256 * 2 ^ 56 + m.src % 256 * 2 ^ 48 + m.agent % 4096 * 2 ^ 36 + m.hops % 8 * 2 ^ 33 + (nu - 1) % 64 * 2 ^ 27
    + m.vc % 4 * 2 ^ 25 + m.cseq % 2 ^ 24 * 2
/-- The number of its units: header and body, in units of 64 bytes. -/
def msgCount (m : Msg) : Nat := (m.body.length + 71) / 64
/-- The units of a message with their channel. -/
def msgUnits (m : Msg) : List (Nat × List Byte) :=
  let n := msgCount m
  let bs := leBytes 8 (msgHeader m n) ++ m.body
  let bs := bs ++ List.replicate (64 * n - bs.length) 0
  (List.range n).map fun k => (m.vc, (bs.drop (64 * k)).take 64)
/-- Give a message to a port's link. -/
def Fabric.load (f : Fabric) (p : Nat) (m : Msg) : Fabric :=
  if p = noPort then f
  else
    let l := Map.getD f.links p Link.reset
    { f with links := Map.put f.links p { l with units := l.units ++ msgUnits m } }

/-- R379: may the channel issue a further message? -/
def Fabric.open_ (f : Fabric) (agent dst vc : Nat) : Bool :=
  decide ((Map.getD f.out (chanKey agent dst vc) Chan.reset).unacked.length < 4096)

/-- R379: number a message in its channel, keep it until it is acknowledged, and give it to port `p`. -/
def State.sendOn (s : State) (p agent dst vc : Nat) (body : List Byte) : State :=
  let f := s.fab
  let k := chanKey agent dst vc
  let c := Map.getD f.out k Chan.reset
  let m : Msg := { dst := dst, src := f.modnum, agent := agent, hops := 0, vc := vc, cseq := c.next, body := body }
  let c := { c with next := (c.next + 1) % 2 ^ 24, unacked := c.unacked ++ [(m, p, s.time)] }
  { s with fab := ({ f with out := Map.put f.out k c }).load p m }
/-- The same on a port of the route. -/
def State.sendMsg (s : State) (agent dst vc : Nat) (body : List Byte) : State :=
  s.sendOn (s.fab.portFor dst s.tick) agent dst vc body

/-- Send a request whose completion is awaited. -/
def State.ask (s : State) (agent dst vc : Nat) (body : List Byte) (core : Nat) (copy : Bool) (id lo hi : Nat)
    (write : Bool) : State :=
  let n := (Map.getD s.fab.out (chanKey agent dst vc) Chan.reset).next
  let s := s.sendMsg agent dst vc body
  let r : Remote :=
    { core := core, copy := copy, id := id, lo := lo, hi := hi, write := write, module_ := dst
      agent := agent, vc := vc, cseq := n }
  { s with fab := { s.fab with waiting := s.fab.waiting ++ [r] } }

/-- The home of a translation (Table MEM-8). -/
def leafHome (t : Tlb) : Nat := pteHome t.hi

/-! ### Inbound channels (R309) -/

/-- The sources of requests to the slices, by number: a core, its engine and a conjunction unit under their agent's number, a die
controller, the host link, a fabric port, a walker of a die. -/
def srcHost : Nat := 2400
def srcPort (p : Nat) : Nat := 2432 + p
def srcWalker (d k : Nat) : Nat := 4096 + d * 64 + k
/-- The key of a source's inbound channel to a slice. -/
def inbound (src sl : Nat) : Nat := src * 128 + sl
/-- A request enters its source's channel to its home slice. -/
def Mem.enter (m : Mem) (src id pa : Nat) : Mem :=
  let k := inbound src (m.shape.homeSlice pa)
  { m with channels := Map.put m.channels k (Map.getD m.channels k [] ++ [id]) }
/-- A request of an agent other than a core. -/
def agentReq (k : AccKind) (pa : Nat) (key : BitVec 8) (cached cbf : Bool) (part : BitVec 4) : Acc :=
  { id := 0, kind := k, held := false, departed := true, performed := false, own := false, seg := 0, commit := 0, opens := false
    part := part, pa := pa, home := 0, key := key, cached := cached, cbf := cbf }
/-- The same through a translation. -/
def Tlb.req (t : Tlb) (k : AccKind) (pa : Nat) (part : BitVec 4) : Acc := agentReq k pa (pteKey t.hi) (pteC t.lo) (pteCbf t.lo) part
/-- It takes the next number and enters its channel. -/
def Mem.push (m : Mem) (src : Nat) (a : Acc) : Mem :=
  { m.enter src m.nextReq a.pa with reqs := Map.put m.reqs m.nextReq { a with id := m.nextReq }, nextReq := m.nextReq + 1 }
def State.push (s : State) (src : Nat) (a : Acc) : State := { s with mem := s.mem.push src a }

/-! ### Translation beside the core (R200, R291, R293) -/

/-- What the caches and the walkers answer to a copy or an XLATE. -/
inductive Page where
  | page (t : Tlb)
  | fault (status : Nat)
  | walk (w : Walk)
  deriving DecidableEq, Repr

/-- The translation of an address for item `id` of core `n`: what the core or its cluster holds, or what a walk has found. -/
def State.pageOf (s : State) (n id : Nat) (asid : BitVec 12) (gen : Word) (va : Nat) : Page :=
  if 2 ^ 56 ≤ va then .fault 1
  else match s.cached n asid gen va with
    | some t => .page t
    | none =>
      let w : Walk := ⟨asid, gen, alignDown va 4096⟩
      if (s.core n).fetch.gone.contains (id, w) then .fault 1 else .walk w
/-- R291: the same with the checks of an access. -/
def State.resolve (s : State) (n id : Nat) (asid : BitVec 12) (gen : Word) (k : AccessType) (va : Nat) : Page :=
  match s.pageOf n id asid gen va with
  | .page t => (match s.mem.checkLeaf k false asid t.lo t.hi (t.pa va) with | some sub => .fault sub | none => .page t)
  | x => x
/-- Item `id` waits for a walk: none where it waits already. -/
def State.askWalk (s : State) (n id : Nat) (w : Walk) : Option State :=
  let c := s.core n
  if c.fetch.asks.contains (id, w) then none
  else some (s.setCore n { c with fetch := { c.fetch with asks := c.fetch.asks ++ [(id, w)] } })

/-! ### The registers of a core's arrival words -/

/-- An increment sets out for a bank (R183, R184); an increment of 0 does nothing. -/
def Core.sendInc (c : Core) (a n : Nat) : Core := if n = 0 then c else { c with incs := c.incs ++ [(a, n)] }

/-- ARRIVAL_INCREMENT: the bank applies the `k`-th increment that is on its way. -/
def execArrivalIncrement (n k : Nat) (s : State) : Host.Outcome State Fault Refusal :=
  let c := s.core n
  match c.incs[k]? with
  | none => .next s
  | some (a, x) =>
    .next (s.setCore n { c with loc := c.loc.increment a x, incs := c.incs.eraseIdx k })

end Sys2Proof.Machine
end

