-- ==== Sys2Proof/Machine/Slice.lean ====
section
/-! DEFINITION. The slices as every agent's requests find them: the requests by source (R301, R309), the bytes that a request
names, the lines present (R281), what holds a request back (R282, R283, R286), and the fabric's registers in the control space
(R4, R377). -/

namespace Sys2Proof.Machine

/-- The size of a slice's staging window. -/
def Slice.windowBytes (x : Slice) : Nat := bitsAt x.slcfg.toNat 0 5 * 262144
/-- A slice. -/
def State.slice (s : State) (k : Nat) : Slice := Map.getD s.mem.slices k Slice.reset
def State.setSlice (s : State) (k : Nat) (x : Slice) : State :=
  { s with mem := { s.mem with slices := Map.put s.mem.slices k x } }

/-! ### Requests of another module (R378, R381) -/

/-- A request as its message states it. -/
structure Ask where
  kind : Nat
  op : Nat
  len : Nat
  key : BitVec 8
  addr : Nat
  data : List Byte
  deriving DecidableEq, Repr
def askOf (m : Msg) : Ask :=
  let r := Config.requestOf (BitVec.ofNat 64 (leNat (m.body.take 8)))
  { kind := r.1, op := r.2.1, len := r.2.2.1, key := BitVec.ofNat 8 r.2.2.2
    addr := leNat ((m.body.drop 8).take 8), data := (m.body.drop 16).take r.2.2.1 }
/-- Data of a request as a word of the 8 bytes from `k` on. -/
def askWord (m : Msg) (k : Nat) : Word := BitVec.ofNat 64 (leNat (((m.body.drop 16).drop k).take 8))

/-! ### Requests by source and number -/

/-- A request: of a core, whose number is below 1024, one of its accesses; of another agent, one of the memory's list. -/
def State.acc (s : State) (src id : Nat) : Option Acc :=
  if src < 1024 then (s.core src).accs.find? fun a => a.id == id else Map.find? s.mem.reqs id
/-- Change one access of core `n`. -/
def State.setAcc (s : State) (n id : Nat) (f : Acc → Acc) : State :=
  let c := s.core n
  s.setCore n { c with accs := c.accs.map fun a => if a.id == id then f a else a }
/-- Take a request off its list. -/
def State.dropAcc (s : State) (src id : Nat) : State :=
  if src < 1024 then
    let c := s.core src
    s.setCore src { c with accs := c.accs.filter fun a => a.id != id }
  else { s with mem := { s.mem with reqs := Map.del s.mem.reqs id } }

/-- The bytes that a request names, first and number: of a PGREF its entry, or the 16 entries of the group where the leaf is
in one (R298), of a JOIN its word (R326). -/
def Acc.span (a : Acc) (m : Mem) : Nat × Nat :=
  match a.kind with
  | .load _ pa n _ _ _ => (pa, n)
  | .brtEntry pa _ => (pa, 8)
  | .store pa bs _ _ => (pa, bs.length)
  | .atomic _ _ pa n .. => (pa, n)
  | .pgref .. => if pteG64 (m.dword a.pa) then (a.pa / 256 * 256, 256) else (a.pa, 16)
  | .join _ | .pte .. => (a.pa, 16)
  | .engRead _ _ _ n => (a.pa, n)
  | .engWrite _ _ _ bs _ | .put bs | .host _ (some bs) => (a.pa, bs.length)
  | .engSred .. => (a.pa, 4)
  | .host n none => (a.pa, n)
  | .ask m => (a.pa, if (askOf m).kind == 2 && (askOf m).op == 13 then 16 else (askOf m).len)
  | _ => (a.pa, 0)
/-- Is a request performed by an atomics unit (R283, R311)? -/
def AccKind.atUnit (k : AccKind) : Bool :=
  match k with | .atomic .. | .pgref .. | .join _ | .engSred .. => true | .ask m => (askOf m).kind == 2 | _ => false
/-- Do two runs of bytes meet? -/
def runsMeet (x y : Nat × Nat) : Bool := decide (x.1 < y.1 + y.2 ∧ y.1 < x.1 + x.2)

/-! ### Lines and ways (R279 to R281) -/

/-- The line of an address. -/
def lineOf (pa : Nat) : Nat := pa / 128
/-- The ways that a partition may fill (R281). -/
def Slice.ways (y : Slice) (part : Nat) : List Nat :=
  let mask := bitsAt (y.slpart[part / 4 % 4]'(Nat.mod_lt _ (by decide))).toNat (16 * (part % 4)) 16
  let win := bitsAt y.slcfg.toNat 0 5
  let ovf := bitsAt y.slcfg.toNat 8 4
  (List.range 16).filter fun w => mask.testBit w && decide (win ≤ w ∧ w + ovf < 16)
/-- Two lines in one set of one bank. -/
def sameSet (a b : Nat) : Bool := homeBank (a * 128) == homeBank (b * 128) && Config.setOf a == Config.setOf b
/-- Bring a line in by least-recently-used, within a partition's ways. -/
def Slice.allocate (y : Slice) (line part : Nat) : Slice :=
  let mine := y.present.filter fun e => sameSet e.1 line
  let ws := y.ways part
  match ws.find? fun w => !mine.any fun e => e.2 == w with
  | some w => { y with present := (line, w) :: y.present }
  | none =>
    match (mine.filter fun e => ws.contains e.2).getLast? with
    | some v => { y with present := (line, v.2) :: y.present.filter fun e => e != v }
    | none => y
/-- A hit makes its line the most recent one. -/
def Slice.touch (y : Slice) (line : Nat) : Slice :=
  match y.present.find? fun e => e.1 == line with
  | some e => { y with present := e :: y.present.filter fun x => x != e }
  | none => y
/-- List nodes in use. -/
def Slice.nodes (y : Slice) : Nat := (y.mshr.map fun e => e.2.length - 1).sum

/-! ### What holds a request back -/

/-- The whole 8-byte elements that a run of bytes touches (R283). -/
def wholeElements (x : Nat × Nat) : Nat × Nat :=
  let lo := alignDown x.1 8
  (lo, alignDown (x.1 + max x.2 1 + 7) 8 - lo)
/-- Is the element of a request one that an update in flight names (R283)? -/
def State.updating (s : State) (sl : Nat) (src id : Nat) (x : Nat × Nat) : Bool :=
  (s.slice sl).updates.any fun u => u != (src, id) && (match s.acc u.1 u.2 with
    | some a => runsMeet (wholeElements (a.span s.mem)) (wholeElements x)
    | none => false)
/-- R286: the layer and channel of a stack address, and whether it is blocked now. -/
def dramKey (d ch layer : Nat) : Nat := 2 ^ 20 + (d * 64 + ch) * 8 + layer
def State.blocked (s : State) (pa : Nat) : Bool :=
  s.mem.shape.inStack pa &&
    decide (s.time < (Map.getD s.mem.refresh (dramKey (s.mem.shape.homeDie pa) (bitsAt pa 8 6 ^^^ bitsAt pa 20 6) (bitsAt pa 32 3))
      (0, false)).1)
/-- Does an earlier waiting request of an ingress queue name the line? -/
def State.waitsBefore (s : State) (q : List (Nat × Nat)) (line : Nat) : Bool :=
  q.any fun r => match s.acc r.1 r.2 with | some a => lineOf a.pa == line | none => false

/-- Must an agent whose one request names these bytes wait: for an earlier request of a line that waits at its order point, an
update in flight of an element, or a blocked layer (log 35)? -/
def State.runHeld (s : State) (x : Nat × Nat) : Bool :=
  (List.range (lineOf (x.1 + max x.2 1 - 1) + 1 - lineOf x.1)).any fun k =>
    let l := lineOf x.1 + k
    let sl := s.mem.shape.homeSlice (l * 128)
    let y := s.slice sl
    y.mshr.any (fun e => e.1 == l) || s.waitsBefore y.ingress l || s.blocked (l * 128)
      || y.updates.any fun u => match s.acc u.1 u.2 with
        | some a => runsMeet (wholeElements (a.span s.mem)) (wholeElements x)
        | none => false
/-- Must a walk that such an agent makes wait at one of its entries? -/
def State.walkHeld (s : State) (va fuel : Nat) (x : WalkStep) : Bool :=
  match x, fuel with
  | .read level ent via, k + 1 =>
    s.runHeld (ent, 16) || (match s.mem.pte ent with
      | some (lo, hi) => s.walkHeld va k (s.mem.shape.walkNext level ent va via lo hi)
      | none => false)
  | _, _ => false
/-- Must such an agent wait to reach `n` bytes at a virtual address? -/
def State.vaHeld (s : State) (asid : BitVec 12) (gen : Word) (va n : Nat) : Bool :=
  s.walkHeld va 4 (s.mem.walkStart asid gen va) || (match s.mem.walk asid gen va with
    | some t => !s.remote (leafHome t) && s.runHeld (t.pa va, n)
    | none => false)

/-- Is a posted write of these bytes on its way? -/
def Mem.posted (m : Mem) (pa n : Nat) : Bool :=
  m.reqs.any fun e => match e.2.kind with | .put bs => runsMeet (e.2.pa, bs.length) (pa, n) | _ => false
/-- Write bytes at a virtual address for a unit or a die controller, line by line, `fuel` lines: the requests enter the agent's
channels (R309, R312); whether a part faulted. -/
def State.postBytes (s : State) (agent : Nat) (asid : BitVec 12) (gen : Word) (fuel va : Nat) (bs : List Byte) : State × Bool :=
  match fuel, bs with
  | 0, _ => (s, false)
  | _, [] => (s, false)
  | k + 1, bs =>
    let n := min bs.length (128 - va % 128)
    let go (s : State) (bad : Bool) : State × Bool :=
      let r := s.postBytes agent asid gen k (va + n) (bs.drop n)
      (r.1, bad || r.2)
    if 2 ^ 56 ≤ va then go s true
    else match s.mem.walk asid gen va with
      | none => go s true
      | some t =>
        let pa := t.pa va
        if (s.mem.checkLeaf .store true asid t.lo t.hi pa).isSome then go s true
        else if s.remote (leafHome t) then
          go (s.sendMsg agent (leafHome t) 0 (messageBody 1 0 n pa (pteKey t.hi) (bs.take n))) false
        else go (s.push agent (t.req (.put (bs.take n)) pa 0)) false

/-! ### The fabric's registers (Tables FAB-2 to FAB-4) -/

def Fabric.link (f : Fabric) (p : Nat) : Link := Map.getD f.links p Link.reset
def Fabric.setLink (f : Fabric) (p : Nat) (l : Link) : Fabric := { f with links := Map.put f.links p l }
def Fabric.status (f : Fabric) (p : Nat) : Word := Map.getD f.fpstat p 0
def Fabric.setStatus (f : Fabric) (p : Nat) (x : Word) : Fabric := { f with fpstat := Map.put f.fpstat p x }
/-- Is a port up? -/
def Fabric.anyUp (f : Fabric) : Bool := (List.range 144).any fun p => f.width p != 0
/-- A write of FABCFG: MODNUM stays while a port is up; every port that is up advertises anew. -/
def Fabric.writeCfg (f : Fabric) (x : Word) : Fabric :=
  let x := x &&& 0xC0FF0000FFFFFFFF
  let x := if f.anyUp then (x &&& 0xC0000000FFFFFFFF) ||| (f.cfg &&& 0x00FF000000000000) else x
  let f := { f with cfg := x }
  ((List.range 144).filter fun p => f.width p != 0).foldl
    (fun (f : Fabric) p => f.setLink p { f.link p with cap := true }) f
/-- A write of FPSTAT: its counters are W1C, its other fields RO. -/
def Fabric.writeStatus (f : Fabric) (p : Nat) (x : Word) : Fabric := f.setStatus p (f.status p &&& ~~~(x &&& 0xFFFFFFFF))
/-- A write of a route entry. -/
def Fabric.writeRoute (f : Fabric) (m : Nat) (x : Word) : Fabric :=
  { f with routes := Map.put f.routes m (x &&& 0x80000003FFFFFFFF) }

/-- A register of the fabric. -/
inductive FabReg where
  | cfg
  | stat (p : Nat)
  | route (m : Nat)
  deriving DecidableEq, Repr
/-- The register at an address of the control space that is a multiple of 8. -/
def fabReg (pa : Nat) : Option FabReg :=
  let o := pa - 0xF00000010000
  if pa = 0xF00000010000 then some .cfg
  else if pa < 0xF00000011000 then none
  else if decide (o < 0x1000 + 144 * 0x40) then (if o % 0x40 = 0 then some (.stat ((o - 0x1000) / 0x40)) else none)
  else if decide (0x4000 ≤ o ∧ o < 0x4800) then some (.route ((o - 0x4000) / 8))
  else none
/-- R4: what a read of it returns. -/
def Fabric.reg (f : Fabric) (r : FabReg) : Word :=
  match r with | .cfg => f.cfg | .stat p => f.status p | .route m => Map.getD f.routes m 0
/-- What a write of it does. -/
def Fabric.writeReg (f : Fabric) (r : FabReg) (x : Word) : Fabric :=
  match r with | .cfg => f.writeCfg x | .stat p => f.writeStatus p x | .route m => f.writeRoute m x
/-- A doubleword of the control space: a fabric register, or a free value (log 20). -/
def State.controlWord (s : State) (pa : Nat) : Word :=
  match fabReg pa with | some r => s.fab.reg r | none => Config.controlWord s.tick pa
/-- A byte of it. -/
def State.controlByte (s : State) (pa : Nat) : Byte := (s.controlWord (alignDown pa 8)).extractLsb' (8 * (pa % 8)) 8
/-- Store bytes, of one aligned doubleword, in the control space.  Bytes of an RW register that the store does not name
keep their value, and clear no bit of a W1C field (log 20). -/
def State.controlStore (s : State) (pa : Nat) (bs : List Byte) : State :=
  match fabReg (alignDown pa 8) with
  | none => s
  | some r =>
    let put (old : Word) : Word := bs.zipIdx.foldl (fun (x : Word) b =>
      let k := 8 * ((pa + b.2) % 8)
      (x &&& ~~~((0xFF : Word) <<< k)) ||| ((b.1.setWidth 64 : Word) <<< k)) old
    let old := match r with | .stat _ => 0 | _ => s.fab.reg r
    { s with fab := s.fab.writeReg r (put old) }

/-! ### Bytes at their home -/

/-- A byte as its home gives it: none where it is uncorrectable or its block does not expand. -/
def Mem.homeByte (m : Mem) (a : Acc) (pa : Nat) : Option Byte :=
  if m.ecc.contains (pa / 32) then none
  else m.plainByte ⟨0, 0, 0, 0, 0, BitVec.ofNat 64 (a.cbf.toNat * 64), a.key.setWidth 64 <<< 20⟩ pa
/-- The bytes of a run as a request finds them. -/
def State.homeBytes (s : State) (a : Acc) (pa n : Nat) : List (Option Byte) :=
  (upFrom pa n).map fun x => if inControl x then some (s.controlByte x) else s.mem.homeByte a x
/-- Write bytes as a request does. -/
def State.homeStore (s : State) (key : BitVec 8) (pa : Nat) (bs : List Byte) : State :=
  if inControl pa then s.controlStore pa bs else { s with mem := s.mem.store key pa bs }
/-- The die controller logs an event of memory. -/
def State.note (s : State) (e : MemEvent) : State := { s with mem := { s.mem with log := s.mem.log ++ [e] } }
/-- R285: the uncorrectable units of a run that has been read are logged. -/
def State.noteBad (s : State) (pa n : Nat) : State :=
  ((upFrom pa n).filter fun x => s.mem.ecc.contains (x / 32) && (x == pa || x % 32 == 0)).foldl
    (fun s x => s.note (.uncorrectable x)) s
/-- R292: a write meets the sealed granule map at its home: it changes nothing, the log tells, and a core takes the permission
fault as a boundary event (log 35). -/
def State.refuseWrite (s : State) (src pa : Nat) : State :=
  let s := s.note (.sealed pa)
  if src < 1024 then s.post src ⟨7, 2, BitVec.ofNat 64 pa⟩ else s
/-- Does a run meet a sealed granule? -/
def Mem.sealedRun (m : Mem) (pa n : Nat) : Bool := (upFrom pa n).any m.isSealed

end Sys2Proof.Machine
end

