-- ==== Sys2Proof/Machine/Queue.lean ====
section
/-! DEFINITION. Continuation records (R319), queues and grids (R320 to R322), join words and the release of grids
(R327). -/

namespace Sys2Proof.Machine

/-! ### Continuation records (Table SCH-2) -/

/-- Doubleword `k` of a record. -/
def recDw (r : BitVec 512) (k : Nat) : Word := r.extractLsb' (64 * k) 64
/-- A field of a record: doubleword, lowest bit, width. -/
def recField (r : BitVec 512) (k lo n : Nat) : Nat := bitsAt (recDw r k).toNat lo n
def recQueue (r : BitVec 512) : Nat := recField r 0 56 8
def recAsid (r : BitVec 512) : BitVec 12 := (recDw r 3).extractLsb' 42 12
def recPrio (r : BitVec 512) : Nat := recField r 3 58 6
def recPart (r : BitVec 512) : BitVec 4 := (recDw r 3).extractLsb' 54 4
def recSplit (r : BitVec 512) : Bool := (recDw r 3).getLsbD 41
def recRect (r : BitVec 512) : Bool := (recDw r 3).getLsbD 38
def recClose (r : BitVec 512) : Bool := (recDw r 3).getLsbD 37
/-- An address of bits 55:4 (JOINADDR, DEPADDR). -/
def recAddr (r : BitVec 512) (k : Nat) : Nat := recField r k 4 52 * 16

/-- R321: WellFormed; of a record from PUSHW, doublewords 6 and 7 are ignored. -/
def recOk (r : BitVec 512) (src : EnqSource) : Bool :=
  let f := recField r
  f 0 0 5 == 0 && f 2 56 8 == 0 && f 2 0 4 == 0 && decide (f 3 39 2 ≤ 2) && f 3 7 13 == 0
    && (!recRect r || f 3 0 7 + 1 == 4 * (f 3 32 3 + 1) * (f 3 35 2 + 1))
    && (src == .pushw || (decide (f 6 0 25 ≤ 2 ^ 24) && f 6 25 39 == 0 && f 7 56 8 == 0 && f 7 0 4 == 0))

/-- A record with PRIO replaced. -/
def recPut (r : BitVec 512) (prio : Nat) : BitVec 512 :=
  let hole : BitVec 512 := BitVec.ofNat 512 (63 * 2 ^ 58) <<< 192
  (r &&& ~~~hole) ||| BitVec.ofNat 512 (prio % 64 * 2 ^ 58) <<< 192
/-- A record with ASID and PRIO replaced. -/
def recWith (r : BitVec 512) (asid : BitVec 12) (prio : Nat) : BitVec 512 :=
  let hole : BitVec 512 := BitVec.ofNat 512 (63 * 2 ^ 58 + 0xFFF * 2 ^ 42) <<< 192
  (r &&& ~~~hole) ||| BitVec.ofNat 512 (prio % 64 * 2 ^ 58 + asid.toNat * 2 ^ 42) <<< 192

/-! ### Memory as the die reads it -/

/-- The GENROOT that a launch binds: doubleword 2 of the ASTE, with V from WCEN (R287). -/
def Mem.genOf (m : Mem) (asid : BitVec 12) : Word :=
  let e := m.aste asid
  (e.dw2 &&& ~~~0x1FFF) ||| BitVec.ofNat 64 (e.dw1.getLsbD 63).toNat
/-- The leaf of an address in a space, as the die translates it (log 24). -/
def State.dieLeaf (s : State) (asid : BitVec 12) (va : Nat) : Option Tlb :=
  let g := s.mem.genOf asid
  let gen := if g.getLsbD 0 then g else 0
  s.mem.walk asid gen va
/-- Must the die wait to reach `n` bytes at an address (R282, R283, R286)? -/
def State.dieHeld (s : State) (asid : BitVec 12) (va n : Nat) : Bool :=
  let g := s.mem.genOf asid
  s.vaHeld asid (if g.getLsbD 0 then g else 0) va n
/-- Up to a page of bytes behind a leaf: none where it may not be read, or where one is uncorrectable; a byte of another module is
a free value. -/
def State.leafRead (s : State) (t : Tlb) (va n : Nat) : Option (List Byte) :=
  if !pteR t.lo || (!s.remote (leafHome t) && s.mem.bad (t.pa va) n) then none
  else some ((upFrom (t.pa va) n).map fun a =>
    if s.remote (leafHome t) then Config.remoteByte s.tick a else s.mem.byte (pteKey t.hi) a)
/-- The same of an address that the die translates. -/
def State.dieRead (s : State) (asid : BitVec 12) (va n : Nat) : Option (List Byte) :=
  (s.dieLeaf asid va).bind fun t => s.leafRead t va n
/-- What names a join word in the module: its home and physical address. -/
def wordKey (home pa : Nat) : Nat := home * 2 ^ 56 + pa

/-! ### Queues (R320, R321) -/

def State.queue (s : State) (d q : Nat) : Queue := Map.getD (s.die d).queues q Queue.reset
def State.setQueue (s : State) (d q : Nat) (x : Queue) : State :=
  let y := s.die d
  s.setDie d { y with queues := Map.put y.queues q x }
def Queue.en (q : Queue) : Bool := q.dw0.getLsbD 63
def Queue.isPop (q : Queue) : Bool := q.dw0.getLsbD 62
def Queue.closed (q : Queue) : Bool := q.dw0.getLsbD 61
def Queue.asid (q : Queue) : BitVec 12 := q.dw0.extractLsb' 0 12
def Queue.full (q : Queue) : Bool := decide (2 ^ q.log2.toNat ≤ q.recs.length)

/-- The lowest place of the ring that no record holds; which of the free places the die takes is not stated (log 32). -/
def Queue.freeSlot (q : Queue) : Nat :=
  ((List.range (q.recs.length + 1)).find? fun k => !q.recs.any fun r => r.slot == some k).getD 0
/-- The address of a place of the ring (Table SCH-3). -/
def Queue.ringAt (q : Queue) (k : Nat) : Nat := q.base.toNat + 64 * k
/-- Append a record with the next sequence number, at a place of the ring if it is written there. -/
def Queue.append (q : Queue) (r : QRec) (slot : Option Nat) (time : Nat) : Queue :=
  { q with recs := q.recs ++ [{ r with seq := q.next, time := time, slot := slot }], next := (q.next + 1) % 2 ^ 48 }
/-- R320, R321: a record takes its place in the ring, to which the die writes it; or it waits in the die. -/
def State.queueIn (s : State) (d qn : Nat) (r : QRec) : State :=
  let q := s.queue d qn
  if q.full then s.setQueue d qn { q with waiting := q.waiting ++ [r] }
  else
    let k := q.freeSlot
    let g := s.mem.genOf q.asid
    let y := s.postBytes (agentDie d) q.asid (if g.getLsbD 0 then g else 0) 1 (q.ringAt k) (leBytes 64 r.bits.toNat)
    y.1.setQueue d qn (q.append r (if y.2 then none else some k) s.time)
/-- Take a record out of a queue; one that waits takes the place that has become free. -/
def State.takeRec (s : State) (d qn seq : Nat) : State :=
  let q := s.queue d qn
  let q := { q with recs := q.recs.filter fun r => r.seq != seq }
  match q.waiting with
  | r :: rest => if q.full then s.setQueue d qn q else (s.setQueue d qn { q with waiting := rest }).queueIn d qn r
  | [] => s.setQueue d qn q
/-- The bytes of a record as the ring holds them: none while the die's write of them is on its way. -/
def State.ringRead (s : State) (q : Queue) (r : QRec) : Option (BitVec 512) :=
  match r.slot.bind fun k => (s.dieLeaf q.asid (q.ringAt k)).map fun t => (t, t.pa (q.ringAt k)) with
  | none => some r.bits
  | some (t, pa) =>
    if !pteR t.lo then some r.bits
    else if s.remote (leafHome t) then some (BitVec.ofNat 512 (leNat ((upFrom pa 64).map (Config.remoteByte s.tick))))
    else if s.mem.posted pa 64 || s.runHeld (pa, 64) then none
    else some (BitVec.ofNat 512 (leNat (s.mem.load (pteKey t.hi) pa 64)))

/-- A discard: DROP counts, saturating, and the die controller is told. -/
def State.discard (s : State) (d qn : Nat) : State :=
  let q := s.queue d qn
  let s := s.setQueue d qn { q with drop := if q.drop = 0xFFFF then q.drop else q.drop + 1 }
  { s with reports := s.reports ++ [Report.discarded d qn] }

/-! ### Grids (R325, R327) -/

def State.grid (s : State) (d g : Nat) : Option Grid := Map.find? (s.die d).grids g
def State.setGrid (s : State) (d g : Nat) (x : Grid) : State :=
  let y := s.die d
  s.setDie d { y with grids := Map.put y.grids g x }

/-- The instance count of a grid at its release; a count above 2^24 is taken as 2^24 and logged. -/
def State.countOf (s : State) (x : Grid) : Nat × State :=
  match x.idx with
  | none => (x.total, s)
  | some (pa, key) =>
    let n := leNat (if pa < 2 ^ 56 then s.mem.load key pa 4
      else (upFrom (pa % 2 ^ 56) 4).map (Config.remoteByte s.tick))
    if n ≤ 2 ^ 24 then (n, s)
    else (2 ^ 24, { s with pkg := { s.pkg with log := s.pkg.log ++ [(0x50, BitVec.ofNat 64 n)] } })

/-- A grid is released: LAUNCHI reads its count, and the record enters its queue unless there is no instance. -/
def State.releaseGrid (s : State) (d g : Nat) : State :=
  match s.grid d g with
  | none => s
  | some x =>
    let (n, s) := s.countOf x
    let s := s.setGrid d g { x with total := n, waiting := none, released := true }
    if n = 0 then s
    else s.queueIn d x.queue ⟨x.record, 0, 0, x.prio, some g, none, false⟩

/-- R321: Enqueue.  `idx` is LAUNCHI's count. -/
def State.enqueue (s : State) (d : Nat) (r : BitVec 512) (src : EnqSource) (ctx : EnqCtx)
    (idx : Option (Nat × BitVec 8)) : State :=
  let qn := recQueue r
  let asid := if ctx.user then ctx.asid else recAsid r
  let prio := if ctx.user then min (recPrio r) ctx.cprio.toNat else recPrio r
  let q := s.queue d qn
  if !q.en || q.asid != asid || q.closed then s.discard d qn
  else if recClose r then s.setQueue d qn { q with dw0 := q.dw0 ||| 0x2000000000000000 }
  else if q.isPop then
    if src == .pushw then s.queueIn d qn ⟨recPut r prio, 0, 0, prio, none, none, false⟩ else s.discard d qn
  else if !recOk r src then s.discard d qn
  else
    let many := src == .launch || src == .launchi
    let dep := if many then recAddr r 7 else 0
    let n := (s.die d).nextGrid
    let x : Grid :=
      { record := recWith r asid prio, queue := qn, prio := prio, total := if many then recField r 6 0 25 else 1,
        placed := 0, finished := 0, idx := idx, waiting := none, released := false, job := ctx.job }
    let put (s : State) (x : Grid) : State :=
      let s := s.setGrid d n x
      s.setDie d { s.die d with nextGrid := n + 1 }
    if dep = 0 then (put s x).releaseGrid d n
    else match s.dieLeaf asid dep, s.dieRead asid dep 4 with
      | some t, some bs =>
        if leNat bs = 0 then (put s x).releaseGrid d n
        else put s { x with waiting := some (wordKey (leafHome t) (t.pa dep)) }
      | _, _ => s.discard d qn

/-- ENQUEUE: a record reaches the die from outside a core. -/
def execEnqueue (d : Nat) (r : BitVec 512) (src : EnqSource) (ctx : EnqCtx) (s : State) :
    Host.Outcome State Fault Refusal :=
  .next (s.enqueue d r src ctx none)

/-- A grid that waits for a word of another module, whose count now reads zero. -/
def State.dependenceMet (s : State) (x : Grid) : Bool :=
  match x.waiting with
  | none => false
  | some w => s.remote (w / 2 ^ 56)
    && leNat ((upFrom (w % 2 ^ 56) 4).map (Config.remoteByte s.tick)) == 0
/-- GRID_RELEASE. -/
def State.gridReleases (s : State) (d g : Nat) : Option State :=
  match s.grid d g with
  | none => none
  | some x =>
    let held := match x.idx with | some (pa, _) => decide (pa < 2 ^ 56) && s.runHeld (pa, 4) | none => false
    if x.waiting.isSome && (x.released || s.dependenceMet x) && !held then some (s.releaseGrid d g) else none
def execGridRelease (d k : Nat) (s : State) : Host.Outcome State Fault Refusal :=
  .next ((s.gridReleases d k).getD s)

/-! ### Joins (R327) -/

/-- ReleasePending: the grids whose dependence word has reached zero may be released. -/
def State.releasePending (s : State) (w : Nat) : State :=
  { s with dies := s.dies.map fun e => (e.1, { e.2 with
    grids := e.2.grids.map fun g => if g.2.waiting == some w then (g.1, { g.2 with released := true }) else g }) }

/-- R347: a registered root word has reached zero. -/
def State.rootDone (s : State) (pa : Nat) (err : Bool) : State :=
  let hit (r : Root) : Bool :=
    match s.dieLeaf r.asid r.addr.toNat with
    | some t => r.finished.isNone && !s.remote (leafHome t) && t.pa r.addr.toNat == pa
    | none => false
  { s with pkg := { s.pkg with
    roots := s.pkg.roots.map fun r => if hit r then { r with finished := some err } else r } }

/-- Join: at the word's home atomics unit; the continuation is enqueued on the joiner's die. -/
def State.joinWord (s : State) (d pa : Nat) (key : BitVec 8) (ctx : EnqCtx) : State :=
  let lo := BitVec.ofNat 64 (leNat (s.mem.load key pa 8))
  let hi := leNat (s.mem.load key (pa + 8) 8)
  let put (x : Word) : State := { s with mem := s.mem.store key pa (leBytes 8 x.toNat) }
  if s.mem.bad pa 16 then { s with pkg := { s.pkg with log := s.pkg.log ++ [(0x4E, BitVec.ofNat 64 pa)] } }
  else if bitsAt lo.toNat 0 32 = 0 || bitsAt lo.toNat 32 31 ≠ 0 || bitsAt hi 56 8 ≠ 0 || bitsAt hi 0 6 ≠ 0 then
    put (lo ||| 0x8000000000000000)
  else
    let s := put (lo - 1)
    if bitsAt lo.toNat 0 32 ≠ 1 then s
    else
      let s := (s.releasePending (wordKey s.fab.modnum pa)).rootDone pa (lo.getLsbD 63)
      let cont := bitsAt hi 6 50 * 64
      if cont = 0 then s
      else match s.dieRead ctx.asid cont 64 with
        | some bs => s.enqueue d (BitVec.ofNat 512 (leNat bs)) .join ctx none
        | none => { s with reports := s.reports ++ [Report.discarded d 256] }

/-- Must a join wait before the die can read the continuation record that its word names? -/
def State.joinHeld (s : State) (pa : Nat) (key : BitVec 8) (asid : BitVec 12) : Bool :=
  let lo := leNat (s.mem.load key pa 8)
  let hi := leNat (s.mem.load key (pa + 8) 8)
  !s.mem.bad pa 16 && bitsAt lo 0 32 == 1 && bitsAt hi 6 50 != 0 && s.dieHeld asid (bitsAt hi 6 50 * 64) 64
/-- The operand of a join that goes to another module. -/
def joinRight (x : EnqCtx) : Word :=
  BitVec.ofNat 64 (x.user.toNat * 2 ^ 32 + x.asid.toNat * 2 ^ 8 + x.cprio.toNat)

/-- The join that the die performs when a grid completes (R325): of a word that is not there, or may not be written,
the log tells. -/
def State.dieJoin (s : State) (d : Nat) (addr : Nat) (ctx : EnqCtx) : State :=
  let lost : State := { s with pkg := { s.pkg with log := s.pkg.log ++ [(0x4E, BitVec.ofNat 64 addr)] } }
  match s.dieLeaf ctx.asid addr with
  | none => lost
  | some t =>
    let pa := t.pa addr
    if (s.mem.checkLeaf .atomic true ctx.asid t.lo t.hi pa).isSome then lost
    else if s.remote (leafHome t) then
      s.sendMsg (agentDie d) (leafHome t) 0 (messageBody 2 13 16 pa (pteKey t.hi) (leBytes 8 (joinRight ctx).toNat))
    else s.joinWord d pa (pteKey t.hi) ctx

end Sys2Proof.Machine
end

