-- ==== Sys2Proof/Machine/Coolant.lean ====
section
/-! DEFINITION. The coolant: zones, the ephemeris and its arbiter, sensors, throttling, the thermal and
dry-channel traps, the evacuation of a dry zone, TALW and FLOWQ (R358 to R371). -/

namespace Sys2Proof.Machine

/-! ### Zones and the ephemeris -/

/-- R358: the zone under a core: two clusters side by side in a mesh row of eight. -/
def State.zoneOf (s : State) (n : Nat) : Nat := s.mem.shape.place (dieOf n) (clusterOf n) / 2
/-- R360: the absolute slot of a time, and CUR. -/
def slotAt (time : Nat) : Nat := time / 10000
def State.cur (s : State) : Nat := slotAt s.time % 256
/-- Entry `slot` of die `d`'s ephemeris: position 3 everywhere at reset (Table CLT-3). -/
def Cool.entry (c : Cool) (d slot : Nat) : Word := Map.getD c.eph (d * 256 + slot) 0x3333333333333333
/-- The position of a zone in an entry. -/
def posIn (w : Word) (z : Nat) : Nat := bitsAt w.toNat (4 * z) 4
/-- The position of a zone now. -/
def State.pos (s : State) (d z : Nat) : Nat := posIn (s.cool.entry d s.cur) z
/-- The sum of an entry's positions. -/
def entrySum (w : Word) : Nat := ((List.range 16).map (posIn w)).sum
/-- The module's committed sum in a slot. -/
def Cool.sum (c : Cool) (nd slot : Nat) : Nat :=
  ((List.range nd).map fun d => entrySum (c.entry d slot)).sum
def State.sum (s : State) (slot : Nat) : Nat := s.cool.sum s.mem.shape.nd slot
/-- A zone record. -/
def Cool.zone (c : Cool) (d z : Nat) : Zone := Map.getD c.zones (d * 16 + z) Zone.reset
def Cool.setZone (c : Cool) (d z : Nat) (x : Zone) : Cool :=
  { c with zones := Map.put c.zones (d * 16 + z) x }
/-- Is the zone in DRY (R371)? -/
def Zone.dry (x : Zone) : Bool :=
  match x.state with | .normal => false | .failed => false | _ => true
/-- Is the zone gated by an evacuation? -/
def Zone.shut (x : Zone) : Bool :=
  match x.state with | .gatedDry _ => true | .primed => true | .failed => true | _ => false
/-- R361, R371: is the zone gated now? -/
def State.gated (s : State) (d z : Nat) : Bool := s.pos d z == 0 || (s.cool.zone d z).shut
/-- R366: is the zone throttled? -/
def Zone.throttled (x : Zone) : Bool := x.throtJ || x.throtD || x.dry
/-- R365: ALLOW. -/
def allowance (tj td : Nat) : Nat := min (420 - tj) (340 - td)

/-- The zone record in the layout of the TALW reply (Table CLT-7). -/
def State.talwWord (s : State) (d z : Nat) : Word :=
  let x := s.cool.zone d z
  BitVec.ofNat 64
    ((s.gated d z).toNat * 2 ^ 62 + x.dry.toNat * 2 ^ 61 + x.throttled.toNat * 2 ^ 60
      + (x.ref2x != 0).toNat * 2 ^ 59 + z % 16 * 2 ^ 54 + s.pos d z * 2 ^ 50 + x.td % 1024 * 2 ^ 40
      + x.tj % 1024 * 2 ^ 30 + allowance x.tj x.td * 2 ^ 20 + s.cur * 2 ^ 12)

/-- R367: the thermal snapshot of a die. -/
def State.thermal (s : State) (d : Nat) : List Word := (List.range 16).map (s.talwWord d)

/-! ### TALW and FLOWQ (R368) -/

/-- The failure reply with a status. -/
def failWord (status : Nat) : Word := BitVec.ofNat 64 (2 ^ 63 + status)

/-- The status of a CoreIndex as TALW and FLOWQ see it from core `n`; 0 where they succeed. -/
def State.coreStatus (s : State) (n x : Nat) : Nat :=
  if x / 256 ≥ s.mem.shape.nd || clusterOf x ≥ s.mem.shape.ncl (x / 256) then 1 else if dieOf x ≠ dieOf n then 2 else 0

/-- TALW's reply: from the snapshot; live in a handler or where there is none. -/
def State.talw (s : State) (n : Nat) (a : Word) : Word :=
  let c := s.core n
  let x := bitsAt a.toNat 0 10
  let st := s.coreStatus n x
  if st ≠ 0 then failWord st
  else match (if c.inTrap then none else c.ctx.thermal) with
    | some ws => ws.getD (s.zoneOf x) 0
    | none => s.talwWord (dieOf n) (s.zoneOf x)

/-- FLOWQ's reply. -/
def State.flowq (s : State) (n : Nat) (a : Word) : Word :=
  let x := bitsAt a.toNat 0 10
  let st := s.coreStatus n x
  if st ≠ 0 then failWord st
  else
    let d := dieOf n
    let z := s.zoneOf x
    let slot := (s.cur + bitsAt a.toNat 10 8) % 256
    BitVec.ofNat 64
      (slot * 2 ^ 55 + posIn (s.cool.entry d slot) z * 2 ^ 51 + s.sum slot % 1024 * 2 ^ 41
        + (s.cool.zone d z).meas % 256 * 2 ^ 33 + s.cool.modflow % 256 * 2 ^ 25)

/-- A must-be-zero bit of Ga that is set. -/
def mustBeZero (a : Word) (lo n : Nat) : Option TrapInfo :=
  if bitsAt a.toNat lo n ≠ 0 then some ⟨2, 0, 0, a⟩ else none

def opTalw (g : Guard) (d : GReg) (a : GSrc) : Op :=
  { guard := g, needs := [10], srcs := [.g a], gd := some d
    chk := fun s => mustBeZero (s.opA a) 10 54
    run := fun s => s.send 1 (.g d (s.talw s.iss.cur (s.opA a)) false) }
def opFlowq (g : Guard) (d : GReg) (a : GSrc) : Op :=
  { guard := g, needs := [10], srcs := [.g a], gd := some d
    chk := fun s => mustBeZero (s.opA a) 18 46
    reqs := fun s => some (gBytes (s.opA a))
    run := fun s => s.onMe fun c =>
      (c.addAcc (.flowq d (s.opA a)) false 0 0 0 true).emptyG d }

def execTalw (g : Guard) (d : GReg) (a : GSrc) (s : State) := runOp (opTalw g d a) s
def execFlowq (g : Guard) (d : GReg) (a : GSrc) (s : State) := runOp (opFlowq g d a) s

/-! ### Commits (R362 to R364) -/

/-- A gang's reservation (R362): HEAT units until its last slot, given as absolute slots. -/
def Gang.heat (g : Gang) : Nat := (g.record.extractLsb' (192 + 20) 4).toNat
def Gang.lastSlot (g : Gang) : Nat := g.slot + (g.record.extractLsb' (192 + 24) 8).toNat
/-- R362: does a gang hold a reservation on a zone in a slot (0 to 255)?  While it holds it, in every slot of it. -/
def State.reserves (s : State) (g : Gang) (z slot : Nat) : Bool :=
  g.holds && decide (slotAt s.time ≤ g.lastSlot)
    && (List.range (g.lastSlot + 1 - g.slot)).any (fun k => (g.slot + k) % 256 == slot)
    && g.pairs.any (fun p => s.zoneOf (2 * p) == z)
/-- The gangs of a die that hold a reservation on a zone in a slot. -/
def State.holders (s : State) (d z slot : Nat) : List (Nat × Gang) :=
  match Map.find? s.dies d with
  | none => []
  | some x => x.gangs.filter fun e => s.reserves e.2 z slot

/-- A commit request, read (Table CLT-4). -/
structure Commit where
  die : Nat
  first : Nat
  mask : BitVec 16
  wd : Bool
  words : List Word
  deriving DecidableEq, Repr

/-- A doubleword of bytes. -/
def dwAt (bs : List Byte) (k : Nat) : Word := BitVec.ofNat 64 (leNat ((bs.drop (8 * k)).take 8))

/-- Doublewords of a record under an address space, without GENROOT: none where one cannot be read. -/
def State.readDwords (s : State) (asid : BitVec 12) (va n : Nat) : Option (List Word) :=
  (List.range n).mapM fun k =>
    ((s.mem.walk asid 0 (va + 8 * k)).bind fun t => s.leafRead t (va + 8 * k) 8).map fun bs => BitVec.ofNat 64 (leNat bs)
/-- The doublewords of a record from its header: none where a must-be-zero field is not zero or DIE is not presented. -/
def State.headOk (s : State) (d0 d1 : Word) : Bool :=
  bitsAt d0.toNat 56 6 == 0 && bitsAt d0.toNat 16 24 == 0 && bitsAt d1.toNat 1 63 == 0
    && decide (bitsAt d0.toNat 62 2 < s.mem.shape.nd)
/-- Check 1 of Table CLT-5. -/
def State.readCommit (s : State) (core : Nat) (addr : Word) : Option Commit :=
  let asid := (s.core core).regs.sasid
  match s.readDwords asid addr.toNat 2 with
  | some [d0, d1] =>
    if !s.headOk d0 d1 then none
    else (s.readDwords asid (addr.toNat + 16) (bitsAt d0.toNat 40 8 + 1)).map fun ws =>
      { die := bitsAt d0.toNat 62 2, first := bitsAt d0.toNat 48 8, mask := d0.extractLsb' 0 16, wd := d1.getLsbD 0, words := ws }
  | _ => none
/-- Must the die controller wait to read a record (log 35)? -/
def State.commitHeld (s : State) (core : Nat) (addr : Word) : Bool :=
  let asid := (s.core core).regs.sasid
  let n := match s.readDwords asid addr.toNat 2 with | some [d0, _] => bitsAt d0.toNat 40 8 + 3 | _ => 2
  (List.range n).any fun k => s.vaHeld asid 0 (addr.toNat + 8 * k) 8

/-- The positions of `new` for the zones of a mask, of `old` for the others. -/
def mergePos (mask : BitVec 16) (new old : Word) : Word :=
  BitVec.ofNat 64 ((List.range 16).map fun z =>
    (if mask.getLsbD z then posIn new z else posIn old z) * 16 ^ z).sum

/-- The slots of a commit with their new words. -/
def Commit.slots (c : Commit) : List (Nat × Word) :=
  c.words.zipIdx.map fun x => ((c.first + x.2) % 256, x.1)

/-- Check 4: does a word give zone `z` less than a reservation that it holds in a slot, or 0? -/
def State.lowers (s : State) (c : Commit) (slot : Nat) (w : Word) (z : Nat) : Bool :=
  c.mask.getLsbD z && (s.holders c.die z slot).any fun e => decide (posIn w z < e.2.heat) || posIn w z == 0

/-- The ephemerides with a commit applied. -/
def Cool.apply (x : Cool) (c : Commit) : Cool :=
  c.slots.foldl (fun x e =>
    { x with eph := Map.put x.eph (c.die * 256 + e.1) (mergePos c.mask e.2 (x.entry c.die e.1)) }) x

/-- Table CLT-5: the status and FAILSLOT; 0 where every check passes. -/
def State.checkCommit (s : State) (c : Commit) : Nat × Nat :=
  match c.slots.find? (fun e => e.1 == s.cur) with
  | some e => (3, e.1)
  | none =>
    if c.slots.any (fun e => (List.range 16).any fun z => c.mask.getLsbD z
        && (s.cool.zone c.die z).state == .failed && posIn e.2 z != 0) then (5, 0)
    else match (if c.wd then none
        else c.slots.find? fun e => (List.range 16).any (s.lowers c e.1 e.2)) with
      | some e => (4, e.1)
      | none =>
        match c.slots.find? fun e => decide (s.cool.modflow < (s.cool.apply c).sum s.mem.shape.nd e.1) with
        | some e => (2, e.1)
        | none => (0, 0)

/-- The request word of a pre-emption (Table SCH-8). -/
def preemptWord (gang kind prio : Nat) : Word := BitVec.ofNat 64 (gang % 65536 * 256 + kind % 4 * 64 + prio % 64)

/-- R329: request pre-emption of a gang: every context of it takes the event. -/
def State.preempt (s : State) (d gang kind prio : Nat) : State :=
  match Map.find? s.dies d with
  | none => s
  | some x => match Map.find? x.gangs gang with
    | none => s
    | some g =>
      let w := preemptWord gang kind prio
      let s := { s with dies := Map.put s.dies d { x with
        gangs := Map.put x.gangs gang { g with preempt := some (w, s.time) } } }
      ((if g.launched then g.cores.zipIdx.filter fun n =>
          (s.core n.1).run != .stopped .halted && !g.saved.contains n.2 && !g.done.contains n.2 else []).map (·.1)).foldl
        (fun (s : State) n => s.post n ⟨19, 0, w⟩) s

/-- The gangs of die `d` whose reservation a commit lowers. -/
def State.lowered (s : State) (c : Commit) : List Nat :=
  match Map.find? s.dies c.die with
  | none => []
  | some x => (x.gangs.filter fun e => c.slots.any fun sl => (List.range 16).any fun z =>
      c.mask.getLsbD z && s.reserves e.2 z sl.1 && decide (posIn sl.2 z < e.2.heat)).map (·.1)

/-- EPHSTAT of a core. -/
def State.setEphstat (s : State) (n : Nat) (x : Word) : State :=
  let c := s.core n
  s.setCore n { c with regs := { c.regs with ephstat := x } }

/-- R363, R364: the arbiter serves a commit of a core. -/
def State.serveCommit (s : State) (core : Nat) (addr : Word) : State :=
  match s.readCommit core addr with
  | none => s.setEphstat core 1
  | some c =>
    let (st, slot) := s.checkCommit c
    if st ≠ 0 then s.setEphstat core (BitVec.ofNat 64 (slot * 256 + st))
    else
      let lost := if c.wd then s.lowered c else []
      (lost.foldl (fun (s : State) g => s.preempt c.die g 2 0) { s with cool := s.cool.apply c }).setEphstat core 0
/-- R359: it serves a write of MODFLOW; one above 240, or below the committed sum of a slot, is ignored. -/
def State.serveFlow (s : State) (x : Word) : State :=
  let v := bitsAt x.toNat 0 8
  if 240 < v || (List.range 256).any (fun k => decide (v < s.sum k)) then s
  else { s with cool := { s.cool with modflow := v } }
/-- The arbiter serves the oldest request; none where there is none, or while its record cannot be read yet. -/
def State.arbitrates (s : State) : Option State :=
  match s.cool.reqs with
  | [] => none
  | r :: rest =>
    let s' : State := { s with cool := { s.cool with reqs := rest } }
    match r with
    | .commit core addr => if s.commitHeld core addr then none else some (s'.serveCommit core addr)
    | .flow x => some (s'.serveFlow x)
/-- EPHREQ: any number but 0 finds none to serve. -/
def execEphreq (k : Nat) (s : State) : Host.Outcome State Fault Refusal :=
  .next (if k = 0 then s.arbitrates.getD s else s)

/-- A write of EPHREQ: ignored while the core's commit is in the arbiter. -/
def State.askCommit (s : State) (n : Nat) (x : Word) : State :=
  if (s.core n).regs.ephstat.getLsbD 63 then s
  else
    let s := { s with cool := { s.cool with
      reqs := s.cool.reqs ++ [EphReq.commit n (BitVec.ofNat 64 (bitsAt x.toNat 4 52 * 16))] } }
    s.setEphstat n 0x8000000000000000

/-- Is function `k`'s expert set active (R344)? -/
def State.expert (s : State) (k : Nat) : Bool := s.pkg.featact.getLsbD (128 + k)

/-- A write of MODFLOW (Table CLT-2), which goes to the arbiter (R359); ignored, and logged, while the expert set is off (R344). -/
def State.writeModflow (s : State) (x : Word) : State :=
  if !s.expert 10 then { s with pkg := { s.pkg with log := s.pkg.log ++ [(0x418, x)] } }
  else { s with cool := { s.cool with reqs := s.cool.reqs ++ [EphReq.flow x] } }

def execModflowWrite (x : Word) (s : State) : Host.Outcome State Fault Refusal :=
  .next (s.writeModflow x)

/-! ### Slots (R360, R361) -/

/-- R361: hold or release a core as its zone is gated. -/
def Core.gate (c : Core) (gated : Bool) : Core :=
  match c.run with
  | .run => if gated then { c with run := .stopped (.gated none) } else c
  | .frozen f => if gated then { c with run := .stopped (.gated (some f)) } else c
  | .stopped (.gated f) =>
    if gated then c else { c with run := match f with | some f => .frozen f | none => .run }
  | _ => c

/-- R361: are the clocks of core `n` stopped? -/
def State.gatedCore (s : State) (n : Nat) : Bool := s.gated (dieOf n) (s.zoneOf n)
/-- Every resident context is held or released as its zone stands. -/
def State.gateAll (s : State) : State :=
  { s with cores := s.cores.map fun e => (e.1, e.2.gate (s.gatedCore e.1)) }

def execSlotAdvance (s : State) : Host.Outcome State Fault Refusal := .next s.gateAll

/-! ### Sensors (R365, R366, R369, R370) -/

/-- The cores of a zone on which a context is resident. -/
def State.residents (s : State) (d z : Nat) : List Nat :=
  s.listed.filter fun n => dieOf n == d && s.zoneOf n == z && s.leader n == n && (s.core n).resident

/-- TD: the highest layer reading. -/
def highestLayer (v : ZoneSample) : Nat := v.layers.foldl max 0
/-- The layers whose reading meets a condition. -/
def layerBits (v : ZoneSample) (p : Nat → Bool) : BitVec 8 :=
  v.layers.zipIdx.foldl (fun (b : BitVec 8) e => if p e.1 then b ||| 1#8 <<< e.2 else b) 0
/-- R369: the inlet is too hot, or its flow is below the committed sum. -/
def inletBad (x : Inlet) (sum : Nat) : Bool := decide (140 < x.temp ∨ x.flow < 4 * sum)

/-- The next record of a zone: layers double their refresh above 85 °C, and end that at 82 °C (R286). -/
def Zone.sample (x : Zone) (v : ZoneSample) (plant press : Bool) (pos bypass time : Nat) : Zone :=
  let stay := x.throtJ || x.throtD
  let calm := decide (v.tj ≤ 400 ∧ highestLayer v ≤ 368)
  let low := if 0 < pos && decide (v.meas < 2 * pos) then x.low + 1 else 0
  let press := if press then x.press + 1 else 0
  let opening := min 15 (pos + bypass)
  let x := { x with
    tj := v.tj, td := highestLayer v, meas := v.meas
    throtJ := decide (420 < v.tj) || (stay && x.throtJ && !calm)
    throtD := decide (380 < highestLayer v) || (stay && x.throtD && !calm)
    ref2x := (x.ref2x ||| layerBits v fun r => decide (340 < r)) &&& ~~~(layerBits v fun r => decide (r ≤ 328))
    low := low, press := press
    plant := if plant then x.plant + 1 else 0
    good := if 36 * opening ≤ 10 * v.meas then x.good + 1 else 0 }
  match x.state with
  | .normal => if 3 ≤ low || (3 ≤ press && 0 < pos) then { x with state := .dry time, good := 0 } else x
  | .primed => if v.tj ≤ 240 then { x with state := .normal, low := 0, press := 0 } else x
  | _ => x

/-- The SUBs of the thermal trap whose conditions became true at a sample, for a core with THCTL `t`. -/
def thermalSubs (old new : Zone) (t : Word) : List Nat :=
  let lowAt := bitsAt t.toNat 22 10
  (if t.getLsbD 1 && decide (lowAt ≤ allowance old.tj old.td ∧ allowance new.tj new.td < lowAt)
    then [1] else [])
  ++ (if t.getLsbD 2 && (new.ref2x &&& ~~~old.ref2x) != 0 then [2] else [])
  ++ (if t.getLsbD 3 && new.throtD && !old.throtD then [3] else [])
  ++ (if t.getLsbD 4 && new.throtJ && !old.throtJ then [4] else [])
  ++ (if t.getLsbD 5 && new.plant == 100 then [5] else [])

/-- R365 to R370: a sample of one zone; the manifold's pressure, in kPa, is low below 50. -/
def State.sampleZone (s : State) (inlet : Inlet) (pressure d z : Nat) (v : ZoneSample) : State :=
  let old := s.cool.zone d z
  let pos := s.pos d z
  let new := old.sample v (inletBad inlet (s.sum s.cur)) (decide (pressure < 50)) pos (s.cool.modflow - s.sum s.cur) s.time
  let s := { s with cool := s.cool.setZone d z new }
  let word := s.talwWord d z
  let ns := s.residents d z
  let s := ns.foldl (fun s n => (thermalSubs old new (s.core n).regs.thctl).foldl
    (fun s k => s.post n ⟨14, k, word⟩) s) s
  let s := if !old.dry && new.dry then
      let sub := if 3 ≤ new.low then 1 else 2
      let info := BitVec.ofNat 64 (z + new.meas % 256 * 256 + pos * 65536)
      ns.foldl (fun s n => s.post n ⟨15, sub, info⟩) s
    else s
  let m := s.mem
  { s with mem := { m with refresh := (List.range 8).foldl (fun r l =>
    Map.put r ((d * 16 + z) * 8 + l) (0, new.ref2x.getLsbD l)) m.refresh } }
/-- SENSOR_SAMPLE: every 1000 reference ticks all sensors are sampled; a sample before its time is none. -/
def execSensorSample (zones : List ZoneSample) (inlet : Inlet) (pressure : Nat) (s : State) : Host.Outcome State Fault Refusal :=
  if s.time / 1000 < s.cool.sampled then .next s
  else
    let t := (zones.zipIdx.filter fun e => decide (e.2 / 16 < s.mem.shape.nd)).foldl
      (fun (s : State) e => s.sampleZone inlet pressure (e.2 / 16) (e.2 % 16) e.1) s
    .next { t with cool := { t.cool with sampled := s.time / 1000 + 1 } }

/-! ### Evacuation of a dry zone (R371) -/

/-- A context that is still resident at the deadline is stopped and reported lost, and its gang receives
a coolant pre-emption request. -/
def State.lose (s : State) (n : Nat) : State :=
  let c := s.core n
  let gang := bitsAt c.regs.gang.toNat 48 16
  let s := s.setCore n { c with run := .stopped .lost }
  let s : State := { s with reports := s.reports ++ [Report.stopped n] }
  s.preempt (dieOf n) gang 2 0

/-- The next step of Table CLT-9 for a zone whose time has come; with none due nothing happens. -/
def execDryChannelEvacuation (d z : Nat) (s : State) : Host.Outcome State Fault Refusal :=
  let x := s.cool.zone d z
  let put (y : ZoneState) (s : State) : State :=
    { s with cool := s.cool.setZone d z { x with state := y, good := 0 } }
  match x.state with
  | .dry t0 =>
    if t0 + 50500 ≤ s.time then
      .next (put (.gatedDry t0) ((s.residents d z).foldl State.lose s))
    else .next s
  | .gatedDry t0 =>
    if 100 ≤ x.good then .next (put .primed s)
    else if t0 + 651000 ≤ s.time then .next (put .failed s)
    else .next s
  | _ => .next s

end Sys2Proof.Machine
end

