-- ==== Sys2Proof/Machine/Trans.lean ====
section
/-! DEFINITION. The transcendental functions of R161.  Each gives either the exact value, or a value that lies
strictly between the same two neighbours of every format as the true one: a truncated expansion with a
last bit set, which `Fmt.round` rounds as it would round the true value. -/

namespace Sys2Proof.Machine

/-- A truncated magnitude `q` × 2^e, with what was cut off. -/
def stickyVal (neg : Bool) (q : Nat) (inexact : Bool) (e : Int) : FVal :=
  .fin neg (2 * q + inexact.toNat) (e - 1)

/-- The square root of `n` rounded down, from its bits below `b`; `r` holds the higher bits. -/
def isqrt (b r n : Nat) : Nat :=
  match b with
  | 0 => r
  | k + 1 => if (r + 2 ^ k) * (r + 2 ^ k) ≤ n then isqrt k (r + 2 ^ k) n else isqrt k r n

/-- 1 / (m × 2^e), m not zero. -/
def recipVal (neg : Bool) (m : Nat) (e : Int) : FVal :=
  let k := Nat.log2 m + 80
  stickyVal neg (2 ^ k / m) (2 ^ k % m != 0) (-(k : Int) - e)

/-- 1 / √(m × 2^e), m not zero. -/
def rsqrtVal (m : Nat) (e : Int) : FVal :=
  let odd := e % 2 != 0
  let m := if odd then 2 * m else m
  let e := if odd then e - 1 else e
  let q := isqrt 102 0 (2 ^ 200 / m)
  stickyVal false q (q * q * m != 2 ^ 200) (-100 - e / 2)

/-- Fraction bits of the expansions. -/
def expBits : Nat := 480

/-- ln 2 × 2^P, from the sum of 1 / (k × 2^k) over the first `n` numbers k. -/
def ln2Sum (n : Nat) : Nat :=
  match n with
  | 0 => 0
  | k + 1 => ln2Sum k + 2 ^ (expBits + 40) / ((k + 1) * 2 ^ (k + 1))
def ln2 : Nat := ln2Sum 520 / 2 ^ 40

/-- The exponential series of `y`: `term` is y^k / k!. -/
def expSeries (fuel k term y : Nat) : Nat :=
  match fuel with
  | 0 => 0
  | j + 1 => term + expSeries j (k + 1) (term * y / 2 ^ expBits / (k + 1)) y

/-- 2^(± m × 2^e); beyond ±2000 every format overflows or underflows. -/
def exp2Val (neg : Bool) (m : Nat) (e : Int) : FVal :=
  if m ≠ 0 && decide (11 < (Nat.log2 m : Int) + e) then
    stickyVal false 1 true (if neg then -2000 else 2000)
  else
    let scaled : Int := (if neg then -(m : Int) else m) * (2 ^ (expBits + e).toNat : Nat)
    let n := scaled / (2 ^ expBits : Nat)
    let f := (scaled % (2 ^ expBits : Nat)).toNat
    if f = 0 then .fin false 1 n
    else stickyVal false (expSeries 120 0 (2 ^ expBits) (f * ln2 / 2 ^ expBits)) true (n - expBits)

/-- Fraction bits of log2 from x in [1, 2) with 512 fraction bits, by squaring; `acc` holds the higher bits. -/
def log2Bits (n x acc : Nat) : Nat :=
  match n with
  | 0 => acc
  | k + 1 =>
    let y := x * x / 2 ^ 512
    if 2 ^ 513 ≤ y then log2Bits k (y / 2) (2 * acc + 1) else log2Bits k y (2 * acc)

/-- log2 (m × 2^e), m not zero; exact for a power of two. -/
def log2Val (m : Nat) (e : Int) : FVal :=
  let l := Nat.log2 m
  let i : Int := l + e
  if m = 2 ^ l then .ofInt i
  else
    let f := log2Bits 200 (m * 2 ^ (512 - l)) 0
    let v : Int := i * (2 ^ 201 : Nat) + (2 * f + 1 : Nat)
    .fin (v < 0) v.natAbs (-201)

/-- A result with NV: the canonical NaN. -/
def Fmt.invalid (f : Fmt) : FRes := ⟨(f.round .nan (.mode .rne) false).bits, flNV⟩

/-- VEXP2 of a value (Table VEC-4). -/
def Fmt.exp2 (f : Fmt) (v : FVal) (r : RMode) : FRes :=
  match v with
  | .nan => f.round .nan (.mode r) false
  | .inf true => ⟨0, 0⟩
  | .inf false => f.round (.inf false) (.mode r) false
  | .fin s m e => f.round (exp2Val s m e) (.mode r) false

/-- VRCP of a value. -/
def Fmt.rcp (f : Fmt) (v : FVal) (r : RMode) : FRes :=
  match v with
  | .nan => f.round .nan (.mode r) false
  | .inf s => ⟨f.signBit s, 0⟩
  | .fin s m e =>
    if m = 0 then f.round (.inf s) (.mode r) false else f.round (recipVal s m e) (.mode r) false

/-- VRSQ of a value. -/
def Fmt.rsq (f : Fmt) (v : FVal) (r : RMode) : FRes :=
  match v with
  | .nan => f.round .nan (.mode r) false
  | .inf true => f.invalid
  | .inf false => ⟨0, 0⟩
  | .fin s m e =>
    if m = 0 then f.round (.inf s) (.mode r) false
    else if s then f.invalid
    else f.round (rsqrtVal m e) (.mode r) false

/-- VLOG2 of a value. -/
def Fmt.log2 (f : Fmt) (v : FVal) (r : RMode) : FRes :=
  match v with
  | .nan => f.round .nan (.mode r) false
  | .inf true => f.invalid
  | .inf false => f.round (.inf false) (.mode r) false
  | .fin s m e =>
    if m = 0 then f.round (.inf true) (.mode r) false
    else if s then f.invalid
    else f.round (log2Val m e) (.mode r) false

end Sys2Proof.Machine
end

