-- ==== Sys2Proof/Machine/Row.lean ====
section
/-! DEFINITION. The row instructions of the V slots (R148 to R171) but for those that reach a buffer: elements,
tag checks, lane arithmetic, conversions, reductions, permutation, sparsity. -/

namespace Sys2Proof.Machine

/-! ### Elements (R148) -/

/-- Width of a tag's elements. -/
def tagWidth (t : Tag) : Nat :=
  match t with
  | .e2m1 => 4
  | .int8 | .e4m3 | .e5m2 | .e8m0 => 8
  | .int16 | .bf16 | .fp16 => 16
  | .int32 | .fp32 | .raw => 32

def isInt (t : Tag) : Bool := t == .int8 || t == .int16 || t == .int32
def isFlt (t : Tag) : Bool := t == .fp32 || t == .bf16 || t == .fp16
def isArith (t : Tag) : Bool := isInt t || isFlt t
/-- Tags of 8 bits: a row image of one ABUF row (R168). -/
def isByte (t : Tag) : Bool := tagWidth t == 8

/-- Bits(v, i). -/
def VCell.bits (v : VCell) (i : Nat) : Nat := (lane v.row i).toNat % 2 ^ tagWidth v.tag
/-- A pattern of `w` bits as a signed integer. -/
def signedOf (w x : Nat) : Int := (BitVec.ofNat w x).toInt
/-- An integer modulo 2^w. -/
def wrapInt (w : Nat) (x : Int) : Nat := (x % (2 ^ w : Nat)).toNat
/-- An integer element. -/
def VCell.int (v : VCell) (i : Nat) : Int := signedOf (tagWidth v.tag) (v.bits i)

/-- Elem: the value of a pattern under a tag. -/
def elemVal (t : Tag) (x : Nat) : FVal :=
  match tagFmt t with
  | some f => f.value x
  | none =>
    match t with
    | .e8m0 => (match scaleExp x with | some k => .fin false 1 k | none => .nan)
    | .raw => .ofInt x
    | _ => .ofInt (signedOf (tagWidth t) x)

/-- Elem(v, i). -/
def VCell.elem (v : VCell) (i : Nat) : FVal := elemVal v.tag (v.bits i)

/-- The floating-point format of an FLT tag. -/
def fltFmt (t : Tag) : Fmt := (tagFmt t).getD fmtFp32

/-! ### Tag checks (R150) -/

/-- A failed check's TINFO: the tag found and the operand, 0 for A, 1 for B, 2 for D. -/
def tagInfo (t : Tag) (operand : Nat) : Word := BitVec.ofNat 64 (t.code.toNat + 16 * operand)

/-- The first operand that fails: its tag, whether it is accepted, its number. -/
def badTag (xs : List (Tag × Bool × Nat)) : Option Word :=
  (xs.find? fun x => !x.2.1).map fun x => tagInfo x.1 x.2.2

/-- A unary check. -/
def tag1 (s : State) (a : VSrc) (p : Tag → Bool) : Option Word :=
  let x := (s.opV a.reg).tag
  badTag [(x, p x, 0)]
/-- A in a set and B equal to it. -/
def tagEq (s : State) (a b : VSrc) (p : Tag → Bool) : Option Word :=
  let x := (s.opV a.reg).tag
  let y := (s.opV b.reg).tag
  badTag [(x, p x, 0), (y, y == x, 1)]
/-- A and B each in a set. -/
def tag2 (s : State) (a b : VSrc) (p q : Tag → Bool) : Option Word :=
  let x := (s.opV a.reg).tag
  let y := (s.opV b.reg).tag
  badTag [(x, p x, 0), (y, q y, 1)]

/-! ### Results -/

/-- The flags of the enabled lanes (R149). -/
def laneFlags (mask : Mask) (f : Nat → FRes) : BitVec 5 :=
  (List.range 512).foldl (fun acc i => if mask.getLsbD i then acc ||| (f i).flags else acc) 0

/-- A row of lane results, each SetElem's bits (R174). -/
def resRow (f : Nat → FRes) : Row := rowOf fun i => BitVec.ofNat 32 (f i).bits

/-- An exact lane result. -/
def exact (x : Nat) : FRes := ⟨x, 0⟩

/-- An elementwise operation: `lat` its latency, `tgt` the result tag, `f` the result of a lane. -/
def rowOp (g : Guard) (d : VReg) (srcs : List Src) (mask : State → Mask) (tag : State → Option Word)
    (lat : State → Nat) (tgt : State → Option Tag) (f : State → Nat → FRes) : Op :=
  { guard := g, srcs := srcs, vd := some d, tag := tag
    run := fun s =>
      s.send (lat s) (.v d (resRow (f s)) (mask s) (tgt s) false false) (laneFlags (mask s) (f s)) }

/-- A binary elementwise operation whose result has A's tag. -/
def bin (g : Guard) (d : VReg) (a b : VSrc) (mk : MReg) (tag : State → Option Word) (lat : Tag → Nat)
    (f : VCell → VCell → Nat → FRes) : Op :=
  rowOp g d [.v a, .v b] (fun s => s.opM mk) tag (fun s => lat (s.opV a.reg).tag)
    (fun s => some (s.opV a.reg).tag) fun s => f (s.opV a.reg) (s.opV b.reg)

/-- A unary elementwise operation whose result has A's tag. -/
def una (g : Guard) (d : VReg) (a : VSrc) (mk : MReg) (p : Tag → Bool) (lat : Nat)
    (f : VCell → Nat → FRes) : Op :=
  rowOp g d [.v a] (fun s => s.opM mk) (fun s => tag1 s a p) (fun _ => lat)
    (fun s => some (s.opV a.reg).tag) fun s => f (s.opV a.reg)

/-! ### Elementwise arithmetic and logic (R152 to R155) -/

/-- Latency by the kind of the tag. -/
def lat24 (t : Tag) : Nat := if isInt t then 2 else 4

/-- VADD and VSUB. -/
def addLane (sub : Bool) (rm : RMode) (a b : VCell) (i : Nat) : FRes :=
  let w := tagWidth a.tag
  if isInt a.tag then exact (wrapInt w (if sub then a.int i - b.int i else a.int i + b.int i))
  else exactSum [a.elem i, if sub then (b.elem i).negate else b.elem i] (fltFmt a.tag) rm

/-- The rounded product of two values. -/
def mulVal (f : Fmt) (rm : RMode) (x y : FVal) : FRes :=
  let r := f.round (x.mul y) (.mode rm) false
  if x.zeroTimesInf y then { r with flags := r.flags ||| flNV } else r

/-- VMUL, and the block scale of R153. -/
def mulLane (rm : RMode) (a b : VCell) (i : Nat) : FRes :=
  if isInt a.tag then exact (wrapInt (tagWidth a.tag) (a.int i * b.int i))
  else if b.tag == .e8m0 then fmtFp32.round ((a.elem i).scaled (b.bits i)) (.mode rm) false
  else mulVal (fltFmt a.tag) rm (a.elem i) (b.elem i)

/-- VMULH. -/
def mulhLane (a b : VCell) (i : Nat) : FRes :=
  let w := tagWidth a.tag
  exact (wrapInt w ((a.int i * b.int i) / (2 ^ w : Nat)))

/-- VFMA. -/
def fmaLane (rm : RMode) (a b d : VCell) (i : Nat) : FRes :=
  if isInt a.tag then exact (wrapInt (tagWidth a.tag) (a.int i * b.int i + d.int i))
  else
    let x := a.elem i
    let y := b.elem i
    let z := d.elem i
    let r := exactSum [x.mul y, z] (fltFmt a.tag) rm
    if x.zeroTimesInf y && (!z.isNan || Config.fmaNanNv) then { r with flags := r.flags ||| flNV } else r

/-- VMIN and VMAX. -/
def minLane (max : Bool) (a b : VCell) (i : Nat) : FRes :=
  if isInt a.tag then
    exact (if (if max then a.int i < b.int i else b.int i < a.int i) then b.bits i else a.bits i)
  else if max then exact ((fltFmt a.tag).fmax (a.bits i) (b.bits i))
  else exact ((fltFmt a.tag).fmin (a.bits i) (b.bits i))

/-- VABS and VNEG. -/
def absLane (neg : Bool) (a : VCell) (i : Nat) : FRes :=
  let w := tagWidth a.tag
  let x := a.bits i
  if isInt a.tag then exact (wrapInt w (if neg then -a.int i else (a.int i).natAbs))
  else if (a.elem i).isNan then exact ((fltFmt a.tag).nan.getD 0)
  else if neg then exact (x ^^^ 2 ^ (w - 1))
  else exact (x % 2 ^ (w - 1))

/-- A bitwise operation. -/
def bitLane (op : Nat → Nat → Nat) (a b : VCell) (i : Nat) : FRes := exact (op (a.bits i) (b.bits i))

/-- The shifts: the count is B's element modulo A's width. -/
def shlLane (a b : VCell) (i : Nat) : FRes :=
  let w := tagWidth a.tag
  exact (a.bits i * 2 ^ (b.bits i % w) % 2 ^ w)
def shrLane (a b : VCell) (i : Nat) : FRes := exact (a.bits i / 2 ^ (b.bits i % tagWidth a.tag))
def sarLane (a b : VCell) (i : Nat) : FRes :=
  let w := tagWidth a.tag
  exact (wrapInt w (a.int i / (2 ^ (b.bits i % w) : Nat)))

/-- INT ∪ {RAW}. -/
def isShift (t : Tag) : Bool := isInt t || t == .raw

def opVadd (g : Guard) (d : VReg) (a b : VSrc) (mk : MReg) (rm : RMode) : Op :=
  bin g d a b mk (fun s => tagEq s a b isArith) lat24 (addLane false rm)
def opVsub (g : Guard) (d : VReg) (a b : VSrc) (mk : MReg) (rm : RMode) : Op :=
  bin g d a b mk (fun s => tagEq s a b isArith) lat24 (addLane true rm)
def opVmul (g : Guard) (d : VReg) (a b : VSrc) (mk : MReg) (rm : RMode) : Op :=
  bin g d a b mk
    (fun s =>
      let x := (s.opV a.reg).tag
      let y := (s.opV b.reg).tag
      badTag [(x, isArith x, 0), (y, y == x || (x == .fp32 && y == .e8m0), 1)])
    (fun _ => 4) (mulLane rm)
def opVmulh (g : Guard) (d : VReg) (a b : VSrc) (mk : MReg) (_rm : RMode) : Op :=
  bin g d a b mk (fun s => tagEq s a b isInt) (fun _ => 4) mulhLane
def opVfma (g : Guard) (d a b : VSrc) (mk : MReg) (rm : RMode) : Op :=
  { rowOp g d.reg [.v a, .v b, .v d] (fun s => s.opM mk)
      (fun s =>
        let x := (s.opV a.reg).tag
        let y := (s.opV b.reg).tag
        let z := (s.opV d.reg).tag
        badTag [(x, isArith x, 0), (y, y == x, 1), (z, z == x, 2)])
      (fun _ => 4) (fun s => some (s.opV a.reg).tag)
      (fun s => fmaLane rm (s.opV a.reg) (s.opV b.reg) (s.opV d.reg)) with guard := g }
def opVmin (g : Guard) (d : VReg) (a b : VSrc) (mk : MReg) (_rm : RMode) : Op :=
  bin g d a b mk (fun s => tagEq s a b isArith) (fun _ => 2) (minLane false)
def opVmax (g : Guard) (d : VReg) (a b : VSrc) (mk : MReg) (_rm : RMode) : Op :=
  bin g d a b mk (fun s => tagEq s a b isArith) (fun _ => 2) (minLane true)
def opVabs (g : Guard) (d : VReg) (a : VSrc) (mk : MReg) : Op := una g d a mk isArith 2 (absLane false)
def opVneg (g : Guard) (d : VReg) (a : VSrc) (mk : MReg) : Op := una g d a mk isArith 2 (absLane true)
def anyTag (_ : Tag) : Bool := true
def opVand (g : Guard) (d : VReg) (a b : VSrc) (mk : MReg) (_rm : RMode) : Op :=
  bin g d a b mk (fun s => tagEq s a b anyTag) (fun _ => 2) (bitLane (· &&& ·))
def opVor (g : Guard) (d : VReg) (a b : VSrc) (mk : MReg) (_rm : RMode) : Op :=
  bin g d a b mk (fun s => tagEq s a b anyTag) (fun _ => 2) (bitLane (· ||| ·))
def opVxor (g : Guard) (d : VReg) (a b : VSrc) (mk : MReg) (_rm : RMode) : Op :=
  bin g d a b mk (fun s => tagEq s a b anyTag) (fun _ => 2) (bitLane (· ^^^ ·))
def opVshl (g : Guard) (d : VReg) (a b : VSrc) (mk : MReg) (_rm : RMode) : Op :=
  bin g d a b mk (fun s => tag2 s a b isShift isInt) (fun _ => 2) shlLane
def opVshr (g : Guard) (d : VReg) (a b : VSrc) (mk : MReg) (_rm : RMode) : Op :=
  bin g d a b mk (fun s => tag2 s a b isShift isInt) (fun _ => 2) shrLane
def opVsar (g : Guard) (d : VReg) (a b : VSrc) (mk : MReg) (_rm : RMode) : Op :=
  bin g d a b mk (fun s => tag2 s a b isShift isInt) (fun _ => 2) sarLane
def opVmov (g : Guard) (d : VReg) (a : VSrc) (mk : MReg) : Op :=
  una g d a mk anyTag 2 fun x i => exact (x.bits i)
def opVpopc (g : Guard) (d : VReg) (a : VSrc) (mk : MReg) : Op :=
  una g d a mk isShift 2 fun x i => exact (popcNat (tagWidth x.tag) (x.bits i))
def opVclz (g : Guard) (d : VReg) (a : VSrc) (mk : MReg) : Op :=
  una g d a mk isShift 2 fun x i => exact (clzNat (tagWidth x.tag) (x.bits i))

/-! ### Compares, selection, broadcast (R156, R157) -/

/-- The order that VCMP compares by. -/
def cmpLane (a b : VCell) (i : Nat) : Option Ordering :=
  if isFlt a.tag then (fltFmt a.tag).order (a.bits i) (b.bits i)
  else if a.tag == .raw then some (ordInt (a.bits i) (b.bits i))
  else some (ordInt (a.int i) (b.int i))

def opVcmp (g : Guard) (md : MReg) (c : VCond) (a b : VSrc) (mk : MReg) : Op :=
  { guard := g, srcs := [.v a, .v b]
    tag := fun s => tagEq s a b fun t => isArith t || t == .raw
    run := fun s =>
      s.send 2 (.m md (maskOf fun i => VCond.holds c (cmpLane (s.opV a.reg) (s.opV b.reg) i)) (s.opM mk)) }
def opVsel (g : Guard) (d : VReg) (a b : VSrc) (mk : MReg) : Op :=
  rowOp g d [.v a, .v b] (fun _ => BitVec.allOnes 512) (fun s => tagEq s a b anyTag) (fun _ => 2)
    (fun s => some (s.opV a.reg).tag)
    fun s i => exact (if (s.opM mk).getLsbD i then (s.opV a.reg).bits i else (s.opV b.reg).bits i)
/-- VBCAST: the width is that of D's tag, which D keeps. -/
def opVbcast (g : Guard) (d : VReg) (a : GSrc) (mk : MReg) : Op :=
  rowOp g d [.g a] (fun s => s.opM mk) (fun _ => none) (fun _ => 2) (fun _ => none)
    fun s _ => exact ((s.opA a).toNat % 2 ^ tagWidth (s.opV d).tag)

/-! ### Conversion (R158 to R160) -/

/-- One conversion: a value of tag `src` with pattern `x` to `tgt`. -/
def convert (src tgt : Tag) (x : Nat) (r : RSel) (sat : Bool) : FRes :=
  let v := elemVal src x
  if src == tgt then
    (match tagFmt tgt with
    | some f => if v.isNan then exact (f.nan.getD 0) else exact x
    | none => exact x)
  else match tagFmt tgt with
    | some f => f.round v r (sat || tgt == .e2m1)
    | none => roundInt (tagWidth tgt) v r

/-- The block of lane `i` (R158). -/
def blockOf (a : VCell) (i : Nat) : List FVal := (upFrom (i / 32 * 32) 32).map a.elem
/-- The element format that RM names beside the target E8M0. -/
def scaleTarget (rm : RMode) : Tag := match rm with | .rne => .e4m3 | .rtz => .e5m2 | _ => .e2m1

def cvtLane (tgt : Tag) (rm : RMode) (sat : Bool) (a : VCell) (i : Nat) : FRes :=
  if tgt == .e8m0 then exact (chooseScale (blockOf a i) (scaleTarget rm))
  else convert a.tag tgt (a.bits i) (.mode rm) sat

def opVcvt (g : Guard) (d : VReg) (a : VSrc) (mk : MReg) (tgt : Tag) (rm : RMode) (sat : Bool) : Op :=
  (rowOp g d [.v a] (fun s => s.opM mk)
    (fun s => tag1 s a fun t => if tgt == .e8m0 then isFlt t else t != .raw) (fun _ => 3)
    (fun _ => some tgt) fun s => cvtLane tgt rm sat (s.opV a.reg)).under (tagNeeds tgt)

/-- R159: RoundSR of one lane.  R159 states it for every source: R158's clause on a source of the target's own format is
read as VCVT's alone (DEDUCED, log 33), so that a saturating VCVTS of an infinity gives the largest finite value. -/
def convertSr (src tgt : Tag) (x : Nat) (u : Nat) (sat : Bool) : FRes :=
  match tagFmt tgt with
  | some f => f.round (elemVal src x) (.sr u) (sat || tgt == .e2m1)
  | none => exact x
/-- VCVTS: the slot's number beside V0's, and the word that the bundle has popped. -/
def opVcvts (g : Guard) (d : VReg) (a : VSrc) (mk : MReg) (tgt : Tag) (sat : Bool) : Op :=
  (rowOp g d [.v a] (fun s => s.opM mk) (fun s => tag1 s a isFlt) (fun _ => 3) (fun _ => some tgt)
    fun s i =>
      convertSr (s.opV a.reg).tag tgt ((s.opV a.reg).bits i) (laneRandom s.iss.word i (s.iss.slot - 1)) sat).under (7 :: tagNeeds tgt)

/-- R160: one lane of VRQ. -/
def rqLane (rm : RMode) (scale : Word) (a : Int) : FRes :=
  let m := signedOf 32 (scale.toNat % 2 ^ 32)
  let sh := bitsAt scale.toNat 32 6
  let z := signedOf 8 (bitsAt scale.toNat 40 8)
  let p := a * m
  let st := stepsOf p.natAbs (-(sh : Int)) 0
  let inexact := st.2.1 != 0
  let n := if inexact && roundsUp (.mode rm) (p < 0) st.1 st.2.1 st.2.2 then st.1 + 1 else st.1
  let y := (if p < 0 then -(n : Int) else n) + z
  let fl := if inexact then flNX else 0
  if 127 < y then ⟨127, fl ||| flSAT⟩
  else if y < -128 then ⟨128, fl ||| flSAT⟩
  else ⟨wrapInt 8 y, fl⟩

def opVrq (g : Guard) (d : VReg) (a : VSrc) (b : GSrc) (mk : MReg) (rm : RMode) (_sat : Bool) : Op :=
  rowOp g d [.v a, .g b] (fun s => s.opM mk) (fun s => tag1 s a (· == .int32)) (fun _ => 3)
    (fun _ => some .int8) fun s i => rqLane rm (s.opB b) ((s.opV a.reg).int i)

/-! ### Transcendental functions (R161) -/

def opVexp2 (g : Guard) (d : VReg) (a : VSrc) (mk : MReg) (rm : RMode) : Op :=
  una g d a mk isFlt 8 fun x i => (fltFmt x.tag).exp2 (x.elem i) rm
def opVrcp (g : Guard) (d : VReg) (a : VSrc) (mk : MReg) (rm : RMode) : Op :=
  una g d a mk (fun t => isFlt t || t == .e8m0) 8 fun x i =>
    if x.tag == .e8m0 then exact (if x.bits i = 255 then 255 else 254 - x.bits i)
    else (fltFmt x.tag).rcp (x.elem i) rm
def opVrsq (g : Guard) (d : VReg) (a : VSrc) (mk : MReg) (rm : RMode) : Op :=
  una g d a mk isFlt 8 fun x i => (fltFmt x.tag).rsq (x.elem i) rm
def opVlog2 (g : Guard) (d : VReg) (a : VSrc) (mk : MReg) (rm : RMode) : Op :=
  una g d a mk isFlt 8 fun x i => (fltFmt x.tag).log2 (x.elem i) rm

/-! ### Reductions and scans (R162) -/

/-- The identity of an operation (R59). -/
def identity (op : RedOp) (t : Tag) : Nat :=
  if t == .fp32 then
    (match op with | .add => 0x80000000 | .max => 0xFF800000 | .min => 0x7F800000 | .or => 0)
  else (match op with | .add => 0 | .max => 0x80000000 | .min => 0x7FFFFFFF | .or => 0)

/-- One node: the result of an operation on two patterns. -/
def redNode (op : RedOp) (t : Tag) (a b : FRes) : FRes :=
  let r : FRes :=
    if t == .fp32 then
      (match op with
      | .add => addF32 a.bits b.bits
      | .max => exact (fmtFp32.fmax a.bits b.bits)
      | .min => exact (fmtFp32.fmin a.bits b.bits)
      | .or => exact (a.bits ||| b.bits))
    else
      let x := signedOf 32 a.bits
      let y := signedOf 32 b.bits
      (match op with
      | .add => exact ((a.bits + b.bits) % 2 ^ 32)
      | .max => exact (if x < y then b.bits else a.bits)
      | .min => exact (if y < x then b.bits else a.bits)
      | .or => exact (a.bits ||| b.bits))
  ⟨r.bits, r.flags ||| a.flags ||| b.flags⟩

/-- The inputs of a reduction. -/
def redInputs (op : RedOp) (mask : Mask) (a : VCell) : List FRes :=
  (List.range 512).map fun i => exact (if mask.getLsbD i then a.bits i else identity op a.tag)

/-- Tags that a reduction accepts. -/
def redTag (op : RedOp) (t : Tag) : Bool :=
  match op with
  | .or => t == .int32 || t == .raw
  | _ => t == .int32 || t == .fp32

/-- R41: a result that is a NaN is the canonical NaN; element 0 of a scan is the only one that no node makes. -/
def FRes.canonical (r : FRes) (t : Tag) : FRes :=
  if t == .fp32 && (fmtFp32.value r.bits).isNan then { r with bits := 0x7FC00000 } else r

def opVred (g : Guard) (d : VReg) (a : VSrc) (mk : MReg) (op : RedOp) : Op :=
  rowOp g d [.v a] (fun _ => BitVec.allOnes 512) (fun s => tag1 s a (redTag op)) (fun _ => 6)
    (fun s => some (s.opV a.reg).tag) fun s =>
      let r := tree (redNode op (s.opV a.reg).tag) (exact 0) (redInputs op (s.opM mk) (s.opV a.reg))
      fun _ => r
def opVscan (g : Guard) (d : VReg) (a : VSrc) (mk : MReg) (op : RedOp) : Op :=
  rowOp g d [.v a] (fun _ => BitVec.allOnes 512) (fun s => tag1 s a (redTag op)) (fun _ => 6)
    (fun s => some (s.opV a.reg).tag) fun s =>
      let xs := redInputs op (s.opM mk) (s.opV a.reg)
      fun j => (scanLane (redNode op (s.opV a.reg).tag) (exact 0) xs j).canonical (s.opV a.reg).tag

/-! ### Permutation and sparsity (R163 to R165) -/

def opVperm (g : Guard) (d : VReg) (a b : VSrc) (mk : MReg) : Op :=
  bin g d a b mk (fun s => tag2 s a b anyTag fun t => t == .int16 || t == .int32) (fun _ => 4)
    fun x y i => exact (x.bits (y.bits i % 512))

/-- INT ∪ FLT ∪ {E4M3, E5M2}. -/
def isSparse (t : Tag) : Bool := isArith t || t == .e4m3 || t == .e5m2

/-- Key of R164, as class and magnitude; a finite pattern's magnitude orders as its value does. -/
def compKey (a : VCell) (i : Nat) : Nat × Nat :=
  if isInt a.tag then (1, (a.int i).natAbs)
  else
    match a.elem i with
    | .nan => (3, 0)
    | .inf _ => (2, 0)
    | .fin _ _ _ => (1, a.bits i % 2 ^ (tagWidth a.tag - 1))
/-- Is key `x` greater than key `y`? -/
def keyLt (y x : Nat × Nat) : Bool := decide (y.1 < x.1) || (y.1 == x.1 && decide (y.2 < x.2))
/-- The index with the greatest key among some, the lowest on ties. -/
def greatest (key : Nat → Nat × Nat) (js : List Nat) : Nat :=
  match js with
  | [] => 0
  | j :: rest => rest.foldl (fun b k => if keyLt (key b) (key k) then k else b) j
/-- The two indices that a group keeps, and whether it holds a NaN. -/
def groupKeep (a : VCell) (gr : Nat) : Nat × Nat × Bool :=
  let key (j : Nat) := compKey a (4 * gr + j)
  let p := greatest key [0, 1, 2, 3]
  let q := greatest key ([0, 1, 2, 3].filter (· != p))
  (min p q, max p q, [0, 1, 2, 3].any fun j => (key j).1 == 3)
/-- Lane `i` of VCOMP's result. -/
def compLane (a : VCell) (i : Nat) : FRes :=
  if i < 256 then
    let k := groupKeep a (i / 2)
    exact (a.bits (4 * (i / 2) + (if i % 2 = 0 then k.1 else k.2.1)))
  else if i < 384 then
    let k := groupKeep a (i - 256)
    exact (k.1 + 4 * k.2.1 + 16 * k.2.2.toNat)
  else exact 0
/-- Lane `i` of VEXPD's result. -/
def expdLane (a : VCell) (i : Nat) : FRes :=
  let gr := i / 4
  let md := a.bits (256 + gr)
  if i % 4 = bitsAt md 2 2 then exact (a.bits (2 * gr + 1))
  else if i % 4 = bitsAt md 0 2 then exact (a.bits (2 * gr))
  else exact 0

def opVcomp (g : Guard) (d : VReg) (a : VSrc) (mk : MReg) : Op := (una g d a mk isSparse 3 compLane).under [3]
def opVexpd (g : Guard) (d : VReg) (a : VSrc) (mk : MReg) : Op := (una g d a mk isSparse 3 expdLane).under [3]

/-! ### Lane bit-fields (R167) -/

/-- INT32 or RAW. -/
def isWord (t : Tag) : Bool := t == .int32 || t == .raw
/-- Field of R107 over 32 bits. -/
def field32 (x pos len : Nat) : Nat := if 32 ≤ pos then 0 else x / 2 ^ pos % 2 ^ len

def opVbfx (g : Guard) (d : VReg) (a b : VSrc) (mk : MReg) (len : BitVec 5) : Op :=
  bin g d a b mk (fun s => tag2 s a b isWord isWord) (fun _ => 2)
    fun x y i => exact (field32 (x.bits i) (y.bits i) (len.toNat + 1))
def opVfsh (g : Guard) (d : VReg) (a b : VSrc) (mk : MReg) (sh : BitVec 5) : Op :=
  bin g d a b mk (fun s => tagEq s a b isWord) (fun _ => 2)
    fun x y i => exact ((x.bits i * 2 ^ 32 + y.bits i) * 2 ^ sh.toNat / 2 ^ 32 % 2 ^ 32)

/-! ### Tags, masks, predicates (R171) -/

def opVtag (g : Guard) (d : VReg) (t : Tag) : Op :=
  { guard := g, needs := tagNeeds t, vd := some d, run := fun s => s.send 2 (.v d 0 0 (some t) false false) }
def opVmsk (g : Guard) (md : MReg) (a : VSrc) : Op :=
  { guard := g, srcs := [.v a]
    run := fun s =>
      s.send 2 (.m md (maskOf fun i => (s.opV a.reg).bits i != 0) (BitVec.allOnes 512)) }
def opVtst (g : Guard) (pd : PReg) (ma : MReg) : Op :=
  { guard := g, run := fun s => s.send 1 (.p pd (s.opM ma != 0)) }

/-! ### Meanings -/

def execVadd (g : Guard) (d : VReg) (a b : VSrc) (mk : MReg) (rm : RMode) (s : State) :=
  runOp (opVadd g d a b mk rm) s
def execVsub (g : Guard) (d : VReg) (a b : VSrc) (mk : MReg) (rm : RMode) (s : State) :=
  runOp (opVsub g d a b mk rm) s
def execVmul (g : Guard) (d : VReg) (a b : VSrc) (mk : MReg) (rm : RMode) (s : State) :=
  runOp (opVmul g d a b mk rm) s
def execVmulh (g : Guard) (d : VReg) (a b : VSrc) (mk : MReg) (rm : RMode) (s : State) :=
  runOp (opVmulh g d a b mk rm) s
def execVfma (g : Guard) (d a b : VSrc) (mk : MReg) (rm : RMode) (s : State) :=
  runOp (opVfma g d a b mk rm) s
def execVmin (g : Guard) (d : VReg) (a b : VSrc) (mk : MReg) (rm : RMode) (s : State) :=
  runOp (opVmin g d a b mk rm) s
def execVmax (g : Guard) (d : VReg) (a b : VSrc) (mk : MReg) (rm : RMode) (s : State) :=
  runOp (opVmax g d a b mk rm) s
def execVabs (g : Guard) (d : VReg) (a : VSrc) (mk : MReg) (s : State) := runOp (opVabs g d a mk) s
def execVneg (g : Guard) (d : VReg) (a : VSrc) (mk : MReg) (s : State) := runOp (opVneg g d a mk) s
def execVand (g : Guard) (d : VReg) (a b : VSrc) (mk : MReg) (rm : RMode) (s : State) :=
  runOp (opVand g d a b mk rm) s
def execVor (g : Guard) (d : VReg) (a b : VSrc) (mk : MReg) (rm : RMode) (s : State) :=
  runOp (opVor g d a b mk rm) s
def execVxor (g : Guard) (d : VReg) (a b : VSrc) (mk : MReg) (rm : RMode) (s : State) :=
  runOp (opVxor g d a b mk rm) s
def execVshl (g : Guard) (d : VReg) (a b : VSrc) (mk : MReg) (rm : RMode) (s : State) :=
  runOp (opVshl g d a b mk rm) s
def execVshr (g : Guard) (d : VReg) (a b : VSrc) (mk : MReg) (rm : RMode) (s : State) :=
  runOp (opVshr g d a b mk rm) s
def execVsar (g : Guard) (d : VReg) (a b : VSrc) (mk : MReg) (rm : RMode) (s : State) :=
  runOp (opVsar g d a b mk rm) s
def execVcmp (g : Guard) (md : MReg) (c : VCond) (a b : VSrc) (mk : MReg) (s : State) :=
  runOp (opVcmp g md c a b mk) s
def execVsel (g : Guard) (d : VReg) (a b : VSrc) (mk : MReg) (s : State) := runOp (opVsel g d a b mk) s
def execVmov (g : Guard) (d : VReg) (a : VSrc) (mk : MReg) (s : State) := runOp (opVmov g d a mk) s
def execVbcast (g : Guard) (d : VReg) (a : GSrc) (mk : MReg) (s : State) := runOp (opVbcast g d a mk) s
def execVcvt (g : Guard) (d : VReg) (a : VSrc) (mk : MReg) (tgt : Tag) (rm : RMode) (sat : Bool)
    (s : State) := runOp (opVcvt g d a mk tgt rm sat) s
def execVcvts (g : Guard) (d : VReg) (a : VSrc) (mk : MReg) (tgt : Tag) (sat : Bool) (s : State) :=
  runOp (opVcvts g d a mk tgt sat) s
def execVrq (g : Guard) (d : VReg) (a : VSrc) (b : GSrc) (mk : MReg) (rm : RMode) (sat : Bool)
    (s : State) := runOp (opVrq g d a b mk rm sat) s
def execVexp2 (g : Guard) (d : VReg) (a : VSrc) (mk : MReg) (rm : RMode) (s : State) :=
  runOp (opVexp2 g d a mk rm) s
def execVrcp (g : Guard) (d : VReg) (a : VSrc) (mk : MReg) (rm : RMode) (s : State) :=
  runOp (opVrcp g d a mk rm) s
def execVrsq (g : Guard) (d : VReg) (a : VSrc) (mk : MReg) (rm : RMode) (s : State) :=
  runOp (opVrsq g d a mk rm) s
def execVlog2 (g : Guard) (d : VReg) (a : VSrc) (mk : MReg) (rm : RMode) (s : State) :=
  runOp (opVlog2 g d a mk rm) s
def execVred (g : Guard) (d : VReg) (a : VSrc) (mk : MReg) (op : RedOp) (s : State) :=
  runOp (opVred g d a mk op) s
def execVscan (g : Guard) (d : VReg) (a : VSrc) (mk : MReg) (op : RedOp) (s : State) :=
  runOp (opVscan g d a mk op) s
def execVperm (g : Guard) (d : VReg) (a b : VSrc) (mk : MReg) (s : State) := runOp (opVperm g d a b mk) s
def execVcomp (g : Guard) (d : VReg) (a : VSrc) (mk : MReg) (s : State) := runOp (opVcomp g d a mk) s
def execVexpd (g : Guard) (d : VReg) (a : VSrc) (mk : MReg) (s : State) := runOp (opVexpd g d a mk) s
def execVbfx (g : Guard) (d : VReg) (a b : VSrc) (mk : MReg) (len : BitVec 5) (s : State) :=
  runOp (opVbfx g d a b mk len) s
def execVfsh (g : Guard) (d : VReg) (a b : VSrc) (mk : MReg) (sh : BitVec 5) (s : State) :=
  runOp (opVfsh g d a b mk sh) s
def execVpopc (g : Guard) (d : VReg) (a : VSrc) (mk : MReg) (s : State) := runOp (opVpopc g d a mk) s
def execVclz (g : Guard) (d : VReg) (a : VSrc) (mk : MReg) (s : State) := runOp (opVclz g d a mk) s
def execVtag (g : Guard) (d : VReg) (t : Tag) (s : State) := runOp (opVtag g d t) s
def execVmsk (g : Guard) (md : MReg) (a : VSrc) (s : State) := runOp (opVmsk g md a) s
def execVtst (g : Guard) (pd : PReg) (ma : MReg) (s : State) := runOp (opVtst g pd ma) s

end Sys2Proof.Machine
end

