-- ==== Sys2Proof/Machine/Matrix.lean ====
section
/-! DEFINITION. The M slot (R249, R251 to R255), the array's own step (R250, R256) and the pair's mode (R240). -/

namespace Sys2Proof.Machine

/-- R256: core `n` meets a failure of the array on tile `t` at operation `idx` of its segment: a protected pair
has a lockstep mismatch, a core in split mode has the tile poisoned, and a second failure of the operation that
started the recovery sets AQ.  `early` says that the operation belongs to an earlier segment, so that the image is poisoned
too (R257). -/
def State.arrayFails (s : State) (n t : Nat) (idx : Option Nat) (early : Bool) : State :=
  let c := s.core n
  let again := c.recov.phase != 0 && c.arr.failed.isSome && c.arr.failed == idx
  let first := if c.recov.phase == 0 then idx else c.arr.failed
  let p := pairOf n
  let x := { s.pair p with aq := true }
  let s := if again then
      { s with pairs := Map.put s.pairs p x, pkg := { s.pkg with qannex := Map.put s.pkg.qannex (s.mem.shape.physPair p) (qbits x) } }
    else s
  let a := { c.arr with failed := first, residue := false, ecc := c.arr.ecc.filter fun e => e.1 != t }
  if s.protected_ n then (s.setCore n { c with arr := a }).mismatch n
  else
    let x := { a.tile t with poison := BitVec.allOnes 64 }
    s.setCore n { c with arr := { a.setTile t x with
      images := if early then Map.put a.images t { Map.getD a.images t Tile.zero with poison := BitVec.allOnes 64 } else a.images
      hand := if (Map.find? a.hand t).isSome then Map.put a.hand t x else a.hand } }

/-- Does tile `t` hold an uncorrectable element in a row that `p` names? -/
def Arr.bad (a : Arr) (t : Nat) (p : Nat → Bool) : Bool := a.ecc.any fun e => e.1 == t && p e.2

/-- ARRAY_OPERATION_COMPLETE: the oldest operation of core `n` goes as far as its bytes are there; at its last
step its tile is written. -/
def State.arrayStep (s : State) (n : Nat) : Option State :=
  let c := s.core n
  match c.arr.queue with
  | [] => none
  | o :: rest =>
    let k := c.arr.stepsReady o
    if k = 0 then none
    else
      let t := o.t.toNat
      let bad := o.names t && (c.arr.residue || c.arr.bad t fun _ => true)
      let s := s.setCore n { c with arr := c.arr.work o rest k c.btw.seg }
      some (if bad then s.arrayFails n t (if o.own then none else some o.idx) (!o.own && decide (o.seg < c.btw.seg)) else s)

def execArrayOperationComplete (n : Nat) (s : State) : Host.Outcome State Fault Refusal :=
  .next ((s.arrayStep n).getD s)

/-! ### Operations that enter the array queue (R249, R251, R254) -/

/-- R249: a ninth operation waits for the oldest. -/
def queueWait (s : State) : Option (Nat × Nat) :=
  if 8 ≤ s.me.arr.queue.length then some (1, s.me.arr.oldestInfo) else none

/-- The operation that an instruction would add. -/
def State.mkArrOp (s : State) (k : ArrKind) (t : TReg) (groups : Nat) : ArrOp :=
  { kind := k, t := t, groups := groups, seg := s.me.btw.seg, own := s.me.inTrap, idx := s.me.arr.issued }

/-- Add an operation to the core's array queue. -/
def Core.queueArr (c : Core) (o : ArrOp) : Core :=
  let a := c.arr
  let u := o.uses
  let a := { a with queue := a.queue ++ [o] }
  let a := if o.own then a else { a with usedA := a.usedA + u.1, usedB := a.usedB + u.2, issued := a.issued + 1 }
  let a := match o.kind with
    | .mma _ _ _ => a.setKind o.t.toNat .fp32
    | .mmai => a.setKind o.t.toNat .int32
    | .skip _ => a
  { c with arr := a }

/-- R251: TINFO of a kind that an operation does not accept. -/
def kindTrap (s : State) (t : TReg) (bad : Kind) : Option Word :=
  if s.me.arr.kindOf t.toNat == bad then
    some (tagInfo (match bad with | .fp32 => .fp32 | _ => .int32) 2)
  else none

/-- R246: the pair's array is not in quarantine. -/
def arrayUp (s : State) : Bool := !(s.pair (pairOf s.iss.cur)).aq

/-- An operation that enters the array queue. -/
def arrayOp (g : Guard) (k : ArrKind) (t : TReg) (groups : Nat) (tag : State → Option Word) (ok : Bool) : Op :=
  { guard := g, needs := [2], assigned := fun s => ok && arrayUp s, wait := queueWait, tag := tag
    uses := fun s =>
      if s.me.inTrap then [] else
      let u := (s.mkArrOp k t groups).uses
      [.fa u.1, .fb u.2]
    reqs := fun _ => some []
    run := fun s => s.onMe fun c => c.queueArr (s.mkArrOp k t groups) }

/-- R251: the format combinations of MMA and MMAS. -/
def mmaFmtOk (sparse : Bool) (fa fb : BitVec 4) : Bool :=
  ((fa == 7 || fa == 8) && (fb == 7 || fb == 8)) || (fa == 9 && fb == 9) || (!sparse && fa == 5 && fb == 5)

def opMma (g : Guard) (t : TReg) (fa fb : BitVec 4) (kg : BitVec 6) : Op :=
  (arrayOp g (.mma false fa fb) t (kg.toNat + 1) (fun s => kindTrap s t .int32) (mmaFmtOk false fa fb)).under (codeNeeds fa fb)
def opMmas (g : Guard) (t : TReg) (fa fb : BitVec 4) (kg : BitVec 6) : Op :=
  { arrayOp g (.mma true fa fb) t (kg.toNat + 1) (fun s => kindTrap s t .int32) (mmaFmtOk true fa fb) with
    needs := 3 :: codeNeeds fa fb }
def opMmai (g : Guard) (t : TReg) (kg : BitVec 6) : Op :=
  arrayOp g .mmai t (kg.toNat + 1) (fun s => kindTrap s t .fp32) true
/-- FQSKIP: N is encoded less one. -/
def opFqskip (g : Guard) (f : Stream) (n : BitVec 16) : Op :=
  arrayOp g (.skip f) 0 (n.toNat + 1) (fun _ => none) true

/-! ### Tile access (R253, R255) -/

/-- R249: wait while the tile is busy. -/
def tileWait (t : TReg) (s : State) : Option (Nat × Nat) :=
  if s.me.arr.busy t.toNat then some (1, 0x100 + t.toNat) else none

/-- The array with the rows of tile `t` that `p` names written by an instruction; what a trap handler writes stands through a
rollback (R259). -/
def Core.putTile (c : Core) (t : TReg) (x : Tile) (p : Nat → Bool) : Core :=
  let a := (c.arr.setTile t.toNat x).setKind t.toNat x.kind
  { c with arr := { a with
    ecc := a.ecc.filter fun e => !(e.1 == t.toNat && p e.2)
    hand := if c.inTrap then Map.put a.hand t.toNat x else a.hand } }

def opTclr (g : Guard) (t : TReg) : Op :=
  { guard := g, needs := [2], assigned := arrayUp, wait := tileWait t, reqs := fun _ => some []
    run := fun s => s.onMe fun c => c.putTile t Tile.zero fun _ => true }

/-- A row of a tile as lanes 0 to 63 of a register, the others zero. -/
def tileLanes (x : BitVec 2048) : Row := x.setWidth 16384

/-- The tag that TRD gives. -/
def Kind.tag (k : Kind) : Tag := match k with | .int32 => .int32 | _ => .fp32

/-- TRD. -/
def opTrd (g : Guard) (d : VReg) (t : TReg) (row : BitVec 6) : Op :=
  { guard := g, needs := [2], assigned := arrayUp, vd := some d, wait := tileWait t, reqs := fun _ => some []
    run := fun s =>
      let n := s.iss.cur
      let a := s.me.arr
      let bad := a.bad t.toNat (· == row.toNat)
      if bad && s.protected_ n then
        let s := s.arrayFails n t.toNat none false
        { s with iss := { s.iss with advanced := true, ended := true } }
      else
        let s := if bad then s.arrayFails n t.toNat none false else s
        let x := s.me.arr.tile t.toNat
        s.send 4 (.v d (tileLanes (Map.getD x.rows row.toNat 0)) (BitVec.allOnes 512) (some x.kind.tag)
          (x.poison != 0) false) }

/-- TWR: a row and the tile's kind. -/
def opTwr (g : Guard) (a : VSrc) (t : TReg) (row : BitVec 6) : Op :=
  { guard := g, needs := [2], assigned := arrayUp, srcs := [.v a], wait := tileWait t
    tag := fun s =>
      let x := (s.opV a.reg).tag
      if x == .fp32 || x == .int32 then none else some (tagInfo x 0)
    reqs := fun s => some (vBytes (s.opV a.reg))
    run := fun s =>
      let v := s.opV a.reg
      s.onMe fun c =>
        let x := c.arr.tile t.toNat
        c.putTile t
          { rows := Map.put x.rows row.toNat (v.row.setWidth 2048)
            kind := if v.tag == .int32 then .int32 else .fp32
            poison := putBit x.poison row.toNat false } (· == row.toNat) }

/-- MSIG waits for the whole queue. -/
def opMsig (g : Guard) (d : GReg) : Op :=
  { guard := g, needs := [2], assigned := arrayUp, gd := some d, reqs := fun _ => some []
    wait := fun s => if s.me.arr.queue.isEmpty then none else some (1, s.me.arr.oldestInfo)
    run := fun s => s.send 1 (.g d s.me.arr.asig false) }

def execMma (g : Guard) (t : TReg) (fa fb : BitVec 4) (kg : BitVec 6) (s : State) :=
  runOp (opMma g t fa fb kg) s
def execMmas (g : Guard) (t : TReg) (fa fb : BitVec 4) (kg : BitVec 6) (s : State) :=
  runOp (opMmas g t fa fb kg) s
def execMmai (g : Guard) (t : TReg) (kg : BitVec 6) (s : State) := runOp (opMmai g t kg) s
def execFqskip (g : Guard) (f : Stream) (n : BitVec 16) (s : State) := runOp (opFqskip g f n) s
def execTclr (g : Guard) (t : TReg) (s : State) := runOp (opTclr g t) s
def execTrd (g : Guard) (d : VReg) (t : TReg) (row : BitVec 6) (s : State) := runOp (opTrd g d t row) s
def execTwr (g : Guard) (a : VSrc) (t : TReg) (row : BitVec 6) (s : State) := runOp (opTwr g a t row) s
def execMsig (g : Guard) (d : GReg) (s : State) := runOp (opMsig g d) s

/-! ### The pair's mode (R239, R240) -/

/-- Is a core's array at rest and the core without a context? -/
def Core.quiet (c : Core) : Bool := c.run == .idle && c.arr.queue.isEmpty

/-- R240: the writes of PAIRMODE that are refused. -/
def State.pairRefuses (s : State) (p : Nat) (mode win : BitVec 2) : Bool :=
  let x := s.pair p
  !((s.core (2 * p)).quiet && (s.core (2 * p + 1)).quiet) || mode == 3 || win == 3
    || (mode == 2 && (x.q0 || x.q1)) || (mode != 0 && x.q0 && x.q1)

/-- R240: an accepted write clears the pair's tiles, streams and signatures. -/
def execPairmodeWrite (p : Nat) (mode win : BitVec 2) (s : State) : Host.Outcome State Fault Refusal :=
  if s.pairRefuses p mode win then .next s
  else
    let clear (n : Nat) (s : State) : State := s.setCore n { s.core n with arr := Arr.zero, backs := [] }
    let s := clear (2 * p + 1) (clear (2 * p) s)
    .next { s with pairs := Map.put s.pairs p { s.pair p with mode := mode, win := win } }

end Sys2Proof.Machine
end

