-- ==== Sys2Proof/Machine/RowMem.lean ====
section
/-! DEFINITION. The row instructions that reach ABUF, TSPAD or the mesh: VLD, VST, VLDX, VSTX, VLUT, TXM, RXM
(R166, R168 to R170, R332). -/

namespace Sys2Proof.Machine

/-! ### Row images (R19, R168) -/

/-- Bytes of a row image. -/
def imageBytes (t : Tag) : Nat := 64 * tagWidth t
/-- A row from an image under a tag: each lane's other bits are zero (R174). -/
def unpackRow (t : Tag) (bs : List Byte) : Row :=
  let n := leNat bs
  rowOf fun i => BitVec.ofNat 32 (bitsAt n (tagWidth t * i) (tagWidth t))
/-- The image of a register, as a number; `k` lanes have been packed from the top. -/
def packFrom (v : VCell) (k : Nat) : Nat :=
  match k with
  | 0 => 0
  | j + 1 => packFrom v j + v.bits j * 2 ^ (tagWidth v.tag * j)
/-- The image of a register. -/
def packRow (v : VCell) : List Byte := leBytes (imageBytes v.tag) (packFrom v 512)

/-- The unit of an address offset in a space: a row of ABUF or a line of TSPAD. -/
def rowUnit (sp : LSpace) : Nat := match sp with | .abuf => 512 | _ => 128

/-- The address of a row access. -/
def State.rowEa (s : State) (a : GSrc) (sp : LSpace) (off : BitVec 13) : Nat :=
  (s.opA a + BitVec.ofInt 64 ((rowUnit sp : Int) * off.toInt)).toNat % LSpace.size sp

/-- ABUF takes 8-bit tags only. -/
def imageTag (s : State) (d : VReg) (sp : LSpace) : Option Word :=
  let t := (s.opV d).tag
  badTag [(t, sp != .abuf || isByte t, 2)]

/-- VLD. -/
def opVld (g : Guard) (d : VReg) (a : GSrc) (sp : LSpace) (off : BitVec 13) : Op :=
  let ea (s : State) := s.rowEa a sp off
  let n (s : State) := imageBytes (s.opV d).tag
  { guard := g, srcs := [.g a], vd := some d
    wait := fun s => (s.me.loc.emptyLine sp (ea s) (n s)).map fun l => (2, addrInfo l)
    tag := fun s => imageTag s d sp
    chk := fun s => misaligned (s.opA a) (rowUnit sp)
    reqs := fun s => some (gBytes (s.opA a))
    run := fun s =>
      let c := s.me
      let bs := c.loc.load sp c.btw.seqno (ea s) (n s)
      s.send 4 (.v d (unpackRow (s.opV d).tag bs) (BitVec.allOnes 512) none
        (c.loc.bad sp (ea s) (n s)) false) }

/-- The permission trap of a store for the first address whose tile the engine owns. -/
def firstOwned (c : Core) (sp : LSpace) (as_ : List Nat) : Option TrapInfo := as_.findSome? (ownerTrap c sp)

/-- The addresses of the lines of an image at `a`. -/
def imageLines (sp : LSpace) (a n : Nat) : List Nat :=
  (List.range ((n + 127) / 128)).map fun k => (a + 128 * k) % LSpace.size sp

/-- VST. -/
def opVst (g : Guard) (d : VSrc) (a : GSrc) (sp : LSpace) (off : BitVec 13) : Op :=
  let ea (s : State) := s.rowEa a sp off
  let n (s : State) := imageBytes (s.opV d.reg).tag
  { guard := g, srcs := [.g a, .v d]
    tag := fun s => imageTag s d.reg sp
    chk := fun s => (misaligned (s.opA a) (rowUnit sp)).or
      (firstOwned s.me sp (imageLines sp (ea s) (n s)))
    uses := fun s => if s.me.inTrap then [] else storeUses sp (ea s) (n s)
    reqs := fun s => some (gBytes (s.opA a) ++ vBytes (s.opV d.reg))
    run := fun s =>
      s.onMe fun c => c.localStore sp s.iss.slot (ea s) (packRow (c.ctx.regs.vCell d.reg)) }

/-! ### Gather and scatter (R169) -/

/-- Bytes of an element. -/
def elemBytes (t : Tag) : Nat := tagWidth t / 8
/-- The enabled lanes of a mask, in order. -/
def enabled (m : Mask) : List Nat := (List.range 512).filter m.getLsbD
/-- The address of lane `i`'s element. -/
def laneEa (ga : Word) (sp : LSpace) (t : Tag) (b : VCell) (i : Nat) : Nat :=
  (ga + BitVec.ofInt 64 ((elemBytes t : Int) * b.int i)).toNat % LSpace.size sp
/-- B must be INT32; D's tag must not be E2M1, and 8 bits wide in ABUF. -/
def laneTag (s : State) (d : VReg) (b : VSrc) (sp : LSpace) : Option Word :=
  let t := (s.opV d).tag
  let y := (s.opV b.reg).tag
  badTag [(y, y == .int32, 1), (t, t != .e2m1 && (sp != .abuf || isByte t), 2)]

/-- VLDX. -/
def opVldx (g : Guard) (d : VReg) (a : GSrc) (sp : LSpace) (b : VSrc) (mk : MReg) : Op :=
  let t (s : State) := (s.opV d).tag
  let ea (s : State) (i : Nat) := laneEa (s.opA a) sp (t s) (s.opV b.reg) i
  { guard := g, srcs := [.g a, .v b], vd := some d
    wait := fun s => ((enabled (s.opM mk)).findSome? fun i =>
      s.me.loc.emptyLine sp (ea s i) (max 1 (elemBytes (t s)))).map fun l => (2, addrInfo l)
    tag := fun s => laneTag s d b sp
    chk := fun s => misaligned (s.opA a) (elemBytes (t s))
    reqs := fun s => some (gBytes (s.opA a) ++ vBytes (s.opV b.reg))
    run := fun s =>
      let c := s.me
      let e := elemBytes (t s)
      let row := rowOf fun i => BitVec.ofNat 32 (leNat (c.loc.load sp c.btw.seqno (ea s i) e))
      s.send 6 (.v d row (s.opM mk) none ((enabled (s.opM mk)).any fun i => c.loc.bad sp (ea s i) e)
        false) }

/-- VSTX: enabled lanes in rising order. -/
def opVstx (g : Guard) (d : VSrc) (a : GSrc) (sp : LSpace) (b : VSrc) (mk : MReg) : Op :=
  let t (s : State) := (s.opV d.reg).tag
  let ea (s : State) (i : Nat) := laneEa (s.opA a) sp (t s) (s.opV b.reg) i
  { guard := g, srcs := [.g a, .v b, .v d]
    tag := fun s => laneTag s d.reg b sp
    chk := fun s => (misaligned (s.opA a) (elemBytes (t s))).or
      (firstOwned s.me sp ((enabled (s.opM mk)).map (ea s)))
    uses := fun s =>
      if s.me.inTrap then []
      else ((enabled (s.opM mk)).flatMap fun i => storeUses sp (ea s i) (elemBytes (t s))).dedup
    reqs := fun s => some (gBytes (s.opA a) ++ vBytes (s.opV b.reg) ++ vBytes (s.opV d.reg))
    run := fun s =>
      (enabled (s.opM mk)).foldl (fun (s' : State) i => s'.onMe fun c =>
        c.localStore sp s.iss.slot (ea s i) (leBytes (elemBytes (t s)) ((s.opV d.reg).bits i))) s }

/-! ### Lookup (R166) -/

/-- Bytes of a table entry. -/
def entBytes (e : EntW) : Nat := match e with | .w8 => 1 | .w16 => 2 | .w32 => 4
/-- The result tag. -/
def entTag (e : EntW) : Tag := match e with | .w8 => .int8 | .w16 => .int16 | .w32 => .int32
/-- The table's base. -/
def lutBase (b : Word) : Nat := b.toNat % 262144

/-- VLUT. -/
def opVlut (g : Guard) (d : VReg) (a : VSrc) (b : GSrc) (mk : MReg) (ent : EntW) : Op :=
  let e := entBytes ent
  let ea (s : State) (i : Nat) := (lutBase (s.opB b) + e * (s.opV a.reg).bits i) % 262144
  { guard := g, srcs := [.v a, .g b], vd := some d
    wait := fun s => ((enabled (s.opM mk)).findSome? fun i =>
      s.me.loc.emptyLine .tsLinear (ea s i) e).map fun l => (2, addrInfo l)
    tag := fun s => tag1 s a isInt
    chk := fun s =>
      if lutBase (s.opB b) % e ≠ 0 then some ⟨6, 0, 0, BitVec.ofNat 64 (lutBase (s.opB b))⟩ else none
    reqs := fun s => some (vBytes (s.opV a.reg) ++ gBytes (s.opB b))
    run := fun s =>
      let c := s.me
      let row := rowOf fun i =>
        BitVec.ofNat 32 (leNat (c.loc.load .tsLinear c.btw.seqno (ea s i) e))
      s.send 4 (.v d row (s.opM mk) (some (entTag ent))
        ((enabled (s.opM mk)).any fun i => c.loc.bad .tsLinear (ea s i) e) false) }

/-! ### The mesh (R331, R332) -/

/-- Outside a transit phase, or in a bundle without TRANSIT, the mesh operations are illegal.  R145 says that they raise
the illegal-operation trap and gives the check no place: it is one of the slot's own, under its guard, in item 6 of R221
(DESIGN CHOICE, log 33). -/
def notInPhase (s : State) : Option TrapInfo :=
  if s.iss.transit && s.me.btw.phase.isSome then none
  else some ⟨2, 0, 0, BitVec.ofNat 64 s.iss.raw⟩

/-- TXM: drives its beats in the four phase cycles that follow. -/
def opTxm (g : Guard) (a : VSrc) (p : Port) : Op :=
  { guard := g, needs := [6], srcs := [.v a], chk := notInPhase, run := fun s => s.send 5 (.tx p (s.opV a.reg).row) }
/-- RXM: takes its beats in the four phase cycles that follow. -/
def opRxm (g : Guard) (d : VReg) (p : Port) : Op :=
  { guard := g, needs := [6], vd := some d, chk := notInPhase, run := fun s => s.send 5 (.rx d p 0) }

/-! ### Meanings -/

def execVld (g : Guard) (d : VReg) (a : GSrc) (sp : LSpace) (off : BitVec 13) (s : State) :=
  runOp (opVld g d a sp off) s
def execVst (g : Guard) (d : VSrc) (a : GSrc) (sp : LSpace) (off : BitVec 13) (s : State) :=
  runOp (opVst g d a sp off) s
def execVldx (g : Guard) (d : VReg) (a : GSrc) (sp : LSpace) (b : VSrc) (mk : MReg) (s : State) :=
  runOp (opVldx g d a sp b mk) s
def execVstx (g : Guard) (d : VSrc) (a : GSrc) (sp : LSpace) (b : VSrc) (mk : MReg) (s : State) :=
  runOp (opVstx g d a sp b mk) s
def execVlut (g : Guard) (d : VReg) (a : VSrc) (b : GSrc) (mk : MReg) (ent : EntW) (s : State) :=
  runOp (opVlut g d a b mk ent) s
def execTxm (g : Guard) (a : VSrc) (p : Port) (s : State) := runOp (opTxm g a p) s
def execRxm (g : Guard) (d : VReg) (p : Port) (s : State) := runOp (opRxm g d p) s

end Sys2Proof.Machine
end

