-- ==== Sys2Proof/Machine/Copy.lean ====
section
/-! DEFINITION. Copy instructions at issue: copy addresses, control words and descriptors (R195 to R198), the checks
of R199 and the entry into the held copy queue or the engine (R200, R201). -/

namespace Sys2Proof.Machine

/-! ### Copy addresses and control words -/

/-- SP of a copy address. -/
def cpSp (w : Word) : Nat := bitsAt w.toNat 62 2
/-- ADDR of a copy address. -/
def cpAddr (w : Word) : Nat := bitsAt w.toNat 0 56
/-- Table CPY-1: the fields that must be zero. -/
def cpClean (w : Word) : Bool :=
  bitsAt w.toNat 56 6 == 0
    && (match cpSp w with
      | 0 => true
      | 3 => bitsAt w.toNat 20 36 == 0
      | _ => bitsAt w.toNat 18 38 == 0)
/-- A copy address that an instruction accepts. -/
def cpOk (sps : List Nat) (w : Word) : Bool := cpClean w && sps.contains (cpSp w)
/-- Every space. -/
def anySp : List Nat := [0, 1, 2, 3]

/-- LEN of a control word. -/
def ctlLen (w : Word) : Nat := bitsAt w.toNat 0 48
/-- ONES of a control word. -/
def ctlOnes (w : Word) : Bool := w.getLsbD 48
/-- The linear address of the arrival word that a control word or a descriptor names. -/
def awAddr (w : Word) : Nat := bitsAt w.toNat 49 15 * 8

/-- An illegal-operation trap with a register's value (R199). -/
def illegalReg (x : Word) : Option TrapInfo := some ⟨2, 0, 0, x⟩
/-- The illegal-operation trap unless the condition holds. -/
def need (b : Bool) (x : Word) : Option TrapInfo := if b then none else illegalReg x
/-- The misalignment trap unless the address is a multiple of `n`. -/
def aligned (x : Word) (n : Nat) : Option TrapInfo := if cpAddr x % n = 0 then none else some ⟨6, 0, 0, x⟩
/-- The first trap of a list. -/
def firstTrap (xs : List (Option TrapInfo)) : Option TrapInfo := xs.findSome? id

/-! ### Descriptors (R198) -/

/-- The linear address of a descriptor. -/
def descAt (c : Word) : Nat := c.toNat % 262144
/-- R198: a descriptor's address is well formed. -/
def descAddrOk (c : Word) : Bool := bitsAt c.toNat 18 46 == 0 && decide (c.toNat % 64 = 0)
/-- The eight doublewords that the core reads at issue. -/
def State.readDesc (s : State) (c : Word) : List Word :=
  let bs := s.me.loc.load .tsLinear s.me.btw.seqno (descAt c) 64
  (List.range 8).map fun k => BitVec.ofNat 64 (leNat ((bs.drop (8 * k)).take 8))
/-- Doubleword `k`. -/
def dw (ds : List Word) (k : Nat) : Nat := (ds.getD k 0).toNat
/-- R198: the freeze for a descriptor's line. -/
def descWait (s : State) (c : Word) : Option (Nat × Nat) :=
  if descAddrOk c then (s.me.loc.emptyLine .tsLinear (descAt c) 64).map fun l => (2, addrInfo l) else none
/-- The checks of a descriptor's address and of doubleword 0, then those of the instruction. -/
def descChk (s : State) (c : Word) (f : List Word → Bool) : Option TrapInfo :=
  let ds := s.readDesc c
  firstTrap [need (bitsAt c.toNat 18 46 == 0) c,
    if c.toNat % 64 = 0 then none else some ⟨6, 0, 0, c⟩,
    need (bitsAt (dw ds 0) 0 49 == 0 && f ds) c]

/-- CPY2 and CPY3 (Table CPY-10). -/
def copyDescOk (three chk : Bool) (ds : List Word) : Bool :=
  let n0 := bitsAt (dw ds 1) 0 32
  let n1 := bitsAt (dw ds 1) 32 32
  let n2 := if three then bitsAt (dw ds 4) 0 32 else 1
  decide (n0 * n1 * n2 ≤ 2 ^ 48 - 1)
    && (if three then bitsAt (dw ds 4) 32 32 == 0 else dw ds 4 == 0 && dw ds 5 == 0 && dw ds 6 == 0)
    && (if chk then decide (n0 * n1 * n2 % 4096 = 0) && cpClean (ds.getD 7 0) else dw ds 7 == 0)
/-- GTH and SCT (Table CPY-11). -/
def gatherDescOk (ds : List Word) : Bool :=
  let n := bitsAt (dw ds 1) 32 32
  let e := bitsAt (dw ds 1) 0 32
  decide (n ≤ 2 ^ 24 ∧ 1 ≤ e ∧ e ≤ 65536) && cpClean (ds.getD 2 0)
    && (upFrom 4 4).all fun k => dw ds k == 0

/-- The fields of an UNF descriptor (Table CPY-12). -/
structure Unf where
  ch : Nat
  h : Nat
  w : Nat
  kh : Nat
  kw : Nat
  oh : Nat
  ow : Nat
  p0 : Nat
  sty : Nat
  stx : Nat
  dy : Nat
  dx : Nat
  padt : Nat
  padl : Nat
  padval : Byte
  scb : Nat
  syb : Nat
  deriving DecidableEq, Repr

def unfOf (ds : List Word) : Unf :=
  let f (k lo n : Nat) : Nat := bitsAt (dw ds k) lo n
  { ch := f 1 48 16, h := f 1 32 16, w := f 1 16 16, kh := f 1 8 8, kw := f 1 0 8, oh := f 2 48 16
    ow := f 2 32 16, p0 := f 2 0 32, sty := f 3 56 8, stx := f 3 48 8, dy := f 3 40 8, dx := f 3 32 8
    padt := f 3 24 8, padl := f 3 16 8, padval := BitVec.ofNat 8 (f 3 8 8), scb := f 4 32 32
    syb := f 4 0 32 }
/-- R213: the limits of UNF. -/
def unfDescOk (ds : List Word) : Bool :=
  let u := unfOf ds
  [u.ch, u.h, u.w, u.kh, u.kw, u.oh, u.ow, u.sty, u.stx, u.dy, u.dx].all (fun x => decide (1 ≤ x))
    && decide (u.ch * u.kh * u.kw ≤ 2048) && bitsAt (dw ds 3) 0 8 == 0
    && (upFrom 5 3).all fun k => dw ds k == 0

/-! ### Entry (R200, R201) -/

/-- What latches into a copy at issue. -/
def State.mkCopy (s : State) (op : CopyOp) (a b c : Word) (ds : List Word) (inc : BitVec 7) (chk : Bool) :
    Copy :=
  let me := s.me
  { id := me.btw.nextId, op := op, a := a, b := b, c := c, desc := ds, inc := inc, chk := chk
    slot := s.iss.slot, bundle := me.ctx.pc, asid := me.space, gen := me.gen, seg := me.btw.seg, mark := 0, commits := 0
    acc := 0, writes := [], done := [], sent := [], aux := [], got := [], asked := [], tries := 0, spos := 0, idx := []
    idxBad := none, base := 0
    ctx := me.regs.ctxId, own := me.inTrap, stop := none }

/-- Put a copy into the held queue, or into the engine: FEED, PFD, PFC, and a copy of a trap handler. -/
def State.enterCopy (s : State) (c : Copy) (now : Bool) : State :=
  s.onMe fun me =>
    let me := { me with btw := { me.btw with nextId := me.btw.nextId + 1 } }
    if now || me.inTrap then
      { me with engine := me.engine ++ [EngItem.marked (.copy c) (releaseMark me.accs) me.btw.commits] }
    else { me with held := me.held ++ [.copy c] }

/-- A handler's copy of a kind that is held elsewhere (R200, R201, R222) waits for room in the engine. -/
def handlerRoom (now : Bool) (s : State) : Verdict :=
  if !now && s.me.inTrap && !s.me.engineRoom 1 then .freeze 8 0 .none else .go

/-- A register of a C slot. -/
def State.gOf (s : State) (a : GSrc) : Word := s.me.ctx.regs.gv a.reg

/-- A copy instruction: sources in field order, its checks and what it latches. -/
def copyOp (g : Guard) (srcs : List GSrc) (now : Bool) (wait : State → Option (Nat × Nat))
    (chk : State → Option TrapInfo) (mk : State → Copy) : Op :=
  { guard := g, srcs := srcs.map .g, wait := wait, chk := chk
    late := handlerRoom now
    uses := fun s => if now || s.me.inTrap then [] else [.copy]
    reqs := fun s => some ((srcs.map fun a => gBytes (s.gOf a)).flatten ++ descBytes (mk s).desc)
    run := fun s => s.enterCopy (mk s) now }
/-- A copy with destination, source and control word. -/
def ctlCopy (g : Guard) (op : CopyOp) (a b c : GSrc) (inc : BitVec 7) (chk : Bool)
    (f : Word → Word → Word → Option TrapInfo) : Op :=
  copyOp g [a, b, c] false (fun _ => none)
    (fun s => f (s.gOf a) (s.gOf b) (s.gOf c))
    (fun s => s.mkCopy op (s.gOf a) (s.gOf b) (s.gOf c) [] inc chk)

/-- A copy with destination, source and descriptor. -/
def descCopy (g : Guard) (op : CopyOp) (a b c : GSrc) (inc : BitVec 7) (chk : Bool)
    (f : Word → Word → Option TrapInfo) (ok : List Word → Bool) : Op :=
  copyOp g [a, b, c] false (fun s => descWait s (s.gOf c))
    (fun s => (f (s.gOf a) (s.gOf b)).or (descChk s (s.gOf c) ok))
    (fun s => s.mkCopy op (s.gOf a) (s.gOf b) (s.gOf c) (s.readDesc (s.gOf c)) inc chk)

/-- Destination and source in any space. -/
def anyTwo (a b : Word) : Option TrapInfo := firstTrap [need (cpOk anySp a) a, need (cpOk anySp b) b]
/-- A control word without ONES, and a whole number of blocks where the copy is checked (R207). -/
def plainCtl (chk : Bool) (c : Word) : Option TrapInfo :=
  need (!ctlOnes c && (!chk || decide (ctlLen c % 4096 = 0))) c

def opCpy (g : Guard) (a b c : GSrc) (inc : BitVec 7) (chk : Bool) : Op :=
  ctlCopy g .cpy a b c inc chk fun x y z => firstTrap [anyTwo x y, plainCtl chk z]
def opCpy2 (g : Guard) (a b c : GSrc) (inc : BitVec 7) (chk : Bool) : Op :=
  descCopy g .cpy2 a b c inc chk anyTwo (copyDescOk false chk)
def opCpy3 (g : Guard) (a b c : GSrc) (inc : BitVec 7) (chk : Bool) : Op :=
  descCopy g .cpy3 a b c inc chk anyTwo (copyDescOk true chk)
def opCpyx (g : Guard) (a b c : GSrc) (inc : BitVec 7) : Op :=
  ctlCopy g .cpyx a b c inc false fun x y z => firstTrap [anyTwo x y, plainCtl false z]
/-- UNF: the destination is ABUF in whole rows, or TSPAD in whole lines. -/
def opUnf (g : Guard) (a b c : GSrc) (inc : BitVec 7) : Op :=
  descCopy g .unf a b c inc false
    (fun x y => firstTrap [need (cpOk [1, 2, 3] x) x, aligned x (if cpSp x = 3 then 512 else 128),
      need (cpOk anySp y) y])
    unfDescOk
def opGth (g : Guard) (a b c : GSrc) (inc : BitVec 7) : Op :=
  descCopy g .gth a b c inc false anyTwo gatherDescOk
def opSct (g : Guard) (a b c : GSrc) (inc : BitVec 7) : Op :=
  descCopy g .sct a b c inc false anyTwo gatherDescOk
def opFill (g : Guard) (a b : GSrc) (inc : BitVec 7) : Op :=
  copyOp g [a, b] false (fun _ => none) (fun s => need (cpOk anySp (s.gOf a)) (s.gOf a))
    (fun s => s.mkCopy .fill (s.gOf a) 0 (s.gOf b) [] inc false)
def opFeed (g : Guard) (a b : GSrc) (inc : BitVec 7) (f : Stream) : Op :=
  { copyOp g [a, b] true (fun _ => none)
      (fun s => firstTrap [need (cpOk anySp (s.gOf a)) (s.gOf a), plainCtl false (s.gOf b)])
      (fun s => s.mkCopy (.feed f) 0 (s.gOf a) (s.gOf b) [] inc false) with
    needs := [2], assigned := fun s => !(s.pair (pairOf s.iss.cur)).aq }

/-! ### XFM (R216) -/

/-- K of XFM.T: lines of a matrix. -/
def xfmK (p : Word) : Nat := 128 / 2 ^ bitsAt p.toNat 0 2
/-- Bytes of a region of XFM.T. -/
def xfmRegion (p : Word) : Nat := 16 * xfmK p * 128
/-- The tags that XFM.CVT converts. -/
def xfmTag (x : Nat) : Option Tag :=
  (Tag.ofCode (BitVec.ofNat 4 x)).bind fun t =>
    if t == .int8 || t == .int16 || t == .int32 || t == .fp32 || t == .bf16 || t == .fp16 || t == .e4m3
      || t == .e5m2 then some t else none

def opXfmT (g : Guard) (a b c : GSrc) (inc : BitVec 7) : Op :=
  ctlCopy g .xfmT a b c inc false fun x p z => firstTrap
    [need (cpOk [1] x) x, need (bitsAt p.toNat 2 62 == 0) p, aligned x (xfmRegion p), plainCtl false z,
      need (decide (ctlLen z % xfmRegion p = 0)) z]
def opXfmCvt (g : Guard) (a b c : GSrc) (inc : BitVec 7) : Op :=
  ctlCopy g .xfmCvt a b c inc false fun x p z => firstTrap
    [need (cpOk [1, 2] x) x, aligned x 128,
      need (bitsAt p.toNat 0 4 == 0 && bitsAt p.toNat 12 52 == 0
        && (xfmTag (bitsAt p.toNat 4 4)).isSome && (xfmTag (bitsAt p.toNat 8 4)).isSome) p,
      plainCtl false z, need (decide (ctlLen z % 128 = 0)) z]
def opXfmPack (g : Guard) (a b c : GSrc) (inc : BitVec 7) : Op :=
  ctlCopy g .xfmPack a b c inc false fun x p z => firstTrap
    [need (cpOk [1, 2] x) x, aligned x 128,
      need (bitsAt p.toNat 2 62 == 0 && bitsAt p.toNat 0 2 != 3) p, plainCtl false z,
      need (decide (ctlLen z % 128 = 0)) z]

/-! ### Prefetch, SRED, STG (R217 to R219) -/

/-- A length register. -/
def lenOk (x : Word) : Bool := bitsAt x.toNat 48 16 == 0

def opPfd (g : Guard) (a b : GSrc) : Op :=
  copyOp g [a, b] true (fun _ => none)
    (fun s => firstTrap [need (cpOk [0] (s.gOf a)) (s.gOf a), need (lenOk (s.gOf b)) (s.gOf b)])
    (fun s => s.mkCopy .pfd (s.gOf a) 0 (s.gOf b) [] 0 false)
def opPfc (g : Guard) (a b : GSrc) (cls : Residency) : Op :=
  copyOp g [a, b] true (fun _ => none)
    (fun s => firstTrap [need (cpOk [0] (s.gOf a)) (s.gOf a), need (lenOk (s.gOf b)) (s.gOf b)])
    (fun s => s.mkCopy (.pfc cls) (s.gOf a) 0 (s.gOf b) [] 0 false)
def opSred (g : Guard) (a b c : GSrc) (inc : BitVec 7) (op : CombOp) : Op :=
  ctlCopy g (.sred op) a b c inc false fun x y z => firstTrap
    [need (cpOk [0] x) x, aligned x 4, need (cpOk anySp y) y, aligned y 4, plainCtl false z,
      need (decide (ctlLen z % 4 = 0)) z]

/-- The slice that a slice-named address names (Table CPY-14). -/
def stgSlice (b : Word) : Nat := bitsAt b.toNat 27 2 * 32 + bitsAt b.toNat 22 5
/-- Its offset. -/
def stgOff (b : Word) : Nat := bitsAt b.toNat 0 22
def opStg (g : Guard) (a b c : GSrc) (inc : BitVec 7) (chk : Bool) : Op :=
  ((ctlCopy g .stg a b c inc chk fun x y z => firstTrap
    [need (cpOk anySp x) x, need (bitsAt y.toNat 29 34 == 0) y, plainCtl chk z,
      need (decide (stgOff y + ctlLen z ≤ 2 ^ 22)) z]).under [9]).privileged

/-! ### Meanings -/

def execCpy (g : Guard) (a b c : GSrc) (inc : BitVec 7) (chk : Bool) (s : State) :=
  runOp (opCpy g a b c inc chk) s
def execCpy2 (g : Guard) (a b c : GSrc) (inc : BitVec 7) (chk : Bool) (s : State) :=
  runOp (opCpy2 g a b c inc chk) s
def execCpy3 (g : Guard) (a b c : GSrc) (inc : BitVec 7) (chk : Bool) (s : State) :=
  runOp (opCpy3 g a b c inc chk) s
def execCpyx (g : Guard) (a b c : GSrc) (inc : BitVec 7) (s : State) := runOp (opCpyx g a b c inc) s
def execUnf (g : Guard) (a b c : GSrc) (inc : BitVec 7) (s : State) := runOp (opUnf g a b c inc) s
def execGth (g : Guard) (a b c : GSrc) (inc : BitVec 7) (s : State) := runOp (opGth g a b c inc) s
def execSct (g : Guard) (a b c : GSrc) (inc : BitVec 7) (s : State) := runOp (opSct g a b c inc) s
def execFill (g : Guard) (a b : GSrc) (inc : BitVec 7) (s : State) := runOp (opFill g a b inc) s
def execFeed (g : Guard) (a b : GSrc) (inc : BitVec 7) (f : Stream) (s : State) :=
  runOp (opFeed g a b inc f) s
def execXfmT (g : Guard) (a b c : GSrc) (inc : BitVec 7) (s : State) := runOp (opXfmT g a b c inc) s
def execXfmCvt (g : Guard) (a b c : GSrc) (inc : BitVec 7) (s : State) := runOp (opXfmCvt g a b c inc) s
def execXfmPack (g : Guard) (a b c : GSrc) (inc : BitVec 7) (s : State) :=
  runOp (opXfmPack g a b c inc) s
def execPfd (g : Guard) (a b : GSrc) (s : State) := runOp (opPfd g a b) s
def execPfc (g : Guard) (a b : GSrc) (cls : Residency) (s : State) := runOp (opPfc g a b cls) s
def execSred (g : Guard) (a b c : GSrc) (inc : BitVec 7) (op : CombOp) (s : State) :=
  runOp (opSred g a b c inc op) s
def execStg (g : Guard) (a b c : GSrc) (inc : BitVec 7) (chk : Bool) (s : State) :=
  runOp (opStg g a b c inc chk) s

end Sys2Proof.Machine
end

