-- ==== Sys2Proof/Machine/Hash.lean ====
section
/-! DEFINITION. SHAKE256, the extendable-output function of FIPS 202, whose digests the spec names (R89, R341, R349, R355). -/

namespace Sys2Proof.Machine

/-- The rotation of each lane, in the order of the state. -/
def keccakTurns : List Nat :=
  [0, 1, 62, 28, 27, 36, 44, 6, 55, 20, 3, 10, 43, 25, 39, 41, 45, 15, 21, 8, 18, 2, 61, 56, 14]
/-- The constants of the 24 rounds. -/
def keccakRounds : List Word :=
  [0x0000000000000001, 0x0000000000008082, 0x800000000000808A, 0x8000000080008000, 0x000000000000808B, 0x0000000080000001,
    0x8000000080008081, 0x8000000000008009, 0x000000000000008A, 0x0000000000000088, 0x0000000080008009, 0x000000008000000A]
  ++ [0x000000008000808B, 0x800000000000008B, 0x8000000000008089, 0x8000000000008003, 0x8000000000008002, 0x8000000000000080,
    0x000000000000800A, 0x800000008000000A, 0x8000000080008081, 0x8000000000008080, 0x0000000080000001, 0x8000000080008008]

/-- One round on a state of 25 lanes, lane `x + 5 y`. -/
def keccakRound (a : List Word) (rc : Word) : List Word :=
  let at_ (b : List Word) (x y : Nat) : Word := b.getD (x % 5 + 5 * (y % 5)) 0
  let c := (List.range 5).map fun x => (List.range 5).foldl (fun (z : Word) y => z ^^^ at_ a x y) 0
  let d := (List.range 5).map fun x => c.getD ((x + 4) % 5) 0 ^^^ (c.getD ((x + 1) % 5) 0).rotateLeft 1
  let b := ((a.zip keccakTurns).zipIdx).map fun e => (e.1.1 ^^^ d.getD (e.2 % 5) 0).rotateLeft e.1.2
  -- the lane at (y, 2 x + 3 y) is the turned lane at (x, y)
  let p := (List.range 25).map fun k => at_ b (k % 5 + 3 * (k / 5)) (k % 5)
  let q := (List.range 25).map fun k =>
    at_ p k (k / 5) ^^^ (~~~(at_ p (k + 1) (k / 5)) &&& at_ p (k + 2) (k / 5))
  match q with | z :: rest => (z ^^^ rc) :: rest | [] => []
/-- Keccak-f[1600]. -/
def keccakF (a : List Word) : List Word := keccakRounds.foldl keccakRound a

/-- The rate of SHAKE256, in bytes. -/
def shakeRate : Nat := 136
/-- The message with its suffix and padding. -/
def shakePad (m : List Byte) : List Byte :=
  let n := shakeRate - m.length % shakeRate
  m ++ if n = 1 then [0x9F] else 0x1F :: List.replicate (n - 2) 0 ++ [0x80]
/-- A block is absorbed. -/
def shakeAbsorb (a : List Word) (block : List Byte) : List Word :=
  keccakF (a.zipIdx.map fun e =>
    if e.2 < shakeRate / 8 then e.1 ^^^ BitVec.ofNat 64 (leNat ((block.drop (8 * e.2)).take 8)) else e.1)
/-- `k` more blocks are absorbed. -/
def shakeBlocks (k : Nat) (a : List Word) (m : List Byte) : List Word :=
  match k with
  | 0 => a
  | k + 1 => shakeBlocks k (shakeAbsorb a (m.take shakeRate)) (m.drop shakeRate)
/-- The first `n` bytes of SHAKE256 of a message, `n` at most 136. -/
def shake256 (n : Nat) (m : List Byte) : List Byte :=
  let p := shakePad m
  ((shakeBlocks (p.length / shakeRate) (List.replicate 25 0) p).flatMap fun w => leBytes 8 w.toNat).take n
/-- The digest of 32 bytes. -/
def digest (m : List Byte) : List Byte := shake256 32 m

end Sys2Proof.Machine
end

