-- ==== Sys2Proof/Machine/Engine.lean ====
section
/-! DEFINITION. The copy engine: where each byte of a copy's stream comes from and goes (R209 to R218), acceptance
of pieces (R181, R182, R202, R203), landing (R204, R205, R313), checked blocks (R207), transforms (R216) and fault
reports (R206). -/

namespace Sys2Proof.Machine

/-! ### Places -/

/-- A place that a copy reads or writes. -/
inductive Loc where
  | va (a : Nat)
  | bank (v : LSpace) (a : Nat)
  | slice (sl off : Nat)
  | fifo (f : Stream)
  deriving DecidableEq, Repr

/-- Where a byte of the stream comes from. -/
inductive SrcB where
  | lit (b : Byte)
  | loc (l : Loc)
  deriving DecidableEq, Repr

/-- R195: the place at an offset from a copy address; local ranges wrap. -/
def cpLoc (w : Word) (off : Int) : Loc :=
  let a : Int := cpAddr w + off
  match cpSp w with
  | 0 => .va (a % (2 ^ 64 : Nat)).toNat
  | 1 => .bank .tsLinear (a % 262144).toNat
  | 2 => .bank .tsSwizzled (a % 262144).toNat
  | _ => .bank .abuf (a % 1048576).toNat

/-- The physical TSPAD line of a place. -/
def Loc.line (l : Loc) : Option Nat :=
  match l with
  | .bank .abuf _ => none
  | .bank v a => some (physOf v a / 128)
  | _ => none
/-- Is the place global? -/
def Loc.isVa (l : Loc) : Bool := match l with | .va _ => true | _ => false
def SrcB.isVa (x : SrcB) : Bool := match x with | .loc l => l.isVa | .lit _ => false

/-- A stride of a descriptor. -/
def stride (c : Copy) (k : Nat) : Int := (c.desc.getD k 0).toInt
/-- N0, N1 of CPY2 and CPY3; E of GTH and SCT. -/
def Copy.lowCount (c : Copy) : Nat := bitsAt (dw c.desc 1) 0 32
def Copy.highCount (c : Copy) : Nat := bitsAt (dw c.desc 1) 32 32
/-- The offset of stream byte `o` in rows and planes of strides `k1` and `k2`. -/
def Copy.rows (c : Copy) (k1 k2 o : Nat) : Int :=
  let n0 := c.lowCount
  let n1 := c.highCount
  (o / n0 / n1 : Nat) * stride c k2 + (o / n0 % n1 : Nat) * stride c k1 + (o % n0 : Nat)
/-- The index value of an element of GTH or SCT, as latched. -/
def Copy.index (c : Copy) (k : Nat) : Int := (Map.getD c.idx k 0).toInt
/-- The byte of an element through its index. -/
def Copy.indexed (c : Copy) (o : Nat) : Int :=
  let e := c.lowCount
  c.index (o / e) * stride c 3 + (o % e : Nat)

/-- R213: a byte of an unfolded row. -/
def Copy.unfSrc (c : Copy) (o : Nat) : SrcB :=
  let u := unfOf c.desc
  let r := o / 512
  let kx := r % u.kw
  let ky := r / u.kw % u.kh
  let ch := r / u.kw / u.kh
  let p := u.p0 + o % 512
  if u.oh * u.ow ≤ p then .lit 0
  else
    let iy : Int := (p / u.ow * u.sty + ky * u.dy : Nat) - (u.padt : Int)
    let ix : Int := (p % u.ow * u.stx + kx * u.dx : Nat) - (u.padl : Int)
    if 0 ≤ iy ∧ iy < u.h ∧ 0 ≤ ix ∧ ix < u.w then
      .loc (cpLoc c.b ((ch * u.scb : Nat) + iy * u.syb + ix))
    else .lit u.padval

/-- DIR of a slice-named address: from A to the slice. -/
def Copy.toSlice (c : Copy) : Bool := c.b.getLsbD 63

/-- The source of stream byte `o`. -/
def Copy.src (c : Copy) (o : Nat) : SrcB :=
  match c.op with
  | .cpy | .feed _ | .sred _ | .sct => .loc (cpLoc c.b o)
  | .cpy2 | .cpy3 => .loc (cpLoc c.b (c.rows 2 5 o))
  | .cpyx => .lit (Map.getD c.got o 0)
  | .unf => c.unfSrc o
  | .gth => .loc (cpLoc c.b (c.indexed o))
  | .fill => .lit (if ctlOnes c.c then 0xFF else 0)
  | .stg => .loc (if c.toSlice then cpLoc c.a o else .slice (stgSlice c.b) (stgOff c.b + o))
  | .xfmT | .xfmCvt | .xfmPack | .pfd | .pfc _ => .lit 0
/-- The destination of stream byte `o`. -/
def Copy.dst (c : Copy) (o : Nat) : Loc :=
  match c.op with
  | .cpy2 | .cpy3 => cpLoc c.a (c.rows 3 6 o)
  | .sct => cpLoc c.a (c.indexed o)
  | .feed f => .fifo f
  | .stg => if c.toSlice then .slice (stgSlice c.b) (stgOff c.b + o) else cpLoc c.a o
  | .xfmT =>
    -- command j is bank j mod 16 of region j / 16; its K lines are one stretch of the stream
    let m := 128 * xfmK c.b
    let j := o / m
    cpLoc c.a (j / 16 * xfmRegion c.b + (j % 16 + 16 * (o % m / 128)) * 128 + o % 128 : Nat)
  | _ => cpLoc c.a o

/-- The bytes of the stream as far as they are known. -/
def Copy.len (c : Copy) : Nat :=
  match c.op with
  | .cpy2 => c.lowCount * c.highCount
  | .cpy3 => c.lowCount * c.highCount * bitsAt (dw c.desc 4) 0 32
  | .cpyx => c.base
  | .unf => let u := unfOf c.desc; 512 * (u.ch * u.kh * u.kw)
  | .gth | .sct => c.highCount * c.lowCount
  | .pfd | .pfc _ => 0
  | _ => ctlLen c.c
/-- Is the end of the stream known? -/
def Copy.whole (c : Copy) : Bool := c.op != .cpyx || decide (ctlLen c.c ≤ c.spos)
/-- Is it a transform? -/
def CopyOp.isXfm (o : CopyOp) : Bool := o == .xfmT || o == .xfmCvt || o == .xfmPack

/-- The opcode (Table BND-14). -/
def CopyOp.code (o : CopyOp) : Nat :=
  match o with
  | .cpy => 1 | .cpy2 => 2 | .cpy3 => 3 | .cpyx => 4 | .unf => 5 | .gth => 6 | .sct => 7 | .fill => 8
  | .feed _ => 9 | .xfmT | .xfmCvt | .xfmPack => 10 | .pfd => 11 | .pfc _ => 12 | .sred _ => 13 | .stg => 14
/-- AW of a copy. -/
def Copy.aw (c : Copy) : Nat :=
  match c.op with
  | .cpy2 | .cpy3 | .unf | .gth | .sct => awAddr (c.desc.getD 0 0)
  | _ => awAddr c.c

/-! ### Bytes by number -/

/-- The numbers of the bytes that a copy reads beside its stream: from here on those of its index array (R211), of its checksum
array (R207), of the compressed blocks of CPYX (R214). -/
def idxKey : Nat := 2 ^ 50
def crcKey : Nat := 2 ^ 51
def cbfKey : Nat := 2 ^ 52

/-- R207: byte `j` of the checksum array. -/
def Copy.crcLoc (x : Copy) (j : Nat) : Loc :=
  match x.op with
  | .cpy2 | .cpy3 => cpLoc (x.desc.getD 7 0) j
  | .stg => if x.toSlice then cpLoc x.a (x.len + j : Nat) else .slice (stgSlice x.b) (stgOff x.b + x.len + j)
  | _ => cpLoc x.b (x.len + j : Nat)
/-- Where the byte of a number comes from. -/
def Copy.place (x : Copy) (k : Nat) : SrcB :=
  if k < idxKey then x.src k
  else if k < crcKey then .loc (cpLoc (x.desc.getD 2 0) (k - idxKey : Nat))
  else if k < cbfKey then .loc (x.crcLoc (k - crcKey))
  else .loc (cpLoc x.b (k - cbfKey : Nat))
/-- The place of a byte that has to be read. -/
def Copy.srcAt (x : Copy) (k : Nat) : Option Loc := match x.place k with | .loc l => some l | .lit _ => none
/-- Is the byte at hand? -/
def Copy.has (x : Copy) (k : Nat) : Bool := (x.srcAt k).isNone || (Map.find? x.got k).isSome
/-- The byte, once it is at hand. -/
def Copy.byte (x : Copy) (k : Nat) : Byte := match x.place k with | .lit b => b | .loc _ => Map.getD x.got k 0
/-- Bytes from a number on. -/
def Copy.bytes (x : Copy) (k n : Nat) : List Byte := (upFrom k n).map x.byte

/-! ### What is still to land -/

/-- Does a number from `o` on, `fuel` of them, satisfy `p`? -/
def anyFrom (fuel o : Nat) (p : Nat → Bool) : Bool :=
  match fuel with
  | 0 => false
  | k + 1 => p o || anyFrom k (o + 1) p
/-- The first number from `o` on, among `fuel`, that does not satisfy `p`. -/
def endOf (fuel o : Nat) (p : Nat → Bool) : Nat :=
  match fuel with
  | 0 => o
  | k + 1 => if p o then endOf k (o + 1) p else o

/-- Are all the bytes from `lo` to `hi - 1` at hand? -/
def Copy.hasAll (x : Copy) (lo hi : Nat) : Bool := !anyFrom (hi - lo) lo fun k => !x.has k
/-- The bytes from `lo` to `hi - 1` are forgotten. -/
def Copy.drop (x : Copy) (lo hi : Nat) : Copy :=
  { x with got := List.filter (fun e : Nat × Byte => !decide (lo ≤ e.1 ∧ e.1 < hi)) x.got }

/-- A place by its physical address. -/
def Loc.norm (l : Loc) : Loc :=
  match l with
  | .bank .abuf a => .bank .abuf a
  | .bank v a => .bank .tsLinear (physOf v a)
  | x => x
/-- Are two places in one space? -/
def Loc.sameSpace (a b : Loc) : Bool :=
  match a.norm, b.norm with
  | .va _, .va _ => true
  | .bank v _, .bank w _ => v == w
  | .slice _ _, .slice _ _ => true
  | .fifo _, .fifo _ => true
  | _, _ => false

/-- Is the index of the element of stream byte `o` still to be read (R211)? -/
def Copy.unlatched (x : Copy) (o : Nat) : Bool := (x.op == .gth || x.op == .sct) && (Map.find? x.idx (o / x.lowCount)).isNone
/-- Is the destination of stream byte `o` not known yet? -/
def Copy.unknown (x : Copy) (o : Nat) : Bool := x.op == .sct && x.unlatched o
/-- The end that the stream may have; a block of CPYX that has not been read may expand to 64 KiB. -/
def Copy.mayLen (x : Copy) : Nat := if x.whole then x.len else x.base + (ctlLen x.c - x.spos) / 16 * 65536

/-- Has a byte of an accepted piece landed? -/
def Copy.isDone (c : Copy) (o : Nat) : Bool := c.done.any fun d => decide (d.1 ≤ o ∧ o < d.2)
/-- Has stream byte `o` landed? -/
def Copy.landed (c : Copy) (o : Nat) : Bool :=
  decide (o < c.acc) && !(c.writes.any (fun w => decide (w.lo ≤ o ∧ o < w.hi)) && !c.isDone o)
/-- The first byte that may not have landed. -/
def Copy.first (c : Copy) : Nat := c.writes.foldl (fun m w => min m w.lo) c.acc
/-- Is there a byte still to land whose destination `p` names, or may be in the space of `l`?  Of a stopped copy the accepted
pieces still land. -/
def Copy.pendingTo (x : Copy) (l : Loc) (p : Loc → Bool) : Bool :=
  let hi := if x.stop.isSome then x.acc else x.mayLen
  anyFrom (hi - x.first) x.first fun o => !x.landed o && (if x.unknown o then (cpLoc x.a 0).sameSpace l else p (x.dst o).norm)

/-- The copies of an engine before place `i`. -/
def earlier (es : List EngItem) (i : Nat) : List Copy :=
  (es.take i).filterMap fun e => match e with | .copy c => some c | .send _ => none

/-- The physical TSPAD lines that a stretch of the stream writes, as far as they are known. -/
def Copy.lines (c : Copy) (lo hi : Nat) : List Nat :=
  (upFrom lo (hi - lo)).foldl (fun acc o =>
    match (if c.unknown o then none else (c.dst o).line) with
    | some l => if acc.contains l then acc else acc ++ [l]
    | none => acc) []
/-- R181: has every byte of a piece that goes to a line landed?  The lines of a checked copy wait for its block. -/
def Copy.lineDone (x : Copy) (w : Piece) (l : Nat) : Bool :=
  !x.chk && !anyFrom (w.hi - w.lo) w.lo fun o => (x.dst o).line == some l && !x.isDone o
/-- How many of this copy's accepted pieces have still to complete a line. -/
def Copy.ownCount (c : Copy) (l : Nat) : Nat :=
  (c.writes.filter fun w => (c.lines w.lo w.hi).contains l && !c.lineDone w l).length

/-- Change the count of lines. -/
def Local.count (l : Local) (ls : List Nat) (f : Line → Line) : Local :=
  ls.foldl (fun l i => l.setLine i (f (l.line i))) l
/-- A line's count goes up, or down. -/
def Line.up (x : Line) : Line := { x with count := x.count + 1 }
def Line.down (x : Line) : Line := { x with count := x.count - 1 }
/-- R181: a write that fails: its count drops and the line is marked. -/
def Line.lost (x : Line) : Line := ⟨x.count - 1, true⟩
def Line.fail (x : Line) : Line := { x with failed := true }

/-! ### The engine's list -/

/-- Put the copy at place `i`. -/
def Core.putCopy (c : Core) (i : Nat) (x : Copy) : Core := { c with engine := c.engine.set i (.copy x) }
/-- Take the item at place `i` out. -/
def Core.dropItem (c : Core) (i : Nat) : Core := { c with engine := c.engine.eraseIdx i }
/-- The copy at place `i`. -/
def Core.copyAt (c : Core) (i : Nat) : Option Copy :=
  match c.engine[i]? with | some (.copy x) => some x | _ => none
/-- The place of a copy or a send in an engine. -/
def Core.itemAt (c : Core) (id : Nat) : Option (Nat × EngItem) :=
  c.engine.zipIdx.findSome? fun e =>
    let x := match e.1 with | .copy y => y.id | .send y => y.id
    if x == id then some (e.2, e.1) else none

/-- R313: has every store and atomic that the release mark covers been served? -/
def Core.markServed (c : Core) (x : Copy) : Bool :=
  !c.accs.any fun a => decide (a.id < x.mark ∧ a.commit ≤ x.commits) && !a.performed && !a.held
    && (match a.kind with | .store .. | .atomic .. | .pgref .. => true | _ => false)

/-- R202, R206: the copy stops at byte `off`, with a status and an address: the accepted pieces from there on are given up, and
the lines that they had not completed, and those of the piece from `off` to `hi - 1` that has not been accepted, are marked
FAILED (R181).  A fault at an earlier byte takes the place of a later one. -/
def Core.stopCopy (c : Core) (i : Nat) (x : Copy) (status off : Nat) (addr : Word) (hi : Nat) : Core :=
  let gone := x.writes.filter fun w => decide (off ≤ w.lo)
  let loc := gone.foldl (fun l w => l.count ((x.lines w.lo w.hi).filter fun j => !x.lineDone w j) Line.lost) c.loc
  let x' := { x with writes := x.writes.filter fun w => decide (w.lo < off), aux := [], stop := some (status, off, addr) }
  match x.stop with
  | some (_, o, _) => if o ≤ off then c else { c.putCopy i x' with loc := loc }
  | none => { c.putCopy i x' with loc := if x.acc ≤ off then loc.count (x.lines off hi) Line.fail else loc }

/-! ### Reading local places (R203) -/

/-- The outcome of reading a source byte: a value, a wait, or a status of Table CPY-5. -/
inductive Got where
  | ok (b : Byte)
  | wait
  | bad (status : Nat)
  deriving DecidableEq, Repr

/-- R203: a byte of a local bank as the engine reads it for the copy at place `i`. -/
def Core.bankByte (c : Core) (i : Nat) (x : Copy) (v : LSpace) (a : Nat) : Got :=
  let p := physOf v a
  let l := Loc.bank v a
  let bank : Got :=
    if (match v with | .abuf => c.loc.eccA | _ => c.loc.eccT).contains (p / 8) then .bad 7
    else .ok (c.loc.seenBy x.upto v p)
  match v with
  | .abuf => if (earlier c.engine i).any fun y => y.pendingTo l (· == .bank .abuf p) then .wait else bank
  | _ =>
    let y := c.loc.line (p / 128)
    if y.failed then .bad 6
    else if x.ownCount (p / 128) < y.count then .wait
    else if (earlier c.engine i).any fun y => y.pendingTo l fun d => d.line == some (p / 128) then .wait
    else bank

/-- A byte of a place that the engine reaches without a request: a bank or a staging window. -/
def State.nearByte (s : State) (n i : Nat) (x : Copy) (l : Loc) : Got :=
  match l with
  | .bank v a => (s.core n).bankByte i x v a
  | .slice sl off => if off < (s.slice sl).windowBytes then .ok (Memory.read (s.slice sl).window off) else .bad 8
  | _ => .wait

/-- The first outcome that is not a byte, with its place in the list. -/
def firstBad (gs : List Got) : Option (Nat × Got) :=
  gs.zipIdx.findSome? fun g => match g.1 with | .ok _ => none | x => some (g.2, x)
/-- The bytes of a list of outcomes. -/
def gotBytes (gs : List Got) : List Byte := gs.map fun g => match g with | .ok b => b | _ => 0

/-! ### Pieces (R202) -/

/-- The stretch of addresses that a page covers; 4 KiB where there is no page. -/
def pageSpan (t : Option Tlb) (l : Loc) : Nat × Nat :=
  let n := match t with | some t => pageBytes t.sz | none => 4096
  let a := match l with | .va a => a | _ => 0
  (alignDown a n, alignDown a n + n)
/-- Does a place lie in the piece of `l0`, whose page is `sp`? -/
def inSpan (l0 l : Loc) (sp : Nat × Nat) (window : Nat) : Bool :=
  match l0, l with
  | .va _, .va a => decide (sp.1 ≤ a ∧ a < sp.2)
  | .slice _ o0, .slice _ o => decide (o0 < window) == decide (o < window)
  | _, _ => true
/-- The blocks of a checked copy: a piece stays in one. -/
def Copy.block (c : Copy) (o : Nat) : Nat := if c.chk then o / 4096 else 0
/-- Does stream byte `o` belong to the piece that begins at `acc`, as far as its destination, its block and its index say? -/
def Copy.dstFits (x : Copy) (ds : Nat × Nat) (window o : Nat) : Bool :=
  x.block o == x.block x.acc && !x.unlatched o && inSpan (x.dst x.acc) (x.dst o) ds window
/-- The first byte of the piece that has to be read, if it has one. -/
def Copy.firstSrc (x : Copy) (ds : Nat × Nat) (window : Nat) : Option Loc :=
  let z := endOf (x.len - x.acc) x.acc fun o => x.dstFits ds window o && (x.srcAt o).isNone
  if z < x.len && x.dstFits ds window z then x.srcAt z else none
/-- The end of the piece that begins at `acc`; a command of a transform is one. -/
def Copy.nextEnd (x : Copy) (s0 : Option Loc) (st dt : Option Tlb) (window : Nat) : Nat :=
  match x.op with
  | .xfmT => x.acc + 128 * xfmK x.b
  | .xfmCvt | .xfmPack => x.acc + 128
  | _ =>
    let ds := pageSpan dt (x.dst x.acc)
    endOf (x.len - x.acc) x.acc fun o => x.dstFits ds window o && (match x.srcAt o, s0 with
      | none, _ => true
      | some l, some l0 => inSpan l0 l (pageSpan st l0) window
      | some _, none => false)

/-- The translation that a place needs for item `id`: none for a place that is not global. -/
def State.placeOf (s : State) (n : Nat) (x : Copy) (k : AccessType) (l : Loc) : Option Page :=
  match l with
  | .va a => some (s.resolve n x.id x.asid x.gen k a)
  | _ => none
/-- The translation that it has. -/
def Page.tlb (p : Option Page) : Option Tlb := match p with | some (.page t) => some t | _ => none

/-- The address of a place, as CFR3 holds it. -/
def placeWord (x : Copy) (l : Loc) (o : Nat) : Word :=
  match l with
  | .va a => BitVec.ofNat 64 a
  | .bank .abuf a => BitVec.ofNat 64 (3 * 2 ^ 62 + a)
  | .bank .tsSwizzled a => BitVec.ofNat 64 (2 * 2 ^ 62 + a)
  | .bank _ a => BitVec.ofNat 64 (2 ^ 62 + a)
  | .slice _ _ => x.b + BitVec.ofNat 64 o
  | .fifo _ => 0
/-- The address of the byte of a number. -/
def Copy.addrOf (x : Copy) (k : Nat) : Word := match x.srcAt k with | some l => placeWord x l k | none => 0

/-- R202, R211, R207, R214: a byte that the copy at place `i` reads cannot be had: the copy stops at the piece, the element, the
block or the compressed block that needs it. -/
def State.readFails (s : State) (n i : Nat) (x : Copy) (k status : Nat) : State :=
  let c := s.core n
  if k < idxKey then
    match x.writes.find? fun w => decide (w.lo ≤ k ∧ k < w.hi) with
    | some w => s.setCore n (c.stopCopy i x status w.lo (x.addrOf k) w.lo)
    | none => s
  else if k < crcKey then
    let j := (k - idxKey) / 4
    match x.idxBad with
    | some (j', _, _) => if j' ≤ j then s else s.setCore n (c.putCopy i { x with idxBad := some (j, status, x.addrOf (idxKey + 4 * j)) })
    | none => s.setCore n (c.putCopy i { x with idxBad := some (j, status, x.addrOf (idxKey + 4 * j)) })
  else if k < cbfKey then
    let j := (k - crcKey) / 4
    s.setCore n (c.stopCopy i x status (4096 * j) (x.addrOf (crcKey + 4 * j)) (4096 * j))
  else s.setCore n (c.stopCopy i x status x.base (x.addrOf k) x.base)

/-- The first number from `lo` on that no stretch asked for covers. -/
def Copy.auxEnd (x : Copy) (lo : Nat) : Nat := x.aux.foldl (fun k p => if p.lo ≤ k && k < p.hi then p.hi else k) lo
/-- The copy asks for the next of the bytes from `lo` to `hi - 1` beside its stream, page by page: none where all have been asked
for. -/
def State.want (s : State) (n i : Nat) (x : Copy) (lo hi : Nat) : Option State :=
  let k := x.auxEnd lo
  if hi ≤ k then none
  else match x.srcAt k with
    | none => none
    | some l =>
      let p := s.placeOf n x .load l
      match p with
      | some (.walk w) => s.askWalk n x.id w
      | some (.fault e) => some (s.readFails n i x k e)
      | _ =>
        let t := Page.tlb p
        if decide (cbfKey ≤ k) && t.any (fun t => pteCbf t.lo) then some (s.readFails n i x k 5)
        else
          let sp := pageSpan t l
          let u := endOf (hi - k) k fun j => match x.srcAt j with | some l' => inSpan l l' sp 0 | none => false
          some (s.setCore n ((s.core n).putCopy i { x with aux := x.aux ++ [⟨k, max u (k + 1), t, none⟩] }))

/-- R211: the index word of an element is latched once its bytes are there, or asked for. -/
def State.latchIndex (s : State) (n i : Nat) (x : Copy) (j : Nat) : Option State :=
  let k := idxKey + 4 * j
  if x.hasAll k (k + 4) then
    let v : Word := (BitVec.ofNat 32 (leNat (x.bytes k 4))).signExtend 64
    let x := { x with idx := Map.put x.idx j v, aux := x.aux.filter fun p => !decide (k ≤ p.lo ∧ p.lo < k + 4) }
    some (s.setCore n ((s.core n).putCopy i (x.drop k (k + 4))))
  else s.want n i x k (k + 4)

/-- Does the engine own a TSPAD line, and is its count below 15 (R181, R182)? -/
def Local.takes (l : Local) (i : Nat) : Bool := l.engineOwns (i * 128) && decide ((l.line i).count < 15)

/-- R181, R205: does an earlier copy still have to be accepted for one of these bytes of TSPAD?  A later piece of the
same bytes lands after it and is accepted after it, so that a line's fifteen places never fill with writes that wait for
one that is not accepted.  DEDUCED (log 31). -/
def Core.acceptsLater (c : Core) (i : Nat) (x : Copy) (hi : Nat) : Bool :=
  let ds := (upFrom x.acc (hi - x.acc)).map fun o => (x.dst o).norm
  (earlier c.engine i).any fun y => y.stop.isNone && anyFrom (y.mayLen - y.acc) y.acc fun o =>
    if y.unknown o then (cpLoc y.a 0).sameSpace (x.dst x.acc) else ds.contains (y.dst o).norm

/-- R194: is TSPAD, or ABUF, being cleared? -/
def Core.clearsT (c : Core) : Bool := match c.btw.clear with | some (_, t) => t | none => false
def Core.clearsA (c : Core) : Bool := match c.btw.clear with | some (a, _) => a | none => false

/-- Accept the next piece of the copy at place `i`: none where the engine waits. -/
def State.acceptPiece (s : State) (n i : Nat) (x : Copy) : Option State :=
  let c := s.core n
  let window := (s.slice (stgSlice x.b)).windowBytes
  let e := x.lowCount
  let badAt (o : Nat) : Option (Nat × Word) := x.idxBad.bind fun b => if b.1 = o / e then some b.2 else none
  if x.unlatched x.acc then
    match badAt x.acc with
    | some (st, w) => some (s.setCore n (c.stopCopy i x st x.acc w (x.acc + e)))
    | none => s.latchIndex n i x (x.acc / e)
  else
    let dp := s.placeOf n x .store (x.dst x.acc)
    let dt := Page.tlb dp
    let s0 := x.firstSrc (pageSpan dt (x.dst x.acc)) window
    let sp := s0.bind (s.placeOf n x .load)
    let hi := x.nextEnd s0 (Page.tlb sp) dt window
    let lines := x.lines x.acc hi
    match sp, dp with
    | some (.walk w), _ => s.askWalk n x.id w
    | _, some (.walk w) => s.askWalk n x.id w
    | sp, dp =>
      if decide (hi < x.len) && x.unlatched hi && (badAt hi).isNone then s.latchIndex n i x (hi / e)
      else if !lines.all c.loc.takes || (!lines.isEmpty && (c.acceptsLater i x hi || c.clearsT)) then none
      else match sp, dp with
        | some (.fault st), _ => some (s.setCore n (c.stopCopy i x st x.acc (placeWord x (s0.getD (.va 0)) x.acc) hi))
        | _, some (.fault st) => some (s.setCore n (c.stopCopy i x st x.acc (placeWord x (x.dst x.acc) x.acc) hi))
        | _, _ =>
          let outside := match x.dst x.acc, s0 with
            | .slice _ off, _ => decide (window ≤ off)
            | _, some (.slice _ off) => decide (window ≤ off)
            | _, _ => false
          if outside then some (s.setCore n (c.stopCopy i x 8 x.acc (placeWord x (.slice 0 0) x.acc) hi))
          else
            let x' := { x with acc := hi, writes := x.writes ++ [⟨x.acc, hi, Page.tlb sp, dt⟩] }
            some (s.setCore n { c.putCopy i x' with loc := c.loc.count lines Line.up })

/-- CPYX reads its next block (R214). -/
def State.nextBlock (s : State) (n i : Nat) (x : Copy) : Option State :=
  let c := s.core n
  let k := cbfKey + x.spos
  let end_ := ctlLen x.c
  let stop : Option State := some (s.setCore n (c.stopCopy i x 5 x.base (x.addrOf k) x.base))
  if end_ < x.spos + 16 then stop
  else if !x.hasAll k (k + 16) then s.want n i x k (k + 16)
  else match cbfHead (x.bytes k 16) with
    | none => stop
    | some h =>
      let m := h.bodyLen
      if end_ < x.spos + 16 + m then stop
      else if !x.hasAll (k + 16) (k + 16 + m) then s.want n i x (k + 16) (k + 16 + m)
      else match cbfExpand h (x.bytes (k + 16) m) (Config.dictionary (cpAddr x.b / 65536)) with
        | none => stop
        | some out =>
          let x := { x.drop k (k + 16 + m) with aux := [], base := x.base + out.length, spos := x.spos + 16 + m }
          let got := (out.zipIdx (x.base - out.length)).foldl (fun g b => Map.put g b.2 b.1) x.got
          some (s.setCore n (c.putCopy i { x with got := got }))

/-- The copy has landed whole: its increment sets out and it leaves the engine (R204). -/
def Core.finishCopy (c : Core) (i : Nat) (x : Copy) : Core :=
  let c := c.dropItem i
  if x.chk && decide (0 < x.len) then c else c.sendInc x.aw x.inc.toNat

/-! ### Prefetch (R219) -/

/-- R295: the order in which the classes are evicted. -/
def evictRank (r : Residency) : Nat := match r with | .cold => 0 | .stream => 1 | .warm => 2 | .pinned => 3
/-- R295: a staged copy is used at this time; a PFC gives it a class (R219). -/
def Mem.useStaged (m : Mem) (d page time : Nat) (cls : Option Residency) : Mem :=
  { m with staged := m.staged.map fun y =>
    if y.die == d && y.page == page && y.good then { y with cls := cls.getD y.cls, used := time } else y }
/-- R294: is the stored image of a page the one of its object's signed list?  A page that the OWC service installed has no list
(log 21). -/
def State.pageGood (s : State) (page : Nat) : Bool :=
  let m := s.mem
  let bs := (upFrom (page * 65536) 65536).map fun a =>
    if page < 2 ^ 36 then Memory.read m.bytes a else Config.remoteByte s.tick a
  !(m.ecc.any fun u => u / 2048 == page)
    && ((Map.find? m.images page).isSome || digest bs == Config.pageDigest page)
/-- R294: the copy of a page that a staging makes. -/
def State.stagedCopy (s : State) (d page : Nat) (cls : Residency) : Staged :=
  let m := s.mem
  { die := d, page := page, cls := cls, used := s.time, tick := s.tick
    good := s.pageGood page
    image := m.bytes.filter fun c => c.1 / 65536 == page
    keys := List.filter (fun e : Nat × BitVec 8 => e.1 / 4096 == page) m.keys
    code := Map.find? m.images page }
/-- R219, R294: bring one code page up to the die: a page that is not staged is staged GOOD or FAILED; none where it
does not fit.  Of a staged page, `give` is the class that a PFC gives it. -/
def State.stagePage (s : State) (d page : Nat) (cls : Residency) (give : Bool) : State :=
  let m := s.mem
  match m.staged.find? fun x => x.die == d && x.page == page with
  | some _ => { s with mem := m.useStaged d page s.time (if give then some cls else none) }
  | none =>
    let room := Map.getD m.areas d 1024
    let mine := m.staged.filter fun x => x.die == d
    let victim := (mine.filter fun x => x.cls != .pinned).foldl (fun (b : Option Staged) x =>
      match b with
      | none => some x
      | some y =>
        if evictRank x.cls < evictRank y.cls || (evictRank x.cls == evictRank y.cls && decide (x.used < y.used)) then some x else some y)
      none
    let kept := if mine.length < room then some m.staged
      else match victim with
        | some v => some (m.staged.filter fun x => x != v)
        | none => none
    match kept with
    | none => s
    | some ks => { s with mem := { m with staged := ks ++ [s.stagedCopy d page cls] } }

/-- PFC and PFD: the next page, or the next line, of the range; `acc` counts the bytes done.  At a page that is not present, may
not be read or fetched, or whose digest fails, the rest of the range is dropped (R219). -/
def State.prefetch (s : State) (n i : Nat) (x : Copy) : Option State :=
  let c := s.core n
  let drop : Option State := some (s.setCore n (c.dropItem i))
  let va := cpAddr x.a + x.acc
  let done (s : State) (m : Nat) : State :=
    let next := alignDown va m + m - cpAddr x.a
    s.setCore n ((s.core n).putCopy i { x with acc := next })
  if ctlLen x.c ≤ x.acc then drop
  else match x.op with
    | .pfc cls =>
      (match s.resolve n x.id x.asid x.gen .fetch va with
      | .walk w => s.askWalk n x.id w
      | .fault _ => drop
      | .page t =>
        let pa := s.codePa t (t.pa va)
        let s := s.stagePage (dieOf n) (pa / 65536) cls true
        if s.mem.staged.any fun y => y.die == dieOf n && y.page == pa / 65536 && !y.good then some (s.setCore n ((s.core n).dropItem i))
        else some (done s 65536))
    | _ =>
      match s.resolve n x.id x.asid x.gen .load va with
      | .walk w => s.askWalk n x.id w
      | .fault _ => drop
      | .page t =>
        let s := if s.remote (leafHome t) || inControl (t.pa va) then s
          else s.push (agentEngine n) (t.req .touch (t.pa va) c.regs.part)
        some (done s 128)

/-- What the engine can do for the copy at place `i` besides reading and landing: none where it waits. -/
def State.advanceCopy (s : State) (n i : Nat) : Option State :=
  match (s.core n).copyAt i with
  | none => none
  | some x =>
    match x.op with
    | .pfd | .pfc _ => s.prefetch n i x
    | _ =>
      if x.stop.isSome then none
      else if x.acc < x.len then s.acceptPiece n i x
      else if !x.whole then s.nextBlock n i x
      else if x.writes.isEmpty then some (s.setCore n ((s.core n).finishCopy i x))
      else none

/-- ENGINE_WRITE_ACCEPT: the copy at place `k` of core `n`'s engine. -/
def execEngineWriteAccept (n k : Nat) (s : State) : Host.Outcome State Fault Refusal :=
  .next ((s.advanceCopy n k).getD s)

/-! ### Parts (R313, R316) -/

/-- The end of a stretch from `k0` on that lies within one aligned element of `m` bytes, where `f` gives the place of a number. -/
def runOf (f : Nat → Option Loc) (m fuel k0 : Nat) : Nat :=
  endOf fuel k0 fun k =>
    match f k0, f k with
    | some (.va a), some (.va b) => b == a + (k - k0) && b / m == a / m
    | some (.bank v a), some (.bank v' b) => v == v' && b == a + (k - k0) && b / m == a / m
    | some (.slice _ a), some (.slice _ b) => b == a + (k - k0) && b / m == a / m
    | some (.fifo _), some (.fifo _) => true
    | _, _ => false
/-- The end of the part that is read as one: an aligned 8-byte element of the source (R316). -/
def Copy.readEnd (x : Copy) (w : Piece) (k : Nat) : Nat := runOf x.srcAt 8 (min 8 (w.hi - k)) k
/-- The end of the part that lands as one: an aligned 8-byte element of the destination, an element of SRED, a command of a
transform. -/
def Copy.unitEnd (x : Copy) (w : Piece) (o : Nat) : Nat :=
  let f (k : Nat) : Option Loc := some (x.dst k)
  match x.op with
  | .xfmT | .xfmCvt | .xfmPack => w.hi
  | .sred _ => runOf f 4 (min 4 (w.hi - o)) o
  | _ => runOf f 8 (min 8 (w.hi - o)) o
/-- The parts of a stretch, by their first byte, where `e` gives the end of each. -/
def partsOf (e : Nat → Nat) (hi fuel o : Nat) : List Nat :=
  match fuel with
  | 0 => []
  | k + 1 => if hi ≤ o then [] else o :: partsOf e hi k (max (e o) (o + 1))
/-- The parts of a piece that land. -/
def Copy.units (x : Copy) (w : Piece) : List Nat := partsOf (x.unitEnd w) w.hi (w.hi - w.lo) w.lo

/-- R207: the first block of a checked copy that has not been verified. -/
def Copy.blockAt (x : Copy) : Nat := x.first / 4096
/-- Has that block landed, so that it can be verified? -/
def Copy.blockReady (x : Copy) : Bool :=
  x.chk && !x.writes.isEmpty && decide (4096 * (x.blockAt + 1) ≤ x.acc)
    && x.writes.all fun w => w.lo / 4096 != x.blockAt || !anyFrom (w.hi - w.lo) w.lo fun o => !x.isDone o
/-- R202, R207: may bytes of a piece be written?  All of it and of the pieces before it must have been read, and the blocks before it
must have been verified; the commands of a transform run in order. -/
def Copy.mayWrite (x : Copy) (w : Piece) : Bool :=
  x.writes.all fun v => decide (w.lo < v.lo)
    || (x.hasAll v.lo v.hi && (!x.chk || v.lo / 4096 == w.lo / 4096) && (!x.op.isXfm || v.lo == w.lo))

/-- What the engine does with a part: it reads it, it lets it land, it verifies a block. -/
inductive EngMove where
  | read (i : Nat) (w : Piece) (k : Nat)
  | land (i : Nat) (w : Piece) (o : Nat)
  | verify (i : Nat)
  deriving DecidableEq, Repr

/-- Every part that has not been read, every part that has not landed, every block to be verified. -/
def Core.toMove (c : Core) : List EngMove :=
  c.engine.zipIdx.flatMap fun e =>
    match e.1 with
    | .copy x =>
      (((if x.op.isXfm then [] else x.writes) ++ x.aux).flatMap fun w =>
        ((partsOf (x.readEnd w) w.hi (w.hi - w.lo) w.lo).filter fun k => !x.has k && !x.asked.any fun a => a.1 == k).map
          fun k => .read e.2 w k)
      ++ (x.writes.flatMap fun w => ((x.units w).filter fun o => !x.isDone o && !x.sent.any fun a => a.1 == o).map
          fun o => .land e.2 w o)
      ++ (if x.blockReady then [.verify e.2] else [])
    | .send _ => []

/-- R313, R205: does an earlier write to one of these places come first? -/
def Core.mustWait (c : Core) (i : Nat) (x : Copy) (o u : Nat) : Bool :=
  let ds := (upFrom o (u - o)).map fun j => (x.dst j).norm
  (earlier c.engine i).any (fun y => y.pendingTo (x.dst o) fun d => ds.contains d)
    || anyFrom (o - x.first) x.first fun j => !x.landed j && ds.contains (x.dst j).norm

/-- R181: a line of the copy all of whose bytes it has landed. -/
def Copy.covers (x : Copy) (l : Nat) : Bool :=
  (upFrom (l * 128) 128).all fun p =>
    anyFrom x.acc 0 fun o => x.landed o && (x.dst o).norm == .bank .tsLinear p
/-- R181: the bytes of a write in a line have landed: the line's count drops, and its mark goes where the copy has written the whole
line. -/
def Local.completed (l : Local) (x : Copy) (j : Nat) : Local :=
  let y := (l.line j).down
  l.setLine j (if y.failed && x.covers j then { y with failed := false } else y)

/-- The bytes of a transform's command on its lines (Table CPY-13). -/
def xfmBytes (x : Copy) (bs : List Byte) : List Byte :=
  match x.op with
  | .xfmT =>
    let e := 2 ^ bitsAt x.b.toNat 0 2
    let k := xfmK x.b
    (List.range (128 * k)).map fun o =>
      let r := o / 128
      let col := o % 128 / e
      bs.getD (col * 128 + r * e + o % e) 0
  | .xfmCvt =>
    match xfmTag (bitsAt x.b.toNat 4 4), xfmTag (bitsAt x.b.toNat 8 4) with
    | some f, some t =>
      let wf := tagWidth f / 8
      let wt := tagWidth t / 8
      let n := 128 / max wf wt
      let sat := isInt t || t == .e4m3
      let out := (List.range n).flatMap fun j =>
        leBytes wt (convert f t (leNat ((bs.drop (j * wf)).take wf)) (.mode .rne) sat).bits
      out ++ List.replicate (128 - out.length) 0
    | _, _ => bs
  | _ =>
    let w := 4 * 2 ^ bitsAt x.b.toNat 0 2
    let n := (List.range 32).foldl (fun acc j =>
      acc + leNat ((bs.drop (4 * j)).take 4) % 2 ^ w * 2 ^ (w * j)) 0
    leBytes 128 n

/-- Write bytes to local places. -/
def Local.put (l : Local) (ds : List Loc) (bs : List Byte) : Local :=
  (ds.zip bs).foldl (fun l y =>
    match y.1 with
    | .bank v a => l.storeEngine v (physOf v a) [y.2]
    | _ => l) l
/-- Elements that a write covers whole lose their errors. -/
def Local.healed (l : Local) (ds : List Loc) : Local :=
  match ds with
  | .bank v a :: _ => l.heal v (physOf v a) ds.length
  | _ => l

/-! ### Reads -/

/-- The copy at place `i` has the bytes from number `k` on. -/
def Core.gets (c : Core) (i : Nat) (x : Copy) (k : Nat) (bs : List Byte) : Core :=
  c.putCopy i { x with
    got := (bs.zipIdx k).foldl (fun g b => Map.put g b.2 b.1) x.got
    asked := x.asked.filter fun a => a.1 != k }
/-- A read of copy `id` of core `n` has been served: its bytes, or the status with which it fails. -/
def State.readDone (s : State) (n id k : Nat) (r : Except Nat (List Byte)) : State :=
  match (s.core n).itemAt id with
  | some (i, .copy x) =>
    if !x.asked.any fun a => a.1 == k then s
    else match r with
      | .ok bs => s.setCore n ((s.core n).gets i x k bs)
      | .error e => s.readFails n i { x with asked := x.asked.filter fun a => a.1 != k } k e
  | _ => s

/-- A message for the part of a copy that touches another module (R381). -/
def State.askRemote (s : State) (n : Nat) (x : Copy) (t : Tlb) (a o u : Nat) (write : Bool) (bs : List Byte) : Option State :=
  let k : Nat × Nat := match write, x.op with
    | true, .sred op => (2, 16 + op.code.toNat)
    | true, _ => (1, 0)
    | false, _ => (0, (pteCbf t.lo).toNat)
  if s.fab.open_ (agentEngine n) (leafHome t) 0 then
    some (s.ask (agentEngine n) (leafHome t) 0 (messageBody k.1 k.2 (u - o) (t.pa a) (pteKey t.hi) bs) n true x.id o u write)
  else none

/-- Read the part from number `k` on, of the stretch `w`: none where it waits. -/
def State.readPart (s : State) (n i : Nat) (w : Piece) (k : Nat) : Option State :=
  let c := s.core n
  match c.copyAt i with
  | none => none
  | some x =>
    let u := x.readEnd w k
    if x.has k || x.asked.any (fun a => a.1 == k) then none
    else match x.srcAt k, w.src with
      | some (.va a), some t =>
        if !c.markServed x then none
        else
          let s' := s.setCore n (c.putCopy i { x with asked := x.asked ++ [(k, u)] })
          if s.remote (leafHome t) then s'.askRemote n x t a k u false []
          else some (s'.push (agentEngine n) (t.req (.engRead n x.id k (u - k)) (t.pa a) c.regs.part))
      | some l, _ =>
        let gs := (upFrom k (u - k)).map fun j => match x.srcAt j with | some l => s.nearByte n i x l | none => .wait
        (match firstBad gs with
        | some (j, .bad e) => some (s.readFails n i x (k + j) (if l.isVa then 1 else e))
        | some _ => none
        | none => some (s.setCore n (c.gets i x k (gotBytes gs))))
      | none, _ => none

/-! ### Landing (R204, R205) -/

/-- Bytes `o` to `u - 1` of piece `w` have landed. -/
def State.landedPart (s : State) (n i : Nat) (x : Copy) (w : Piece) (o u : Nat) : State :=
  let c := s.core n
  let x := { x with done := x.done ++ [(o, u)], sent := x.sent.filter fun a => a.1 != o }
  let loc := ((x.lines o u).filter (x.lineDone w)).foldl (fun l j => l.completed x j) c.loc
  let x' := if x.chk || anyFrom (w.hi - w.lo) w.lo (fun j => !x.isDone j) then x
    else { x.drop w.lo w.hi with
      writes := x.writes.filter (· != w), done := x.done.filter fun d => !decide (w.lo ≤ d.1 ∧ d.1 < w.hi) }
  s.setCore n { c.putCopy i x' with loc := loc }

/-- The accepted piece of a copy that holds stream byte `o`. -/
def Copy.pieceOf (x : Copy) (o : Nat) : Option Piece := x.writes.find? fun w => decide (w.lo ≤ o ∧ o < w.hi)
/-- A write of copy `id` of core `n` has been served, or has been refused with a status. -/
def State.writeDone (s : State) (n id o u : Nat) (refused : Option Nat) : State :=
  match (s.core n).itemAt id with
  | some (i, .copy x) =>
    (match x.pieceOf o, refused with
    | none, _ => s
    | some w, none => s.landedPart n i x w o u
    | some w, some e =>
      s.setCore n ((s.core n).stopCopy i { x with sent := x.sent.filter fun a => a.1 != o } e w.lo (placeWord x (x.dst o) o) w.lo))
  | _ => s

/-- R215: a FEED appends in order: after the earlier FEEDs of its stream, its first byte first, while there is
room. -/
def Core.feedRoom (c : Core) (i : Nat) (x : Copy) (o : Nat) : Nat :=
  match x.op with
  | .feed f =>
    if (earlier c.engine i).any (fun y => y.op == .feed f)
      || anyFrom (o - x.first) x.first (fun j => !x.landed j) then 0
    else match f with | .fa => c.arr.fa.room | .fb => c.arr.fb.room
  | _ => 2 ^ 48

/-- Does the copy write the whole line of a global place (R281)? -/
def Copy.wholeLine (x : Copy) (w : Piece) (a : Nat) : Bool :=
  (upFrom (alignDown a 128) 128).all fun p => anyFrom (w.hi - w.lo) w.lo fun o => x.dst o == .va p

/-- R194: must a write to ABUF of a piece that has not begun wait for the end of a clear? -/
def Core.awaitsClear (c : Core) (x : Copy) (w : Piece) (o : Nat) : Bool :=
  c.clearsA && (match x.dst o with | .bank .abuf _ => true | _ => false)
    && !x.done.any fun d => decide (w.lo ≤ d.1 ∧ d.1 < w.hi)

/-- Land the part at `o` of piece `w` of the copy at place `i`: none where it waits. -/
def State.landPart (s : State) (n i : Nat) (w : Piece) (o : Nat) : Option State :=
  let c := s.core n
  match c.copyAt i with
  | none => none
  | some x =>
    let room := c.feedRoom i x o
    let u := min (x.unitEnd w o) (o + room)
    let ds := (upFrom o (u - o)).map x.dst
    if room = 0 || x.isDone o || x.sent.any (fun a => a.1 == o) || !x.mayWrite w || c.mustWait i x o u || c.awaitsClear x w o
    then none
    else if x.op.isXfm then
      let gs := ds.map (s.nearByte n i x)
      match firstBad gs with
      | some (k, .bad e) => some (s.setCore n (c.stopCopy i x e w.lo (placeWord x (x.dst (o + k)) (o + k)) w.lo))
      | some _ => none
      | none =>
        let c' := { c with loc := (c.loc.put ds (xfmBytes x (gotBytes gs))).healed ds }
        some ((s.setCore n c').landedPart n i x w o u)
    else
      let bs := x.bytes o (u - o)
      match x.dst o, w.dst with
      | .va a, some t =>
        if !c.markServed x then none
        else
          let s' := s.setCore n (c.putCopy i { x with sent := x.sent ++ [(o, u)] })
          if s.remote (leafHome t) then s'.askRemote n x t a o u true bs
          else
            let k : AccKind := match x.op with
              | .sred op => .engSred n x.id o op (BitVec.ofNat 64 (leNat bs))
              | _ => .engWrite n x.id o bs (x.wholeLine w a)
            some (s'.push (agentEngine n) (t.req k (t.pa a) c.regs.part))
      | .va _, none => none
      | .slice sl off, _ =>
        let y := s.slice sl
        some ((s.setSlice sl { y with window := Memory.writeBytes y.window off bs }).landedPart n i x w o u)
      | .fifo f, _ =>
        let seg := if x.own then none else some x.seg
        some ((s.setCore n { c with
          arr := c.arr.feed f bs seg, backs := c.backs.map fun b => (b.1, b.2.feed f bs seg) }).landedPart n i x w o u)
      | .bank _ _, _ => some ((s.setCore n { c with loc := (c.loc.put ds bs).healed ds }).landedPart n i x w o u)

/-- R207: verify the block of a checked copy that has landed: against its checksum word, which is asked for first. -/
def State.verify (s : State) (n i : Nat) : Option State :=
  let c := s.core n
  match c.copyAt i with
  | none => none
  | some x =>
    if !x.blockReady then none
    else
      let b := x.blockAt
      let k := crcKey + 4 * b
      if !x.hasAll k (k + 4) then s.want n i x k (k + 4)
      else
        let mine (w : Piece) : Bool := w.lo / 4096 == b
        let y := { (x.drop (4096 * b) (4096 * (b + 1))).drop k (k + 4) with
          aux := x.aux.filter fun p => !decide (k ≤ p.lo ∧ p.lo < k + 4)
          done := x.done.filter fun d => d.1 / 4096 != b }
        if crc32c (x.bytes (4096 * b) 4096) == BitVec.ofNat 32 (leNat (x.bytes k 4)) then
          let loc := (x.writes.filter mine).foldl (fun l w => (x.lines w.lo w.hi).foldl (fun l j => l.completed x j) l) c.loc
          let y := { y with writes := x.writes.filter fun w => !mine w, tries := 0 }
          some (s.setCore n (({ c.putCopy i y with loc := loc }).sendInc x.aw x.inc.toNat))
        else if x.tries < 2 then some (s.setCore n (c.putCopy i { y with tries := x.tries + 1 }))
        else some (s.setCore n (c.stopCopy i x 4 (4096 * b) (x.addrOf (4096 * b)) (4096 * b)))

/-- One of the engine's moves. -/
def State.engineMove (s : State) (n : Nat) (m : EngMove) : Option State :=
  match m with
  | .read i w k => s.readPart n i w k
  | .land i w o => s.landPart n i w o
  | .verify i => s.verify n i

/-- COPY_PIECE_LAND: the `k`-th of the parts of core `n`'s copies that are to be read, to land or to be verified. -/
def execCopyPieceLand (n k : Nat) (s : State) : Host.Outcome State Fault Refusal :=
  match (s.core n).toMove[k]? with
  | none => .next s
  | some m => .next ((s.engineMove n m).getD s)

/-! ### Fault reports (R206) -/

/-- The copy fault record. -/
def TrapRegs.copyFault (t : TrapRegs) (x : Copy) (status off : Nat) (addr : Word) : TrapRegs :=
  if t.cfr0.getLsbD 63 then { t with cfr0 := putBit t.cfr0 62 true }
  else
    { t with
      cfr0 := putBit (t.cfr0 &&& 0x4000000000000000) 63 true
        ||| BitVec.ofNat 64 (status * 2 ^ 40 + x.op.code * 2 ^ 35 + x.slot * 2 ^ 32)
      cfr1 := BitVec.ofNat 64 (off % 2 ^ 48)
      cfr2 := x.bundle &&& ~~~31
      cfr3 := addr }
/-- The boundary event of a copy fault. -/
def copyEvent (status : Nat) : BEvent :=
  if status = 1 || status = 2 || status = 3 || status = 8 then ⟨7, status, BitVec.ofNat 64 status⟩
  else ⟨10, status, BitVec.ofNat 64 status⟩

/-- The core on which a context is resident. -/
def State.homeOf (s : State) (ctx : Nat) : Option Nat :=
  s.listed.find? fun n => (s.core n).regs.ctxId == ctx && (s.core n).resident

/-- Report a fault to the context that issued the copy; one that is not resident gets it when it resumes. -/
def State.reportFault (s : State) (x : Copy) (status off : Nat) (addr : Word) : State :=
  match s.homeOf x.ctx with
  | some m =>
    let c := s.core m
    let told := !c.trap.cfr0.getLsbD 63
    let c := { c with trap := c.trap.copyFault x status off addr }
    s.setCore m (if told then { c with pending := c.pending ++ [copyEvent status] } else c)
  | none =>
    match List.find? (fun e : Nat × Saved => e.2.regs.ctxId == x.ctx && !e.2.restored) s.saves with
    | some (k, v) =>
      let told := !v.trap.cfr0.getLsbD 63
      let s := { s with saves := Map.put s.saves k { v with trap := v.trap.copyFault x status off addr } }
      if told then { s with absent := s.absent ++ [(x.ctx, copyEvent status)] } else s
    | none => s

/-- COPY_FAULT_REPORT: the first stopped copy of core `n` whose earlier pieces have landed. -/
def State.faultReport (s : State) (n : Nat) : Option State :=
  let c := s.core n
  (List.range c.engine.length).findSome? fun i =>
    match c.copyAt i with
    | some x =>
      (match x.stop with
      | some (st, off, addr) =>
        if x.writes.isEmpty then some ((s.setCore n (c.dropItem i)).reportFault x st off addr) else none
      | none => none)
    | none => none

def execCopyFaultReport (n : Nat) (s : State) : Host.Outcome State Fault Refusal :=
  .next ((s.faultReport n).getD s)

end Sys2Proof.Machine
end

