-- ==== Sys2Proof/Machine/Conj.lean ====
section
/-! DEFINITION. Conjunction tags and units: TAGA, TAGF, TAGQ, CJS and CJSL at issue (R264 to R266), arrivals, the tree
and rounds (R267, R268), delivery and forwarding (R269), refusals (R272, R273), broken tags (R274) and the end of a
tag (R276). -/

namespace Sys2Proof.Machine

/-! ### Tags and meeting units (R260, R261) -/

def tagScope (t : BitVec 32) : BitVec 2 := t.extractLsb' 30 2
def tagModule (t : BitVec 32) : Nat := bitsAt t.toNat 22 8
def tagDie (t : BitVec 32) : Nat := bitsAt t.toNat 20 2
def tagIndex (t : BitVec 32) : Nat := bitsAt t.toNat 0 20
/-- Where the record of a tag stands. -/
def tagKey (t : BitVec 32) : Nat := tagDie t * 2 ^ 20 + tagIndex t
/-- R261: Hash5. -/
def hash5 (i : Nat) : Nat := ((bitsAt i 0 5 ^^^ bitsAt i 5 5) ^^^ bitsAt i 10 5) ^^^ bitsAt i 15 5
/-- The cluster at which a pool index meets. -/
def Shape.meetCluster (x : Shape) (d i : Nat) : Nat := hash5 i % x.ncl d
/-- A tag's unit, numbered as slices are. -/
def Shape.tagUnit (x : Shape) (t : BitVec 32) : Nat := tagDie t * 32 + x.meetCluster (tagDie t) (tagIndex t)
def State.tagUnit (s : State) (t : BitVec 32) : Nat := s.mem.shape.tagUnit t
/-- Does a tag meet in another module? -/
def State.tagRemote (s : State) (t : BitVec 32) : Bool := tagScope t == 3 && tagModule t != s.fab.modnum

/-- The tag of a record. -/
def tagOf (scope : BitVec 2) (m d i : Nat) : BitVec 32 :=
  BitVec.ofNat 32 (scope.toNat * 2 ^ 30 + (if scope = 3 then m else 0) * 2 ^ 22 + d * 2 ^ 20 + i)
/-- The record of a tag: none where no such tag is allocated or retired. -/
def State.tag (s : State) (t : BitVec 32) : Option TagRec :=
  match Map.find? s.conj.tags (tagKey t) with
  | some r => if r.scope == tagScope t && !s.tagRemote t then some r else none
  | none => none
def State.setTag (s : State) (t : BitVec 32) (r : TagRec) : State :=
  { s with conj := { s.conj with tags := Map.put s.conj.tags (tagKey t) r } }

/-- R262: the record of a tag block. -/
def State.block (s : State) (d b : Nat) : Word := Map.getD s.conj.blocks (d * 4096 + b) 20000
/-- Is the block given to an address space? -/
def blockEn (x : Word) : Bool := x.getLsbD 63
def blockAsid (x : Word) : BitVec 12 := x.extractLsb' 51 12
/-- OLIM as it acts. -/
def blockOlim (x : Word) : Nat := max 100 (min (bitsAt x.toNat 0 27) 100000000)
/-- The block of a tag. -/
def State.tagBlock (s : State) (t : BitVec 32) : Word := s.block (tagDie t) (tagIndex t / 256)

/-- R262: a block's record is rewritten only while none of its tags is allocated. -/
def execTagBlockRecordWrite (d blk : Nat) (x : Word) (s : State) : Host.Outcome State Fault Refusal :=
  let lo := d * 2 ^ 20 + blk * 256
  if s.conj.tags.any fun e => decide (lo ≤ e.1 ∧ e.1 < lo + 256) && e.2.state != .retired && e.2.state != .free
  then .next s
  else .next { s with conj := { s.conj with
    blocks := Map.put s.conj.blocks (d * 4096 + blk) (x &&& 0xFFF8000007FFFFFF) } }

/-! ### The tag descriptor (R264) -/

/-- The operation that a code names. -/
def combOf (x : Nat) : Option CombOp :=
  match x with
  | 0 => some .addI32 | 1 => some .addF32 | 2 => some .maxF32 | 3 => some .minF32 | 4 => some .or | _ => none

/-- KIND of a tag descriptor. -/
def descForward (ds : List Word) : Bool := (ds.getD 0 0).getLsbD 54
/-- The first doubleword that breaks Table CJN-3; `arity` is the arity of FTAG where it is known. -/
def tagDescBad (ds : List Word) (arity : Option Nat) : Option Nat :=
  let w (k lo n : Nat) : Nat := bitsAt (dw ds k) lo n
  let fwd := descForward ds
  let ok (k : Nat) : Bool :=
    match k with
    | 0 => w 0 0 47 == 0 && w 0 58 4 != 0 && (combOf (w 0 55 3)).isSome
    | 1 => if fwd then dw ds 1 == 0 else w 1 46 18 == 0 && w 1 18 18 % 8 == 0 && w 1 0 18 % 128 == 0
    | 2 => if fwd then w 2 36 28 == 0 && (match arity with | some n => decide (w 2 32 4 < n) | none => true)
      else dw ds 2 == 0
    | 3 => dw ds 3 % 64 == 0
    | _ => dw ds k == 0
  (List.range 8).find? fun k => !ok k

/-- A context owns a tag that is allocated. -/
def State.owns (s : State) (ctx : Nat) (t : BitVec 32) : Bool :=
  match s.tag t with
  | some r => r.owner == ctx && r.state != .free && r.state != .retired
  | none => false

/-- FTAG of a descriptor. -/
def descFtag (ds : List Word) : BitVec 32 := (ds.getD 2 0).extractLsb' 0 32
/-- The arity of FTAG, where the issuing context owns it. -/
def State.ftagArity (s : State) (ctx : Nat) (ds : List Word) : Option Nat :=
  if s.owns ctx (descFtag ds) then (s.tag (descFtag ds)).map (·.arity) else none

/-- The linear address of a tag descriptor. -/
def tagDescAt (x : Word) : Word := x &&& 0x3FFFF

def opTaga (g : Guard) (d : GReg) (a : GSrc) : Op :=
  let at_ (s : State) : Word := tagDescAt (s.opA a)
  { guard := g, needs := [5], srcs := [.g a], gd := some d
    wait := fun s => descWait s (at_ s)
    chk := fun s =>
      if (at_ s).toNat % 64 ≠ 0 then some ⟨6, 0, 0, at_ s⟩
      else
        let ds := s.readDesc (at_ s)
        (tagDescBad ds (s.ftagArity s.me.regs.ctxId ds)).map fun k => ⟨2, 0, 0, ds.getD k 0⟩
    uses := fun s => if s.me.inTrap then [] else [.atomic]
    reqs := fun s => some (gBytes (s.opA a) ++ descBytes (s.readDesc (at_ s)))
    run := fun s =>
      let ds := s.readDesc (at_ s)
      s.onMe fun c => (c.addAcc (.taga d ds c.space) true 0 0 0 true).emptyG d }
def opTagf (g : Guard) (a : GSrc) : Op :=
  { guard := g, needs := [5], srcs := [.g a]
    uses := fun s => if s.me.inTrap then [] else [.atomic]
    reqs := fun s => some (gBytes (s.opA a))
    run := fun s => s.onMe fun c => c.addAcc (.tagf ((s.opA a).extractLsb' 0 32)) true 0 0 0 true }
def opTagq (g : Guard) (d : GReg) (a : GSrc) : Op :=
  { guard := g, needs := [5], srcs := [.g a], gd := some d
    reqs := fun s => some (gBytes (s.opA a))
    run := fun s => s.onMe fun c =>
      (c.addAcc (.tagq d ((s.opA a).extractLsb' 0 32)) false 0 0 0 true).emptyG d }

def execTaga (g : Guard) (d : GReg) (a : GSrc) (s : State) := runOp (opTaga g d a) s
def execTagf (g : Guard) (a : GSrc) (s : State) := runOp (opTagf g a) s
def execTagq (g : Guard) (d : GReg) (a : GSrc) (s : State) := runOp (opTagq g d a) s

/-! ### Allocation and query (R265) -/

/-- The gang of a core's context: die, number and record. -/
def State.gangOf (s : State) (n : Nat) : Option Gang :=
  match Map.find? s.dies (dieOf n) with
  | none => none
  | some d => Map.find? d.gangs (bitsAt (s.core n).regs.gang.toNat 48 16)
/-- The cores of a core's gang: the core itself where it has none. -/
def State.gangCores (s : State) (n : Nat) : List Nat := match s.gangOf n with | some g => g.cores | none => [n]

/-- The lowest free index at or above `i`, `fuel` of them, that `ok` accepts. -/
def freeIndex (tags : Map TagRec) (d fuel i : Nat) (ok : Nat → Bool) : Option Nat :=
  match fuel with
  | 0 => none
  | k + 1 =>
    if ok i && (Map.find? tags (d * 2 ^ 20 + i)).isNone then some i else freeIndex tags d k (i + 1) ok

/-- The lowest free index of the blocks of an address space, in the order of the blocks. -/
def State.freeTag (s : State) (d : Nat) (asid : BitVec 12) (ok : Nat → Bool) : Option Nat :=
  s.conj.blocks.findSome? fun e =>
    if e.1 / 4096 == d && blockEn e.2 && blockAsid e.2 == asid then
      freeIndex s.conj.tags d 256 (e.1 % 4096 * 256) ok
    else none

/-- R265: the die allocates a tag, in the address space that issued the TAGA of core `n`, and replies.  With feature 8 not selected
no port is active for FABRIC scope (DESIGN CHOICE, log 33). -/
def State.tagAlloc (s : State) (n : Nat) (ds : List Word) (asid : BitVec 12) : State × Word :=
  let c := s.core n
  let w (k lo len : Nat) : Nat := bitsAt (dw ds k) lo len
  let scope := (ds.getD 0 0).extractLsb' 62 2
  let fwd := descForward ds
  let live := s.active [8] && (List.range 144).any fun p => s.fab.width p != 0
  let d := dieOf n
  if scope == 3 && !live then (s, BitVec.ofNat 64 (2 ^ 63 + 3))
  else if (if fwd then !s.owns c.regs.ctxId (descFtag ds) else !(s.gangCores n).contains (w 1 36 10)) then
    (s, BitVec.ofNat 64 (2 ^ 63 + 2))
  else
    match s.freeTag d asid fun i => scope != 0 || s.mem.shape.meetCluster d i == clusterOf n with
    | none => (s, BitVec.ofNat 64 (2 ^ 63 + 1))
    | some i =>
      let t := tagOf scope s.fab.modnum d i
      let r : TagRec :=
        { scope := scope, arity := w 0 58 4 + 1, op := (combOf (w 0 55 3)).getD .addI32, forward := fwd
          inc := BitVec.ofNat 7 (w 0 47 7), dcore := w 1 36 10, aw := w 1 18 18, dest := w 1 0 18
          fpos := BitVec.ofNat 4 (w 2 32 4), ftag := descFtag ds, orph := ds.getD 3 0
          owner := c.regs.ctxId, asid := asid, state := .idle, round := 0, disc := 0, pres := 0, next := 0
          held := [], since := s.time }
      (s.setTag t r, t.setWidth 64)

/-- The code of a state (Table CJN-5). -/
def TagState.code (x : TagState) : Nat :=
  match x with | .free => 0 | .idle => 1 | .opened => 2 | .broken => 3 | .retired => 4
/-- R265: the reply to TAGQ for core `n`. -/
def State.tagStatus (s : State) (n : Nat) (t : BitVec 32) : Word :=
  match s.tag t with
  | some r =>
    if r.owner == (s.core n).regs.ctxId then
      BitVec.ofNat 64 (r.round.toNat * 2 ^ 48 + min r.disc 255 * 2 ^ 40 + r.next.toNat * 2 ^ 24
        + r.pres.toNat * 2 ^ 8 + r.state.code)
    else 5
  | none => 5

/-! ### Sends at issue (R266) -/

/-- Put a send into the held queue, or in a handler into the engine. -/
def State.enterSend (s : State) (t : Word) (pos : BitVec 4) (src : Option Nat) (fmt : Option Tag)
    (row : Option Row) : State :=
  s.onMe fun c =>
    let x : Send :=
      { id := c.btw.nextId, tag := t.extractLsb' 0 32, pos := pos, src := src, fmt := fmt, row := row
        ctx := c.regs.ctxId, asid := c.space, seg := c.btw.seg, sent := false, refused := 0, due := 0
        waiting := false, stop := none }
    let c := { c with btw := { c.btw with nextId := c.btw.nextId + 1 } }
    if c.inTrap then { c with engine := c.engine ++ [.send x] } else { c with held := c.held ++ [.send x] }

def opCjs (g : Guard) (v : VSrc) (b : GSrc) (pos : BitVec 4) : Op :=
  { guard := g, needs := [5], srcs := [.g b, .v v]
    uses := fun s => if s.me.inTrap then [] else [.copy]
    reqs := fun s => some (gBytes (s.gOf b) ++ vBytes (s.opV v.reg))
    run := fun s => s.enterSend (s.gOf b) pos none (some (s.opV v.reg).tag) (some (s.opV v.reg).row) }
def opCjsl (g : Guard) (a b : GSrc) (pos : BitVec 4) : Op :=
  { guard := g, needs := [5], srcs := [.g a, .g b]
    chk := fun s => firstTrap [need (bitsAt (s.gOf a).toNat 18 46 == 0) (s.gOf a),
      if (s.gOf a).toNat % 128 = 0 then none else some ⟨6, 0, 0, s.gOf a⟩]
    uses := fun s => if s.me.inTrap then [] else [.copy]
    reqs := fun s => some (gBytes (s.gOf a) ++ gBytes (s.gOf b))
    run := fun s => s.enterSend (s.gOf b) pos (some (s.gOf a).toNat) none none }

def execCjs (g : Guard) (v : VSrc) (b : GSrc) (pos : BitVec 4) (s : State) := runOp (opCjs g v b pos) s
def execCjsl (g : Guard) (a b : GSrc) (pos : BitVec 4) (s : State) := runOp (opCjsl g a b pos) s

/-! ### The tree (R57, R267) -/

/-- The largest power of two below `n`. -/
def halfBelow (n : Nat) : Nat := 2 ^ (if n ≤ 2 then 0 else Nat.log2 (n - 1))
/-- The nodes on the way from leaf `p` of the tree over `lo` to `hi - 1` up to its root: at each the range of the
sibling, and whether the sibling is the left child. -/
def siblings (fuel lo hi p : Nat) : List (Nat × Nat × Bool) :=
  match fuel with
  | 0 => []
  | k + 1 =>
    if hi - lo ≤ 1 then []
    else
      let m := lo + halfBelow (hi - lo)
      if p < m then siblings k lo m p ++ [(m, hi, false)] else siblings k m hi p ++ [(lo, m, true)]

/-- A row of combined lanes. -/
def combineRow (op : CombOp) (a b : Row) : Row := rowOf fun i => combine32 op (lane a i) (lane b i)

/-- Combine a value upwards while its sibling is held: the value, and what is left of the held ones. -/
def climb (op : CombOp) (v : HeldVal) (held : List HeldVal) (path : List (Nat × Nat × Bool)) :
    HeldVal × List HeldVal × Bool :=
  match path with
  | [] => (v, held, false)
  | (lo, hi, left) :: rest =>
    match held.find? fun h => !h.next && h.lo == lo && h.hi == hi with
    | none => (v, held, false)
    | some h =>
      let x := if left then combineRow op h.row v.row else combineRow op v.row h.row
      let y := climb op ⟨min lo v.lo, max hi v.hi, x, false, h.spilled⟩ (held.filter (· != h)) rest
      (y.1, y.2.1, true)

/-! ### The matching store (R271) -/

/-- OVF of a slice, in entries. -/
def State.overflowRoom (s : State) (u : Nat) : Nat := bitsAt (s.slice u).slcfg.toNat 8 4 * 128
/-- Values held in a unit's store, or in its overflow region. -/
def State.entries (s : State) (u : Nat) (spilled : Bool) : Nat :=
  (s.conj.tags.map fun e =>
    if e.1 / 2 ^ 20 * 32 + s.mem.shape.meetCluster (e.1 / 2 ^ 20) (e.1 % 2 ^ 20) == u then (e.2.held.filter (·.spilled == spilled)).length
    else 0).sum
/-- A free entry, spilled or not; none where there is none. -/
def State.freeEntry (s : State) (u : Nat) : Option Bool :=
  if s.entries u false < 256 then some false
  else if s.entries u true < s.overflowRoom u then some true
  else none

/-! ### Broken tags (R274) -/

/-- The core on which a context is resident takes an event, or the context when it resumes. -/
def State.postCtx (s : State) (ctx : Nat) (e : BEvent) : State :=
  match s.homeOf ctx with
  | some n => s.post n e
  | none => { s with absent := s.absent ++ [(ctx, e)] }

/-- Write bytes at a virtual address for unit `u` (R274). -/
def State.unitWrite (s : State) (u : Nat) (asid : BitVec 12) (fuel va : Nat) (bs : List Byte) : State × Bool :=
  s.postBytes (agentUnit u) asid 0 fuel va bs

/-- The held values in the order of the orphan area. -/
def orphanOrder (held : List HeldVal) : List HeldVal :=
  let pick (nx : Bool) : List HeldVal :=
    (List.range 16).flatMap fun p => held.filter fun h => h.next == nx && h.lo == p
  pick false ++ pick true

/-- Table CJN-8: the orphan area of a tag; whether a piece faulted. -/
def State.orphanArea (s : State) (t : BitVec 32) (r : TagRec) (status : Nat) : State × Bool :=
  if r.orph = 0 then (s, false)
  else
    let u := s.tagUnit t
    let hs := orphanOrder r.held
    let s1 := hs.zipIdx.foldl (fun (x : State × Bool) (h : HeldVal × Nat) =>
      let at_ := r.orph.toNat + 64 + 2112 * h.2
      let head := [BitVec.ofNat 8 h.1.lo, BitVec.ofNat 8 h.1.hi, BitVec.ofNat 8 h.1.next.toNat]
        ++ List.replicate 61 0
      let y := x.1.unitWrite u r.asid 2 at_ head
      let z := y.1.unitWrite u r.asid 17 (at_ + 64) (leBytes 2048 h.1.row.toNat)
      (z.1, x.2 || y.2 || z.2)) (s, false)
    let sum := leBytes 4 t.toNat ++ [BitVec.ofNat 8 (status + if s1.2 then 128 else 0), BitVec.ofNat 8 hs.length]
      ++ leBytes 2 r.pres.toNat ++ leBytes 2 r.next.toNat ++ leBytes 2 r.round.toNat ++ List.replicate 52 0
    let y := s1.1.unitWrite u r.asid 2 r.orph.toNat sum
    (y.1, s1.2 || y.2)

/-- R274: break a tag: 1 TIMEOUT, 2 DUPLICATE, 3 FORWARD. -/
def State.breakTag (s : State) (t : BitVec 32) (status : Nat) : State :=
  match s.tag t with
  | none => s
  | some r =>
    if r.state == .broken || r.state == .retired || r.state == .free then s
    else
      let lo := s.mem.nextReq
      let y := s.orphanArea t r status
      let s := y.1.setTag t { r with state := .broken, held := [] }
      let e : BEvent := ⟨12, status + if y.2 then 8 else 0,
        BitVec.ofNat 64 (t.toNat + r.pres.toNat * 2 ^ 32 + r.round.toNat * 2 ^ 48)⟩
      { s with conj := { s.conj with told := s.conj.told ++ [(lo, s.mem.nextReq, r.owner, e)] } }
/-- R274, step 3: the `k`-th report of a broken tag, once the writes of its orphan area have been served. -/
def State.orphanReports (s : State) (k : Nat) : Option State :=
  match s.conj.told[k]? with
  | none => none
  | some (lo, hi, ctx, e) =>
    if s.mem.reqs.any fun r => decide (lo ≤ r.1 ∧ r.1 < hi) then none
    else some ({ s with conj := { s.conj with told := s.conj.told.eraseIdx k } }.postCtx ctx e)

/-- ORPHAN_TIMEOUT: the orphan timer of an open tag has expired. -/
def State.orphaned (s : State) (t : BitVec 32) : Option State :=
  match s.tag t with
  | none => none
  | some r =>
    if r.state == .opened && decide (r.since + blockOlim (s.tagBlock t) ≤ s.time) then some (s.breakTag t 1)
    else none

def execOrphanTimeout (t : BitVec 32) (s : State) : Host.Outcome State Fault Refusal :=
  .next ((s.orphaned t).getD s)

/-! ### Arrivals (R268) -/

/-- What becomes of an operand. -/
inductive Met where
  | placed
  | full
  | refused (status : Nat)
  deriving DecidableEq, Repr

/-- Does a format fit an operation (R266)? -/
def fmtFits (op : CombOp) (f : Option Tag) : Bool :=
  match f with
  | none => true
  | some t => match op with
    | .addI32 => t == .int32
    | .or => t == .int32 || t == .raw
    | _ => t == .fp32

/-- R261: does a sender of a cluster of this module, none for another module, lie in a tag's scope? -/
def Shape.inScope (x : Shape) (t : BitVec 32) (sender : Option Nat) : Bool :=
  match sender with
  | none => tagScope t == 3
  | some u =>
    if tagScope t = 0 then u == x.tagUnit t
    else if tagScope t = 1 then u / 32 == tagDie t
    else true

/-- A round begins with the next-round operands (R268). -/
def TagRec.newRound (r : TagRec) (time : Nat) : TagRec :=
  let nexts := (List.range 16).flatMap fun p => r.held.filter fun h => h.next && h.lo == p
  let held := nexts.foldl (fun hs h =>
    let y := climb r.op { h with next := false } hs (siblings 16 0 r.arity h.lo)
    y.1 :: y.2.1) (r.held.filter fun h => !h.next)
  { r with
    round := r.round + 1, pres := r.next, next := 0, held := held
    state := if r.next = 0 then .idle else .opened, since := time }

/-- R268, R271: place an operand that has passed the checks. -/
def State.place (s : State) (t : BitVec 32) (r : TagRec) (p : Nat) (row : Row) : State × Met :=
  let u := s.tagUnit t
  if !r.pres.getLsbD p then
    let y := climb r.op ⟨p, p + 1, row, false, false⟩ r.held (siblings 16 0 r.arity p)
    let since := if r.pres = 0 then s.time else r.since
    let r' := { r with pres := putBit r.pres p true, state := .opened, since := since }
    if y.1.lo = 0 && y.1.hi = r.arity then
      let s := { s with conj := { s.conj with results := s.conj.results ++ [(⟨t, y.1.row, r⟩ : Result)] } }
      (s.setTag t ({ r' with held := y.2.1 }.newRound s.time), .placed)
    else if y.2.2 then (s.setTag t { r' with held := y.1 :: y.2.1 }, .placed)
    else match s.freeEntry u with
      | none => (s, .full)
      | some sp => (s.setTag t { r' with held := { y.1 with spilled := sp } :: y.2.1 }, .placed)
  else if !r.next.getLsbD p then
    match s.freeEntry u with
    | none => (s, .full)
    | some sp =>
      (s.setTag t { r with next := putBit r.next p true, held := ⟨p, p + 1, row, true, sp⟩ :: r.held }, .placed)
  else (s.breakTag t 2, .placed)

/-- R268: an operand meets its unit. -/
def State.meet (s : State) (t : BitVec 32) (pos : BitVec 4) (fmt : Option Tag) (row : Row)
    (sender : Option Nat) : State × Met :=
  match s.tag t with
  | none => (s, .refused 5)
  | some r =>
    if r.state == .free || !blockEn (s.tagBlock t) then (s, .refused 5)
    else if !s.mem.shape.inScope t sender || (tagScope t == 3 && !s.active [8]) then (s, .refused 2)
    else if r.arity ≤ pos.toNat then (s, .refused 3)
    else if !fmtFits r.op fmt then (s, .refused 4)
    else if r.state == .broken || r.state == .retired then
      (s.setTag t { r with disc := min 255 (r.disc + 1) }, .placed)
    else s.place t r pos.toNat row

/-- R272: the delay after the k-th refusal. -/
def retryDelay (k : Nat) : Nat := min (16 * 2 ^ (k - 1)) 1024

/-! ### Sends of an engine (R266, R272, R273) -/

/-- The 2 KiB that CJSL reads: 16 lines, as a copy source. -/
def Core.sendRow (c : Core) (i : Nat) (x : Send) : Except (Option Nat) Row :=
  match x.row, x.src with
  | some r, _ => .ok r
  | none, none => .ok 0
  | none, some a =>
    let lines := (List.range 16).map fun k => (a + 128 * k) % 262144 / 128
    if lines.any fun l => (c.loc.line l).failed then .error (some 6)
    else if lines.any fun l => (c.loc.line l).count != 0
      || (earlier c.engine i).any (fun y => y.pendingTo (.bank .tsLinear (128 * l)) fun d => d.line == some l) then .error none
    else if (upFrom a 2048).any fun p => c.loc.eccT.contains (p % 262144 / 8) then .error (some 6)
    else .ok (BitVec.ofNat 16384 (leNat ((upFrom a 2048).map fun p => c.loc.seenBy (x.seg + 1) .tsLinear (p % 262144))))

/-- Put the send at place `i`. -/
def Core.putSend (c : Core) (i : Nat) (x : Send) : Core := { c with engine := c.engine.set i (.send x) }
/-- The send at place `i`. -/
def Core.sendAt (c : Core) (i : Nat) : Option Send :=
  match c.engine[i]? with | some (.send x) => some x | _ => none

/-- Is a send on its way? -/
def Send.leaving (x : Send) : Bool := !x.sent && !x.waiting && x.stop.isNone
/-- Where a tag's operands meet, as an engine of this module orders them: a unit of this module, or another module, to which one
channel leads (R312). -/
def State.meetsAt (s : State) (t : BitVec 32) : Nat ⊕ Nat :=
  if s.tagRemote t then .inr (tagModule t) else .inl (s.tagUnit t)
/-- R315: may the send at place `i` of core `n`'s engine arrive next at its unit? -/
def State.sendFirst (s : State) (n i : Nat) (x : Send) : Bool :=
  x.leaving && !((s.core n).engine.take i).any fun e =>
    match e with
    | .send y => y.leaving && s.meetsAt y.tag == s.meetsAt x.tag
    | .copy _ => false

/-- What an answer does to a send: it is gone, waits for its retry, or stops (R272, R273). -/
def Core.answerSend (c : Core) (i : Nat) (x : Send) (m : Met) (time : Nat) : Core :=
  match m with
  | .placed => c.dropItem i
  | .refused st => c.putSend i { x with sent := false, stop := some st }
  | .full =>
    let k := x.refused + 1
    if 16 ≤ k then c.putSend i { x with sent := false, refused := k, stop := some 1 }
    else c.putSend i { x with sent := false, refused := k, due := time + retryDelay k, waiting := true }

/-- The format of an operand as a number: 0 for NONE. -/
def fmtNum (f : Option Tag) : Nat := match f with | none => 0 | some t => t.code.toNat + 1

/-- The send at place `i` of core `n`'s engine reaches its unit, or sets out for another module. -/
def State.sendArrives (s : State) (n i : Nat) : Option State :=
  let c := s.core n
  match c.sendAt i with
  | none => none
  | some x =>
    if !s.sendFirst n i x then none
    else match c.sendRow i x with
      | .error none => none
      | .error (some st) => some (s.setCore n (c.putSend i { x with stop := some st }))
      | .ok row =>
        let x := { x with row := some row }
        if s.tagRemote x.tag then
          if s.fab.open_ (agentEngine n) (tagModule x.tag) 2 then
            let s := s.setCore n (c.putSend i { x with sent := true })
            some (s.ask (agentEngine n) (tagModule x.tag) 2
              (messageBody 3 (fmtNum x.fmt) 2048 (x.tag.toNat + x.pos.toNat * 2 ^ 32) 0 (leBytes 2048 row.toNat))
              n true x.id 0 0 true)
          else none
        else
          let y := s.meet x.tag x.pos x.fmt row (some (sliceOf n))
          some (y.1.setCore n ((y.1.core n).answerSend i x y.2 s.time))

/-! ### Forwarded results and operands of other modules (R269, R382) -/

/-- An operand that no engine of this module holds arrives. -/
def State.flyArrives (s : State) (j : Nat) : Option State :=
  match s.conj.flying[j]? with
  | none => none
  | some o =>
    if s.time < o.due then none
    else
      let sender := match o.src with | .tag t => some (s.tagUnit t) | .module_ _ _ _ => none
      let y := s.meet o.tag o.pos o.fmt o.row sender
      let s := y.1
      let gone (s : State) : State := { s with conj := { s.conj with flying := s.conj.flying.eraseIdx j } }
      match o.src, y.2 with
      | .tag _, .placed => some (gone s)
      | .tag t, .refused _ => some ((gone s).breakTag t 3)
      | .tag t, .full =>
        let k := o.refused + 1
        if 16 ≤ k then some ((gone s).breakTag t 3)
        else some { s with conj := { s.conj with
          flying := s.conj.flying.set j { o with refused := k, due := s.time + retryDelay k } } }
      | .module_ m agent cseq, r =>
        let st := match r with | .placed => 0 | .full => 1 | .refused k => k
        if s.fab.open_ (agentUnit (s.tagUnit o.tag)) m 1 then
          some ((gone s).sendMsg (agentUnit (s.tagUnit o.tag)) m 1 (messageBody 4 st 0 (replyKey agent 2 cseq) 0 []))
        else none

/-- The operands that may arrive: a core and a place in its engine, or a place in the list of the others. -/
def State.arrivals (s : State) : List (Nat × Nat ⊕ Nat) :=
  (s.cores.flatMap fun e => (List.range e.2.engine.length).filterMap fun i =>
    match e.2.sendAt i with
    | some x => if s.sendFirst e.1 i x then some (.inl (e.1, i)) else none
    | none => none)
  ++ (List.range s.conj.flying.length).map .inr

/-- OPERAND_ARRIVAL: the `k`-th operand that may arrive. -/
def State.operandArrives (s : State) (k : Nat) : Option State :=
  match s.arrivals[k]? with
  | none => none
  | some (.inl (n, i)) => s.sendArrives n i
  | some (.inr j) => s.flyArrives j

def execOperandArrival (k : Nat) (s : State) : Host.Outcome State Fault Refusal :=
  .next ((s.operandArrives k).getD s)

/-- OPERAND_RETRY: the `k`-th refused send of core `n` goes behind every send released after it. -/
def State.retrySend (s : State) (n k : Nat) : Option State :=
  let c := s.core n
  let xs := (List.range c.engine.length).filter fun i =>
    match c.sendAt i with | some x => x.waiting && decide (x.due ≤ s.time) | none => false
  match xs[k]? with
  | none => none
  | some i =>
    match c.sendAt i with
    | none => none
    | some x =>
      let c := c.dropItem i
      some (s.setCore n { c with engine := c.engine ++ [.send { x with waiting := false }] })

def execOperandRetry (n k : Nat) (s : State) : Host.Outcome State Fault Refusal :=
  .next ((s.retrySend n k).getD s)

/-- SEND_REFUSAL: the first stopped send of core `n` reports to the context that issued it (R273). -/
def State.sendRefused (s : State) (n : Nat) : Option State :=
  let c := s.core n
  (List.range c.engine.length).findSome? fun i =>
    match c.sendAt i with
    | some x =>
      (match x.stop with
      | some st =>
        some ((s.setCore n (c.dropItem i)).postCtx x.ctx ⟨13, st,
          BitVec.ofNat 64 (x.tag.toNat + x.pos.toNat * 2 ^ 32 + x.src.isSome.toNat * 2 ^ 36)⟩)
      | none => none)
    | none => none

def execSendRefusal (n : Nat) (s : State) : Host.Outcome State Fault Refusal :=
  .next ((s.sendRefused n).getD s)

/-! ### Delivery and forwarding (R269) -/

/-- The oldest result of a tag. -/
def State.resultOf (s : State) (t : BitVec 32) : Option Result := s.conj.results.find? fun r => r.tag == t
/-- Take it off the list. -/
def dropFirst {α : Type} (p : α → Bool) (xs : List α) : List α :=
  match xs with
  | [] => []
  | x :: rest => if p x then rest else x :: dropFirst p rest
def State.takeResult (s : State) (t : BitVec 32) : State :=
  { s with conj := { s.conj with results := dropFirst (fun r => r.tag == t) s.conj.results } }

/-- Write a result row to a core's TSPAD: the lines' marks are cleared. -/
def Local.deliver (l : Local) (dest : Nat) (row : Row) : Local :=
  let ds := (upFrom dest 2048).map fun a => Loc.bank .tsLinear (a % 262144)
  let l := l.put ds (leBytes 2048 row.toNat)
  (List.range 16).foldl (fun l k =>
    let p := (dest + 128 * k) % 262144
    let l := l.heal .tsLinear p 128
    if (l.line (p / 128)).failed then l.setLine (p / 128) { l.line (p / 128) with failed := false } else l) l

/-- RESULT_DELIVERY: none while a tile of the destination belongs to the core. -/
def State.deliver (s : State) (t : BitVec 32) : Option State :=
  match s.resultOf t with
  | none => none
  | some r =>
    if r.tr.forward then none
    else
      let c := s.core r.tr.dcore
      if c.clearsT || (List.range 16).any fun k => !c.loc.takes ((r.tr.dest + 128 * k) % 262144 / 128) then none
      else
        let c := { c with loc := c.loc.deliver r.tr.dest r.row }
        some ((s.takeResult t).setCore r.tr.dcore (c.sendInc r.tr.aw r.tr.inc.toNat))

def execResultDelivery (t : BitVec 32) (s : State) : Host.Outcome State Fault Refusal :=
  .next ((s.deliver t).getD s)

/-- RESULT_FORWARD: the result sets out for FTAG, once the tag's earlier result has arrived. -/
def State.forward (s : State) (t : BitVec 32) : Option State :=
  match s.resultOf t with
  | none => none
  | some r =>
    if !r.tr.forward || s.conj.flying.any (fun o => o.src == .tag t) then none
    else
      let fmt : Tag := match r.tr.op with | .addI32 | .or => .int32 | _ => .fp32
      let o : Operand := { src := .tag t, tag := r.tr.ftag, pos := r.tr.fpos, fmt := some fmt, row := r.row, refused := 0, due := 0 }
      let s := s.takeResult t
      some { s with conj := { s.conj with flying := s.conj.flying ++ [o] } }

def execResultForward (t : BitVec 32) (s : State) : Host.Outcome State Fault Refusal :=
  .next ((s.forward t).getD s)

/-! ### Freeing (R276) -/

/-- R276: a context frees a tag; one that it does not own, or that is free or retired, stays as it is. -/
def State.freeTagOf (s : State) (ctx : Nat) (t : BitVec 32) : State :=
  if !s.owns ctx t then s
  else match s.tag t with
    | none => s
    | some r =>
      let y := if r.state == .opened then s.orphanArea t r 4 else (s, false)
      let s := y.1.setTag t { r with state := .retired, held := [], pres := 0, next := 0, since := s.time }
      if y.2 then { s with pkg := { s.pkg with log := s.pkg.log ++ [(0x48, t.setWidth 64)] } } else s

/-- TAG_RETIREMENT_END: the index becomes free. -/
def State.retired (s : State) (t : BitVec 32) : Option State :=
  match s.tag t with
  | none => none
  | some r =>
    if r.state == .retired && decide (r.since + blockOlim (s.tagBlock t) ≤ s.time) then
      some { s with conj := { s.conj with tags := Map.del s.conj.tags (tagKey t) } }
    else none

def execTagRetirementEnd (t : BitVec 32) (s : State) : Host.Outcome State Fault Refusal :=
  .next ((s.retired t).getD s)

end Sys2Proof.Machine
end

