-- ==== Sys2Proof/Machine/Order.lean ====
section
/-! DEFINITION. The ordering machine: departures from the queues (R302 to R308), order points, fills and the atomics
units (R280 to R283, R309 to R312), and page reference counts (R298). -/

namespace Sys2Proof.Machine

/-! ### The queues of a core (Tables ORD-2 and ORD-3) -/

/-- Does an access stand in the load queue? FENCE and QMARK stand there as markers. -/
def AccKind.inLq (k : AccKind) : Bool :=
  match k with
  | .load .. | .brtEntry .. | .xlate .. | .tagq .. | .flowq .. | .pop .. | .fence _ | .qmark => true
  | _ => false
/-- Does it stand in the store queue? -/
def AccKind.inSq (k : AccKind) : Bool :=
  match k with
  | .load .. | .brtEntry .. | .xlate .. | .tagq .. | .flowq .. | .pop .. => false
  | _ => true
/-- Is it a marker? -/
def AccKind.isMark (k : AccKind) : Bool := match k with | .fence _ | .qmark | .barrier .. => true | _ => false
/-- A load of global memory. -/
def AccKind.isLoad (k : AccKind) : Bool := match k with | .load .. | .brtEntry .. => true | _ => false
/-- A store or an atomic of global memory. -/
def AccKind.isWrite (k : AccKind) : Bool :=
  match k with | .store .. | .atomic .. | .pgref .. | .join _ => true | _ => false
/-- Does it go to global memory? -/
def AccKind.isMem (k : AccKind) : Bool := k.isLoad || k.isWrite
/-- LD.ACQ. -/
def AccKind.isAcq (k : AccKind) : Bool := match k with | .load _ _ _ acq _ _ => acq | _ => false
/-- An atomic with an acquire part; PGREF is one (R298). -/
def AccKind.acquires (k : AccKind) : Bool :=
  match k with
  | .atomic _ _ _ _ _ _ _ o => o == .acquire || o == .acqRel
  | .pgref .. => true
  | _ => false
/-- The scope of a release part. -/
def AccKind.releases (k : AccKind) : Option Scope :=
  match k with
  | .store _ _ rel sc => if rel then some sc else none
  | .atomic _ _ _ _ _ _ sc o => if o == .release || o == .acqRel then some sc else none
  | .pgref .. | .pushw .. | .launch .. | .launchi .. | .join _ => some .module
  | _ => none

/-- Does an entry stand in LQ? A marker has left it when `departed` is set. -/
def Acc.waitsLq (a : Acc) : Bool := a.kind.inLq && !a.departed
/-- Does an entry stand in SQ? A marker has left it when `performed` is set. -/
def Acc.waitsSq (a : Acc) : Bool :=
  a.kind.inSq && !(if a.kind.isMark then a.performed else a.departed)

/-- R305: is an access performed at a scope? An access of which nothing more is listed is performed everywhere. -/
def State.accDone (s : State) (a : Acc) (sc : Scope) : Bool :=
  if a.kind.isLoad then a.performed
  else match sc with
    | .core => a.departed
    | .system => a.performed
    | _ => a.performed || (a.departed && s.remote a.home)
/-- Is every load performed, and every store and atomic of the list at the scope, but for those exempt? -/
def State.allDone (s : State) (as : List Acc) (sc : Scope) (exempt : Acc → Bool) : Bool :=
  as.all fun a => !(a.kind.isMem) || exempt a || s.accDone a sc

/-- The entries before `a` in program order. -/
def before (as : List Acc) (a : Acc) : List Acc := as.filter fun b => decide (b.id < a.id)

/-- R308: may the marker leave LQ, or SQ? -/
def State.markerFree (s : State) (as : List Acc) (a : Acc) (sq : Bool) : Bool :=
  let bs := before as a
  let passed (b : Acc) : Bool := a.own && b.held
  match a.kind with
  | .fence sc => s.allDone bs sc fun b => passed b || (!sq && b.kind.isWrite && b.seg == a.seg && !b.own)
  | .qmark => if sq then !(bs.any fun b => b.kind.isLoad && b.waitsLq)
    else !(bs.any fun b => b.kind.isWrite && !b.held && b.waitsSq)
  | .barrier .. => s.allDone bs .die passed
  | _ => true

/-- The head of LQ. -/
def Core.lqHead (c : Core) : Option Acc := c.accs.find? Acc.waitsLq
/-- An entry or marker of the trapped context that what a handler issues does not wait behind (R222). -/
def Acc.trapped (a : Acc) : Bool := a.held || (a.kind.isMark && !a.own)
/-- The head of SQ: a handler's entries leave at issue, past those that its trapped context holds (DEDUCED, log 30). -/
def Core.sqHead (c : Core) : Option Acc :=
  match c.accs.find? Acc.waitsSq, c.accs.find? fun a => a.waitsSq && !a.trapped with
  | some a, some b => some (if b.own then b else a)
  | x, _ => x

/-- Does an acquire that orders `a` still wait for its reply (R306, R307)?  An acquire atomic orders what is issued after the
checkpoint bundle that commits it, and not that bundle's own accesses; a trap handler's orders what is issued after its reply
(R120), which no access that is still here can wait for. -/
def acquireAhead (as : List Acc) (a : Acc) : Bool :=
  (before as a).any fun b => b.kind.isAcq
    || (b.kind.acquires && !b.own && decide (b.seg < a.seg) && !(a.opens && b.seg + 1 == a.seg))

/-- R303: is an earlier atomic of the core, not yet performed, on the same bytes? -/
def atomicAhead (m : Mem) (as : List Acc) (a : Acc) : Bool :=
  (before as a).any fun b => !b.performed && b.home == a.home && b.kind.atUnit && runsMeet (a.span m) (b.span m)

/-- R306: may the entry at the head of LQ depart? -/
def Core.loadMayGo (c : Core) (m : Mem) (a : Acc) : Bool :=
  !a.kind.isMark && !acquireAhead c.accs a
    && !(before c.accs a).any (fun b => match b.kind with | .pop .. => true | _ => false)
    && !(a.kind.isLoad && atomicAhead m c.accs a)

/-- R307: may the entry at the head of SQ depart? -/
def State.storeMayGo (s : State) (c : Core) (a : Acc) : Bool :=
  !a.held && !a.kind.isMark && !acquireAhead c.accs a
    && (match a.kind.releases with
      | some sc => s.allDone (before c.accs a) sc fun b => a.own && b.held
      | none => true)

/-! ### Departure (R309, R312) -/

/-- The message body of an access to another module (R378, R381). -/
def accBody (a : Acc) : List Byte :=
  match a.kind with
  | .load _ pa n _ _ _ => messageBody 0 a.cbf.toNat n pa a.key []
  | .brtEntry pa _ => messageBody 0 a.cbf.toNat 8 pa a.key []
  | .store pa bs _ _ => messageBody 1 0 bs.length pa a.key bs
  | .atomic op _ pa n b c _ _ =>
    let k := match op with
      | .add => 0 | .and => 1 | .or => 2 | .xor => 3 | .minS => 4 | .minU => 5 | .maxS => 6 | .maxU => 7
      | .xchg => 8 | .cas => 9 | .fadd => 10 | .fmax => 11
    messageBody 2 k n pa a.key (gBytes b ++ gBytes c)
  | .join x => messageBody 2 13 16 a.pa a.key (gBytes (joinRight x))
  | _ => []

/-- An access departs: into the channel of its home slice, into the fabric, or towards the die. -/
def State.depart (s : State) (n : Nat) (a : Acc) : Option State :=
  let gone (s : State) : State := s.setAcc n a.id fun a => { a with
    departed := true, kind := match a.kind with | .pop d q ts nb _ asid => .pop d q ts nb s.time asid | k => k }
  if !a.kind.isMem then some (gone s)
  else if s.remote a.home then
    if s.fab.open_ (agentCore n) a.home 0 then
      some ((gone s).ask (agentCore n) a.home 0 (accBody a) n false a.id 0 0 a.kind.isWrite)
    else none
  else
    let s := gone s
    some { s with mem := s.mem.enter n a.id a.pa }

/-- LOAD_DEPARTURE. -/
def State.loadDeparts (s : State) (n : Nat) : Option State :=
  let c := s.core n
  match c.lqHead with
  | none => none
  | some a => if c.loadMayGo s.mem a then s.depart n a else none

def execLoadDeparture (n : Nat) (s : State) : Host.Outcome State Fault Refusal :=
  .next ((s.loadDeparts n).getD s)

/-- STORE_DEPARTURE. -/
def State.storeDeparts (s : State) (n : Nat) : Option State :=
  let c := s.core n
  match c.sqHead with
  | none => none
  | some a => if s.storeMayGo c a then s.depart n a else none

def execStoreDeparture (n : Nat) (s : State) : Host.Outcome State Fault Refusal :=
  .next ((s.storeDeparts n).getD s)

/-! ### Replies (R310, R311) -/

/-- The value of a load, with the bytes that it forwards, and whether it is poisoned (R285, R303). -/
def State.loadValue (s : State) (a : Acc) (pa n : Nat) (fw : List (Nat × Byte)) : Word × Bool :=
  let bs := ((upFrom pa n).zip (s.homeBytes a pa n)).map fun x =>
    match fw.find? fun f => f.1 == x.1 with | some f => some f.2 | none => x.2
  (BitVec.ofNat 64 (leNat (bs.map fun b => b.getD 0)), bs.any (·.isNone))

/-- The register of a result with its value. -/
def Dst.withValue (d : Dst) (x : Word) (p : Bool) : Dst := match d with | .g r _ _ => .g r x p | _ => d

/-- A reply to an access of core `n` sets out. -/
def State.sendReply (s : State) (n : Nat) (a : Acc) (d : Dst) : State :=
  let s := s.setAcc n a.id fun a => { a with departed := true, performed := true }
  let c := s.core n
  s.setCore n { c with replies := c.replies ++ [⟨a.id, d, a.own⟩] }

/-- R119: an atomic's new value of `n` bytes. -/
def atomNew (op : AtomOp) (n : Nat) (old b c : Word) : Word :=
  let w := 8 * n
  let m : Word := BitVec.ofNat 64 (2 ^ w - 1)
  let s (x : Word) : Int := (BitVec.ofNat w x.toNat).toInt
  let x := b &&& m
  match op with
  | .add => (old + x) &&& m
  | .and => old &&& x
  | .or => old ||| x
  | .xor => old ^^^ x
  | .minS => if s x < s old then x else old
  | .minU => if x.toNat < old.toNat then x else old
  | .maxS => if s old < s x then x else old
  | .maxU => if old.toNat < x.toNat then x else old
  | .xchg => x
  | .cas => if old = x then c &&& m else old
  | .fadd => BitVec.ofNat 64 (addF32 old.toNat x.toNat).bits
  | .fmax => BitVec.ofNat 64 (fmtFp32.fmax old.toNat x.toNat)

/-- The element of `w` bytes that a unit updates: its value, none of the control space's being uncorrectable. -/
def State.element (s : State) (key : BitVec 8) (pa w : Nat) : Word :=
  if inControl pa then BitVec.ofNat 64 (leNat ((upFrom pa w).map s.controlByte))
  else BitVec.ofNat 64 (leNat (s.mem.load key pa w))
def State.badElement (s : State) (pa w : Nat) : Bool := !inControl pa && s.mem.bad pa w
/-- An atomic at its unit: an element that is uncorrectable gives a poisoned reply and stays as it is (R285); one in a sealed
granule is refused (R292). -/
def State.atomic (s : State) (n : Nat) (a : Acc) (op : AtomOp) (d : GReg) (pa w : Nat) (b c : Word) : State :=
  let old := s.element a.key pa w
  if s.badElement pa w then (s.noteBad pa w).sendReply n a (.g d old true)
  else if s.mem.sealedRun pa w then (s.refuseWrite n pa).sendReply n a (.g d old true)
  else (s.homeStore a.key pa (leBytes w (atomNew op w old b c).toNat)).sendReply n a (.g d old false)

/-! ### Page reference counts (R298) -/

/-- The release ring's fields (Table MEM-11). -/
def ringLog2 (m : Mem) : Nat := bitsAt m.ring0.toNat 58 5
def ringFull (m : Mem) : Bool := (m.tail - m.head).toNat == 2 ^ ringLog2 m
/-- The address of the record at TAIL, and the address space in which the ring lies. -/
def ringTop (m : Mem) : Nat := bitsAt m.ring0.toNat 4 52 * 16 + 16 * (m.tail.toNat % 2 ^ ringLog2 m)
def ringSpace (m : Mem) : BitVec 12 := m.ring1.extractLsb' 52 12

/-- AppendRelease: the record of a released page; a release that cannot be recorded is logged. -/
def State.appendRelease (s : State) (asid : BitVec 12) (va pa sz : Nat) : State :=
  let m := s.mem
  let d0 := va / 4096 % 2 ^ 44 * 4096
  let d1 := asid.toNat * 2 ^ 52 + pa / 4096 % 2 ^ 40 * 4096 + sz
  let lost : State := s.note (.release d0 d1)
  if !m.ring0.getLsbD 63 then lost
  else match m.walk (ringSpace m) 0 (ringTop m) with
    | none => lost
    | some t =>
      let rpa := t.pa (ringTop m)
      if (m.checkLeaf .store false (ringSpace m) t.lo t.hi rpa).isSome || s.remote (leafHome t) then lost
      else
        let m' := m.store (pteKey t.hi) rpa (leBytes 8 d0 ++ leBytes 8 d1)
        { s with mem := { m' with tail := m.tail + 1 } }

/-- PgRef: none while it waits for the ring, a pin or a walk. -/
def State.pageRef (s : State) (n : Nat) (a : Acc) (x : Word) (asid : BitVec 12) (sz : Nat) : Option State :=
  let m := s.mem
  let lo := m.dword a.pa
  let hi := m.dword (a.pa + 8)
  let run := a.span m
  let es := (List.range (run.2 / 16)).map fun k => run.1 + 16 * k
  let done (s : State) : State := s.dropAcc n a.id
  let put (m : Mem) (lo : Word) (share : Nat) : Mem :=
    es.foldl (fun m e =>
      let h := m.dword (e + 8)
      m.store 0 e (leBytes 8 lo.toNat ++ leBytes 8 (bitsAt h.toNat 0 48 + share * 2 ^ 48))) m
  let share := pteShare hi
  let va := x.toNat % 2 ^ 56
  if m.bad run.1 run.2 then some (done (s.noteBad run.1 run.2))
  else if m.sealedRun run.1 run.2 then some (done (s.refuseWrite n a.pa))
  else if !pteV lo || share = 0xFFFF then some (done s)
  else if s.tlbiHeld .page asid va then none
  else if !x.getLsbD 63 then
    some (done (({ s with mem := put m lo (share + 1) }).invalidate .page asid va))
  else if share ≤ 1 then
    if (m.ring0.getLsbD 63 && (ringFull m || s.vaHeld (ringSpace m) 0 (ringTop m) 16)) || s.pinned (ptePa lo) (pageBytes sz) then none
    else
      let s := { s with mem := put m (lo &&& ~~~1) 0 }
      let s := s.appendRelease asid (alignDown va (pageBytes sz)) (ptePa lo) sz
      some (done (s.invalidate .page asid va))
  else some (done (({ s with mem := put m lo (share - 1) }).invalidate .page asid va))

/-! ### Walks (R289, R291, R293) -/

/-- The walks that the cores of a die wait for, and that no walker of it makes yet. -/
def State.walksOf (s : State) (d : Nat) : List Walk :=
  ((s.cores.flatMap fun e =>
      if dieOf e.1 == d then e.2.fetch.walks ++ e.2.fetch.asks.map (·.2) else []).filter fun w =>
    !s.mem.walkers.any fun x => x.die == d && x.w == w).dedup
/-- A walk's result enters a cluster's cache of 4096. -/
def Mem.cacheWalk (m : Mem) (cl : Nat) (r : Option Tlb) : Mem :=
  match r with
  | none => m
  | some t =>
    let old := Map.getD m.ctlb cl []
    if old.contains t then m else { m with ctlb := Map.put m.ctlb cl ((t :: old).take 4096) }
/-- R293: a walk of a die has ended; every core of the die that waits for it takes its result. -/
def State.walkDone (s : State) (d : Nat) (w : Walk) (r : Option Tlb) : State :=
  let ns := (s.cores.filter fun e =>
    dieOf e.1 == d && (e.2.fetch.walks.contains w || e.2.fetch.asks.any fun a => a.2 == w)).map (·.1)
  let m := ns.foldl (fun (m : Mem) n => m.cacheWalk (sliceOf n) r) s.mem
  ns.foldl (fun (s : State) n => s.setCore n ((s.core n).walked w r)) { s with mem := m }
/-- A walker goes on: it requests the entry of a level through its home slice, or it has ended. -/
def State.walkerGoes (s : State) (d k : Nat) (w : Walk) (x : WalkStep) : State :=
  let others := s.mem.walkers.filter fun y => !(y.die == d && y.num == k)
  let s' : State := { s with mem := { s.mem with walkers := others } }
  match x with
  | .absent => s'.walkDone d w none
  | .leaf sz ent lo hi => s'.walkDone d w (some ⟨w.asid, w.gen, alignDown w.va (pageBytes sz), sz, ent, lo, hi⟩)
  | .read level ent via =>
    ({ s with mem := { s.mem with walkers := others ++ [(⟨d, k, w, level, ent, via⟩ : Walker)] } }).push (srcWalker d k)
      (agentReq (.pte d k) ent 0 true false 0)
/-- TRANSLATION_WALK: the `k`-th walk that a die's cores wait for goes to a free walker. -/
def State.walkStarts (s : State) (d k : Nat) : Option State :=
  match (s.walksOf d)[k]?, (List.range 64).find? fun j => !s.mem.walkers.any fun x => x.die == d && x.num == j with
  | some w, some j => some (s.walkerGoes d j w (s.mem.walkStart w.asid w.gen w.va))
  | _, _ => none
def execTranslationWalk (d k : Nat) (s : State) : Host.Outcome State Fault Refusal :=
  .next ((s.walkStarts d k).getD s)
/-- The entry that a walker has read: uncorrectable table data ends the walk, and the log tells (R291). -/
def State.walkerReads (s : State) (d k : Nat) : State :=
  match s.mem.walkers.find? fun x => x.die == d && x.num == k with
  | none => s
  | some x =>
    match s.mem.pte x.at_ with
    | none => (s.note (.walk x.w.asid.toNat x.w.va)).walkerGoes d k x.w .absent
    | some (lo, hi) => s.walkerGoes d k x.w (s.mem.shape.walkNext x.level x.at_ x.w.va x.via lo hi)

/-! ### Requests of another module (R381) -/

/-- The atomic of an operation code (R119). -/
def atomOf (x : Nat) : AtomOp :=
  match x with
  | 0 => .add | 1 => .and | 2 => .or | 3 => .xor | 4 => .minS | 5 => .minU | 6 => .maxS | 7 => .maxU
  | 8 => .xchg | 9 => .cas | 10 => .fadd | _ => .fmax
/-- A join's right (R327), as its message carries it. -/
def rightOf (x : Word) : EnqCtx := ⟨x.getLsbD 32, x.extractLsb' 8 12, x.extractLsb' 0 6, 0⟩

/-- R217: an element update of SRED. -/
def State.combineAt (s : State) (key : BitVec 8) (pa : Nat) (op : CombOp) (x : BitVec 32) : State :=
  s.homeStore key pa (leBytes 4 (combine32 op ((s.element key pa 4).setWidth 32) x).toNat)
/-- Perform the request of a message: the state, the status (0 done, 1 poisoned, 2 refused by the granule map) and the reply's
data. -/
def State.serveAsk (s : State) (m : Msg) (r : Acc) : State × Nat × List Byte :=
  let a := askOf m
  let pa := a.addr
  match a.kind with
  | 0 =>
    let bs := s.homeBytes r pa a.len
    (s.noteBad pa a.len, (bs.any (·.isNone)).toNat, bs.map fun b => b.getD 0)
  | 1 =>
    if s.mem.sealedRun pa a.len then (s.note (.sealed pa), 2, [])
    else (s.homeStore a.key pa a.data, 0, [])
  | _ =>
    if s.mem.sealedRun pa a.len then (s.note (.sealed pa), 2, [])
    else if a.op = 13 then (s.joinWord (s.mem.shape.homeDie pa) pa a.key (rightOf (askWord m 0)), 0, [])
    else if 16 ≤ a.op then
      if s.badElement pa 4 then (s.noteBad pa 4, 1, [])
      else (s.combineAt a.key pa ((combOf (a.op - 16)).getD .addI32) (BitVec.ofNat 32 (leNat (a.data.take 4))), 0, [])
    else
      let old := s.element a.key pa a.len
      if s.badElement pa a.len then (s.noteBad pa a.len, 1, leBytes 8 old.toNat)
      else (s.homeStore a.key pa (leBytes a.len (atomNew (atomOf a.op) a.len old (askWord m 0) (askWord m 8)).toNat), 0,
        leBytes 8 old.toNat)
/-- The reply to a message's request. -/
def State.replyTo (s : State) (m : Msg) (st : Nat) (bs : List Byte) : State :=
  s.sendMsg (agentUnit (s.mem.shape.homeSlice (askOf m).addr)) m.src 1 (messageBody 4 st bs.length (replyKey m.agent m.vc m.cseq) 0 bs)
/-- Is there room for the reply of a request in its channel (R379)? -/
def State.mayReply (s : State) (a : Acc) : Bool :=
  match a.kind with | .ask m => s.fab.open_ (agentUnit (s.mem.shape.homeSlice (askOf m).addr)) m.src 1 | _ => true
/-- Serve the request of a message: it leaves the list and its reply sets out. -/
def State.served (s : State) (src : Nat) (a : Acc) (m : Msg) : State :=
  let r := (s.dropAcc src a.id).serveAsk m a
  r.1.replyTo m r.2.1 r.2.2

/-! ### Slices (R279 to R283) -/

/-- Perform a request that its slice serves: what an atomics unit performs goes to its unit. -/
def State.serve (s : State) (sl src id : Nat) : State :=
  match s.acc src id with
  | none => s
  | some a =>
    let s' := s.dropAcc src id
    match a.kind with
    | .load d pa k _ _ fw =>
      let v := s.loadValue a pa k fw
      (s.noteBad pa k).sendReply src a (d.withValue v.1 v.2)
    | .brtEntry pa fw =>
      let v := s.loadValue a pa 8 fw
      let s := s'.noteBad pa 8
      let c := s.core src
      s.setCore src { c with btw := { c.btw with brt := some v } }
    | .store pa bs _ _ => if s.mem.sealedRun pa bs.length then s'.refuseWrite src pa else s'.homeStore a.key pa bs
    | .engRead n i lo k =>
      let bs := s.homeBytes a a.pa k
      if !inControl a.pa && s.mem.bad a.pa k then (s'.noteBad a.pa k).readDone n i lo (.error 7)
      else if bs.any (·.isNone) then s'.readDone n i lo (.error 5)
      else s'.readDone n i lo (.ok (bs.map fun b => b.getD 0))
    | .engWrite n i lo bs _ =>
      if s.mem.sealedRun a.pa bs.length then (s'.refuseWrite src a.pa).writeDone n i lo (lo + bs.length) (some 2)
      else (s'.homeStore a.key a.pa bs).writeDone n i lo (lo + bs.length) none
    | .touch => s'
    | .pte d k => s'.walkerReads d k
    | .put bs => if s.mem.sealedRun a.pa bs.length then s'.refuseWrite src a.pa else s'.homeStore a.key a.pa bs
    | .host _ (some bs) => if s.mem.sealedRun a.pa bs.length then s'.refuseWrite src a.pa else s'.homeStore a.key a.pa bs
    | .host n none =>
      let bs := s.homeBytes a a.pa n
      let s := s'.noteBad a.pa n
      let poison : Byte := if bs.any (·.isNone) then 1 else 0
      { s with pkg := { s.pkg with out := s.pkg.out ++ [poison :: leBytes 8 a.pa ++ bs.map fun b => b.getD 0] } }
    | k =>
      if k.atUnit then
        let y := s.slice sl
        s.setSlice sl { y with updates := y.updates ++ [(src, id)] }
      else match k with
        | .ask m => s.served src a m
        | _ => s

/-- The outcome of R282 for a request: served, allocated without a fetch and served (R281), listed, given a register, or
waiting. -/
inductive Point where
  | served
  | whole
  | listed
  | register
  | waits
  deriving DecidableEq, Repr

/-- Does a request write all of its line (R281)? -/
def AccKind.coversLine (k : AccKind) : Bool := match k with | .engWrite _ _ _ _ w => w | _ => false
/-- What the order point does with a request. -/
def State.point (s : State) (sl src id : Nat) (a : Acc) : Point :=
  let y := s.slice sl
  let line := lineOf a.pa
  match y.mshr.find? fun e => e.1 == line with
  | some _ => if y.nodes < 256 then .listed else .waits
  | none =>
    if s.updating sl src id (a.span s.mem) || !s.mayReply a then .waits
    else if a.cached && y.present.any (fun e => e.1 == line) then .served
    else if !a.cached || inControl a.pa then (if s.blocked a.pa then .waits else .served)
    else if a.kind.coversLine && !(y.ways a.part.toNat).isEmpty then .whole
    else if y.mshr.length < 64 then .register
    else .waits

/-- Act on it: none where the request waits. -/
def State.takeRequest (s : State) (sl src id : Nat) (a : Acc) : Option State :=
  let y := s.slice sl
  let line := lineOf a.pa
  match s.point sl src id a with
  | .served => some ((s.setSlice sl (y.touch line)).serve sl src id)
  | .whole => some ((s.setSlice sl (y.allocate line a.part.toNat)).serve sl src id)
  | .listed => some (s.setSlice sl { y with
      mshr := y.mshr.map fun e => if e.1 == line then (e.1, e.2 ++ [(src, id)]) else e })
  | .register => some (s.setSlice sl { y with mshr := y.mshr ++ [(line, [(src, id)])] })
  | .waits => none

/-- The requests that a slice may take next: those waiting, and the heads of its channels, which stop while the ingress queue is
full. -/
def State.requests (s : State) (sl : Nat) : List (Nat × Nat × Bool) :=
  let y := s.slice sl
  (y.ingress.map fun r => (r.1, r.2, true))
    ++ if 128 ≤ y.ingress.length then []
      else s.mem.channels.filterMap fun e =>
        if e.1 % 128 == sl then (match e.2 with | id :: _ => some (e.1 / 128, id, false) | [] => none) else none

/-- Take the head off a channel. -/
def Mem.popChannel (m : Mem) (k : Nat) : Mem :=
  let q := (Map.getD m.channels k []).tail
  { m with channels := if q.isEmpty then Map.del m.channels k else Map.put m.channels k q }

/-- ORDER_POINT_SERVE: the `k`-th of them; none where it can do nothing now. -/
def State.pointServe (s : State) (sl k : Nat) : Option State :=
  match (s.requests sl)[k]? with
  | none => none
  | some (src, id, true) =>
    let y := s.slice sl
    let rest := y.ingress.filter (· != (src, id))
    let ahead := y.ingress.takeWhile (· != (src, id))
    match s.acc src id with
    | none => some (s.setSlice sl { y with ingress := rest })
    | some a =>
      if s.waitsBefore ahead (lineOf a.pa) then none
      else (s.setSlice sl { y with ingress := rest }).takeRequest sl src id a
  | some (src, id, false) =>
    let y := s.slice sl
    let s' := { s with mem := s.mem.popChannel (inbound src sl) }
    match s.acc src id with
    | none => some s'
    | some a =>
      match (if s.waitsBefore y.ingress (lineOf a.pa) then none else s'.takeRequest sl src id a) with
      | some t => some t
      | none => some (s'.setSlice sl { y with ingress := y.ingress ++ [(src, id)] })

def execOrderPointServe (sl k : Nat) (s : State) : Host.Outcome State Fault Refusal :=
  .next ((s.pointServe sl k).getD s)

/-- Serve a line's list in order; what an update in flight, or a full channel, holds back waits at the front of the ingress
queue. -/
def State.serveList (s : State) (sl : Nat) (rs : List (Nat × Nat)) : State :=
  match rs with
  | [] => s
  | (src, id) :: rest =>
    match s.acc src id with
    | none => s.serveList sl rest
    | some a =>
      if s.updating sl src id (a.span s.mem) || !s.mayReply a then
        let y := s.slice sl
        s.setSlice sl { y with ingress := (src, id) :: rest ++ y.ingress }
      else (s.serve sl src id).serveList sl rest

/-- LINE_FILL: the fill of a line arrives, for the partition of the request that asked for it (R281). -/
def State.fill (s : State) (sl line : Nat) : Option State :=
  let y := s.slice sl
  match y.mshr.find? fun e => e.1 == line with
  | none => none
  | some e =>
    if s.blocked (line * 128) then none
    else
      let part := ((e.2.head?.bind fun r => s.acc r.1 r.2).map fun a => a.part.toNat).getD 0
      let y := { y with mshr := y.mshr.filter fun x => x.1 != line }
      some ((s.setSlice sl (y.allocate line part)).serveList sl e.2)

def execLineFill (sl line : Nat) (s : State) : Host.Outcome State Fault Refusal :=
  .next ((s.fill sl line).getD s)

/-- R326: a JOIN at its unit: none while the die waits to read the continuation record. -/
def State.joinAt (s : State) (n : Nat) (a : Acc) (x : EnqCtx) : Option State :=
  let s' := s.dropAcc n a.id
  if s.mem.sealedRun a.pa 16 then some (s'.refuseWrite n a.pa)
  else if s.joinHeld a.pa a.key x.asid then none
  else some (s'.joinWord (dieOf n) a.pa a.key x)

/-- ATOMIC_UPDATE: the `k`-th update in flight of a slice; none while it waits. -/
def State.update (s : State) (sl k : Nat) : Option State :=
  let y := s.slice sl
  match y.updates[k]? with
  | none => none
  | some (src, id) =>
    let s' := s.setSlice sl { y with updates := y.updates.eraseIdx k }
    match s.acc src id with
    | none => some s'
    | some a =>
      match a.kind with
      | .atomic op d pa w b c _ _ => some (s'.atomic src a op d pa w b c)
      | .pgref x asid sz => s'.pageRef src a x asid sz
      | .join x => s'.joinAt src a x
      | .engSred n i lo op x =>
        let t := s'.dropAcc src id
        if s.badElement a.pa 4 then some ((t.noteBad a.pa 4).writeDone n i lo (lo + 4) (some 7))
        else if s.mem.sealedRun a.pa 4 then some ((t.refuseWrite src a.pa).writeDone n i lo (lo + 4) (some 2))
        else some ((t.combineAt a.key a.pa op (x.setWidth 32)).writeDone n i lo (lo + 4) none)
      | .ask m =>
        if !s.mayReply a || ((askOf m).op == 13 && s'.joinHeld a.pa a.key (rightOf (askWord m 0)).asid) then none
        else some (s'.served src a m)
      | _ => some s'

def execAtomicUpdate (sl k : Nat) (s : State) : Host.Outcome State Fault Refusal :=
  .next ((s.update sl k).getD s)

end Sys2Proof.Machine
end

