-- ==== Sys2Proof/Machine/Sched.lean ====
section
/-! DEFINITION. Scheduling: the work instructions (R326), POP (R328), barriers (R330), placement, launch and completion
of gangs (R322 to R325), pre-emption (R329), transit phases (R331), router programs (R333) and the rest of the die
controller's steps. -/

namespace Sys2Proof.Machine

/-! ### Work instructions (R326) -/

/-- In whose right a work instruction acts. -/
def Core.right (c : Core) : EnqCtx := ⟨!c.sup, c.space, c.regs.cprio, c.regs.job⟩
/-- The record that a descriptor holds. -/
def recOf (ds : List Word) : BitVec 512 := BitVec.ofNat 512 (leNat (descBytes ds))
/-- The checks of a record's address. -/
def recordChk (x : Word) : Option TrapInfo :=
  firstTrap [need (bitsAt x.toNat 18 46 == 0) x, if x.toNat % 64 = 0 then none else some ⟨6, 0, 0, x⟩]

/-- PUSHW and LAUNCH. -/
def workOp (g : Guard) (a : GSrc) (k : BitVec 512 → EnqCtx → AccKind) : Op :=
  { guard := g, srcs := [.g a]
    wait := fun s => descWait s (s.opA a)
    chk := fun s => recordChk (s.opA a)
    uses := fun s => if s.me.inTrap then [] else [.atomic]
    reqs := fun s => some (gBytes (s.opA a) ++ descBytes (s.readDesc (s.opA a)))
    run := fun s =>
      let r := recOf (s.readDesc (s.opA a))
      s.onMe fun c => c.addAcc (k r c.right) true 0 0 0 true }

def opPushw (g : Guard) (a : GSrc) : Op := workOp g a .pushw
def opLaunch (g : Guard) (a : GSrc) : Op := workOp g a .launch
/-- The virtual address in the low 56 bits. -/
def low56 (x : Word) : Word := x &&& 0x00FFFFFFFFFFFFFF
/-- LAUNCHI: the count's address is translated and checked for read. -/
def opLaunchi (g : Guard) (a b : GSrc) : Op :=
  { workOp g a .launchi with
    srcs := [.g a, .g b]
    chk := fun s => (recordChk (s.opA a)).or (aligned (s.opB b) 4)
    xlat := fun s => (s.translate s.me .load (low56 (s.opB b))).xres (low56 (s.opB b))
    cap := fun s => (s.opA a, s.opB b, 0)
    reqs := fun s => some (gBytes (s.opA a) ++ gBytes (s.opB b) ++ descBytes (s.readDesc (s.opA a)))
    run := fun s =>
      let r := recOf (s.readDesc (s.opA a))
      match s.translate s.me .load (low56 (s.opB b)) with
      | .hit pa t => s.onMe fun c => c.addAcc (.launchi r c.right) true pa t.home t.key t.cached
      | _ => s }
/-- JOIN: translated and checked as an atomic. -/
def opJoin (g : Guard) (a : GSrc) : Op :=
  { guard := g, srcs := [.g a]
    chk := fun s => firstTrap [need (bitsAt (s.opA a).toNat 56 8 == 0) (s.opA a), aligned (s.opA a) 16]
    uses := fun s => if s.me.inTrap then [] else [.atomic]
    xlat := fun s => (s.translate s.me .atomic (s.opA a)).xres (s.opA a)
    cap := fun s => (s.opA a, 0, 0)
    reqs := fun s => some (gBytes (s.opA a))
    run := fun s =>
      match s.translate s.me .atomic (s.opA a) with
      | .hit pa t => s.onMe fun c => c.addAcc (.join c.right) true pa t.home t.key t.cached
      | _ => s }

def execPushw (g : Guard) (a : GSrc) (s : State) := runOp (opPushw g a) s
def execLaunch (g : Guard) (a : GSrc) (s : State) := runOp (opLaunch g a) s
def execLaunchi (g : Guard) (a b : GSrc) (s : State) := runOp (opLaunchi g a b) s
def execJoin (g : Guard) (a : GSrc) (s : State) := runOp (opJoin g a) s

/-- May an access stay behind on a core that its context has left? -/
def Acc.stays (a : Acc) : Bool :=
  !a.held && (match a.kind with
    | .store .. | .join _ | .pushw .. | .launch .. | .launchi .. => true | _ => false)
/-- Must the die wait before it enqueues a record: to read the dependence word, or LAUNCHI's count (R327; log 35)? -/
def State.enqueueHeld (s : State) (r : BitVec 512) (many : Bool) (x : EnqCtx) (idx : Option Nat) : Bool :=
  (many && recAddr r 7 != 0 && s.dieHeld (if x.user then x.asid else recAsid r) (recAddr r 7) 4)
    || (match idx with | some pa => decide (pa < 2 ^ 56) && s.runHeld (pa, 4) | none => false)
/-- Does an access carry a record to the die? -/
def AccKind.isWork (k : AccKind) : Bool := match k with | .pushw .. | .launch .. | .launchi .. => true | _ => false
/-- A record that has departed reaches the die; a core's records arrive in the order in which they departed, so that
an in-band close follows the records before it (DEDUCED, log 29). -/
def State.workArrives (s : State) (n : Nat) (a : Acc) : Option State :=
  if !a.departed || (before (s.core n).accs a).any (fun b => b.kind.isWork && b.departed) then none
  else
    let s' := s.dropAcc n a.id
    match a.kind with
    | .pushw r x => some (s'.enqueue (dieOf n) r .pushw x none)
    | .launch r x => if s.enqueueHeld r true x none then none else some (s'.enqueue (dieOf n) r .launch x none)
    | .launchi r x =>
      let pa := if s.remote a.home then 2 ^ 56 + a.pa else a.pa
      if s.enqueueHeld r true x (some pa) then none else some (s'.enqueue (dieOf n) r .launchi x (some (pa, a.key)))
    | _ => none

/-! ### POP (R328) -/

/-- POP and POP.NB. -/
def popOp (g : Guard) (d : GReg) (a : GSrc) (nb : Bool) : Op :=
  { guard := g, srcs := [.g a], gd := some d
    chk := fun s => firstTrap [need (bitsAt (s.opA a).toNat 18 38 == 0) (s.opA a),
      if (s.opA a).toNat % 64 = 0 then none else some ⟨6, 0, 0, s.opA a⟩]
    reqs := fun s => some (gBytes (s.opA a))
    run := fun s =>
      let x := (s.opA a).toNat
      s.onMe fun c => (c.addAcc (.pop d (bitsAt x 56 8) (x % 262144) nb 0 c.space) false 0 0 0 true).emptyG d }
def opPop (g : Guard) (d : GReg) (a : GSrc) : Op := popOp g d a false
def opPopNb (g : Guard) (d : GReg) (a : GSrc) : Op := popOp g d a true
def execPop (g : Guard) (d : GReg) (a : GSrc) (s : State) := runOp (opPop g d a) s
def execPopNb (g : Guard) (d : GReg) (a : GSrc) (s : State) := runOp (opPopNb g d a) s

/-- R322: a record's effective priority. -/
def effPrio (prio arrived now : Nat) : Nat := min 63 (prio + min 8 ((now - arrived) / 4096))
/-- The order of R322 within a queue, as a number: the lowest goes first.  What a retired core has given back stands at the front, in
its order (R328). -/
def QRec.rank (r : QRec) (now : Nat) : Nat :=
  if r.first then 0 else 2 ^ 60 + (63 - effPrio r.prio r.time now) * 2 ^ 48 + r.seq
/-- The element of lowest rank. -/
def lowest {α : Type} (f : α → Nat) (xs : List α) : Option α :=
  xs.foldl (fun m x => match m with
    | none => some x
    | some y => if f x < f y then some x else some y) none

/-- What has become of a claim. -/
inductive ClaimState where | kept | redo | done | returned
  deriving DecidableEq, Repr
def State.claimState (s : State) (k : Claim) : ClaimState :=
  match s.listed.find? (fun n => (s.core n).regs.ctxId == k.ctx && (s.core n).run != .idle) with
  | none => if s.saves.any fun e => e.2.regs.ctxId == k.ctx then .kept else .done
  | some n =>
    let c := s.core n
    if c.run == .stopped .retired then .returned
    else if decide (k.seg < c.btw.seg) && !c.btw.closing.any (fun x => decide (x.2.1 ≤ k.seg)) then .done
    else if k.rolls < c.btw.rolls then .redo
    else .kept
/-- A queue whose claims are up to date: those of committed segments are gone, those of a retired core are back at the front. -/
def State.settled (s : State) (q : Queue) : Queue :=
  { q with
    recs := ((q.claims.filter fun k => s.claimState k == .returned).map fun k : Claim => { k.r with first := true, slot := none })
      ++ q.recs
    claims := q.claims.filter fun k => s.claimState k != .returned && s.claimState k != .done }
/-- The same of every queue of a die. -/
def State.settleAll (s : State) (d : Nat) : State :=
  let y := s.die d
  s.setDie d { y with queues := y.queues.map fun e => (e.1, s.settled e.2) }

/-- The word of a POP's reply (Table SCH-6). -/
def popWord (out seq : Nat) : Word := BitVec.ofNat 64 (out * 2 ^ 62 + seq)
/-- A record is written as an engine write. -/
def Local.popWrite (l : Local) (ts : Nat) (r : BitVec 512) : Local :=
  let ds := (upFrom ts 64).map fun a => Loc.bank .tsLinear (a % 262144)
  let l := (l.put ds (leBytes 64 r.toNat)).heal .tsLinear ts 64
  let p := ts / 128 % 2048
  if (l.line p).failed then l.setLine p { l.line p with failed := false } else l

/-- A POP at the die: its reply and what it does; none while it waits. -/
def State.popServe (s : State) (n : Nat) (a : Acc) (q ts : Nat) (nb : Bool) (asid : BitVec 12) : Option (State × Word) :=
  let d := dieOf n
  let c := s.core n
  let x := s.settled (s.queue d q)
  let t := s.setQueue d q x
  if !x.en || !x.isPop || x.asid != asid then some (t, popWord 3 0)
  else
    let mine (k : Claim) : Bool := k.ctx == c.regs.ctxId && s.claimState k == .redo
    let claim (r : QRec) : Claim := ⟨c.regs.ctxId, a.seg, c.btw.rolls, r⟩
    let give (t : State) (bits : BitVec 512) (seq : Nat) : Option (State × Word) :=
      if !c.loc.takes (ts / 128 % 2048) || c.clearsT then none
      else some (t.setCore n { c with loc := c.loc.popWrite ts bits }, popWord 0 seq)
    match (if a.own then none else x.claims.find? mine) with
    | some k => give (t.setQueue d q { x with claims := x.claims.map fun y => if y == k then claim k.r else y }) k.r.bits k.r.seq
    | none =>
      match lowest (fun r : QRec => r.rank s.time) x.recs with
      | some r =>
        match t.ringRead x r with
        | none => none
        | some bits =>
          let u := t.takeRec d q r.seq
          let y := u.queue d q
          give (if a.own then u else u.setQueue d q { y with claims := y.claims ++ [claim { r with bits := bits }] }) bits r.seq
      | none => if x.closed then some (t, popWord 2 0) else if nb then some (t, popWord 1 0) else none

/-- The reply of a POP is written. -/
def State.popAnswer (s : State) (n : Nat) (a : Acc) (d : GReg) (x : Word) : State :=
  let s := s.dropAcc n a.id
  s.setCore n ((s.core n).answer ⟨a.id, .g d x false, a.own⟩ a.seg)

/-- POP_TIMEOUT: a blocking POP whose time has passed returns EMPTY. -/
def State.popTimesOut (s : State) (n : Nat) : Option State :=
  (s.core n).accs.findSome? fun a =>
    match a.kind with
    | .pop d q ts nb since asid =>
      if a.departed && (s.popServe n a q ts nb asid).isNone
          && decide (since + (s.queue (dieOf n) q).poplim.toNat ≤ s.time)
          && (s.settled (s.queue (dieOf n) q)).recs.isEmpty && !(s.queue (dieOf n) q).closed then
        some (s.popAnswer n a d (popWord 1 0))
      else none
    | _ => none
def execPopTimeout (n : Nat) (s : State) : Host.Outcome State Fault Refusal := .next ((s.popTimesOut n).getD s)

/-! ### Barriers (R330) -/

/-- The gang of a core and the rank of its context. -/
def Core.gangId (c : Core) : Nat := bitsAt c.regs.gang.toNat 48 16
def Core.rank (c : Core) : Nat := bitsAt c.regs.gang.toNat 0 9
def State.setGang (s : State) (d k : Nat) (g : Gang) : State :=
  let x := s.die d
  s.setDie d { x with gangs := Map.put x.gangs k g }
def Gang.bar (g : Gang) (b : Nat) : Barrier := Map.getD g.bars b Barrier.reset

/-- Has phase `q` completed? A context without a gang waits for no other. -/
def Barrier.passed (x : Barrier) (q : BitVec 16) : Bool := decide ((x.done - q).toNat < 2 ^ 15)
def State.barPassed (s : State) (n b : Nat) (q : BitVec 16) : Bool :=
  match s.gangOf n with | none => true | some g => (g.bar b).passed q
/-- R330: would an arrival at phase `q` be 2^15 or more beyond C? -/
def State.barFar (s : State) (n b : Nat) (q : BitVec 16) : Bool :=
  match s.gangOf n with
  | none => false
  | some g => !(g.bar b).passed q && decide (2 ^ 15 ≤ (q - (g.bar b).done).toNat)
/-- Has a context arrived at phase `q`? -/
def Barrier.has (x : Barrier) (rank : Nat) (q : BitVec 16) : Bool :=
  decide ((Map.getD x.at_ rank 0 - 1 - q).toNat < 2 ^ 15)
/-- An arrival; one that the unit holds already is ignored. -/
def State.barArrive (s : State) (n b : Nat) (q : BitVec 16) : State :=
  match s.gangOf n with
  | none => s
  | some g =>
    let c := s.core n
    let x := g.bar b
    if x.has c.rank q then s
    else s.setGang (dieOf n) c.gangId { g with
      bars := Map.put g.bars b { x with at_ := Map.put x.at_ c.rank (q + 1) } }

/-- A[n] of a context. -/
def Ctx.barCount (x : Ctx) (b : Nat) : BitVec 16 := Map.getD x.bars b 0
def Ctx.barStep (x : Ctx) (b : Nat) : Ctx := { x with bars := Map.put x.bars b (x.barCount b + 1) }
/-- The freeze of a barrier. -/
def barFreeze (b : Nat) : Verdict := .freeze 7 (0x400 + b) .none
/-- The illegal-operation trap with the slot's raw bits. -/
def illegalRaw (s : State) : Option TrapInfo := some ⟨2, 0, 0, BitVec.ofNat 64 s.iss.raw⟩

/-- R330: an arrival stands in a checkpoint bundle; a handler's need not. -/
def State.noCkpt (s : State) : Bool := !s.iss.ck && !s.me.inTrap

def opBara (g : Guard) (n : BitVec 10) : Op :=
  let b := n.toNat
  { guard := g, needs := barNeeds n
    chk := fun s => if 1020 ≤ b || s.noCkpt then illegalRaw s else none
    late := fun s => if s.barFar s.iss.cur b (s.me.ctx.barCount b) then barFreeze b else .go
    reqs := fun _ => some []
    run := fun s => s.onMe fun c =>
      let c := c.addAcc (.barrier n (c.ctx.barCount b)) false 0 0 0 true
      { c with ctx := c.ctx.barStep b } }
/-- Does a context wait for the phase before A[n] of barrier `b`? It does not before its first arrival. -/
def State.barWaits (s : State) (n b : Nat) : Bool :=
  match Map.find? (s.core n).ctx.bars b with
  | none => false
  | some a => !s.barPassed n b (a - 1)
def opBarw (g : Guard) (n : BitVec 10) : Op :=
  { guard := g, needs := barNeeds n
    chk := fun s => if 1020 ≤ n.toNat then illegalRaw s else none
    late := fun s => if s.barWaits s.iss.cur n.toNat then barFreeze n.toNat else .go
    run := fun s => s }
/-- BAR: BARA's arrival, and the wait stands before the next bundle. -/
def opBar (g : Guard) (n : BitVec 10) : Op :=
  let b := n.toNat
  { guard := g, needs := barNeeds n
    chk := fun s =>
      let rect := match s.gangOf s.iss.cur with | some g => recRect g.record | none => false
      if (1020 ≤ b && !rect) || s.noCkpt then illegalRaw s else none
    late := fun s => if s.barFar s.iss.cur b (s.me.ctx.barCount b) then barFreeze b else .go
    reqs := fun _ => some []
    run := fun s => s.onMe fun c =>
      let c := c.addAcc (.barrier n (c.ctx.barCount b)) false 0 0 0 true
      let c := { c with ctx := c.ctx.barStep b }
      if c.inTrap then { c with btw := { c.btw with ownWait := some n } }
      else { c with ctx := { c.ctx with barWait := some n } } }

def execBara (g : Guard) (n : BitVec 10) (s : State) := runOp (opBara g n) s
def execBarw (g : Guard) (n : BitVec 10) (s : State) := runOp (opBarw g n) s
def execBar (g : Guard) (n : BitVec 10) (s : State) := runOp (opBar g n) s

/-- The BAR whose wait stands before the core's next bundle. -/
def Core.barPending (c : Core) : Option (BitVec 10) := if c.inTrap then c.btw.ownWait else c.ctx.barWait
/-- The wait has ended. -/
def Core.barDone (c : Core) : Core :=
  if c.inTrap then { c with btw := { c.btw with ownWait := none } }
  else { c with ctx := { c.ctx with barWait := none } }

/-- MARKER_REMOVAL: the marker at the head of LQ, or of SQ; a barrier marker's removal is its arrival. -/
def State.markerGoes (s : State) (n : Nat) (sq : Bool) : Option State :=
  let c := s.core n
  match (if sq then c.sqHead else c.lqHead) with
  | none => none
  | some a =>
    if !a.kind.isMark || !s.markerFree c.accs a sq then none
    else match a.kind with
      | .barrier b p => some ((s.dropAcc n a.id).barArrive n b.toNat p)
      | _ =>
        if (if sq then a.departed else a.performed) then some (s.dropAcc n a.id)
        else some (s.setAcc n a.id fun a => if sq then { a with performed := true } else { a with departed := true })
def execMarkerRemoval (n : Nat) (sq : Bool) (s : State) : Host.Outcome State Fault Refusal :=
  .next ((s.markerGoes n sq).getD s)

/-- Is the next phase of a barrier complete? -/
def Gang.phaseDone (g : Gang) (b : Nat) : Bool :=
  g.launched && (List.range g.cores.length).all fun r => (g.bar b).has r ((g.bar b).done + 1)
def Gang.nextPhase (g : Gang) (b : Nat) : Gang :=
  { g with bars := Map.put g.bars b { g.bar b with done := (g.bar b).done + 1 } }
def State.gang (s : State) (d k : Nat) : Option Gang := Map.find? (s.die d).gangs k
/-- BARRIER_PHASE_COMPLETE. -/
def State.barCompletes (s : State) (d k b : Nat) : Option State :=
  match s.gang d k with
  | none => none
  | some g => if b < 1020 && g.phaseDone b then some (s.setGang d k (g.nextPhase b)) else none
def execBarrierPhaseComplete (d k b : Nat) (s : State) : Host.Outcome State Fault Refusal :=
  .next ((s.barCompletes d k b).getD s)

/-! ### Transit phases (R331) and router programs (R333) -/

/-- The clusters of a gang's pairs. -/
def Gang.clusters (g : Gang) : List Nat := (g.pairs.map fun p => clusterOf (2 * p)).dedup
/-- Phase cycles of a gang's cores. -/
def State.setPhase (s : State) (g : Gang) (c : Option Nat) : State :=
  g.cores.foldl (fun s n => s.setCore n { s.core n with btw := { (s.core n).btw with phase := c } }) s
/-- The wires of a gang's routers, all zero. -/
def State.quietWires (s : State) (d : Nat) (g : Gang) : State :=
  let x := s.die d
  s.setDie d { x with wires := Map.keep x.wires fun k _ => !g.clusters.contains (k / 8) }

/-- TRANSIT_PHASE_START. -/
def State.transitStarts (s : State) (d k : Nat) : Option State :=
  match s.gang d k with
  | none => none
  | some g =>
    if g.transit.isSome then none
    else match (List.range 4).find? fun j => g.phaseDone (1020 + j) with
      | none => none
      | some j =>
        let g := { g.nextPhase (1020 + j) with transit := some (j, 0) }
        some (((s.setGang d k g).setPhase g (some 0)).quietWires d g)
def execTransitPhaseStart (d k : Nat) (s : State) : Host.Outcome State Fault Refusal :=
  .next ((s.transitStarts d k).getD s)

/-- The program `j` of the router of a cluster. -/
def Die.program (x : Die) (cl j : Nat) : Program := Map.getD x.programs (cl * 4 + j) ⟨0, []⟩
/-- TRANSIT_PHASE_END: the phase has reached XLEN. -/
def State.transitEnds (s : State) (d k : Nat) : Option State :=
  match s.gang d k with
  | none => none
  | some g =>
    match g.transit with
    | none => none
    | some (j, c) =>
      let len := g.clusters.foldl (fun m cl => max m ((s.die d).program cl j).xlen) 0
      if c < len then none
      else
        let g := { g with transit := none }
        some (((s.setGang d k g).setPhase g none).quietWires d g)
def execTransitPhaseEnd (d k : Nat) (s : State) : Host.Outcome State Fault Refusal :=
  .next ((s.transitEnds d k).getD s)

/-- Does an entry name a source that there is not? -/
def badEntry (e : BitVec 16) : Bool := (List.range 5).any fun i => decide (4 < bitsAt e.toNat (1 + 3 * i) 3)
/-- R333: refused while a gang in a phase uses the router. -/
def execRouterProgramWrite (d cl k : Nat) (es : List (BitVec 16)) (s : State) : Host.Outcome State Fault Refusal :=
  let x := s.die d
  if es.any badEntry || es.isEmpty || 4096 < es.length
      || x.gangs.any (fun e => e.2.transit.isSome && e.2.clusters.contains cl) then .next s
  else .next (s.setDie d { x with
    programs := Map.put x.programs (cl * 4 + k) ⟨es.length, es.map fun e => e &&& 0xFFFE⟩ })

/-! ### Placement (R322, R323) -/

/-- The mode that a record asks for: 1 PROTECTED, 2 SPLIT. -/
def recMode (r : BitVec 512) : BitVec 2 := if recSplit r then 2 else 1
def recWin (r : BitVec 512) : BitVec 2 := (recDw r 3).extractLsb' 39 2
/-- Does the pair's mode, or its window in split mode, differ from what a record asks for? -/
def Pair.differs (x : Pair) (r : BitVec 512) : Bool :=
  x.mode != recMode r || (recSplit r && x.win != recWin r)
/-- The pairs that gangs of a die hold. -/
def Die.taken (x : Die) : List Nat := x.gangs.flatMap fun e => e.2.pairs

/-- Is a pair eligible for a record? The pairs of `free` are taken as vacated. -/
def State.eligible (s : State) (d : Nat) (r : BitVec 512) (free : List Nat) (p : Nat) : Bool :=
  let c0 := s.core (2 * p)
  let c1 := s.core (2 * p + 1)
  let x := s.pair p
  let z := s.zoneOf (2 * p)
  let now := slotAt s.time
  let heat := recField r 3 20 4
  (free.contains p || (c0.run == .idle && c1.run == .idle && !(s.die d).taken.contains p
      && (!x.differs r || (c0.quiet && c1.quiet))))
    && c0.regs.lpart == BitVec.setWidth 64 (recPart r) && c1.regs.lpart == BitVec.setWidth 64 (recPart r)
    && x.mode != 0 && !(recSplit r && (x.q0 || x.q1))
    && !s.gated d z
    && (List.range (recField r 3 24 8 + 1)).all fun k => decide (heat ≤ posIn (s.cool.entry d ((now + k) % 256)) z)

/-- The pairs of a die that the module presents. -/
def State.diePairs (s : State) (d : Nat) : List Nat := upFrom (128 * d) (4 * s.mem.shape.ncl d)
/-- The origins of a rectangle: mesh row, then column. -/
def origins (xw xh : Nat) : List (Nat × Nat) :=
  (List.range (4 - xh)).flatMap fun r => (List.range (8 - xw)).map fun c => (r, c)
/-- The pairs of a rectangle of places in the mesh, rising: none where a cluster of it is not presented (R342). -/
def State.rectPairs (s : State) (d xw xh : Nat) (o : Nat × Nat) : Option (List Nat) :=
  (((List.range (xh + 1)).flatMap fun i => (List.range (xw + 1)).map fun j => 8 * (o.1 + i) + o.2 + j).mapM
    (s.mem.shape.clusterAt d)).map fun cls => cls.flatMap fun cl => upFrom (128 * d + 4 * cl) 4
/-- The rectangles of a record's shape. -/
def State.rects (s : State) (d : Nat) (r : BitVec 512) : List (List Nat) :=
  (origins (recField r 3 32 3) (recField r 3 35 2)).filterMap (s.rectPairs d (recField r 3 32 3) (recField r 3 35 2))
/-- The eligible pairs of a die that no other record has reserved. -/
def State.openPairs (s : State) (d : Nat) (r : BitVec 512) (reserved free : List Nat) : List Nat :=
  (s.diePairs d).filter fun p => !reserved.contains p && s.eligible d r free p
/-- The pairs on which a record is placed, those that set-aside records have reserved left out. -/
def State.placement (s : State) (d : Nat) (r : BitVec 512) (reserved free : List Nat) : Option (List Nat) :=
  let ok := s.openPairs d r reserved free
  if recRect r then (s.rects d r).find? fun ps => ps.all ok.contains
  else
    let ps := ok.take (recField r 3 0 7 + 1)
    if ps.length = recField r 3 0 7 + 1 then some ps else none
/-- The pairs that a record set aside reserves: those that it has reserved already, `old`, and eligible ones that it could use,
up to its need; of rectangles, those of the one that holds the most of them (DESIGN CHOICE, log 32). -/
def State.reservation (s : State) (d : Nat) (r : BitVec 512) (others old : List Nat) : List Nat :=
  let ok := s.openPairs d r others []
  if recRect r then
    match lowest (fun ps : List Nat => 512 - (ps.filter ok.contains).length) ((s.rects d r).filter fun ps => old.all ps.contains) with
    | none => old
    | some ps => old ++ ps.filter fun p => ok.contains p && !old.contains p
  else old ++ (ok.filter fun p => !old.contains p).take (recField r 3 0 7 + 1 - (old.filter ok.contains).length)

/-- The cores of a gang's contexts by rank. -/
def coresFor (r : BitVec 512) (ps : List Nat) : List Nat :=
  if recSplit r then ps.flatMap fun p => [2 * p, 2 * p + 1] else ps.map fun p => 2 * p

/-- R240, R323: the die controller writes PAIRMODE where the mode differs. -/
def State.setModes (s : State) (r : BitVec 512) (ps : List Nat) : State :=
  ps.foldl (fun s p =>
    if !(s.pair p).differs r then s
    else
      let clear (n : Nat) (s : State) : State := s.setCore n { s.core n with arr := Arr.zero, backs := [] }
      let s := clear (2 * p + 1) (clear (2 * p) s)
      { s with pairs := Map.put s.pairs p { s.pair p with mode := recMode r, win := recWin r } }) s

/-- What the dispatcher selects from: a record of a queue, or a gang that has been saved, with its record (R322, R329). -/
inductive Cand where
  | record (q : Nat) (r : QRec)
  | saved (k : Nat) (g : Gang)
  deriving DecidableEq, Repr
def Cand.bits (c : Cand) : BitVec 512 := match c with | .record _ r => r.bits | .saved _ g => g.record
/-- Its effective priority. -/
def Cand.level (c : Cand) (now : Nat) : Nat :=
  match c with | .record _ r => effPrio r.prio r.time now | .saved _ g => effPrio (recPrio g.record) g.time now
/-- What names it in the set-aside list: its grid, and the gang. -/
def Cand.name (c : Cand) : Option Nat × Option Nat :=
  match c with | .record _ r => (r.grid, none) | .saved k g => (some g.grid, some k)
def Aside.name (a : Aside) : Option Nat × Option Nat := (some a.grid, a.gang)
/-- A launched gang whose contexts have all been saved, or have halted, and which has no pairs. -/
def Gang.away (g : Gang) : Bool := g.launched && !g.saved.isEmpty && g.pairs.isEmpty
/-- The records of a die's dispatch queues, and its saved gangs. -/
def Die.cands (x : Die) : List Cand :=
  ((x.queues.filter fun e => !e.2.isPop).flatMap fun e => e.2.recs.map fun r => Cand.record e.1 r)
    ++ (x.gangs.filter fun e => e.2.away).map fun e => Cand.saved e.1 e.2
/-- The order of R322 over the dispatch queues, as a number; a saved gang stands at the front of its level (R329). -/
def Die.order (x : Die) (now : Nat) (c : Cand) : Nat :=
  let p := c.level now
  match c with
  | .saved _ g => (63 - p) * 512 * 2 ^ 48 + min g.time (2 ^ 48 - 1)
  | .record q r => ((63 - p) * 512 + 256 + (q + 255 - Map.getD x.robin p 255) % 256) * 2 ^ 48 + r.seq
/-- Does it stand in the set-aside list? -/
def Die.isAside (x : Die) (c : Cand) : Bool := x.aside.any fun a => a.name == c.name
/-- The pairs reserved for others that are set aside. -/
def Die.reservedBut (x : Die) (c : Cand) : List Nat := (x.aside.filter fun a => a.name != c.name).flatMap (·.pairs)
/-- The pairs that it has reserved. -/
def Die.reservedFor (x : Die) (c : Cand) : List Nat := (x.aside.filter fun a => a.name == c.name).flatMap (·.pairs)
/-- A die without its place in the set-aside list. -/
def Die.unset (x : Die) (c : Cand) : Die := { x with aside := x.aside.filter fun a => a.name != c.name }

/-- A record's next instance becomes a gang; the record leaves its queue with its last instance. -/
def State.placeRecord (s : State) (d q : Nat) (r : QRec) (g : Nat) (ps : List Nat) : State :=
  match s.grid d g with
  | none => s
  | some x =>
    let s := s.setGrid d g { x with placed := x.placed + 1 }
    let s := if x.placed + 1 < x.total then s else s.takeRec d q r.seq
    let y := s.die d
    let gang : Gang :=
      { record := x.record, grid := g, inst := x.placed, pairs := ps, cores := coresFor x.record ps, launched := false
        bars := [], transit := none, slot := slotAt s.time, holds := true, preempt := none, saved := []
        gen := 0, time := r.time, left := [], done := [] }
    s.setDie d { y with
      robin := Map.put y.robin (effPrio r.prio r.time s.time) q
      gangs := Map.put y.gangs y.nextGang gang
      nextGang := if y.nextGang = 65535 then 1 else y.nextGang + 1 }
/-- A selected record, or a saved gang, is placed on pairs; its reservations lapse.  A saved gang holds a reservation anew (R362). -/
def State.placeOn (s : State) (d : Nat) (c : Cand) (ps : List Nat) : State :=
  let s := (s.setModes c.bits ps).setDie d ((s.setModes c.bits ps).die d |>.unset c)
  match c with
  | .record q r => (match r.grid with | some g => s.placeRecord d q r g ps | none => s)
  | .saved k g => s.setGang d k { g with pairs := ps, cores := coresFor g.record ps, slot := slotAt s.time, holds := true }
/-- Place it if it can be placed now. -/
def State.tryPlace (s : State) (d : Nat) (c : Cand) : Option State :=
  (s.placement d c.bits ((s.die d).reservedBut c) []).map fun ps => s.placeOn d c ps

/-- Insert by a number, keep the list sorted. -/
def insertBy {α : Type} (f : α → Nat) (x : α) (xs : List α) : List α :=
  match xs with
  | [] => [x]
  | y :: rest => if f x ≤ f y then x :: y :: rest else y :: insertBy f x rest
def sortBy {α : Type} (f : α → Nat) (xs : List α) : List α := xs.foldr (insertBy f) []

/-- R329: the gangs whose pre-emption, lowest CPRIO first, would let it be placed. -/
def State.victims (s : State) (d : Nat) (c : Cand) : List Nat :=
  let x := s.die d
  let lead := bitsAt x.schctl.toNat 8 8
  let able := sortBy (fun k : Nat × Gang => recPrio k.2.record)
    (x.gangs.filter fun k => k.2.launched && k.2.saved.isEmpty && decide (recPrio k.2.record + lead ≤ c.level s.time))
  if !x.schctl.getLsbD 0 then []
  else
    match (List.range (able.length + 1)).find? fun k =>
        (s.placement d c.bits (x.reservedBut c) ((able.take k).flatMap fun g => g.2.pairs)).isSome with
    | some k => (able.take k).map (·.1)
    | none => []
/-- R323: what cannot be placed reserves pairs, and the gangs that stand in its way are asked to make room; whether that has
changed anything. -/
def State.reserve (s : State) (d : Nat) (c : Cand) : State × Bool :=
  let x := s.die d
  let old := x.reservedFor c
  let ps := s.reservation d c.bits (x.reservedBut c) old
  let asked := (s.victims d c).filter fun k => match s.gang d k with | some y => y.preempt.isNone | none => false
  let a : Aside := ⟨c.name.1.getD 0, c.name.2, ps⟩
  let t := s.setDie d { x with
    aside := if x.isAside c then x.aside.map fun b => if b.name == c.name then a else b else x.aside ++ [a] }
  (asked.foldl (fun s k => s.preempt d k 0 (c.level s.time)) t, !x.isAside c || ps != old || !asked.isEmpty)
/-- R323: what is set aside is considered again, in order, before anything else: the first that can be placed is; what stands before
it reserves the pairs that have become eligible. -/
def State.reconsider (s : State) (d : Nat) (cs : List Cand) : State × Bool :=
  match cs with
  | [] => (s, false)
  | c :: rest =>
    match s.tryPlace d c with
    | some t => (t, true)
    | none =>
      let r := s.reserve d c
      let t := r.1.reconsider d rest
      (t.1, r.2 || t.2)

/-- DISPATCH_PLACEMENT: what is set aside again, in order; else the best of the others is placed or set aside. -/
def State.dispatches (s : State) (d : Nat) : Option State :=
  let x := s.die d
  let r := s.reconsider d (sortBy (x.order s.time) (x.cands.filter x.isAside))
  if r.2 then some r.1
  else (lowest (x.order s.time) (x.cands.filter fun c => !x.isAside c)).map fun c => (s.tryPlace d c).getD (s.reserve d c).1
def execDispatchPlacement (d : Nat) (s : State) : Host.Outcome State Fault Refusal :=
  .next ((s.dispatches d).getD s)

/-! ### Launch and completion (R324, R325) -/

/-- The registers of a launched context. -/
def launchRegs (r : BitVec 512) (rank size inst total : Nat) : Regs :=
  let put (q : Regs) (k : GReg) (x : Word) : Regs := q.writeG k ⟨x, true, false⟩
  put (put (put (put (put (put (put Regs.zero 1 (recDw r 1)) 2 (recDw r 4)) 3 (recDw r 5)) 4 (BitVec.ofNat 64 rank))
    5 (BitVec.ofNat 64 size)) 6 (BitVec.ofNat 64 inst)) 7 (BitVec.ofNat 64 total)

/-- A core with the context that a launch gives it: everything of an earlier context is gone, but for what a SAVE has left on its
way (R233, R326). -/
def Core.launch (c : Core) (x : Ctx) (r : CoreRegs) : Core :=
  { c with
    run := .run, sup := false, ctx := x, entry := x, regs := r
    trap := c.trap.setIntrap false
    loc := { c.loc with wbuf := [] }
    accs := c.accs.filter Acc.stays
    replies := [], held := [], owns := [], arr := Arr.zero, backs := []
    fetch := { c.fetch with loopBuf := [], walks := [], misses := [], failed := [], direct := none, pfi := [] }
    btw := { Between.zero with
      seqno := c.btw.seqno, nextId := c.btw.nextId, seg := c.btw.seg + 1, commits := c.btw.commits + 1
      rolls := c.btw.rolls }
    recov := ⟨0, 0, 0, false, false⟩, saving := none, pending := [] }

/-- GANG as Table SCH-11 lays it out. -/
def gangWord (k size rank : Nat) : Word := BitVec.ofNat 64 (k % 65536 * 2 ^ 48 + size % 512 * 512 + rank % 512)

/-- One context of a gang starts. -/
def State.launchOne (s : State) (d k : Nat) (g : Gang) (total job rank n : Nat) : State :=
  let c := s.core n
  let asid := recAsid g.record
  let x := { Ctx.reset n with
    pc := BitVec.ofNat 64 (recField g.record 0 5 51 * 32)
    regs := launchRegs g.record rank g.cores.length g.inst total
    thermal := some (s.thermal d), priv := false }
  let r := { c.regs with
    part := recPart g.record, asid := asid, cprio := BitVec.ofNat 6 (recPrio g.record)
    genroot := s.mem.genOf asid, gang := gangWord k g.cores.length rank, ctxId := s.nextCtx, thctl := 0, job := job }
  { s.setCore n (c.launch x r) with nextCtx := s.nextCtx + 1 }

/-- Tasks bound to a generation. -/
def taskKey (asid : BitVec 12) (gen : Nat) : Nat := asid.toNat * 4096 + gen
/-- A task of a gang's generation begins, or has ended (R325). -/
def State.addTask (s : State) (d : Nat) (asid : BitVec 12) (gen : Nat) : State :=
  let y := s.die d
  let key := taskKey asid gen
  s.setDie d { y with tasks := Map.put y.tasks key (Map.getD y.tasks key 0 + 1) }
def State.dropTask (s : State) (d : Nat) (asid : BitVec 12) (gen : Nat) : State :=
  let y := s.die d
  let key := taskKey asid gen
  s.setDie d { y with tasks := Map.put y.tasks key (Map.getD y.tasks key 0 - 1) }
/-- GANG_LAUNCH: once the pairs' cores are idle and their arrays at rest; not on a pair that has gone OFFLINE (R240), and in the
record's mode where it has been changed. -/
def State.gangStarts (s : State) (d k : Nat) : Option State :=
  match s.gang d k with
  | none => none
  | some g =>
    let fit (p : Nat) : Bool :=
      let x := s.pair p
      (s.core (2 * p)).quiet && (s.core (2 * p + 1)).quiet && x.mode != 0 && !(recSplit g.record && (x.q0 || x.q1))
    if g.launched || !g.pairs.all fit then none
    else
      let (total, job) := match s.grid d g.grid with | some x => (x.total, x.job) | none => (1, 0)
      let asid := recAsid g.record
      let gen := bitsAt (s.mem.genOf asid).toNat 52 12
      let s := ((s.setModes g.record g.pairs).addTask d asid gen).setGang d k { g with launched := true, gen := gen }
      some (g.cores.zipIdx.foldl (fun s e => s.launchOne d k g total job e.2 e.1) s)
def execGangLaunch (d k : Nat) (s : State) : Host.Outcome State Fault Refusal :=
  .next ((s.gangStarts d k).getD s)

/-- The cores of a gang's contexts, by rank, of those ranks that have not given up their core. -/
def Gang.standing (g : Gang) : List (Nat × Nat) := g.cores.zipIdx.filter fun e => !g.saved.contains e.2 && !g.done.contains e.2
/-- Has an access that a context left behind been performed? -/
def State.leftDone (s : State) (e : Nat × Nat) : Bool :=
  match s.acc e.1 e.2 with | some a => !a.kind.isWrite || s.accDone a .module | none => true
/-- Has the context of core `n` completed HALT with every store and atomic of it performed? -/
def State.ended (s : State) (n : Nat) : Bool :=
  (s.core n).run == .stopped .halted && (s.core n).accs.all fun a => !a.kind.isWrite || s.accDone a .module
/-- A halted core is idle again. -/
def State.idleCore (s : State) (n : Nat) : State := s.setCore n { s.core n with run := .idle }
/-- A gang is gone. -/
def State.dropGang (s : State) (d k : Nat) : State :=
  let y := s.die d
  s.setDie d { y with gangs := Map.del y.gangs k }
/-- GANG_COMPLETION. -/
def State.gangEnds (s : State) (d k : Nat) : Option State :=
  match s.gang d k with
  | none => none
  | some g =>
    if !g.launched || !g.saved.isEmpty || !(g.standing.all fun e => s.ended e.1) || !g.left.all s.leftDone then none
    else
      let s := g.standing.foldl (fun s e => s.idleCore e.1) s
      let s := (s.dropTask d (recAsid g.record) g.gen).dropGang d k
      match s.grid d g.grid with
      | none => some s
      | some x => some (s.setGrid d g.grid { x with finished := x.finished + 1 })
def execGangCompletion (d k : Nat) (s : State) : Host.Outcome State Fault Refusal :=
  .next ((s.gangEnds d k).getD s)

/-- R329: a gang whose contexts have all been saved or have halted gives up its pairs. -/
def State.gangLeft (s : State) (d k : Nat) : State :=
  match s.gang d k with
  | none => s
  | some g =>
    if g.saved.isEmpty || !(g.standing.all fun e => s.ended e.1) then s
    else
      let t := g.standing.foldl (fun s e => s.idleCore e.1) s
      t.setGang d k { g with done := g.done ++ g.standing.map (·.2), pairs := [], holds := false, preempt := none }

/-- A core whose context is gone. -/
def Core.abandoned (c : Core) : Core :=
  { c with
    run := .idle, sup := true, held := [], owns := [], replies := [], pending := [], saving := none
    accs := c.accs.filter Acc.stays
    loc := { c.loc with wbuf := [] }
    arr := Arr.zero, backs := [], recov := ⟨0, 0, 0, false, false⟩
    fetch := { c.fetch with loopBuf := [] } }
/-- Has a core stopped for good? -/
def Core.fallen (c : Core) : Bool :=
  match c.run with | .stopped .retired | .stopped .doubleTrap | .stopped .lost => true | _ => false
/-- Has a core an access on its way whose answer would come back to its context? -/
def Core.owedReply (c : Core) : Bool := c.accs.any fun a => !a.held && !a.stays && !a.kind.isMark
/-- A gang that cannot complete, since a core of it has stopped for good, is abandoned by the supervisor (R172, R325; log 32).  Its
grid stays incomplete. -/
def State.gangAbandoned (s : State) (d k : Nat) : Option State :=
  match s.gang d k with
  | none => none
  | some g =>
    let ns := g.standing.map (·.1)
    if !g.launched || !(ns.any fun n => (s.core n).fallen) || ns.any fun n => (s.core n).owedReply then none
    else
      let s := ns.foldl (fun s n => s.setCore n (s.core n).abandoned) (s.settleAll d)
      let s := (s.dropTask d (recAsid g.record) g.gen).dropGang d k
      some { s with saves := Map.keep s.saves fun a r =>
        !(bitsAt r.regs.gang.toNat 48 16 == k && s.mem.shape.homeDie a == d) }

/-- GRID_COMPLETION: one JOIN, as a user-mode source with the record's ASID and CPRIO. -/
def State.gridEnds (s : State) (d g : Nat) : Option State :=
  match s.grid d g with
  | none => none
  | some x =>
    if !x.released || x.waiting.isSome || x.finished < x.total then none
    else
      let y := s.die d
      let t := s.setDie d { y with grids := Map.del y.grids g }
      let addr := recAddr x.record 2
      let asid := recAsid x.record
      let waits := s.dieHeld asid addr 16 || (match s.dieLeaf asid addr with
        | some t => if s.remote (leafHome t) then !s.fab.open_ (agentDie d) (leafHome t) 0
          else s.joinHeld (t.pa addr) (pteKey t.hi) asid
        | none => false)
      if addr = 0 then some t
      else if waits then none
      else some (t.dieJoin d addr ⟨true, asid, BitVec.ofNat 6 x.prio, x.job⟩)
def execGridCompletion (d g : Nat) (s : State) : Host.Outcome State Fault Refusal :=
  .next ((s.gridEnds d g).getD s)

/-! ### Pre-emption (R329) -/

/-- PREEMPTION_REQUEST: kind 0 is the dispatcher's own, and holds only for a gang that stands in the way of what is set aside. -/
def execPreemptionRequest (d k : Nat) (kind : BitVec 2) (prio : BitVec 6) (s : State) :
    Host.Outcome State Fault Refusal :=
  let x := s.die d
  let asks := (x.cands.filter x.isAside).any fun c => c.level s.time == prio.toNat && (s.victims d c).contains k
  if kind = 0 then .next (if asks then s.preempt d k 0 prio.toNat else s)
  else .next (s.preempt d k kind.toNat 0)

/-- Has the context of a core declined the pre-emption that was asked of it: it runs on, outside the handler of the request? -/
def Core.declined (c : Core) : Bool :=
  c.resident && c.saving.isNone && !(c.inTrap && c.trap.code == 19) && !c.pending.any fun e => e.code == 19
/-- PREEMPTION_REPEAT: a request that a context has declined is repeated after 4096 ticks. -/
def State.preemptAgain (s : State) (d k : Nat) : Option State :=
  match s.gang d k with
  | none => none
  | some g =>
    match g.preempt with
    | none => none
    | some (w, t) =>
      let ns := (g.standing.map (·.1)).filter fun n => (s.core n).declined
      if s.time < t + 4096 || ns.isEmpty then none
      else
        let s := s.setGang d k { g with preempt := some (w, s.time) }
        some (ns.foldl (fun (s : State) n => s.post n ⟨19, 0, w⟩) s)
def execPreemptionRepeat (d k : Nat) (s : State) : Host.Outcome State Fault Refusal :=
  .next ((s.preemptAgain d k).getD s)

/-! ### Queue descriptors (R320) and droop (R335) -/

/-- QUEUE_DESCRIPTOR_WRITE: refused while the queue is enabled and holds records; a LOG2 out of its range is refused. -/
def execQueueDescriptorWrite (d q : Nat) (dw0 dw1 dw2 : Word) (s : State) : Host.Outcome State Fault Refusal :=
  let x := s.queue d q
  let log2 := dw1.extractLsb' 0 5
  if (x.en && !x.recs.isEmpty) || log2.toNat < 6 || 20 < log2.toNat then .next s
  else .next (s.setQueue d q { x with
    dw0 := dw0 &&& 0xE000000000000FFF
    base := dw1 &&& 0x00FFFFFFFFFFFFC0
    log2 := log2
    poplim := dw2.extractLsb' 0 16 ++ dw1.extractLsb' 56 8
    drop := x.drop &&& ~~~(dw2.extractLsb' 16 16) })

/-- DROOP: every clock of the die stretches; DSTR counts the stretched cycles. -/
def execDroop (d cycles : Nat) (s : State) : Host.Outcome State Fault Refusal :=
  let x := s.die d
  .next (s.setDie d { x with dstr := x.dstr + BitVec.ofNat 64 cycles })

end Sys2Proof.Machine
end

