-- ==== Sys2Proof/Machine/Reply.lean ====
section
/-! DEFINITION. Replies of variable latency (R101) and the requests that only the die answers: XLATE (R299), TAGA and
TAGQ (R265), FLOWQ (R368), POP (R328); a committed TAGF (R276). -/

namespace Sys2Proof.Machine

/-- R299: XLATE's reply of failure. -/
def xlateFails (x : Nat) : Word := BitVec.ofNat 64 (2 ^ 63 + x)
/-- Its reply from a translation. -/
def State.xlateWord (s : State) (va : Word) (acc : Access) (asid : BitVec 12) (user : Bool) (t : Tlb) : Word :=
  let pa := t.pa va.toNat
  let k : AccessType := match acc with | .read => .load | .write => .store | .exec => .fetch
  match s.mem.checkLeaf k user asid t.lo t.hi pa with
  | some x => xlateFails x
  | none => BitVec.ofNat 64
      (t.sz * 2 ^ 61 + (pteSeal t.lo).toNat * 2 ^ 60 + (pteKey t.hi).toNat * 2 ^ 52
        + (if user then 0 else pa / 4096 % 2 ^ 40 * 4096) + (pteCbf t.lo).toNat * 2 ^ 11 + (pteC t.lo).toNat * 2 ^ 10
        + pteRc t.lo % 4 * 2 ^ 8 + (pteX t.lo).toNat * 2 ^ 4 + (pteW t.lo).toNat * 2 ^ 3 + (pteR t.lo).toNat * 2 ^ 2)
/-- A walk that found nothing has been told to the item that waited for it. -/
def State.told (s : State) (n id : Nat) : State :=
  let c := s.core n
  s.setCore n { c with fetch := { c.fetch with gone := c.fetch.gone.filter fun g => g.1 != id } }

/-- Write a reply and take its access off the list. -/
def State.writeReply (s : State) (n : Nat) (a : Acc) (d : Dst) : State :=
  let s := s.dropAcc n a.id
  s.setCore n ((s.core n).answer ⟨a.id, d, a.own⟩ a.seg)

/-- XLATE's answer: it waits for a walk where no cache holds the translation, and for a TLBI of its own core (R297). -/
def State.xlateAnswer (s : State) (n : Nat) (a : Acc) (d : GReg) (va : Word) (acc : Access) (w : Walk) (user : Bool) : Option State :=
  if !(s.core n).fetch.tlbis.isEmpty then none
  else match s.pageOf n a.id w.asid w.gen va.toNat with
    | .page t => some ((s.told n a.id).writeReply n a (.g d (s.xlateWord va acc w.asid user t) false))
    | .fault x => some ((s.told n a.id).writeReply n a (.g d (xlateFails x) false))
    | .walk v => s.askWalk n a.id v
/-- A departed request that the die or a unit answers: none while it waits. -/
def State.answerOf (s : State) (n : Nat) (a : Acc) : Option State :=
  if !a.departed then none
  else match a.kind with
    | .xlate d va acc w user => s.xlateAnswer n a d va acc w user
    | .tagq d t => some (s.writeReply n a (.g d (s.tagStatus n t) false))
    | .flowq d x => some (s.writeReply n a (.g d (s.flowq n x) false))
    | .taga d ds asid =>
      let r := s.tagAlloc n ds asid
      some (r.1.writeReply n a (.g d r.2 false))
    | .pop d q ts nb _ asid => (s.popServe n a q ts nb asid).map fun r => r.1.writeReply n a (.g d r.2 false)
    | _ => none

/-- Is an access one that the die or a unit answers? -/
def AccKind.asksDie (k : AccKind) : Bool :=
  match k with | .xlate .. | .tagq .. | .flowq .. | .taga .. | .pop .. => true | _ => false

/-- VARIABLE_REPLY: the `k`-th of the replies on their way, then of the departed requests to the die. -/
def State.repliesNow (s : State) (n k : Nat) : Option State :=
  let c := s.core n
  match c.replies[k]? with
  | some r =>
    let seg := match s.acc n r.id with | some a => a.seg | none => c.btw.seg
    let s := s.dropAcc n r.id
    let c := s.core n
    some (s.setCore n ({ c with replies := c.replies.eraseIdx k }.answer r seg))
  | none =>
    match (c.accs.filter fun a => a.departed && a.kind.asksDie)[k - c.replies.length]? with
    | some a => s.answerOf n a
    | none => none
def execVariableReply (n k : Nat) (s : State) : Host.Outcome State Fault Refusal :=
  .next ((s.repliesNow n k).getD s)

/-- TAG_FREE: the oldest committed TAGF of a core that names the tag acts at its meeting unit. -/
def State.tagFrees (s : State) (t : BitVec 32) : Option State :=
  s.listed.findSome? fun n =>
    (s.core n).accs.findSome? fun a =>
      match a.kind with
      | .tagf x => if a.departed && x == t then some ((s.dropAcc n a.id).freeTagOf (s.core n).regs.ctxId t) else none
      | _ => none
def execTagFree (t : BitVec 32) (s : State) : Host.Outcome State Fault Refusal := .next ((s.tagFrees t).getD s)

end Sys2Proof.Machine
end

