-- ==== Sys2Proof/Machine/Control.lean ====
section
/-! DEFINITION. Control flow: transfers, the branch tree, the loop, prefetch, traps by instruction, HALT and
the return from a trap (R130 to R147, R222 to R226). -/

namespace Sys2Proof.Machine

/-! ### The end of the issuing bundle's cycle -/

/-- The core cycle of the bundle at the program counter ends: results land, the cycle counts (a replay's has
counted already, R226), committed stores drain, a protected pair's commit comes nearer. -/
def State.closeCycleOf (s : State) (pc : Word) : State :=
  let replay := s.iss.ov.isSome
  let c := s.me
  let reqs := s.iss.reqs ++ (if replay then c.ctx.owed else [])
  let c1 := (if replay then c else c.count).endCycle (some pc) s.iss.sysw reqs
  { s.setMe ((c1.drain s.tick).closeDue) with iss := { s.iss with reqs := [], sysw := [] } }

def State.closeCycle (s : State) : State := s.closeCycleOf s.me.ctx.pc

/-- The program counter has moved with the bundle at hand. -/
def State.moved (s : State) : State := { s with iss := { s.iss with advanced := true } }
/-- The bundle's cycle has ended with its effect. -/
def State.over (s : State) : State := { s with iss := { s.iss with advanced := true, ended := true } }

/-! ### Idle runs (R146) -/

/-- One idle cycle: no bundle issues, and every result in flight advances. -/
def Core.idleCycle (c : Core) (tick : Nat) : Core := ((c.count.endCycle none [] []).drain tick).closeDue

/-- After an idle cycle, `left` of the run are to come. -/
def Core.idled (c : Core) (left : Nat) : Core :=
  if left = 0 then
    let c := c.pass
    { c with ctx := { c.ctx with idleRun := 0 }, btw := { c.btw with idle := 0 } }
  else { c with ctx := { c.ctx with idleRun := c.ctx.idleRun + 1 }, btw := { c.btw with idle := left } }

/-- An N bundle: its first idle cycle after those that a trap has recorded; the turns that follow run the
others. -/
def execNop (count : BitVec 12) (s : State) : Host.Outcome State Fault Refusal :=
  let c := s.me
  .next (s.setMe ((c.idleCycle s.tick).idled (count.toNat - c.ctx.idleRun))).over

/-! ### Transfers (R131 to R134) -/

/-- R132: the transfer stands in a delay bundle; a check of item 6 of R221 (DESIGN CHOICE, log 33). -/
def inDelay (s : State) : Option TrapInfo :=
  if s.me.ctx.seqr.pend ≠ 0 then some ⟨2, 0, 0, BitVec.ofNat 64 s.iss.raw⟩ else none

/-- R133: a computed target must be aligned to a bundle. -/
def badTarget (x : Word) : Option TrapInfo := if x.toNat % 32 ≠ 0 then some ⟨6, 0, 0, x⟩ else none

/-- A taken transfer to `x`. -/
def Core.jump (c : Core) (time : Nat) (x : Word) : Core :=
  (c.goto (transfer c.ctx.seqr c.ctx.pc x)).traced time 1 0 x

/-- R134: a transfer with its link register: a + 96, latency 1. -/
def State.take (s : State) (link : Option GReg) (x : Word) : State :=
  let a := s.me.ctx.pc
  let s := match link with | some d => s.send 1 (.g d (a + 96) false) | none => s
  (s.onMe fun c => c.jump s.time x).moved

/-- A displacement in bundles from the bundle at hand. -/
def State.label (s : State) (disp : BitVec 30) : Word :=
  s.me.ctx.pc + BitVec.ofInt 64 (32 * disp.toInt)

/-- A plain transfer: sources, link, and target. -/
def jumpOp (g : Guard) (srcs : List Src) (link : Option GReg) (f : State → Word) (checked : Bool) : Op :=
  { guard := g, srcs := srcs, gd := link
    chk := fun s => (inDelay s).or (if checked then badTarget (f s) else none)
    cap := fun s => (f s, 0, 0)
    run := fun s => s.take link (f s) }

def opBr (g : Guard) (disp : BitVec 30) : Op := jumpOp g [] none (fun s => s.label disp) false
def opBri (g : Guard) (a : GSrc) : Op := jumpOp g [.g a] none (fun s => s.opA a) true
def opCall (g : Guard) (d : GReg) (disp : BitVec 30) : Op :=
  jumpOp g [] (some d) (fun s => s.label disp) false
def opCalli (g : Guard) (d : GReg) (a : GSrc) : Op := jumpOp g [.g a] (some d) (fun s => s.opA a) true
def opRet (g : Guard) (a : GSrc) : Op := jumpOp g [.g a] none (fun s => s.opA a) true

def execBr (g : Guard) (disp : BitVec 30) (s : State) := runOp (opBr g disp) s
def execBri (g : Guard) (a : GSrc) (s : State) := runOp (opBri g a) s
def execCall (g : Guard) (d : GReg) (disp : BitVec 30) (s : State) := runOp (opCall g d disp) s
def execCalli (g : Guard) (d : GReg) (a : GSrc) (s : State) := runOp (opCalli g d a) s
def execRet (g : Guard) (a : GSrc) (s : State) := runOp (opRet g a) s

/-! ### The branch tree (R135) -/

/-- The leaf that four predicates reach. -/
def leafOf (w x y z : Bool) : Nat :=
  if !w then (if !x then 0 else 1) else if !y then 2 else if !z then 3 else 4

/-- The address of the table entry. -/
def State.entryAt (s : State) (a : GSrc) (pw px py pz : PReg) : Word :=
  s.opA a + BitVec.ofNat 64 (8 * leafOf (s.opP pw) (s.opP px) (s.opP py) (s.opP pz))

/-- R133, R135: BRT stands in no delay bundle, and A is aligned to 64 bytes; otherwise no entry is read. -/
def State.treeBad (s : State) (a : GSrc) : Option TrapInfo :=
  (inDelay s).or (if (s.opA a).toNat % 64 ≠ 0 then some ⟨6, 0, 0, s.opA a⟩ else none)
/-- R101, R135: BRT waits for its entry as for an empty source: for the translation, then for the data.  R227 and R228 do
not say what TINFO<63:8> of a watchdog trap holds in that wait: here the entry's address without its low byte, under
reason 1 (DESIGN CHOICE, log 33). -/
def State.entryAsk (s : State) (va : Word) : Verdict :=
  match s.translate s.me .load va with
  | .fault _ => .go
  | .miss => .freeze 3 (va.toNat % 2 ^ 56 / 256) .none
  | .hit pa t =>
    if s.me.btw.brt.isSome then .go else .freeze 1 (va.toNat % 2 ^ 56 / 256) (.entry pa t)
/-- R135: an entry that came with uncorrectable data starts recovery.  The TINFO of the trap that follows a
second one is a free value (log 13). -/
def State.entryBad (s : State) : Option TrapInfo :=
  match s.me.btw.brt with | some (_, true) => some ⟨10, 0, 0, Config.entryInfo⟩ | _ => none
/-- R133: the target that has come is aligned. -/
def State.entryTarget (s : State) : Option TrapInfo :=
  match s.me.btw.brt with | some (x, false) => badTarget x | _ => none
/-- R135: a fault of the translation refuses the bundle. -/
def State.entryFault (s : State) (va : Word) : Verdict :=
  match s.translate s.me .load va with | .fault sub => .trap ⟨7, sub, 0, va⟩ | _ => .go

/-- BRT. -/
def opBrt (g : Guard) (a : GSrc) (pw px py pz : PReg) : Op :=
  let va (s : State) := s.entryAt a pw px py pz
  { guard := g, srcs := [.g a]
    ask := fun s => if (s.treeBad a).isSome then .go else s.entryAsk (va s)
    bad := fun s => s.entryBad
    chk := fun s => (s.treeBad a).or s.entryTarget
    late := fun s => s.entryFault (va s)
    reqs := fun s => some (gBytes (s.opA a))
    run := fun s =>
      let x := match s.me.btw.brt with | some e => e.1 | none => 0
      let leaf := leafOf (s.opP pw) (s.opP px) (s.opP py) (s.opP pz)
      let s := s.send 1 (.leaf leaf)
      (s.onMe fun c => { c with btw := { c.btw with brt := none } }).take none x }

def execBrt (g : Guard) (a : GSrc) (pw px py pz : PReg) (s : State) := runOp (opBrt g a pw px py pz) s

/-! ### The loop (R139, R140) and prefetch (R141) -/

/-- LBM. -/
def opLbm (g : Guard) (a : GSrc) (n : BitVec 6) : Op :=
  { guard := g, srcs := [.g a]
    chk := fun s => (inDelay s).or
      (if s.me.ctx.seqr.loop then some ⟨2, 0, 0, BitVec.ofNat 64 s.iss.raw⟩ else none)
    run := fun s =>
      let count := (s.opA a).extractLsb' 0 32
      (s.onMe fun c =>
        let c := c.goto (lbmStart c.ctx.seqr c.ctx.pc (n.toNat + 1) count)
        { c with fetch := { c.fetch with loopBuf := [] } }).moved }

/-- PFI: the lines asked for; the fetch path drops what it cannot bring in. -/
def opPfi (g : Guard) (n : BitVec 5) (disp : BitVec 30) : Op :=
  { guard := g
    run := fun s =>
      let a := alignDown (s.label disp).toNat 128
      s.onMe fun c => { c with fetch := { c.fetch with
        pfi := c.fetch.pfi ++ [(List.range (n.toNat + 1)).map fun k => a + 128 * k] } } }

def execLbm (g : Guard) (a : GSrc) (n : BitVec 6) (s : State) := runOp (opLbm g a n) s
def execPfi (g : Guard) (n : BitVec 5) (disp : BitVec 30) (s : State) := runOp (opPfi g n disp) s

/-! ### TRAP and BRK (R142) -/

/-- A completed trap at the bundle at hand, whose effect is done: its cycle ends first. -/
def State.completed (s : State) (t : TrapInfo) : State :=
  let c := s.me
  let w : TrapAt := { pc := c.ctx.pc, seqr := c.ctx.seqr, done := true, xfer := none, idle := 0 }
  let s := s.closeCycle.onMe fun c => { c with btw := { c.btw with ckpted := false } }
  (s.trapWith s.iss.cur t w).over

def opTrap (g : Guard) (code : BitVec 16) : Op :=
  { guard := g, run := fun s => s.completed ⟨18, 0, 0, code.setWidth 64⟩ }
def opBrk (g : Guard) (code : BitVec 16) : Op :=
  { guard := g, run := fun s => s.completed ⟨17, 0, 0, code.setWidth 64⟩ }

def execTrap (g : Guard) (code : BitVec 16) (s : State) := runOp (opTrap g code) s
def execBrk (g : Guard) (code : BitVec 16) (s : State) := runOp (opBrk g code) s

/-! ### HALT (R143) -/

/-- R143 in a handler, steps 2 and 3, after the commit: the capture record goes, the parked replies are written, and the
kept results join the handler's, to land with them. -/
def Core.endTrapped (c : Core) : Core :=
  let c := { c with ctx := { c.ctx with caph := 0 } }.unpark
  { c with ctx := { c.ctx with pipe := c.ctx.snap ++ c.ctx.pipe, snap := [] } }
/-- R143 in a handler, step 4, after the landings: INTRAP clears. -/
def Core.leaveTrap (c : Core) : Core :=
  let c := c.unpark
  { c with trap := c.trap.setIntrap false }

/-- HALT: after the bundle's cycle the core commits and lets its results land; the turns that follow finish
it. -/
def State.halt (s : State) : State :=
  let s := s.closeCycle
  (s.onMe fun c =>
    { c with
      ctx := { c.ctx with seqr := Seqr.zero }
      fetch := { c.fetch with loopBuf := [] }
      btw := { c.btw with halting := true, haltCommit := true } }).over

def opHalt (g : Guard) : Op := { guard := g, run := fun s => s.halt }
def execHalt (g : Guard) (s : State) := runOp (opHalt g) s

/-! ### ERET (R144, R147, R223) -/

/-- R223: what ERET restores, and where the core goes on. -/
def Core.return_ (c : Core) (time : Nat) : Core :=
  let t := c.trap
  let c := (c.traced time 3 0 c.ctx.pc).unpark
  let q := seqrOf t.tseq t.ttgt t.tbundle
  let c := { c with
    sup := t.ppriv
    trap := t.setIntrap false
    fetch := c.fetch.keepLoop (!c.ctx.seqr.loop)
    ctx := { c.ctx with
      pc := t.tbundle, seqr := q, pipe := c.ctx.snap ++ c.ctx.pipe, snap := []
      idleRun := tseqIdle t.tseq }
    btw := { c.btw with
      nulLeft := 0, idle := 0, ownWait := none, transit := false
      ckpted := c.btw.ckpted && t.tbundle == c.entry.pc && !tseqDone t.tseq } }
  if tseqDone t.tseq then
    let c := { c with ctx := { c.ctx with idleRun := 0, caph := putBit c.ctx.caph 63 false } }
    if tseqXfer t.tseq then c.goto (transfer q t.tbundle t.ttgt) else c.pass
  else { c with btw := { c.btw with replay := c.ctx.caph.getLsbD 63 } }

/-- ERET, a supervisor instruction: a TSEQ that R147 forbids raises the illegal-operation trap. -/
def opEret (g : Guard) : Op :=
  { guard := g, sup := true
    chk := fun s => (inDelay s).or
      (if tseqIllegal s.me.trap.tseq then some ⟨2, 0, 0, s.me.trap.tseq⟩ else none)
    run := fun s => (s.closeCycle.onMe fun c => c.return_ s.time).over }

def execEret (g : Guard) (s : State) := runOp (opEret g) s

end Sys2Proof.Machine
end

