-- ==== Sys2Proof/Machine/System.lean ====
section
/-! DEFINITION. System registers (R4, R128, Tables SCL-5, TRP-2, PAR-1, PAR-3, PAR-6, SCH-11, CST-6, CST-7,
CST-9, MEM-6, MEM-7, CLT-1, CLT-6, CLT-8), the generator's seed (R129), and what a register write sets off:
SEGCTL (R230), CSREQ (R232), LSCLR (R194), the trace buffer (R236). -/

namespace Sys2Proof.Machine

/-! ### Assignment and privilege -/

/-- The numbers of user registers. -/
def userRegs : List Nat := [0x000, 0x001, 0x002, 0x003, 0x004]
/-- The numbers of supervisor registers. -/
def supRegs : List Nat :=
  [0x100, 0x101, 0x102, 0x103, 0x104, 0x105, 0x110, 0x111, 0x112, 0x113, 0x114, 0x115, 0x118, 0x119, 0x11A,
    0x11B, 0x120, 0x121, 0x122, 0x123, 0x130, 0x138, 0x139, 0x140, 0x141, 0x142, 0x143, 0x144, 0x200, 0x201,
    0x202, 0x300, 0x301, 0x302, 0x303, 0x304, 0x3E0, 0x3E1, 0x3E2, 0x3E4, 0x3E5, 0x400, 0x401, 0x410, 0x411,
    0x418]
/-- R128: is the number assigned? -/
def sysAssigned (q : BitVec 12) : Bool := userRegs.contains q.toNat || supRegs.contains q.toNat
/-- R128: is it a supervisor number? -/
def sysSup (q : BitVec 12) : Bool := decide (0x100 ≤ q.toNat ∧ q.toNat < 0x500)

/-! ### Reading -/

/-- Table PAR-1. -/
def Pair.word (p : Pair) : Word :=
  BitVec.ofNat 64 (p.aq.toNat * 2 ^ 15 + p.q1.toNat * 2 ^ 14 + p.q0.toNat * 2 ^ 13 + p.win.toNat * 4
    + p.mode.toNat)
/-- Table MEM-6. -/
def CoreRegs.asctl (r : CoreRegs) : Word :=
  BitVec.ofNat 64 (r.useu.toNat * 2 ^ 31 + r.sasid.toNat * 2 ^ 16 + r.asid.toNat)
/-- The trace entry that TRRD selects. -/
def Trace.entry (t : Trace) : BitVec 128 := Map.getD t.entries t.sel.toNat 0

/-- The value that SYSR reads from register `q` of core `n`; registers that are written only read zero. -/
def State.sysRead (s : State) (n : Nat) (q : BitVec 12) : Word :=
  let c := s.core n
  let t := c.trap
  match q.toNat with
  | 0x000 => c.ctx.fstat.setWidth 64
  | 0x001 => c.ctx.wovf
  | 0x002 => c.ctx.cycle
  | 0x003 => BitVec.ofNat 64 s.time
  | 0x004 => BitVec.ofNat 64 (n % 1024)
  | 0x100 => t.tcause
  | 0x101 => t.tbundle
  | 0x102 => t.tslot
  | 0x103 => t.tinfo
  | 0x104 => t.tvec
  | 0x105 => t.fwdog.setWidth 64
  | 0x110 => t.tseq
  | 0x111 => t.ttgt
  | 0x112 => c.ctx.caph
  | 0x113 => c.ctx.capa
  | 0x114 => c.ctx.capb
  | 0x115 => c.ctx.capc
  | 0x118 => t.tscr0
  | 0x119 => t.tscr1
  | 0x11A => t.tscr2
  | 0x11B => t.tscr3
  | 0x120 => t.cfr0
  | 0x121 => t.cfr1
  | 0x122 => t.cfr2
  | 0x123 => t.cfr3
  | 0x139 => c.regs.csstat
  | 0x140 => c.trace.trctl
  | 0x141 => c.trace.idx.setWidth 64
  | 0x143 => c.trace.entry.extractLsb' 0 64
  | 0x144 => c.trace.entry.extractLsb' 64 64
  | 0x200 => (s.pair (pairOf n)).word
  | 0x201 => c.regs.asarea
  | 0x202 => c.arr.tbusy
  | 0x300 => (s.die (dieOf n)).schctl
  | 0x301 => c.regs.gang
  | 0x302 => c.regs.cprio.setWidth 64
  | 0x303 => c.regs.lpart
  | 0x304 => (s.die (dieOf n)).dstr
  | 0x3E0 => c.regs.ccway
  | 0x3E1 => c.regs.part.setWidth 64
  | 0x3E4 => c.regs.asctl
  | 0x3E5 => c.regs.genroot
  | 0x400 => BitVec.ofNat 64 (dieOf n % 4 * 256 + s.zoneOf n)
  | 0x401 => c.regs.thctl
  | 0x411 => c.regs.ephstat
  | 0x418 => BitVec.ofNat 64 (if s.expert 10 then s.cool.modflow else 240)
  | _ => 0

/-! ### SEGCTL (R230) -/

/-- R230: the trapped context's segment commits; its entry state is the state in which ERET resumes it, with the privilege
that it has then. -/
def Core.segctl (c : Core) (wait : Bool) (time : Nat) (thermal : List Word) : Core :=
  if !c.inTrap then c
  else
    let seg := c.btw.seg
    let backs := if wait then c.backs ++ [(seg, c.arr)] else c.backs
    let c := { c with
      arr := c.arr.commit
      backs := backs
      ctx := { c.ctx with sig := 0, thermal := some thermal }
      btw := { c.btw with commits := c.btw.commits + 1 } }
    let c :=
      if wait then { c with btw := { c.btw with closing := c.btw.closing ++ [(2, seg, c.entry)] } }
      else c.commitParts seg
    { c with
      entry := { (c.return_ time).ctx with priv := c.trap.ppriv }
      btw := { c.btw with seg := seg + 1, entryCk := false } }

/-- SEGCTL.COMMIT of core `n`. -/
def State.segctl (s : State) (n : Nat) : State :=
  let c := s.core n
  if c.inTrap then
    s.setCore n ((c.segctl (s.protected_ n) s.time (s.thermal (dieOf n))).traced s.time 5 0 c.trap.tbundle)
  else s

/-! ### CSREQ (R232 to R234) -/

/-- CSSTAT's status. -/
def Core.csstatus (c : Core) (x : Nat) : Core :=
  { c with regs := { c.regs with csstat := BitVec.ofNat 64 x } }
/-- The area that a write of CSREQ names. -/
def csArea (x : Word) : Word := BitVec.ofNat 64 (bitsAt x.toNat 16 40 * 65536)
/-- R232, R233: a write of CSREQ: a SAVE of a user context in a handler is accepted, and, from the die controller, the SAVE of a
retired core's context (R172, R325; log 32); a RESTORE needs an IDLE core. -/
def Core.csreq (c : Core) (x : Word) : Core :=
  if bitsAt x.toNat 62 2 = 1 && ((c.inTrap && !c.trap.ppriv) || c.run == .stopped .retired) then
    { c with
      regs := { c.regs with csstat := 0x8000000000000000 }
      saving := some ⟨csArea x, 0, none⟩ }
  else c.csstatus 7

/-! ### LSCLR (R194) -/

/-- R194: has a piece of a copy begun to be written to ABUF, and not been written whole? -/
def EngItem.midAbuf (e : EngItem) : Bool :=
  match e with
  | .copy x => x.writes.any fun w => (match x.dst w.lo with | .bank .abuf _ => true | _ => false)
      && x.done.any (fun d => decide (w.lo ≤ d.1 ∧ d.1 < w.hi)) && anyFrom (w.hi - w.lo) w.lo fun j => !x.isDone j
  | .send _ => false
/-- Have the engine writes to the buffers being cleared landed that a clear waits for? -/
def Core.clearReady (c : Core) (a t : Bool) : Bool :=
  !(a && c.engine.any EngItem.midAbuf) && !(t && c.loc.lines.any fun l => l.2.count != 0)

/-- A write of LSCLR: the core freezes with reason 9 until the clear has ended. -/
def State.lsclr (s : State) (x : Word) : State :=
  if bitsAt x.toNat 0 2 = 0 then s
  else s.onMe fun c => { c with btw := { c.btw with clear := some (x.getLsbD 0, x.getLsbD 1) } }

/-- The freeze of reason 9 begins when the bundle's cycle has ended. -/
def Core.beginClear (c : Core) (w : TrapAt) : Core :=
  if c.btw.clear.isSome then
    { c with run := .frozen ⟨9, 0, 0⟩, btw := { c.btw with doneAt := some w } }
  else c

/-- R228: has a frozen core's count exceeded LIMIT? -/
def Core.expired (c : Core) : Bool :=
  match c.run with
  | .frozen f => decide (0 < c.trap.fwdog.toNat ∧ c.trap.fwdog.toNat < f.ticks)
  | _ => false

/-- R194, R228: the clear has ended: a watchdog trap follows it as a completed trap where the count has
exceeded LIMIT.  A core that a debugger or a gated slot holds ends its freeze when it is let go. -/
def State.endClear (s : State) (n : Nat) : State :=
  let c := s.core n
  if !c.frozenFor 9 then s
  else
  let at_ := c.btw.doneAt.getD c.at
  let late := c.expired
  let c := c.thaw s.time
  let s := s.setCore n { c with btw := { c.btw with clear := none, doneAt := none } }
  if late then s.trapWith n ⟨11, 0, (Config.watchSlot s.tick).toNat, 9⟩ at_ else s

/-- One half of a clear: ABUF, or TSPAD. -/
def State.clearHalf (s : State) (n : Nat) (tspad : Bool) : State :=
  let c := s.core n
  match c.btw.clear with
  | none => s
  | some (a, t) =>
    if !a && !t then s.endClear n
    else if (if tspad then t else a) && c.clearReady (a && !tspad) (t && tspad) then
      let c := { c with
        loc := if tspad then c.loc.flush.clearT else c.loc.clearA
        btw := { c.btw with clear := some (a && tspad, t && !tspad) } }
      let s := s.setCore n c
      if (if tspad then a else t) then s else s.endClear n
    else s

def execLsclrClra (n : Nat) (s : State) : Host.Outcome State Fault Refusal := .next (s.clearHalf (s.leader n) false)
def execLsclrClrt (n : Nat) (s : State) : Host.Outcome State Fault Refusal := .next (s.clearHalf (s.leader n) true)

/-! ### The trace buffer (R236) -/

/-- A write of TRCTL. -/
def Trace.writeCtl (t : Trace) (x : Word) : Trace :=
  let keep : Word := 0xA000FFF0003FFFFE
  let frozen := t.trctl.getLsbD 62 && !x.getLsbD 62
  let t' := { t with trctl := putBit (x &&& keep) 62 frozen }
  if t.trctl.getLsbD 62 && !frozen then { t' with left := none } else t'
/-- A write of TRRD. -/
def Trace.select (t : Trace) (i : BitVec 12) : Trace := { t with sel := i }

def execTraceSelect (n : Nat) (i : BitVec 12) (s : State) : Host.Outcome State Fault Refusal :=
  let n := s.leader n
  let c := s.core n
  .next (s.setCore n { c with trace := c.trace.select i })
/-- A trigger by hand of the trace's conditions: FROZEN sets after POST entries. -/
def execTraceTrigger (n : Nat) (s : State) : Host.Outcome State Fault Refusal :=
  let n := s.leader n
  let c := s.core n
  .next (s.setCore n { c with trace := c.trace.trigger })

/-! ### Writing -/

/-- The trap registers after a write of the low part of their range. -/
def TrapRegs.write (t : TrapRegs) (q : Nat) (x : Word) : TrapRegs :=
  match q with
  | 0x100 => { t with tcause := (t.tcause &&& 0xFFF) ||| (x &&& 0x30000) }
  | 0x101 => { t with tbundle := x &&& ~~~31 }
  | 0x102 => { t with tslot := x &&& 7 }
  | 0x103 => { t with tinfo := x }
  | 0x104 => { t with tvec := x &&& ~~~31 }
  | 0x105 => { t with fwdog := x.extractLsb' 0 32 }
  | 0x110 => { t with tseq := x &&& ~~~0x1C000 }
  | 0x111 => { t with ttgt := x &&& ~~~31 }
  | 0x118 => { t with tscr0 := x }
  | 0x119 => { t with tscr1 := x }
  | 0x11A => { t with tscr2 := x }
  | 0x11B => { t with tscr3 := x }
  | 0x120 => { t with cfr0 := t.cfr0 &&& ~~~(x &&& 0xC000000000000000) }
  | _ => t

/-- The registers of the other ranges after a write. -/
def CoreRegs.write (r : CoreRegs) (q : Nat) (x : Word) : CoreRegs :=
  match q with
  | 0x201 => { r with asarea := x &&& 0x00FFFFFFFFFF0000 }
  | 0x303 => { r with lpart := x &&& 15 }
  | 0x3E0 => { r with ccway := x }
  | 0x3E1 => { r with part := x.extractLsb' 0 4 }
  | 0x3E4 => { r with asid := x.extractLsb' 0 12, sasid := x.extractLsb' 16 12, useu := x.getLsbD 31 }
  | 0x3E5 => { r with genroot := x &&& 0xFFFFFFFFFFFFE001 }
  | 0x401 => { r with thctl := x &&& 0xFFC0003E }
  | _ => r

/-- A context's own registers after a write. -/
def Ctx.write (y : Ctx) (q : Nat) (x : Word) : Ctx :=
  match q with
  | 0x000 => { y with fstat := w1cFstat y.fstat x }
  | 0x001 => { y with wovf := w1cWovf y.wovf x }
  | 0x112 => { y with caph := x &&& 0x8000FFFFFFFFFFFF }
  | 0x113 => { y with capa := x }
  | 0x114 => { y with capb := x }
  | 0x115 => { y with capc := x }
  | _ => y

/-- What a write of `x` to register `q` of core `n` does, but for LSCLR. -/
def State.sysWrite (s : State) (n : Nat) (q : BitVec 12) (x : Word) : State :=
  let c := s.core n
  match q.toNat with
  | 0x130 => if x.getLsbD 0 then s.segctl n else s
  | 0x138 => s.setCore n (c.csreq x)
  | 0x140 => s.setCore n { c with trace := c.trace.writeCtl x }
  | 0x142 => s.setCore n { c with trace := c.trace.select (x.extractLsb' 0 12) }
  | 0x410 => s.askCommit n x
  | 0x418 => s.writeModflow x
  | k => s.setCore n { c with
      trap := c.trap.write k x, regs := c.regs.write k x, ctx := c.ctx.write k x }

/-! ### SYSR, SYSW, RNGS -/

def opSysr (g : Guard) (d : GReg) (q : BitVec 12) : Op :=
  { guard := g, assigned := fun _ => sysAssigned q, sup := sysSup q, gd := some d
    run := fun s => s.send 1 (.g d (s.sysRead s.iss.cur q) false) }

/-- SYSW: the write takes effect before the next bundle issues. -/
def opSysw (g : Guard) (a : GSrc) (q : BitVec 12) : Op :=
  { guard := g, assigned := fun _ => sysAssigned q, sup := sysSup q, srcs := [.g a]
    late := fun s =>
      if q = 0x130 && (s.opA a).getLsbD 0 && s.me.inTrap
          && !s.me.engineRoom (s.me.held.filter isCopy).length
      then .freeze 8 0 .none else .go
    run := fun s =>
      let x := s.opA a
      let s := { s with iss := { s.iss with sysw := s.iss.sysw ++ [(q, x)] } }
      if q = 0x3E2 then s.lsclr x else s.sysWrite s.iss.cur q x }

/-- RNGS: a seed of two zero words sets s1 to 1 (R54); it follows the bundle's own pop (R55). -/
def opRngs (g : Guard) (a b : GSrc) : Op :=
  { guard := g, needs := [7], srcs := [.g a, .g b]
    run := fun s =>
      let x := s.opA a
      let y := s.opB b
      s.onMe fun c => { c with ctx := { c.ctx with
        s0 := x, s1 := if x = 0 && y = 0 then 1 else y, queue := [] } } }

def execSysr (g : Guard) (d : GReg) (q : BitVec 12) (s : State) := runOp (opSysr g d q) s
def execSysw (g : Guard) (a : GSrc) (q : BitVec 12) (s : State) := runOp (opSysw g a q) s
def execRngs (g : Guard) (a b : GSrc) (s : State) := runOp (opRngs g a b) s

/-- SEGCTL_COMMIT: the commit that a write of SEGCTL makes. -/
def execSegctlCommit (n : Nat) (s : State) : Host.Outcome State Fault Refusal := .next (s.segctl (s.leader n))

/-- CSREQ_BADREQ: a request that cannot be accepted sets BADREQ. -/
def execCsreqBadreq (n : Nat) (s : State) : Host.Outcome State Fault Refusal :=
  let n := s.leader n
  .next (s.setCore n ((s.core n).csstatus 7))

end Sys2Proof.Machine
end

