-- ==== Sys2Proof/Machine/Save.lean ====
section
/-! DEFINITION. The context save engine: SAVE and RESTORE (R232 to R235, R259, R329). -/

namespace Sys2Proof.Machine

/-! ### Areas -/

/-- The size of a save area and of an array save area. -/
def saveLen : Nat := 320 * 1024
def arrayLen : Nat := 384 * 1024

/-- One page of an area: its physical address and key, or the status of R233. -/
def State.areaPage (s : State) (n va : Nat) : Except Nat (Nat × BitVec 8) :=
  if 2 ^ 56 ≤ va then .error 3
  else match s.mem.walk (s.core n).regs.sasid 0 va with
    | none => .error 1
    | some t =>
      let pa := t.pa va
      let x := s.mem.shape
      if !pteW t.lo || !pteR t.lo || s.mem.isSealed pa then .error 2
      else if s.remote (pteHome t.hi) || x.homeDie pa != dieOf n || !(x.inStack pa || x.inTier pa) then .error 3
      else .ok (pa, pteKey t.hi)
/-- The translations that cover an area. -/
def State.areaTlbs (s : State) (n va len : Nat) : List Tlb :=
  ((List.range (len / 4096)).filterMap fun k => s.mem.walk (s.core n).regs.sasid 0 (va + 4096 * k)).dedup
/-- The pages of an area, or the status of the first one that fails. -/
def State.areaPages (s : State) (n va len : Nat) : Except Nat (List (Nat × BitVec 8)) :=
  (List.range (len / 4096)).mapM fun k => s.areaPage n (va + 4096 * k)
/-- Does an area hold an uncorrectable unit? -/
def Mem.badPages (m : Mem) (ps : List (Nat × BitVec 8)) : Bool :=
  m.ecc.any fun u => ps.any fun p => u * 32 / 4096 == p.1 / 4096
/-- The engine writes a page of an area. -/
def State.fillPages (s : State) (ps : List (Nat × BitVec 8)) : State :=
  ps.foldl (fun (s : State) p => { s with mem := s.mem.store p.2 p.1 ((upFrom p.1 4096).map (Config.saveByte s.tick)) }) s
/-- ASAREA's address. -/
def Core.asareaAt (c : Core) : Nat := bitsAt c.regs.asarea.toNat 16 40 * 65536
/-- Does a core hold array state? -/
def Core.hasArray (c : Core) : Bool := c.arr != Arr.zero

/-! ### SAVE (R233) -/

/-- A failure: the context stays on the core, and its handler goes on. -/
def Core.saveFails (c : Core) (status : Nat) : Core := { c.csstatus status with saving := none }

/-- A blocking POP of the context is withdrawn: it takes no record. -/
def State.withdraw (s : State) (n : Nat) : State :=
  (s.core n).accs.foldl (fun s a =>
    match a.kind with
    | .pop d _ _ _ _ _ => if a.own then s else s.writeReply n a (.g d (popWord 1 0) false)
    | _ => s) s

/-- The drain of R233 and R259 has ended: no reply is awaited, no commit is under way, no marker waits for what stays
behind, the array queue is empty and the FEEDs are complete. -/
def Core.drained (c : Core) : Bool :=
  c.replies.isEmpty && c.btw.closing.isEmpty
    && c.accs.all (fun a => a.held || a.stays || (a.kind.isMark && (before c.accs a).all fun b => !b.stays))
    && c.arr.queue.isEmpty
    && !c.engine.any fun e => match e with
      | .copy x => (match x.op with | .feed _ => x.ctx == c.regs.ctxId | _ => false)
      | .send _ => false

/-- Every result of the handler lands. -/
def Ctx.settle (x : Ctx) : Ctx := (List.range 32).foldl (fun x _ => x.advance) x

/-- The record of a context. -/
def Core.saved (c : Core) (mode : BitVec 2) (arrAt : Option Nat) : Saved :=
  { ctx := c.ctx.settle, entry := c.entry, trap := c.trap, regs := c.regs, held := c.held
    accs := c.accs.filter fun a => !a.stays
    owns := c.owns, wbuf := c.loc.wbuf, arr := c.arr
    loopBuf := if tseqLoop c.trap.tseq then c.fetch.loopBuf else []
    btw := c.btw, mode := mode, arrAt := arrAt, recov := c.recov, restored := false }
/-- The core without its context. -/
def Core.vacate (c : Core) : Core :=
  { c.csstatus 0 with
    run := .idle, saving := none, held := [], owns := [], pending := []
    accs := c.accs.filter Acc.stays
    loc := { c.loc with wbuf := [] }
    arr := Arr.zero, backs := []
    fetch := { c.fetch with loopBuf := [] } }

/-- Change the gang of a context. -/
def State.onGang (s : State) (n : Nat) (f : Gang → Gang) : State :=
  match s.gangOf n with
  | none => s
  | some g => s.setGang (dieOf n) (s.core n).gangId (f g)
/-- A context of the gang has been saved, and has left accesses behind. -/
def Gang.saveOne (g : Gang) (rank : Nat) (left : List (Nat × Nat)) : Gang :=
  { g with saved := if g.saved.contains rank then g.saved else g.saved ++ [rank], left := g.left ++ left }
/-- The stores and joins that a context leaves on a core. -/
def Core.leaves (c : Core) (n : Nat) : List (Nat × Nat) :=
  (c.accs.filter fun a => a.stays && a.kind.isWrite).map fun a => (n, a.id)

/-- R233, step 1: translate and check every page of the save area, and of the array save area where the core holds array
state (R259), and pin them. -/
def State.pinArea (s : State) (n : Nat) (area : Word) : Except Nat Pins :=
  let c := s.core n
  match s.areaPages n area.toNat saveLen,
      (if c.hasArray then s.areaPages n c.asareaAt arrayLen else .ok []) with
  | .error x, _ => .error x
  | _, .error x => .error x
  | .ok ps, .ok qs =>
    .ok ⟨ps, qs, s.areaTlbs n area.toNat saveLen ++ (if c.hasArray then s.areaTlbs n c.asareaAt arrayLen else [])⟩
/-- The pins that a SAVE holds, or takes now. -/
def State.savePins (s : State) (n : Nat) (v : Saving) : Except Nat Pins :=
  match v.pins with | some p => .ok p | none => s.pinArea n v.area

/-- A step of the save engine on core `n`: a failure, the pinning, or the whole of the write; none while it drains. -/
def State.saveStep (s : State) (n : Nat) : Option State :=
  match (s.core n).saving with
  | none => none
  | some v =>
    let c := s.core n
    match s.savePins n v with
    | .error x => some (s.setCore n (c.saveFails x))
    | .ok p =>
      let s0 := s
      let s := s.withdraw n
      let c := s.core n
      let limit := c.trap.fwdog.toNat
      let ps := p.pages
      let qs := p.arr
      if !c.drained then
        if limit ≠ 0 && limit < v.ticks then some (s.setCore n (c.saveFails 6))
        else if v.pins.isNone then some (s0.setCore n { s0.core n with saving := some { v with pins := some p } })
        else none
      else
        let key := match ps with | p :: _ => p.1 | [] => 0
        if !c.arr.ecc.isEmpty then
          some { s.setCore n (c.saveFails 4) with saves := Map.del s.saves key }
        else
          let arrAt := match qs with | q :: _ => some q.1 | [] => none
          let r := c.saved (s.pair (pairOf n)).mode arrAt
          let s := s.fillPages (ps ++ qs)
          let s := (if c.run == .stopped .retired then s.settleAll (dieOf n) else s).onGang n fun g => g.saveOne c.rank (c.leaves n)
          let s := { s.setCore n (c.vacate.traced s.time 7 0 c.trap.tbundle) with saves := Map.put s.saves key r }
          let s : State := { s with absent := s.absent ++ c.pending.map fun e => (c.regs.ctxId, e) }
          some (s.gangLeft (dieOf n) c.gangId)

/-- CSREQ_SAVE: the die controller's write of CSREQ, or, while a SAVE is under way, its completion. -/
def execCsreqSave (n : Nat) (area : Word) (s : State) : Host.Outcome State Fault Refusal :=
  let n := s.leader n
  let c := s.core n
  let s := if c.saving.isSome then s
    else s.setCore n (c.csreq (0x4000000000000000 ||| (area &&& 0x00FFFFFFFFFF0000)))
  .next ((s.saveStep n).getD s)

/-! ### RESTORE (R234) -/

/-- An access, and an item of the held copy queue, under the numbers of another core. -/
def Acc.renumber (a : Acc) (base seg : Nat) : Acc := { a with id := a.id + base, seg := seg }
def EngItem.renumber (e : EngItem) (base seg : Nat) : EngItem :=
  match e with
  | .copy x => .copy { x with id := x.id + base, seg := seg }
  | .send x => .send { x with id := x.id + base, seg := seg }
/-- A stream whose bytes of the saved segment `old` belong to segment `seg`. -/
def Fifo.renumber (f : Fifo) (old seg : Nat) : Fifo :=
  let m (k : Nat) : Nat := if k = old then seg else 0
  { data := f.data.map fun b => (b.1, b.2.map m), kept := f.kept.map fun b => ((b.1.1, b.1.2.map m), m b.2) }
def Arr.renumber (a : Arr) (old seg : Nat) : Arr := { a with fa := a.fa.renumber old seg, fb := a.fb.renumber old seg }

/-- The trap registers that belong to the context; the vector, the limit and the scratch registers are the core's. -/
def TrapRegs.restored (t old : TrapRegs) : TrapRegs :=
  { t with tvec := old.tvec, fwdog := old.fwdog, tscr0 := old.tscr0, tscr1 := old.tscr1, tscr2 := old.tscr2, tscr3 := old.tscr3 }
/-- The registers that belong to the context. -/
def CoreRegs.restored (r old : CoreRegs) : CoreRegs :=
  { old with part := r.part, asid := r.asid, genroot := r.genroot, gang := r.gang, ctxId := r.ctxId, cprio := r.cprio, csstat := 0
             thctl := r.thctl, job := r.job }

/-- The core with a saved context, in the handler that saved it, or at its segment's entry if a retired core held it; a restore
latches the thermal snapshot (R367). -/
def Core.reload (c : Core) (r : Saved) (thermal : List Word) : Core :=
  let base := c.btw.nextId
  let seg := c.btw.seg + 1
  { c with
    run := .run, sup := r.trap.intrap || r.ctx.priv
    ctx := { r.ctx with thermal := some thermal }, entry := { r.entry with thermal := some thermal }
    trap := r.trap.restored c.trap
    regs := r.regs.restored c.regs
    loc := { c.loc with wbuf := r.wbuf.map fun w => { w with seq := w.seq + c.btw.seqno, seg := seg } }
    accs := c.accs ++ r.accs.map fun a => a.renumber base seg
    held := r.held.map fun e => e.renumber base seg
    owns := r.owns.map fun o => (seg, o.2)
    arr := r.arr.renumber r.btw.seg seg, backs := []
    fetch := { c.fetch with loopBuf := r.loopBuf }
    btw := { Between.zero with
      phase := r.btw.phase, seqno := c.btw.seqno + r.btw.seqno, nextId := base + r.btw.nextId, seg := seg
      commits := c.btw.commits + 1, rolls := c.btw.rolls + r.btw.rolls, entryCk := r.btw.entryCk
      ckpted := r.btw.ckpted, replay := !r.trap.intrap && r.ctx.caph.getLsbD 63 }
    recov := r.recov }
/-- The context resumes as after ERET, if it was in a handler. -/
def Core.resumed (c : Core) (time : Nat) : Core := if c.inTrap then c.return_ time else c

/-- The claims of a restored context stand under its new numbers. -/
def State.moveClaims (s : State) (ctx seg rolls : Nat) : State :=
  let q (x : Queue) : Queue := { x with claims := x.claims.map fun k =>
    if k.ctx == ctx then { k with seg := seg, rolls := k.rolls + rolls } else k }
  { s with dies := s.dies.map fun e => (e.1, { e.2 with queues := e.2.queues.map fun y => (y.1, q y.2) }) }

/-- A gang's context is back. -/
def Gang.restoreOne (g : Gang) (rank n : Nat) : Gang :=
  { g with
    saved := g.saved.filter fun r => r != rank
    cores := g.cores.zipIdx.map fun e => if e.2 == rank then n else e.1
    pairs := if g.pairs.contains (pairOf n) then g.pairs else g.pairs ++ [pairOf n] }

/-- CSREQ_RESTORE, which the die controller writes: the context resumes as after ERET. -/
def execCsreqRestore (n : Nat) (area : Word) (s : State) : Host.Outcome State Fault Refusal :=
  let c := s.core n
  let fail (x : Nat) : Host.Outcome State Fault Refusal := .next (s.setCore n (c.csstatus x))
  let va := bitsAt area.toNat 16 40 * 65536
  let p := s.pair (pairOf n)
  if c.run != .idle || (s.protected_ n && (n % 2 != 0 || (s.core (n + 1)).run != .idle)) || (p.mode == 2 && (p.q0 || p.q1)) then fail 7
  else match s.areaPages n va saveLen with
    | .error x => fail x
    | .ok ps =>
      let key := match ps with | p :: _ => p.1 | [] => 0
      match Map.find? s.saves key with
      | none => fail 5
      | some r =>
        if r.restored || r.mode != p.mode then fail 5
        else match (match r.arrAt with | some _ => s.areaPages n c.asareaAt arrayLen | none => .ok []) with
          | .error x => fail x
          | .ok qs =>
            if r.arrAt != (qs.head?.map (·.1)) then fail 5
            else if s.mem.badPages (ps ++ qs) then fail 4
            else
              let s := s.moveClaims r.regs.ctxId (c.btw.seg + 1) c.btw.rolls
              let mine := (s.absent.filter fun e => e.1 == r.regs.ctxId).map (·.2)
              let c' := (c.reload r (s.thermal (dieOf n))).resumed s.time
              let c' := { c' with pending := mine, trace := c.trace.add s.time 8 0 r.trap.tbundle }
              let s := { s.setCore n c' with
                saves := Map.put s.saves key { r with restored := true }
                absent := s.absent.filter fun e => e.1 != r.regs.ctxId }
              .next (s.onGang n fun g => g.restoreOne c'.rank n)

end Sys2Proof.Machine
end

