-- ==== Sys2Proof/Machine/Package.lean ====
section
/-! DEFINITION. The package: reset and bring-up (R341, R342, Table PKG-8), features (R343), host queues (R346, R347), the
window of the tier (R348), firmware and attestation (R353, R355, R356), the checkpoint of a power loss and its restore
(R357), the storage transfer (R383). -/

namespace Sys2Proof.Machine

/-- The package state of a module. -/
def State.setPkg (s : State) (p : Pkg) : State := { s with pkg := p }
/-- An entry of the management controller's log. -/
def State.logged (s : State) (code : Nat) (x : Word) : State :=
  s.setPkg { s.pkg with log := s.pkg.log ++ [(code, x)] }

/-! ### Reset and start -/

/-- A pair as its quarantine bits present it (R342). -/
def pairOfAnnex (q : BitVec 3) : Pair :=
  { Pair.reset with
    q0 := q.getLsbD 0, q1 := q.getLsbD 1, aq := q.getLsbD 2, mode := if q.getLsbD 0 && q.getLsbD 1 then 0 else 1 }
/-- The set bits of a map below `n`, rising. -/
def bitsOf {w : Nat} (x : BitVec w) (n : Nat) : List Nat := (List.range n).filter fun k => x.getLsbD k
/-- R342: what a module with a configuration record presents, numbered by compaction. -/
def shapeOf (r : ConfigRecord) : Shape :=
  let ds := bitsOf r.dieMap 4
  ⟨ds, ds.map fun d => bitsOf (r.clMap.getD d 0) 32, (bitsOf r.tierMap 96).length⟩
/-- R341, R342: the pairs that the record and QANNEX quarantine. -/
def Pkg.quarantined (p : Pkg) (x : Shape) : Map Pair :=
  (List.range 512).filterMap fun k =>
    let j := x.physPair k
    let q : BitVec 3 := ((p.record.pairQ.find? fun e => e.1 == j).map (·.2)).getD 0 ||| Map.getD p.qannex j 0
    if k / 128 < x.nd && k / 4 % 32 < x.ncl (k / 128) && q != 0 then some (k, pairOfAnnex q) else none

/-- The bytes of an image, and those that its signature covers (R355). -/
def signedPart (x : FwImage) : List Byte := Config.imageHeader x.version x.length ++ x.body
def wholeImage (x : FwImage) : List Byte := signedPart x ++ x.signature
/-- R355: may an image run: its signature verifies, its length is its header's and its version is not below FWMIN? -/
def Pkg.imageOk (p : Pkg) (x : FwImage) : Bool :=
  Config.verifies (digest (signedPart x)) x.signature && x.length == x.body.length
    && decide (((p.record.fwMin.find? fun e => e.1 == x.kind).map (·.2)).getD 0 ≤ x.version)
/-- R341: does the record verify? -/
def Pkg.recordOk (p : Pkg) : Bool := Config.verifies (digest (Config.recordBytes p.record)) p.record.sig

/-- R341, R355: a module reset.  Every unit takes its reset state; what stands in the DRAM, in the management
controller's flash and in the host's memory stays (log 23).  The record and the images are verified before a die leaves reset, and the
module presents what the record says; where the record or an image fails, the module stays in FAILED. -/
def State.moduleReset (s : State) : State :=
  let p := s.pkg
  let r := State.reset
  let running := Map.keep (p.pendingFw.foldl (fun m e => Map.put m e.1 e.2) p.running) fun _ x => p.imageOk x
  let good := p.recordOk && (List.range 3).all fun k => (Map.find? running k).isSome
  let shape := shapeOf p.record
  { r with
    pairs := p.quarantined shape
    mem := { r.mem with
      shape := shape, bytes := s.mem.bytes, keys := s.mem.keys, ecc := s.mem.ecc, sealed := s.mem.sealed, images := s.mem.images }
    pkg := { r.pkg with
      record := p.record, state := if good then 1 else 5
      hostMem := p.hostMem, owc := p.owc, compiler := ((Map.find? running 2).map (·.version)).getD p.compiler, errata := p.errata
      nonce := p.nonce, running := running, safe := p.safe, log := p.log, qannex := p.qannex, gens := p.gens, nextJob := p.nextJob }
    saves := s.saves, nextCtx := s.nextCtx, inbox := s.inbox, tick := s.tick }
def execModuleReset (s : State) : Host.Outcome State Fault Refusal := .next s.moduleReset

/-- The bits of FEATSEL that are RW (Table PKG-2). -/
def featMask : BitVec 256 := BitVec.ofNat 256 (0x1FFF * 2 ^ 128 + 0x1FFF)
/-- FEATCAP: what the record's FEATMASK leaves. -/
def Pkg.featCap (p : Pkg) : BitVec 256 := p.record.featMask &&& featMask

/-- START: in state CONFIG it activates the features and enters RUN; a valid checkpoint is restored before it (Table PKG-8). -/
def Pkg.start (p : Pkg) : Pkg :=
  if p.state = 1 && p.safe.isNone then { p with state := 2, featact := (p.featsel &&& p.featCap) ||| 1, started := true } else p
def execStart (s : State) : Host.Outcome State Fault Refusal := .next (s.setPkg s.pkg.start)

/-- A write of 64 bits of FEATSEL, which START closes until the next reset. -/
def Pkg.writeFeatsel (p : Pkg) (j : Nat) (x : Word) : Pkg :=
  if p.started then p
  else
    let m : BitVec 256 := BitVec.ofNat 256 (2 ^ 64 - 1) <<< (64 * j)
    { p with featsel := ((p.featsel &&& ~~~m) ||| (x.setWidth 256 <<< (64 * j))) &&& featMask }

/-! ### Host queues (R346, R347) -/

def Pkg.hq (p : Pkg) (q : Nat) : HostQ := Map.getD p.hqs q HostQ.reset
def Pkg.setHq (p : Pkg) (q : Nat) (x : HostQ) : Pkg := { p with hqs := Map.put p.hqs q x }
def HostQ.en (x : HostQ) : Bool := x.cfg.getLsbD 63
def HostQ.asid (x : HostQ) : BitVec 12 := x.cfg.extractLsb' 24 12
def HostQ.pmax (x : HostQ) : Nat := bitsAt x.cfg.toNat 18 6
def HostQ.die (x : HostQ) : Nat := bitsAt x.cfg.toNat 16 2
def HostQ.vec (x : HostQ) : Nat := bitsAt x.cfg.toNat 8 5
/-- LOG2, which lies from 6 to 16. -/
def HostQ.log2 (x : HostQ) : Nat := bitsAt x.cfg.toNat 0 5

/-- A tail write: ignored where it lies beyond the ring or before the previous tail. -/
def HostQ.writeTail (x : HostQ) (t : BitVec 32) : HostQ :=
  let d := (t - x.head).toNat
  if 2 ^ x.log2 < d || d < (x.tail - x.head).toNat then { x with err := true } else { x with tail := t }
/-- HQTAIL: the host has written its memory before its doorbell (R346). -/
def execHqtail (q : Nat) (x : Doorbell) (s : State) : Host.Outcome State Fault Refusal :=
  let p := s.pkg.setHq q ((s.pkg.hq q).writeTail x.tail)
  .next (s.setPkg { p with hostMem := x.bytes.foldl (fun (m : Memory) w => Memory.write m w.1 w.2) p.hostMem })

/-- A write of a host queue's register by its offset; a LOG2 outside its range leaves HQCFG as it is (log 23). -/
def HostQ.writeReg (x : HostQ) (off : Nat) (v : Word) : HostQ :=
  match off with
  | 0x00 => { x with base := v &&& ~~~0x3F }
  | 0x08 =>
    if bitsAt v.toNat 0 5 < 6 || 16 < bitsAt v.toNat 0 5 then x else { x with cfg := v &&& 0x8000000FFFFF1F1F }
  | 0x18 => x.writeTail (v.extractLsb' 0 32)
  | 0x20 => { x with cqbase := v &&& ~~~0xF }
  | 0x30 => { x with cqhead := v.extractLsb' 0 32 }
  | 0x38 => if v.getLsbD 0 then { x with err := false } else x
  | _ => x

/-- Registered root words that have not reached zero. -/
def Pkg.open_ (p : Pkg) : Nat := (p.roots.filter fun r => r.finished.isNone).length

/-- HOST_ENTRY_TAKE: none where no entry may be taken. -/
def State.takeEntry (s : State) (q : Nat) : Option State :=
  let p := s.pkg
  let x := p.hq q
  if p.state != 2 || !x.en || x.head == x.tail || 4096 ≤ p.open_ then none
  else
    let at_ := x.base.toNat + 64 * (x.head.toNat % 2 ^ x.log2)
    let r := BitVec.ofNat 512 (Memory.readLe p.hostMem at_ 64)
    let addr := recAddr r 2
    let p' := p.setHq q { x with head := x.head + 1 }
    if addr = 0 then some ((s.setPkg p').discard x.die (recQueue r))
    else
      let prio := min (recPrio r) x.pmax
      let root : Root :=
        { id := p.nextJob, addr := BitVec.ofNat 64 addr, asid := x.asid, die := x.die, queue := q, head := x.head, finished := none }
      let s := s.setPkg { p' with roots := p'.roots ++ [root], nextJob := p.nextJob + 1 }
      some (s.enqueue x.die (recWith r x.asid prio) .host ⟨true, x.asid, BitVec.ofNat 6 x.pmax, p.nextJob⟩ none)
def execHostEntryTake (q : Nat) (s : State) : Host.Outcome State Fault Refusal := .next ((s.takeEntry q).getD s)

/-- JOB_COMPLETION: the `k`-th root word that has reached zero; none while its completion ring is full. -/
def State.completes (s : State) (k : Nat) : Option State :=
  let p := s.pkg
  match (p.roots.filter fun r => r.finished.isSome)[k]? with
  | none => none
  | some r =>
    let x := p.hq r.queue
    if (x.cqtail - x.cqhead).toNat = 2 ^ x.log2 then none
    else
      let at_ := x.cqbase.toNat + 16 * (x.cqtail.toNat % 2 ^ x.log2)
      let d0 := r.head.toNat + (if r.finished == some true then 2 ^ 32 else 0)
      let p := p.setHq r.queue { x with cqtail := x.cqtail + 1 }
      some (s.setPkg { p with
        roots := dropFirst (· == r) p.roots
        hostMem := Memory.writeBytes p.hostMem at_ (leBytes 8 d0 ++ leBytes 8 r.addr.toNat)
        msix := p.msix ++ [x.vec] })
def execJobCompletion (k : Nat) (s : State) : Host.Outcome State Fault Refusal := .next ((s.completes k).getD s)

/-! ### The window of the tier (R348) -/

/-- The host's decoder places the window, in units of 256 MiB, within the tier as presented without its safe region; another window
leaves it as it is (log 23). -/
def State.writeWindow (s : State) (x : Word) : State :=
  let base := bitsAt x.toNat 0 32
  let n := bitsAt x.toNat 32 32
  if s.mem.shape.tierBytes < (base + n) * 2 ^ 28 then s else s.setPkg { s.pkg with window := (base, n) }
/-- The requests of the host's access, line by line: they enter the host link's channels (R309). -/
def State.hostAsks (s : State) (fuel pa n : Nat) (data : Option (List Byte)) : State :=
  match fuel with
  | 0 => s
  | k + 1 =>
    if n = 0 then s
    else
      let m := min n (128 - pa % 128)
      (s.push srcHost (agentReq (.host m (data.map fun bs => bs.take m)) pa 0 true false 0)).hostAsks k (pa + m) (n - m)
        (data.map fun bs => bs.drop m)
/-- CXL_MEM_ACCESS: `addr` is an offset in the window; the host's accesses use key 0 (log 23). -/
def State.cxl (s : State) (write : Bool) (addr n : Nat) (data : List Byte) : State :=
  if !s.pkg.featact.getLsbD 11 || decide (s.pkg.window.2 * 2 ^ 28 < addr + n) then s
  else s.hostAsks (n / 128 + 2) (0x100000000000 + s.pkg.window.1 * 2 ^ 28 + addr) n (if write then some data else none)
def execCxlMemAccess (write : Bool) (addr n : Nat) (data : List Byte) (s : State) :
    Host.Outcome State Fault Refusal := .next (s.cxl write addr n data)

/-! ### Attestation and firmware (R353, R355, R356) -/

/-- QANNEX as bytes. -/
def Pkg.annexBytes (p : Pkg) : List Byte := p.qannex.flatMap fun e => leBytes 2 e.1 ++ leBytes 1 e.2.toNat
/-- The digest of the running image of a kind: 0 management controller, 1 die controllers, 2 OWC service. -/
def Pkg.digest (p : Pkg) (k : Nat) : List Byte :=
  match Map.find? p.running k with | some x => Machine.digest (wholeImage x) | none => []
/-- ATTESTATION_REQUEST: the report with its signature. -/
def Pkg.report (p : Pkg) (nonce : BitVec 256) : List Byte :=
  let body := leBytes 32 nonce.toNat ++ p.record.serial ++ [0, 1, 2].flatMap p.digest
    ++ Machine.digest (Config.annexedBytes p.record p.annexBytes) ++ leBytes 32 p.featact.toNat ++ leBytes 8 p.record.errata.toNat
  body ++ Config.attestation body
def execAttestationRequest (nonce : BitVec 256) (s : State) : Host.Outcome State Fault Refusal :=
  .next (s.setPkg { s.pkg with out := s.pkg.out ++ [s.pkg.report nonce] })

/-- R353: the cache under a new errata mask: in errata mode entries are kept or invalidated. -/
def Pkg.newErrata (p : Pkg) (e : BitVec 64) : Pkg :=
  let kept := (p.owc.filter fun x => (p.errata ^^^ e) &&& x.relmask = 0).map fun x => { x with errata := e }
  { p with errata := e, owc := if p.record.sealedCache then p.owc else kept }
/-- FIRMWARE_UPDATE: an image that does not verify, or is below FWMIN, is not taken; the image runs from the next reset,
the errata mask acts at once (log 23). -/
def Pkg.update (p : Pkg) (x : FwImage) : Pkg :=
  if !p.imageOk x then p
  else
    let p := { p with pendingFw := Map.put p.pendingFw x.kind x }
    if x.errata = p.errata then p else p.newErrata x.errata
def execFirmwareUpdate (x : FwImage) (s : State) : Host.Outcome State Fault Refusal := .next (s.setPkg (s.pkg.update x))

/-! ### The checkpoint of a power loss (R357) -/

/-- The gangs of the module: die and number. -/
def State.gangs (s : State) : List (Nat × Nat) := s.dies.flatMap fun e => e.2.gangs.map fun g => (e.1, g.1)

/-- POWER_LOSS_WARNING: no more host entries, and every gang is pre-empted; a second warning finds it done. -/
def State.powerLoss (s : State) : State :=
  if s.pkg.state = 0 || s.pkg.state = 3 || s.pkg.state = 5 then s
  else
    let s := s.setPkg { s.pkg with state := 3, warned := some s.time }
    s.gangs.foldl (fun (s : State) g => s.preempt g.1 g.2 1 0) s
def execPowerLossWarning (s : State) : Host.Outcome State Fault Refusal := .next s.powerLoss

/-- The cores whose context has not left. -/
def State.busy (s : State) : List Nat := s.listed.filter fun n => s.leader n == n && (s.core n).run != .idle
/-- Have the 20 ms of a warning passed? -/
def State.late (s : State) : Bool := match s.pkg.warned with | some t => decide (t + 2000000 ≤ s.time) | none => false
/-- Does a core stand between two bundles? -/
def Core.atBoundary (c : Core) : Bool := c.btw.idle == 0 && c.btw.vjoin == 0 && !c.btw.halting && c.btw.mid.isNone
/-- Has a context come to its end at the checkpoint: stopped for good, or halted? -/
def Core.over_ (c : Core) : Bool := c.fallen || c.run == .stopped .halted
/-- A context that has not left after 20 ms is stopped at its next boundary and reported lost. -/
def State.stopLate (s : State) (n : Nat) : Option State :=
  let c := s.core n
  if !s.late || c.run == .idle || c.over_ || !c.atBoundary then none
  else some { s.setCore n { c with run := .stopped .lost, saving := none } with reports := s.reports ++ [.stopped n] }
/-- Are the slices at rest, and the accesses performed that contexts have left behind? -/
def State.settledDown (s : State) : Bool :=
  s.mem.channels.all (fun e => e.2.isEmpty)
    && s.mem.slices.all (fun e => e.2.mshr.isEmpty && e.2.ingress.isEmpty && e.2.updates.isEmpty)
    && s.cores.all fun e => e.2.run != .idle || !e.2.accs.any Acc.stays
/-- The root words of the jobs of which a context is lost end with ERR (R357). -/
def loseRoots (roots : List Root) (jobs : List Nat) : List Root :=
  roots.map fun r => if r.finished.isNone && jobs.contains r.id then { r with finished := some true } else r
/-- A die as the safe region keeps it: the gangs that are saved whole. -/
def Die.kept (d : Die) : Die := { d with gangs := d.gangs.filter fun g => g.2.away, aside := [], wires := [] }
/-- The jobs of the gangs of a die that are not kept. -/
def Die.lostJobs (d : Die) : List Nat :=
  (d.gangs.filter fun g => !g.2.away).filterMap fun g => (Map.find? d.grids g.2.grid).map (·.job)

/-- The checkpoint is written: when every context has left or has been stopped, and the slices are at rest. -/
def State.checkpointDone (s : State) : Option State :=
  let left := s.busy
  if s.pkg.warned.isNone || !(left.isEmpty || (s.late && left.all fun n => (s.core n).over_)) || !s.settledDown then none
  else
    let x := s.mem.shape
    let jobs := s.dies.flatMap (fun e => e.2.lostJobs) ++ left.map fun n => (s.core n).regs.job
    let v : Safe :=
      { bytes := s.mem.bytes.filter fun c => x.inStack c.1
        keys := s.mem.keys.filter fun e => x.inStack (e.1 * 16)
        abufs := s.cores.map fun e => (e.1, e.2.loc.abuf)
        tspads := s.cores.map fun e => (e.1, e.2.loc.tspad)
        dies := s.dies.map fun e => (e.1, e.2.kept)
        hqs := s.pkg.hqs, roots := loseRoots s.pkg.roots jobs, saves := s.saves
        lost := left.map fun n => (s.core n).regs.ctxId }
    some (s.setPkg { s.pkg with safe := some v, warned := none })

/-! ### Storage transfer (R383) -/

/-- The live ports whose neighbour advertises STORE. -/
def Fabric.storePorts (f : Fabric) : List Nat :=
  (List.range 144).filter fun p => f.width p != 0 && (f.status p).getLsbD 59
/-- PEER of a port. -/
def Fabric.peer (f : Fabric) (p : Nat) : Nat := bitsAt (f.status p).toNat 48 8
/-- The port that carries a 1 MiB unit of device memory. -/
def unitPort (ports : List Nat) (u : Nat) : Nat := ports.getD (u % ports.length) noPort
/-- The 1 MiB units of device memory: the stacks, then the tier. -/
def Shape.units (x : Shape) : Nat := x.nd * 2 ^ 15 + x.tiers * 2 ^ 16
def Shape.unitAddr (x : Shape) (u : Nat) : Nat :=
  if u < x.nd * 2 ^ 15 then u / 2 ^ 15 * 2 ^ 36 + u % 2 ^ 15 * 2 ^ 20 else 0x100000000000 + (u - x.nd * 2 ^ 15) * 2 ^ 20
/-- STORAGE_TRANSFER: after the checkpoint, the peer and the ports; none without a storage peer. -/
def State.storageStarts (s : State) : State :=
  if s.pkg.state != 3 || s.pkg.safe.isNone || s.pkg.warned.isSome || s.pkg.storage.isSome then s
  else match s.fab.storePorts with
    | [] => s
    | p :: ps =>
      let m := s.fab.peer p
      s.setPkg { s.pkg with storage := some (m, (p :: ps).filter fun q => s.fab.peer q == m), unsent := 0, sent := [] }
def execStorageTransfer (s : State) : Host.Outcome State Fault Refusal := .next s.storageStarts
/-- The next unit sets out for the peer, as 1 KiB stores of the module's management agent on its port (log 18); none while the channel
has no room, or when all are sent. -/
def State.unitLeaves (s : State) : Option State :=
  match s.pkg.storage with
  | none => none
  | some (m, ports) =>
    let u := s.pkg.unsent
    let live := ports.filter fun p => s.fab.width p != 0
    if s.mem.shape.units ≤ u || live.isEmpty
        || 3072 < (Map.getD s.fab.out (chanKey agentMgmt m 3) Chan.reset).unacked.length then none
    else
      let a := s.mem.shape.unitAddr u
      let p := if live.contains (unitPort ports u) then unitPort ports u else unitPort live u
      let t := (List.range 1024).foldl (fun (s : State) k =>
        let b := a + 1024 * k
        s.sendOn p agentMgmt m 3 (messageBody 1 0 1024 b 0 ((upFrom b 1024).map (Memory.read s.mem.bytes)))) s
      some (t.setPkg { t.pkg with unsent := u + 1, sent := t.pkg.sent ++ [(u, p)] })

/-! ### Restore at bring-up (R357) -/

/-- A core's storage from the safe region. -/
def State.refillCore (s : State) (v : Safe) (n : Nat) : State :=
  let c := s.core n
  s.setCore n { c with loc := { c.loc with
    abuf := (Map.find? v.abufs n).getD c.loc.abuf, tspad := (Map.find? v.tspads n).getD c.loc.tspad } }
/-- What a valid record brings back; it is then invalid, and the module is in CONFIG again. -/
def State.restored (s : State) (v : Safe) : State :=
  let x := s.mem.shape
  let s := (v.abufs.map (·.1)).foldl (fun (s : State) n => s.refillCore v n) s
  { s with
    mem := { s.mem with
      bytes := v.bytes.foldl (fun (m : Memory) c => Memory.write m c.1 c.2) (s.mem.bytes.filter fun c => !x.inStack c.1)
      ecc := s.mem.ecc.filter fun u => !x.inStack (u * 32)
      keys := v.keys.foldl (fun m e => Map.put m e.1 e.2) (s.mem.keys.filter fun e => !x.inStack (e.1 * 16)) }
    dies := v.dies
    saves := v.saves
    pkg := { s.pkg with hqs := v.hqs, roots := v.roots, safe := none, state := 1 } }
/-- CHECKPOINT_RESTORE: in CONFIG a valid record is found, and the module enters RESTORE; there it is restored. -/
def State.checkpointRestore (s : State) : State :=
  match s.pkg.state, s.pkg.safe with
  | 1, some _ => s.setPkg { s.pkg with state := 4 }
  | 4, some v => s.restored v
  | _, _ => s
def execCheckpointRestore (s : State) : Host.Outcome State Fault Refusal := .next s.checkpointRestore

end Sys2Proof.Machine
end

