-- ==== Sys2Proof/Machine/Link.lean ====
section
/-! DEFINITION. Ports, lanes and flits (R373 to R377): the parity code, link retry, credits, and what a port sends. -/

namespace Sys2Proof.Machine

/-! ### GF(2^8) with polynomial 0x11D -/

/-- Twice an element. -/
def gfDouble (a : Byte) : Byte := (a <<< 1) ^^^ (if a.getLsbD 7 then 0x1D else 0)
/-- The product. -/
def gfMul (a b : Byte) : Byte :=
  ((List.range 8).foldl (fun (x : Byte × Byte) i =>
    (if b.getLsbD i then x.1 ^^^ x.2 else x.1, gfDouble x.2)) (0, a)).1
/-- The power `α^k`. -/
def gfPow (k : Nat) : Byte := (List.range (k % 255)).foldl (fun (x : Byte) _ => gfDouble x) 1
/-- The inverse of an element that is not 0: its power 254. -/
def gfInv (a : Byte) : Byte :=
  ((List.range 7).foldl (fun (x : Byte × Byte) _ => let q := gfMul x.2 x.2; (gfMul x.1 q, q)) (1, a)).1
/-- The value of a polynomial, given by its coefficients from that of 1 up. -/
def gfEval (c : List Byte) (x : Byte) : Byte := c.foldr (fun a y => a ^^^ gfMul y x) 0
/-- Coefficient `k`. -/
def gfAt (c : List Byte) (k : Nat) : Byte := c.getD k 0

/-! ### The Reed-Solomon code (Table FAB-1) -/

/-- The parity symbols of a codeword. -/
def rsParity : Nat := 26
/-- The syndromes of a codeword: its values at `α^0` to `α^25`; symbol 0 is the highest coefficient (log 26). -/
def rsSyndromes (w : List Byte) : List Byte := (List.range rsParity).map fun j => gfEval w.reverse (gfPow j)
/-- The generator's coefficients below the leading one, from the highest down. -/
def rsGenerator : List Byte :=
  ((List.range rsParity).foldl (fun (g : List Byte) j =>
    let x := gfPow j
    (List.range (g.length + 1)).map fun k =>
      g.getD k 0 ^^^ gfMul x (if k = 0 then 0 else g.getD (k - 1) 0)) [1]).drop 1
/-- The parity symbols of a message. -/
def rsEncode (m : List Byte) : List Byte :=
  m.foldl (fun (r : List Byte) x =>
    let q := x ^^^ r.headD 0
    (List.range rsParity).map fun k => r.getD (k + 1) 0 ^^^ gfMul q (rsGenerator.getD k 0))
    (List.replicate rsParity 0)

/-- The state of the locator's construction. -/
structure Locator where
  c : List Byte
  b : List Byte
  len : Nat
  m : Nat
  last : Byte
  deriving DecidableEq, Repr

/-- One step of it (Berlekamp and Massey). -/
def Locator.step (x : Locator) (s : List Byte) (n : Nat) : Locator :=
  let d := (List.range (x.len + 1)).foldl (fun (a : Byte) i => a ^^^ gfMul (gfAt x.c i) (gfAt s (n - i))) 0
  if d = 0 then { x with m := x.m + 1 }
  else
    let q := gfMul d (gfInv x.last)
    let c := (List.range (max x.c.length (x.b.length + x.m))).map fun k =>
      gfAt x.c k ^^^ (if k < x.m then 0 else gfMul q (gfAt x.b (k - x.m)))
    if 2 * x.len ≤ n then ⟨c, x.c, n + 1 - x.len, 1, d⟩ else { x with c := c, m := x.m + 1 }
/-- The error locator of a list of syndromes. -/
def rsLocator (s : List Byte) : Locator :=
  (List.range rsParity).foldl (fun x n => Locator.step x s n) ⟨[1], [1], 0, 1, 1⟩
/-- A corrected codeword of 128 symbols with the number of its errors; none where more than 13 stand in it. -/
def rsCorrect (w : List Byte) : Option (List Byte × Nat) :=
  let s := rsSyndromes w
  if s.all (· == 0) then some (w, 0)
  else
    let x := rsLocator s
    let omega := (List.range rsParity).map fun k =>
      (List.range (k + 1)).foldl (fun (a : Byte) i => a ^^^ gfMul (gfAt x.c i) (gfAt s (k - i))) 0
    let slope (y : Byte) : Byte :=
      gfEval ((List.range x.c.length).map fun k => if k % 2 = 0 then gfAt x.c (k + 1) else 0) y
    let fixed := w.zipIdx.map fun e =>
      let y := gfPow (255 - (127 - e.2))
      if gfEval x.c y = 0 then
        (e.1 ^^^ gfMul (gfPow (127 - e.2)) (gfMul (gfEval omega y) (gfInv (slope y))), 1)
      else (e.1, 0)
    let out := fixed.map (·.1)
    let n := (fixed.map (·.2)).sum
    if x.len ≤ 13 && n == x.len && (rsSyndromes out).all (· == 0) then some (out, n) else none

/-! ### Flits (Table FAB-1) -/

/-- A flit's header and its three slots. -/
structure Flit where
  seq : BitVec 16
  ack : BitVec 16
  kind : Nat
  slots : List (Option (Nat × List Byte))
  cred : Nat
  cvc : Nat
  deriving DecidableEq, Repr

/-- The header's 64 bits. -/
def Flit.head (f : Flit) : Nat :=
  let per (g : Nat → Option (Nat × List Byte) → Nat) : Nat := (f.slots.zipIdx.map fun e => g e.2 e.1).sum
  f.seq.toNat * 2 ^ 48 + f.ack.toNat * 2 ^ 32 + f.kind % 8 * 2 ^ 29
    + per (fun i s => if s.isSome then 2 ^ i else 0) * 2 ^ 26
    + per (fun i s => match s with | some u => u.1 % 4 * 4 ^ i | none => 0) * 2 ^ 20
    + f.cred % 256 * 2 ^ 12 + f.cvc % 4 * 2 ^ 10
/-- A flit's 256 bytes. -/
def Flit.bytes (f : Flit) : List Byte :=
  let slot (k : Nat) : List Byte :=
    match f.slots.getD k none with
    | some u => (u.2 ++ List.replicate 64 0).take 64
    | none => List.replicate 64 0
  let data := leBytes 8 f.head ++ slot 0 ++ slot 1 ++ slot 2
  let body := data ++ leBytes 4 (crc32c data).toNat
  let par (i : Nat) : List Byte := rsEncode ((List.range 102).map fun j => body.getD (2 * j + i) 0)
  body ++ ((par 0).zip (par 1)).flatMap fun x => [x.1, x.2]

/-- A received flit after correction, with the number of corrected bytes: none where it fails. -/
def flitCheck (bs : List Byte) : Option (List Byte × Nat) :=
  let word (i : Nat) : List Byte := (List.range 128).map fun j => bs.getD (2 * j + i) 0
  match rsCorrect (word 0), rsCorrect (word 1) with
  | some (a, m), some (b, n) =>
    let out := (a.zip b).flatMap fun x => [x.1, x.2]
    if leNat ((out.drop 200).take 4) = (crc32c (out.take 200)).toNat then some (out, m + n) else none
  | _, _ => none
/-- The fields of a flit's bytes. -/
def flitOf (bs : List Byte) : Flit :=
  let h := leNat (bs.take 8)
  { seq := BitVec.ofNat 16 (bitsAt h 48 16), ack := BitVec.ofNat 16 (bitsAt h 32 16), kind := bitsAt h 29 3
    slots := (List.range 3).map fun k =>
      if h.testBit (26 + k) then some (bitsAt h (20 + 2 * k) 2, (bs.drop (8 + 64 * k)).take 64) else none
    cred := bitsAt h 12 8, cvc := bitsAt h 10 2 }

/-! ### Ports -/

/-- FABCFG.EN. -/
def Fabric.en (f : Fabric) : Bool := f.cfg.getLsbD 63
/-- A counter of FPSTAT that saturates: RETRY from bit 16, FECC from bit 0. -/
def countUp (x : Word) (lo : Nat) : Word :=
  if bitsAt x.toNat lo 16 = 0xFFFF then x else x + BitVec.ofNat 64 (2 ^ lo)
/-- The width of a port. -/
def withWidth (x : Word) (n : Nat) : Word := (x &&& 0x3FFFFFFFFFFFFFFF) ||| BitVec.ofNat 64 (n % 4 * 2 ^ 62)

/-- R375: an ACK passes the flits before it. -/
def Link.acked (l : Link) (ack : BitVec 16) : Link :=
  let rest := l.retry.filter fun e => decide ((e.1 - ack).toNat < 2 ^ 15)
  if rest.length = l.retry.length then l
  else { l with retry := rest, retries := 0, carry := if rest.isEmpty && l.units.isEmpty then [] else l.carry }
/-- R375: a retry request: every flit from the named one on is sent again. -/
def Link.again (l : Link) (ack : BitVec 16) : Link :=
  let l := l.acked ack
  { l with resend := l.retry.map (·.2), retries := if l.retry.isEmpty then l.retries else l.retries + 1 }

/-- Credits free on a channel: 64 at link-up, less those used. -/
def Link.free (l : Link) (vc : Nat) : Nat := 64 - Map.getD l.used vc 0
/-- Credits come back. -/
def Link.returned (l : Link) (vc n : Nat) : Link := { l with used := Map.put l.used vc (Map.getD l.used vc 0 - n) }
/-- Up to three units that have credits, none before an earlier unit of its channel, and the rest; `blocked` are the
channels that wait. -/
def pickUnits (l : Link) (room : Nat) (blocked : List Nat) (us : List (Nat × List Byte)) :
    List (Nat × List Byte) × List (Nat × List Byte) × Link :=
  match us with
  | [] => ([], [], l)
  | u :: rest =>
    if 0 < room && !blocked.contains u.1 && 0 < l.free u.1 then
      let y := pickUnits { l with used := Map.put l.used u.1 (Map.getD l.used u.1 0 + 1) } (room - 1) blocked rest
      (u :: y.1, y.2.1, y.2.2)
    else
      let y := pickUnits l room (u.1 :: blocked) rest
      (y.1, u :: y.2.1, y.2.2)

/-- The capability unit (R376). -/
def Fabric.capUnit (f : Fabric) : List Byte :=
  [BitVec.ofNat 8 f.modnum, if f.cfg.getLsbD 62 then 0 else 3] ++ List.replicate 62 0

/-- The credits that a flit returns. -/
def Link.credit (l : Link) : Nat × Nat × Link :=
  match List.find? (fun e : Nat × Nat => e.2 != 0) l.owed with
  | some (vc, n) => (min n 255, vc, { l with owed := Map.put l.owed vc (n - min n 255) })
  | none => (0, 0, l)
/-- Send a flit that takes a sequence number. -/
def Link.numbered (l : Link) (kind : Nat) (slots : List (Option (Nat × List Byte))) : Link :=
  let (n, vc, l) := l.credit
  let bs := (Flit.mk l.next l.expect kind slots n vc).bytes
  { l with next := l.next + 1, retry := l.retry ++ [(l.next, bs)], ackDue := false, wire := l.wire ++ [bs] }
/-- Send one that takes none. -/
def Link.plain (l : Link) (kind : Nat) : Link :=
  let (n, vc, l) := l.credit
  { l with ackDue := false, wire := l.wire ++ [(Flit.mk l.next l.expect kind [] n vc).bytes] }

/-- The next flit of a port: a retry request, a flit that is sent again, a capability flit, data, or an idle flit that
brings credits or an ACK; none where nothing is to be sent. -/
def State.flitLeaves (s : State) (p : Nat) : Option State :=
  let f := s.fab
  let l := f.link p
  let put (l : Link) : Option State := some { s with fab := f.setLink p l }
  if f.width p = 0 || l.training then none
  else if l.nak then put ({ l with nak := false }.plain 2)
  else match l.resend with
    | b :: rest => put { l with resend := rest, wire := l.wire ++ [b] }
    | [] =>
      let room := decide (l.retry.length < 512)
      if l.cap && room then put ({ l with cap := false }.numbered 3 [some (0, f.capUnit)])
      else
        let y := pickUnits l 3 [] l.units
        if room && !y.1.isEmpty then put ({ y.2.2 with units := y.2.1 }.numbered 1 (y.1.map some))
        else if l.ackDue || l.owed.any (fun e => e.2 != 0) then put (l.plain 0)
        else none

/-! ### Reception (R375, R378) -/

/-- The fields of a message's bytes (Table FAB-5). -/
def msgOf (bs : List Byte) : Msg :=
  let h := leNat (bs.take 8)
  { dst := bitsAt h 56 8, src := bitsAt h 48 8, agent := bitsAt h 36 12, hops := bitsAt h 33 3, vc := bitsAt h 25 2
    cseq := bitsAt h 1 24, body := bs.drop 8 }
/-- A unit arrives: it completes its message, or waits for the others. -/
def Fabric.unit (f : Fabric) (p : Nat) (u : Nat × List Byte) : Fabric :=
  let l := f.link p
  let bs := Map.getD l.rx u.1 [] ++ u.2
  let l := { l with owed := Map.put l.owed u.1 (Map.getD l.owed u.1 0 + 1) }
  let nu := bitsAt (leNat (bs.take 8)) 27 6 + 1
  if bs.length < 64 * nu then f.setLink p { l with rx := Map.put l.rx u.1 bs }
  else { f.setLink p { l with rx := Map.del l.rx u.1 } with arrived := f.arrived ++ [msgOf bs] }

/-- R376: what the neighbour advertises. -/
def Fabric.advertised (f : Fabric) (p : Nat) (modnum flags : Byte) : Fabric :=
  let b (i k : Nat) : Nat := if flags.getLsbD i then 2 ^ k else 0
  f.setStatus p ((f.status p &&& 0xC0000000FFFFFFFF)
    ||| BitVec.ofNat 64 (b 0 61 + b 1 60 + b 2 59 + modnum.toNat * 2 ^ 48))
/-- CAPABILITY. -/
def execCapability (p : Nat) (modnum flags : Byte) (s : State) : Host.Outcome State Fault Refusal :=
  .next (if s.fab.width p = 0 then s else { s with fab := s.fab.advertised p modnum flags })

/-- A port is live again: messages that had no port take one. -/
def Fabric.reroute (f : Fabric) (gone : Nat → Bool) (tick time : Nat) : Fabric :=
  f.out.foldl (fun (f : Fabric) e =>
    let c := Map.getD f.out e.1 Chan.reset
    let y := c.unacked.foldl (fun (x : Fabric × List (Msg × Nat × Nat)) u =>
      if gone u.2.1 then
        let p := x.1.portFor u.1.dst tick
        (x.1.load p u.1, x.2 ++ [(u.1, p, if u.2.1 = noPort && p = noPort then u.2.2 else time)])
      else (x.1, x.2 ++ [u])) (f, [])
    { y.1 with out := Map.put y.1.out e.1 { c with unacked := y.2 } }) f

/-- R378: forward a message by the route entry for its destination; none while no port of the route is live. -/
def Fabric.forward (f : Fabric) (m : Msg) (tick : Nat) : Option Fabric :=
  let e := Map.getD f.routes m.dst 0
  if 7 ≤ m.hops || !e.getLsbD 63 then some { f with log := f.log ++ [m] }
  else
    let p := f.portFor m.dst tick
    if p = noPort then none
    else
      let m := { m with hops := m.hops + 1 }
      let f := f.load p m
      let l := f.link p
      some (f.setLink p { l with carry := l.carry ++ [m] })

/-- R375: a port goes down: what it had is sent on the ports that remain (R379). -/
def State.portFails (s : State) (p : Nat) : State :=
  let f := s.fab
  let l := f.link p
  let f := (f.setLink p { Link.reset with wire := l.wire }).setStatus p (f.status p &&& 0xFFFFFFFF)
  let f := f.reroute (· == p) s.tick s.time
  { s with fab := { f with arrived := f.arrived ++ l.carry.map fun m => { m with hops := m.hops - 1 } } }
/-- PORT_DOWN. -/
def execPortDown (p : Nat) (s : State) : Host.Outcome State Fault Refusal := .next (s.portFails p)

/-- R379: messages that had no live port take one when a route has one. -/
def State.takesPort (s : State) : Option State :=
  if s.fab.out.any fun e => e.2.unacked.any fun u => u.2.1 == noPort && s.fab.portFor u.1.dst s.tick != noPort
  then some { s with fab := s.fab.reroute (· == noPort) s.tick s.time } else none

/-- RETRY_REQUEST: a port that has been asked 16 times for one flit goes down. -/
def State.retries (s : State) (p : Nat) (ack : BitVec 16) : State :=
  let f := s.fab
  if f.width p = 0 then s
  else
    let l := (f.link p).again ack
    if 16 ≤ l.retries then s.portFails p
    else { s with fab := (f.setLink p l).setStatus p (countUp (f.status p) 16) }
def execRetryRequest (p : Nat) (ack : BitVec 16) (s : State) : Host.Outcome State Fault Refusal :=
  .next (s.retries p ack)

/-- LANE_RETRAIN: one of two lanes is lost; a port that loses its last one goes down. -/
def execLaneRetrain (p : Nat) (s : State) : Host.Outcome State Fault Refusal :=
  let f := s.fab
  match f.width p with
  | 0 => .next s
  | 1 => .next (s.portFails p)
  | _ => .next { s with fab := f.setLink p { f.link p with training := true } }

/-- LINK_UP: training has ended.  A port that has lost a lane goes on with one; another port comes up anew.  A port that PORTMAP does
not present stays down (R341). -/
def execLinkUp (p : Nat) (lanes : BitVec 2) (s : State) : Host.Outcome State Fault Refusal :=
  let f := s.fab
  let l := f.link p
  if !f.en || !s.pkg.record.portMap.getLsbD p || lanes = 0 || lanes = 3 then .next s
  else if l.training then
    let f' := f.setLink p { l with training := false, cap := true }
    .next { s with fab := f'.setStatus p (withWidth (f.status p) 1) }
  else if f.width p ≠ 0 then .next s
  else
    let f' := f.setLink p { Link.reset with cap := true, wire := l.wire }
    let f := f'.setStatus p (withWidth (f.status p) lanes.toNat)
    .next { s with fab := f.reroute (· == noPort) s.tick s.time }

/-- FLIT_RECEIVE. -/
def State.flit (s : State) (p : Nat) (bs : List Byte) : State :=
  let f := s.fab
  let l := f.link p
  let ask : State := { s with fab := f.setLink p { l with nak := true } }
  if f.width p = 0 || l.training then s
  else match flitCheck bs with
    | none => ask
    | some (out, fixed) =>
      let x := flitOf out
      let f := if fixed = 0 then f else f.setStatus p (countUp (f.status p) 0)
      let s : State := { s with fab := f }
      if x.kind = 2 then s.retries p x.ack
      else if 4 ≤ x.kind then s
      else if x.seq ≠ l.expect then { s with fab := f.setLink p { l with nak := true } }
      else
        let l := (l.acked x.ack).returned x.cvc x.cred
        let l := if x.kind = 0 then l else { l with expect := l.expect + 1, ackDue := true }
        let f := f.setLink p l
        let f := match x.kind, x.slots with
          | 1, us => us.foldl (fun (f : Fabric) u => match u with | some u => f.unit p u | none => f) f
          | 3, some u :: _ => f.advertised p (u.2.getD 0 0) (u.2.getD 1 0)
          | _, _ => f
        { s with fab := f }
def execFlitReceive (p : Nat) (bs : List Byte) (s : State) : Host.Outcome State Fault Refusal := .next (s.flit p bs)

/-! ### FABCFG (R377) -/

/-- FABCFG_WRITE. -/
def execFabcfgWrite (x : Word) (s : State) : Host.Outcome State Fault Refusal := .next { s with fab := s.fab.writeCfg x }

end Sys2Proof.Machine
end

