-- ==== Sys2Proof/Machine/Fabric.lean ====
section
/-! DEFINITION. Messages at their destination (R378, R379), requests of another module (R381), operands of another
module (R382), completions, and messages without a route (R380). -/

namespace Sys2Proof.Machine

/-! ### Delivery (R379) -/

/-- An acknowledgement of a channel's message: it belongs to no channel itself (log 18). -/
def State.acknowledge (s : State) (m : Msg) (cseq : Nat) : State :=
  let x : Msg :=
    { dst := m.src, src := s.fab.modnum, agent := 0, hops := 0, vc := 1, cseq := 0
      body := messageBody 5 0 0 (replyKey m.agent m.vc cseq) 0 [] }
  { s with fab := s.fab.load (s.fab.portFor m.src s.tick) x }
/-- An acknowledgement arrives: the channel's messages up to it are kept no longer. -/
def Fabric.acked (f : Fabric) (src key : Nat) : Fabric :=
  let k := chanKey (key / 2 ^ 24 / 4) src (key / 2 ^ 24 % 4)
  let c := Map.getD f.out k Chan.reset
  let passed (u : Nat) : Bool := decide ((key % 2 ^ 24 + 2 ^ 24 - u) % 2 ^ 24 < 2 ^ 23)
  { f with out := Map.put f.out k { c with unacked := c.unacked.filter fun u => !passed u.1.cseq } }

/-- What a message does at its destination: none where it must wait.  A request enters the fabric port's channel to its home slice
(R309, R312). -/
def State.receive (s : State) (m : Msg) : Option State :=
  let a := askOf m
  match a.kind with
  | 3 =>
    let o : Operand :=
      { src := .module_ m.src m.agent m.cseq, tag := BitVec.ofNat 32 (a.addr % 2 ^ 32)
        pos := BitVec.ofNat 4 (a.addr / 2 ^ 32), fmt := if a.op = 0 then none else Tag.ofCode (BitVec.ofNat 4 (a.op - 1))
        row := BitVec.ofNat 16384 (leNat a.data), refused := 0, due := 0 }
    some { s with conj := { s.conj with flying := s.conj.flying ++ [o] } }
  | 4 => some { s with fab := { s.fab with replies := s.fab.replies ++ [(m.src, a.addr, a.op, a.data)] } }
  | 0 | 1 | 2 =>
    if !s.mem.shape.assigned a.addr then
      if s.fab.open_ (agentUnit (s.mem.shape.homeSlice a.addr)) m.src 1 then some (s.replyTo m 1 []) else none
    else some (s.push (srcPort ((s.fab.livePorts m.src).headD 0)) (agentReq (.ask m) a.addr a.key true (a.kind == 0 && a.op == 1) 0))
  | _ => some s

/-- MESSAGE_DELIVERY: the `k`-th message that has arrived.  One for another module is forwarded; one of a channel waits
for its turn, and for a port that takes its acknowledgement. -/
def State.delivers (s : State) (k : Nat) : Option State :=
  match s.fab.arrived[k]? with
  | none => none
  | some m =>
    let f := { s.fab with arrived := s.fab.arrived.eraseIdx k }
    let s' : State := { s with fab := f }
    if m.dst ≠ f.modnum then (f.forward m s.tick).map fun f => { s with fab := f }
    else if (askOf m).kind = 5 then some { s with fab := f.acked m.src (askOf m).addr }
    else
      let key := chanKey m.agent m.src m.vc
      let c := Map.getD f.inn key Chan.reset
      if (f.livePorts m.src).isEmpty then none
      else if m.cseq = c.expect then
        (s'.receive m).map fun t =>
          let next := (c.expect + 1) % 2 ^ 24
          let turn := c.early.filter fun e => e.cseq == next
          let c := { c with expect := next, early := c.early.filter fun e => e.cseq != next }
          let g := t.fab
          let t : State := { t with fab := { g with inn := Map.put g.inn key c, arrived := turn ++ g.arrived } }
          t.acknowledge m m.cseq
      else if (c.expect + 2 ^ 24 - m.cseq) % 2 ^ 24 < 2 ^ 23 then
        some (s'.acknowledge m ((c.expect + 2 ^ 24 - 1) % 2 ^ 24))
      else
        let c := if c.early.contains m then c else { c with early := c.early ++ [m] }
        some { s' with fab := { f with inn := Map.put f.inn key c } }
def execMessageDelivery (k : Nat) (s : State) : Host.Outcome State Fault Refusal := .next ((s.delivers k).getD s)

/-- MESSAGE_FORWARD: a message for another module leaves this one; one that has no live port waits among those that have
arrived. -/
def execMessageForward (m : Msg) (s : State) : Host.Outcome State Fault Refusal :=
  let f := { s.fab with arrived := s.fab.arrived.erase m }
  if m.dst = f.modnum then .next s
  else match f.forward m s.tick with
    | some f => .next { s with fab := f }
    | none => .next { s with fab := { f with arrived := f.arrived ++ [m] } }

/-! ### Completions at the issuer (R381) -/

/-- The completion of an access of core `n`: status and data. -/
def State.accCompletes (s : State) (n : Nat) (a : Acc) (st : Nat) (bs : List Byte) : State :=
  let refused (s : State) : State := if st = 2 then s.post n ⟨7, 2, BitVec.ofNat 64 a.pa⟩ else s
  match a.kind with
  | .load d pa k _ _ fw =>
    let v := (upFrom pa k).zipIdx.map fun x =>
      match fw.find? fun f => f.1 == x.1 with | some f => f.2 | none => bs.getD x.2 0
    s.sendReply n a (d.withValue (BitVec.ofNat 64 (leNat v)) (st != 0))
  | .brtEntry pa fw =>
    let v := (upFrom pa 8).zipIdx.map fun x =>
      match fw.find? fun f => f.1 == x.1 with | some f => f.2 | none => bs.getD x.2 0
    let s := s.dropAcc n a.id
    let c := s.core n
    s.setCore n { c with btw := { c.btw with brt := some (BitVec.ofNat 64 (leNat v), st != 0) } }
  | .atomic _ d _ _ _ _ _ _ => refused (s.sendReply n a (.g d (BitVec.ofNat 64 (leNat bs)) (st != 0)))
  | _ => refused (s.dropAcc n a.id)

/-- The status with which a copy's part ends (Table CPY-5): none where it has been served. -/
def partStatus (st : Nat) : Option Nat := if st = 0 then none else if st = 2 then some 2 else some 7
/-- What a completion, or a failure, does to what waits for it. -/
def State.answered (s : State) (r : Remote) (st : Nat) (bs : List Byte) : State :=
  let s := { s with fab := { s.fab with waiting := s.fab.waiting.filter (· != r) } }
  let n := r.core
  if r.copy then
    match (s.core n).itemAt r.id with
    | some (_, .copy _) =>
      if r.write then s.writeDone n r.id r.lo r.hi (partStatus st)
      else s.readDone n r.id r.lo (match partStatus st with | none => .ok bs | some e => .error e)
    | some (i, .send x) =>
      let m : Met := match st with | 0 => .placed | 1 => .full | k => .refused k
      s.setCore n ((s.core n).answerSend i x m s.time)
    | none => s
  else match s.acc n r.id with
    | some a => s.accCompletes n a st bs
    | none => s

/-- REMOTE_COMPLETION: the `k`-th request of core `n` that waits for another module, whose completion has come. -/
def State.remoteCompletes (s : State) (n k : Nat) : Option State :=
  match (s.fab.waiting.filter fun r => r.core == n)[k]? with
  | none => none
  | some r =>
    match s.fab.replies.find? fun x => x.1 == r.module_ && x.2.1 == replyKey r.agent r.vc r.cseq with
    | none => none
    | some x =>
      let t := s.answered r x.2.2.1 x.2.2.2
      some { t with fab := { t.fab with replies := t.fab.replies.filter (· != x) } }
def execRemoteCompletion (n k : Nat) (s : State) : Host.Outcome State Fault Refusal :=
  .next ((s.remoteCompletes n k).getD s)

/-! ### Messages without a route (R380) -/

/-- FABCFG.TMO. -/
def Fabric.tmo (f : Fabric) : Nat := bitsAt f.cfg.toNat 0 32
/-- The messages that wait for a route: the channel, the message, since when. -/
def Fabric.stranded (f : Fabric) : List (Nat × Msg × Nat) :=
  f.out.flatMap fun e => (e.2.unacked.filter fun u => u.2.1 == noPort).map fun u => (e.1, u.1, u.2.2)
/-- The bytes of a failed reply: a poisoned value that the spec does not give (log 24). -/
def State.strayBytes (s : State) (r : Remote) : List Byte := (upFrom r.cseq 8).map (Config.remoteByte s.tick)
/-- The status of a failed request: a conjunction send stops with SCOPE. -/
def failStatus (m : Msg) : Nat := if m.vc = 2 then 2 else 1

/-- ROUTE_TIMEOUT: the `k`-th of them fails (Table FAB-6). -/
def State.routeFails (s : State) (k : Nat) : Option State :=
  match s.fab.stranded[k]? with
  | none => none
  | some (key, m, since) =>
    if s.time < since + s.fab.tmo then none
    else
      let c := Map.getD s.fab.out key Chan.reset
      let f := { s.fab with
        out := Map.put s.fab.out key { c with unacked := c.unacked.filter fun u => u.1 != m }
        log := s.fab.log ++ [m] }
      let s : State := { s with fab := f }
      match f.waiting.find? fun r => r.module_ == m.dst && r.agent == m.agent && r.vc == m.vc && r.cseq == m.cseq with
      | none => some s
      | some r => some (s.answered r (failStatus m) (s.strayBytes r))
def execRouteTimeout (k : Nat) (s : State) : Host.Outcome State Fault Refusal := .next ((s.routeFails k).getD s)

end Sys2Proof.Machine
end

