-- ==== Sys2Proof/Machine/Fetch.lean ====
section
/-! DEFINITION. Code fetch (R187 to R192, R238), the staging of code pages (R294, R295), and what the supervisor
writes through a die controller about memory (R279, R287, R298). -/

namespace Sys2Proof.Machine

/-! ### The code cache (R187, R190) -/

/-- The set of a line. -/
def lineSet (pa : Nat) : Nat := bitsAt pa 7 8
/-- The bundle of a line at an address. -/
def CodeLine.bundle (l : CodeLine) (pa : Nat) : Bits256 :=
  match pa / 32 % 4 with | 0 => l.b0 | 1 => l.b1 | 2 => l.b2 | _ => l.b3
/-- The line that holds an address, in the cache or delivered. -/
def Fetch.line (f : Fetch) (pa : Nat) : Option CodeLine :=
  let a := alignDown pa 128
  (f.lines.find? fun l => l.pa == a).or (f.direct.bind fun l => if l.pa = a then some l else none)
/-- A hit makes its way the most recent. -/
def Fetch.hit (f : Fetch) (pa : Nat) : Fetch :=
  let a := alignDown pa 128
  match f.lines.find? fun l => l.pa == a with
  | some l => { f with lines := l :: f.lines.filter fun x => x.pa != a }
  | none => f
/-- The ways that a partition may fill (Table CST-6). -/
def fillWays (ccway : Word) (part : Nat) : List Nat :=
  (List.range 4).filter fun w => (bitsAt ccway.toNat (4 * part) 4).testBit w
/-- R190: fill a line; a partition without a way has it delivered only. -/
def Fetch.fill (f : Fetch) (ccway : Word) (part : Nat) (l : CodeLine) : Fetch :=
  let mine := f.lines.filter fun x => lineSet x.pa == lineSet l.pa
  let ws := fillWays ccway part
  match ws.find? fun w => !mine.any fun x => x.way == w with
  | some w => { f with lines := { l with way := w } :: f.lines }
  | none =>
    match (mine.filter fun x => ws.contains x.way).getLast? with
    | some v => { f with lines := { l with way := v.way } :: f.lines.filter fun x => x != v }
    | none => { f with direct := some l }

/-- Bundle `k` of the bytes of a block. -/
def bundleOf (bs : List Byte) (k : Nat) : Bits256 := BitVec.ofNat 256 (leNat ((bs.drop (32 * k)).take 32))
/-- The line at an address, from the expanded block that holds it. -/
def lineFrom (bs : List Byte) (pa : Nat) : CodeLine :=
  let k := pa % 1024 / 128 * 4
  ⟨alignDown pa 128, 0, bundleOf bs k, bundleOf bs (k + 1), bundleOf bs (k + 2), bundleOf bs (k + 3)⟩

/-! ### The bundle at the program counter (R188, R192, R238) -/

/-- What the fetch stage supplies. -/
inductive Fetched where
  | bundle (b : Bits256) (pa : Option Nat)
  | stop (v : Verdict)
  deriving DecidableEq, Repr

/-- R189: the expanded block that the block buffer holds for an address. -/
def Fetch.heldBlock (f : Fetch) (pa : Nat) : Option (List Byte) :=
  f.block.bind fun b => if b.1 = alignDown pa 1024 then some b.2 else none
/-- The staged copy of a code page on a die. -/
def State.stagedPage (s : State) (d page : Nat) : Option Staged :=
  s.mem.staged.find? fun x => x.die == d && x.page == page

/-- A fetch fault: TSLOT 6, and TINFO holds the bundle's address (R238). -/
def fetchTrap (code sub : Nat) (pc : Word) : Fetched := .stop (.trap ⟨code, sub, 6, pc⟩)

/-- R188, R192, R238: the bundle at the program counter of core `n`. -/
def State.fetch (s : State) (n : Nat) : Fetched :=
  let c := s.core n
  let pc := c.ctx.pc
  let info := pc.toNat % 2 ^ 56 / 256
  match (if c.ctx.seqr.loop then c.fetch.loopBuf.find? fun e => e.1 == pc.toNat else none) with
  | some e => .bundle e.2 none
  | none =>
    match s.translate c .fetch pc with
    | .fault sub => fetchTrap 7 sub pc
    | .miss => .stop (.freeze 3 info .none)
    | .hit pa t =>
      let pa := s.codePa t pa
      match c.fetch.line pa with
      | some l => .bundle (l.bundle pa) (some pa)
      | none =>
        if c.fetch.failed.contains (pa / 1024) then fetchTrap 8 0 pc
        else if (c.fetch.heldBlock pa).isSome then .stop (.freeze 4 info .none)
        else match s.stagedPage (dieOf n) (pa / 65536) with
          | some x => if x.good then .stop (.freeze 4 info .none) else fetchTrap 8 0 pc
          | none => .stop (.freeze 4 info .none)

/-- R192: a body bundle that is passed is captured. -/
def Core.capture (c : Core) (pc : Word) (b : Bits256) : Core :=
  let q := c.ctx.seqr
  if q.loop && decide ((pc - q.lstart).toNat / 32 ≤ q.llen.toNat) && !(c.fetch.loopBuf.any fun e => e.1 == pc.toNat)
  then { c with fetch := { c.fetch with loopBuf := c.fetch.loopBuf ++ [(pc.toNat, b)] } }
  else c

/-! ### A miss (R189, R294) -/

/-- Bring in the line at the address `pa` of code through a translation, from the block buffer (R189) or from the staged
copy (R294), a STREAM copy of which is then freed (R295); whether it came. -/
def State.bring (s : State) (n : Nat) (t : Tlb) (pa : Nat) : State × Bool :=
  let c := s.core n
  let put (s : State) (bs : List Byte) : State :=
    let c := s.core n
    let f := { c.fetch with block := some (alignDown pa 1024, bs) }
    s.setCore n { c with fetch := f.fill c.regs.ccway c.regs.part.toNat (lineFrom bs pa) }
  match c.fetch.heldBlock pa with
  | some bs => (put s bs, true)
  | none =>
    match (s.stagedPage (dieOf n) (pa / 65536)).bind fun x => x.block s.mem (pteKey t.hi) (pa % 65536 / 1024) with
    | some bs =>
      let s := put s bs
      let s := { s with mem := s.mem.useStaged (dieOf n) (pa / 65536) s.time none }
      ({ s with mem := { s.mem with staged := s.mem.staged.filter fun x =>
        !(x.die == dieOf n && x.page == pa / 65536 && x.cls == .stream && x.good) } }, true)
    | none => (s, false)

/-- The class of a leaf. -/
def rcClass (lo : Word) : Residency :=
  match pteRc lo with | 0 => .pinned | 1 => .warm | 2 => .cold | _ => .stream

/-- R141: the first line that a PFI still asks for. -/
def State.prefetchLine (s : State) (n : Nat) : Option State :=
  let c := s.core n
  match c.fetch.pfi with
  | [] => none
  | [] :: rest => some (s.setCore n { c with fetch := { c.fetch with pfi := rest } })
  | (va :: more) :: rest =>
    let next (s : State) (left : List (List Nat)) : State :=
      let c := s.core n
      s.setCore n { c with fetch := { c.fetch with pfi := left } }
    match s.translate c .fetch (BitVec.ofNat 64 va) with
    | .fault _ => some (next s rest)
    | .miss =>
      if c.fetch.walks.contains (c.walkFor va) then none else some (s.setCore n (c.wantWalk va))
    | .hit pa t =>
      let pa := s.codePa t pa
      if (c.fetch.line pa).isSome then some (next s (more :: rest))
      else if (c.fetch.heldBlock pa).isSome then some (next (s.bring n t pa).1 (more :: rest))
      else
        let s := s.stagePage (dieOf n) (pa / 65536) (rcClass t.lo) false
        match s.stagedPage (dieOf n) (pa / 65536) with
        | none => some (next s rest)
        | some x =>
          if !x.good then some (next s rest)
          else
            let r := s.bring n t pa
            some (next r.1 (if r.2 then more :: rest else rest))

/-- CODE_FETCH_MISS: the demanded line of core `n`; where none is demanded, a line that a PFI asks for. -/
def State.fetchMiss (s : State) (n : Nat) : Option State :=
  let c := s.core n
  if c.frozenFor 4 then
    match s.translate c .fetch c.ctx.pc with
    | .hit pa t =>
      let pa := s.codePa t pa
      if (c.fetch.line pa).isSome || c.fetch.failed.contains (pa / 1024) then none
      else if (c.fetch.heldBlock pa).isSome then some (s.bring n t pa).1
      else match s.stagedPage (dieOf n) (pa / 65536) with
        | some x =>
          if !x.good then none
          else
            let r := s.bring n t pa
            some (if r.2 then r.1
              else
                let c := r.1.core n
                r.1.setCore n { c with fetch := { c.fetch with failed := (pa / 1024) :: c.fetch.failed } })
        | none => none
    | _ => none
  else s.prefetchLine n

def execCodeFetchMiss (n : Nat) (s : State) : Host.Outcome State Fault Refusal :=
  .next ((s.fetchMiss (s.leader n)).getD s)

/-- The code page that a frozen core waits for, with its class. -/
def State.wantedPage (s : State) (n : Nat) : Option (Nat × Residency) :=
  let c := s.core n
  if c.frozenFor 4 then
    match s.translate c .fetch c.ctx.pc with
    | .hit pa t =>
      let pa := s.codePa t pa
      if (s.stagedPage (dieOf n) (pa / 65536)).isNone && (c.fetch.heldBlock pa).isNone then some (pa / 65536, rcClass t.lo) else none
    | _ => none
  else none

/-- CODE_PAGE_STAGING: the die stages a page anew, in the class of the copy it has, of a core that waits for it, or
COLD. -/
def execCodePageStaging (d page : Nat) (s : State) : Host.Outcome State Fault Refusal :=
  let asked := (s.listed.filter fun n => dieOf n == d).findSome? fun n =>
    (s.wantedPage n).bind fun w => if w.1 = page then some w.2 else none
  let cls := match s.stagedPage d page with | some x => x.cls | none => asked.getD .cold
  let m := { s.mem with staged := s.mem.staged.filter fun x => !(x.die == d && x.page == page) }
  .next (({ s with mem := m }).stagePage d page cls false)

/-- STAGING_AREA_SIZING: refused where the PINNED copies would not fit; others leave as R295 orders. -/
def execStagingAreaSizing (d pages : Nat) (s : State) : Host.Outcome State Fault Refusal :=
  let m := s.mem
  let mine := m.staged.filter fun x => x.die == d
  if pages < (mine.filter fun x => x.cls == .pinned).length then .next s
  else
    let first (x y : Staged) : Bool :=
      decide (evictRank y.cls < evictRank x.cls) || (evictRank x.cls == evictRank y.cls && decide (y.used ≤ x.used))
    let order := mine.foldl (fun xs x => xs.takeWhile (fun y => first y x) ++ x :: xs.dropWhile fun y => first y x) []
    let kept := order.take pages
    .next { s with mem := { m with
      areas := Map.put m.areas d pages
      staged := m.staged.filter fun x => x.die != d || kept.contains x } }

/-! ### Supervisor's writes (R279, R281, R287, R298) -/

/-- Is an STG to or from a slice in flight? -/
def State.stgFlies (s : State) (sl : Nat) : Bool :=
  s.cores.any fun e => e.2.engine.any fun x =>
    match x with | .copy c => c.op == .stg && stgSlice c.b == sl | .send _ => false

/-- SLCFG_WRITE.  R279 names three writes that are refused; one with OVF above the limit of Table MEM-1 while WIN + OVF
stays within 16 is none of them, and is refused here too (DESIGN CHOICE, log 34). -/
def execSlcfgWrite (sl : Nat) (x : Word) (s : State) : Host.Outcome State Fault Refusal :=
  let win := bitsAt x.toNat 0 5
  let ovf := bitsAt x.toNat 8 4
  if 16 < win + ovf || 8 < ovf || s.entries sl true != 0 || s.stgFlies sl then .next s
  else
    let y := s.slice sl
    .next (s.setSlice sl { y with
      slcfg := x &&& 0xF1F
      present := y.present.filter fun e => decide (win ≤ e.2 ∧ e.2 + ovf < 16)
      window := y.window.filter fun c => decide (c.1 < win * 262144) })

/-- ASTE_WRITE: doubleword 0 or 1; a value outside the limits of Table MEM-5 is refused (log 22). -/
def execAsteWrite (asid : BitVec 12) (dw : Bool) (x : Word) (s : State) : Host.Outcome State Fault Refusal :=
  let e := s.mem.aste asid
  let nroot := bitsAt x.toNat 58 5
  let root := bitsAt x.toNat 0 52
  let ok0 := bitsAt x.toNat 52 6 == 0 && decide (nroot ≤ 17 ∧ root % (16 * 2 ^ nroot) = 0)
  let ok1 := bitsAt x.toNat 17 46 == 0
    && (!x.getLsbD 63 || decide (bitsAt x.toNat 0 17 < 2 ^ bitsAt e.dw0.toNat 58 5))
  let e' := if dw then (if ok1 then { e with dw1 := x } else e) else (if ok0 then { e with dw0 := x } else e)
  .next { s with mem := { s.mem with astes := Map.put s.mem.astes asid.toNat e' } }

/-- GENERATION_SWAP: the OWC service writes doubleword 2. -/
def execGenerationSwap (asid : BitVec 12) (x : Word) (s : State) : Host.Outcome State Fault Refusal :=
  let e := s.mem.aste asid
  .next { s with mem := { s.mem with
    astes := Map.put s.mem.astes asid.toNat { e with dw2 := x &&& 0xFFFFFFFFFFFFE000 } } }

/-- R98: the pages of a generation that no other generation has. -/
def Pkg.lastPages (p : Pkg) (k : Nat) : List Nat :=
  (Map.getD p.gens k []).filter fun x => !p.gens.any fun e => e.1 != k && e.2.contains x
/-- R98, R191: pages are released: their bundles leave memory, and the copies of them leave the staging areas, the code caches and
the block buffers. -/
def State.releasePages (s : State) (ps : List Nat) : State :=
  { s with
    cores := s.cores.map fun e => (e.1, { e.2 with fetch := e.2.fetch.dropPages (ps.map fun p => (p * 65536, 65536)) })
    mem := { s.mem with
      images := s.mem.images.filter fun e => !ps.contains e.1
      staged := s.mem.staged.filter fun x => !ps.contains x.page } }

/-- GENERATION_RELEASE: a generation that is not the current one and to which no task is bound (R98, R325). -/
def State.generationLeaves (s : State) (asid gen : BitVec 12) : Option State :=
  let k := asid.toNat * 4096 + gen.toNat
  let bound := s.dies.any fun e => Map.getD e.2.tasks k 0 != 0
  if bound || bitsAt (s.mem.aste asid).dw2.toNat 52 12 == gen.toNat || s.pkg.released.contains (asid.toNat, gen.toNat)
  then none
  else
    let t := s.releasePages (s.pkg.lastPages k)
    some { t with pkg := { t.pkg with
      gens := Map.del t.pkg.gens k, released := t.pkg.released ++ [(asid.toNat, gen.toNat)] } }
def execGenerationRelease (asid gen : BitVec 12) (s : State) : Host.Outcome State Fault Refusal :=
  .next ((s.generationLeaves asid gen).getD s)

/-- RELEASE_RING_WRITE: doubleword 0, 1 or 2 of Table MEM-11.  R298 names two writes that are refused and gives no outcome
of a doubleword 0 with LOG2 outside 4 to 20 or with BASE not aligned to the ring's size: the ring is left as it is (DESIGN
CHOICE, log 34). -/
def execReleaseRingWrite (dw : Nat) (x : Word) (s : State) : Host.Outcome State Fault Refusal :=
  let m := s.mem
  let busy := m.ring0.getLsbD 63 && m.tail != m.head
  let log2 := bitsAt x.toNat 58 5
  let base := bitsAt x.toNat 4 52 * 16
  match dw with
  | 0 =>
    let en : Word := x &&& 0x8000000000000000
    if busy then
      let fixed := m.ring0 &&& 0x7CFFFFFFFFFFFFF0
      if x &&& 0x7CFFFFFFFFFFFFF0 = fixed then .next { s with mem := { m with ring0 := fixed ||| en } } else .next s
    else if log2 < 4 || 20 < log2 || base % (16 * 2 ^ log2) ≠ 0 then .next s
    else .next { s with mem := { m with ring0 := x &&& 0xFCFFFFFFFFFFFFF0 } }
  | 1 =>
    if busy && x.extractLsb' 52 12 != m.ring1.extractLsb' 52 12 then .next s
    else .next { s with mem := { m with ring1 := x &&& 0xFFF0000000000000 } }
  | 2 =>
    let h := x.extractLsb' 0 32
    if (m.tail - m.head).toNat < (h - m.head).toNat then .next s
    else .next { s with mem := { m with head := h } }
  | _ => .next s

/-- R286: the refresh of a channel's layer, in reference ticks: at its interval it blocks the layer for 35. -/
def execDramRefresh (d ch layer : Nat) (s : State) : Host.Outcome State Fault Refusal :=
  let m := s.mem
  let zone := ch / 4
  let fast := (Map.getD m.refresh ((d * 16 + zone) * 8 + layer) (0, false)).2
  let k := dramKey d ch layer
  let last := (Map.getD m.refresh k (0, false)).1
  if last = 0 || decide (last + (if fast then 160 else 355) ≤ s.time) then
    .next { s with mem := { m with refresh := Map.put m.refresh k (s.time + 35, false) } }
  else .next s

end Sys2Proof.Machine
end

