-- ==== Sys2Proof/Machine/Weight.lean ====
section
/-! DEFINITION. Weight code: the W bundle (R82 to R87), the compiler's output for a block request (R88 to R96)
and partial weight updates (R97, R98, R351 to R353). -/

namespace Sys2Proof.Machine

/-! ### The W bundle -/

/-- R82: TermValue. -/
def WTerm.value (t : WTerm) : Int :=
  let p (neg : Bool) (k : BitVec 3) : Int := if neg then -(2 ^ k.toNat : Nat) else (2 ^ k.toNat : Nat)
  p t.s1 t.k1 + if t.e2 then p t.s2 t.k2 else 0

/-- The V register that a term names. -/
def WTerm.vreg (t : WTerm) : VReg := t.index.extractLsb' 0 6

/-- R82, R84: lane `i` of a term's source. -/
def Core.sourceLane (c : Core) (t : WTerm) (i : Nat) : Int :=
  if t.reg then (lane (c.ctx.regs.vCell (WTerm.vreg t)).row i).toInt
  else (c.loc.see .abuf c.btw.seqno (512 * t.index.toNat + i)).toInt

/-- The sum of the terms over lane `i`. -/
def Core.termSum (c : Core) (ts : List WTerm) (i : Nat) : Int :=
  (ts.map fun t => WTerm.value t * c.sourceLane t i).sum

/-- R86: the destination as every earlier W bundle to it leaves it: those in flight are applied to the
register in issue order. -/
def Ctx.oldRow (x : Ctx) (vd : VReg) : Row :=
  x.pipe.foldl (fun acc l =>
    match l.dst with
    | .v d y mask _ _ true => if d = vd then mergeRow mask y acc else acc
    | _ => acc) (x.regs.vCell vd).row

/-- R83, R86: the tag that the destination has as every earlier W bundle to it leaves it.  R83 does not say that the
check sees the tag of a result in flight; a WACC one cycle after the WSET of its row needs it (R96; DEDUCED, log 33). -/
def Ctx.oldTag (x : Ctx) (vd : VReg) : Tag :=
  x.pipe.foldl (fun acc l =>
    match l.dst with
    | .v d _ _ tag _ true => if d = vd then tag.getD acc else acc
    | _ => acc) (x.regs.vCell vd).tag

/-- Is a W result in flight to the register poisoned? -/
def Ctx.oldPoison (x : Ctx) (vd : VReg) : Bool :=
  x.pipe.any fun l => match l.dst with | .v d _ _ _ p true => d == vd && p | _ => false

/-- The three modes. -/
inductive WMode where | acc | set | neg
  deriving DecidableEq, Repr

/-- R82: the exact result of lane `i`. -/
def wExact (m : WMode) (old : BitVec 32) (sum : Int) : Int :=
  match m with
  | .set => sum
  | .acc => old.toInt + sum
  | .neg => old.toInt - sum

/-- Does a number leave the INT32 range? -/
def outside32 (x : Int) : Bool := decide (x < -2147483648 ∨ 2147483647 < x)

/-- R178: a term with a value other than 0 reads an ABUF row with an uncorrectable element. -/
def Core.termBad (c : Core) (t : WTerm) : Bool :=
  !t.reg && WTerm.value t != 0 && c.loc.bad .abuf (512 * t.index.toNat) 512

/-- R83: TINFO of the first term, then the destination, whose tag is not INT32.  A term's register is looked at as it
stands. -/
def wTag (s : State) (m : WMode) (vd : VReg) (ts : List WTerm) : Option Word :=
  match ts.findIdx? fun t => t.reg && (s.opV (WTerm.vreg t)).tag != .int32 with
  | some k => some (BitVec.ofNat 64 k)
  | none => if m != .set && s.me.ctx.oldTag vd != .int32 then some 10 else none

/-- A W bundle.  WACC and WNEG read VD: its poison starts recovery as a term's does (R178). -/
def opW (m : WMode) (vd : VReg) (mk : MReg) (ts : List WTerm) : Op :=
  { guard := ⟨false, 0⟩, needs := [1]
    srcs := (ts.filter (·.reg)).map (fun t => Src.v ⟨WTerm.vreg t, false⟩) ++ (if m == .set then [] else [.v ⟨vd, false⟩])
    vd := some vd
    tag := fun s => wTag s m vd ts
    run := fun s =>
      let c := s.me
      let mask := s.opM mk
      let old := c.ctx.oldRow vd
      let x (i : Nat) : Int := wExact m (lane old i) (c.termSum ts i)
      let ovf := (enabled mask).any fun i => outside32 (x i)
      let poison := ts.any c.termBad || (m != .set && c.ctx.oldPoison vd)
      s.send 3 (.v vd (rowOf fun i => BitVec.ofInt 32 (x i)) mask (some .int32) poison true) 0
        (if ovf then 1#64 <<< vd.toNat else 0) }

def execWacc (vd : VReg) (mk : MReg) (ts : List WTerm) (s : State) := runOp (opW .acc vd mk ts) s
def execWset (vd : VReg) (mk : MReg) (ts : List WTerm) (s : State) := runOp (opW .set vd mk ts) s
def execWneg (vd : VReg) (mk : MReg) (ts : List WTerm) (s : State) := runOp (opW .neg vd mk ts) s

/-! ### Block requests (R88, R351) -/

/-- Table WGT-3. -/
structure Block where
  fmt : Nat
  rows : Nat
  cols : Nat
  abase : Nat
  dbase : Nat
  sbase : Nat
  scnt : Nat
  link : Nat
  span : Nat
  weights : List (List Int)
  deriving DecidableEq, Repr

/-- The limits of Table WGT-3. -/
def Block.ok (b : Block) : Bool :=
  decide (b.fmt ≤ 2 ∧ 1 ≤ b.rows ∧ b.rows ≤ 48 ∧ 1 ≤ b.cols ∧ b.cols ≤ 2048
    ∧ b.abase + b.cols ≤ 2048 ∧ b.dbase + b.rows ≤ 64 ∧ b.scnt ≤ 64
    ∧ (b.scnt = 0 ∨ (b.sbase + b.scnt ≤ 64
        ∧ (b.sbase + b.scnt ≤ b.dbase ∨ b.dbase + b.rows ≤ b.sbase)))
    ∧ 1 ≤ b.link ∧ b.link ≤ 31 ∧ 1 ≤ b.span ∧ b.span ≤ 256)
    && (b.fmt != 0 || b.weights.all fun r => r.all fun w => decide (-1 ≤ w ∧ w ≤ 1))

/-- Byte `i` of a record. -/
def byteAt (bs : List Byte) (i : Nat) : Nat := (bs.getD i 0).toNat

/-- Weight number `i` of a record, in reading order: a byte for INT8, else a nibble. -/
def weightAt (fmt : Nat) (bs : List Byte) (i : Nat) : Int :=
  if fmt = 2 then signedOf 8 (byteAt bs (16 + i))
  else signedOf 4 (bitsAt (byteAt bs (16 + i / 2)) (4 * (i % 2)) 4)

/-- R351: the request that a record lays out; none where its length or its zero bytes are not as laid out
(log 15). -/
def Block.ofRecord (bs : List Byte) : Option Block :=
  let rows := byteAt bs 1
  let cols := byteAt bs 2 + 256 * byteAt bs 3
  let fmt := byteAt bs 0
  let need := if fmt = 2 then rows * cols else (rows * cols + 1) / 2
  let b : Block :=
    { fmt := fmt, rows := rows, cols := cols, abase := byteAt bs 4 + 256 * byteAt bs 5
      dbase := byteAt bs 6, sbase := byteAt bs 7, scnt := byteAt bs 8, link := byteAt bs 9
      span := byteAt bs 10 + 256 * byteAt bs 11
      weights := (List.range rows).map fun r => (List.range cols).map fun k =>
        weightAt fmt bs (r * cols + k) }
  if bs.length = 16 + alignDown (need + 7) 8 && (upFrom 12 4).all (fun i => byteAt bs i == 0) && b.ok
  then some b else none

/-! ### Compilation (R90 to R94) -/

/-- The non-adjacent form of a number, lowest digit first: whether it is negative, and its position. -/
def nafFrom (fuel pos : Nat) (m : Int) : List (Bool × Nat) :=
  match fuel with
  | 0 => []
  | k + 1 =>
    if m % 2 = 0 then nafFrom k (pos + 1) (m / 2)
    else if m % 4 = 1 then (false, pos) :: nafFrom k (pos + 1) ((m - 1) / 2)
    else (true, pos) :: nafFrom k (pos + 1) ((m + 1) / 2)
/-- R34: the non-zero digits of a multiplier, highest first. -/
def naf (m : Int) : List (Bool × Nat) := (nafFrom 9 0 m).reverse
/-- R90: p(w). -/
def powers (w : Int) : Nat := (naf w).length

/-- A source of a weight line: an ABUF row or a V register. -/
structure WSrc where
  reg : Bool
  index : Nat
  deriving DecidableEq, Repr

/-- R34: digits in pairs become terms. -/
def termsOf (x : WSrc) (ds : List (Bool × Nat)) : List WTerm :=
  match ds with
  | [] => []
  | [(n, p)] => [⟨x.reg, BitVec.ofNat 11 x.index, n, BitVec.ofNat 3 p, false, 0, false⟩]
  | (n, p) :: (n', p') :: rest =>
    ⟨x.reg, BitVec.ofNat 11 x.index, n, BitVec.ofNat 3 p, n', BitVec.ofNat 3 p', true⟩ :: termsOf x rest

/-- R33: the padding term. -/
def padTerm : WTerm := ⟨false, 0, false, 0, true, 0, true⟩

/-- R33: terms in bundles of ten, the first WSET and the rest WACC. -/
def fillBundles (fuel : Nat) (first : Bool) (vd : Nat) (ts : List WTerm) : List Instr :=
  match fuel with
  | 0 => []
  | k + 1 =>
    let ten := (ts.take 10 ++ List.replicate 10 padTerm).take 10
    let i : Instr := if first then .wset (BitVec.ofNat 6 vd) 0 ten else .wacc (BitVec.ofNat 6 vd) 0 ten
    i :: (if ts.length ≤ 10 then [] else fillBundles k false vd (ts.drop 10))

/-- A weight line: a WSET with its multiplier terms. -/
def weightLine (vd : Nat) (xs : List (WSrc × Int)) : List Instr :=
  let ts := xs.flatMap fun x => termsOf x.1 (naf x.2)
  fillBundles (ts.length + 1) true vd ts

/-- A row's entries: column and weight. -/
abbrev Entries := List (Nat × Int)

/-- R91: a candidate, or a factor. -/
structure Pair2 where
  k1 : Nat
  w1 : Int
  k2 : Nat
  w2 : Int
  deriving DecidableEq, Repr

/-- The pairs of a row's entries, the lower column first. -/
def pairsOf (xs : Entries) : List Pair2 :=
  match xs with
  | [] => []
  | x :: rest => (rest.map fun y => ⟨x.1, x.2, y.1, y.2⟩) ++ pairsOf rest

/-- How many rows hold a candidate. -/
def holders (rows : List Entries) (p : Pair2) : Nat :=
  (rows.filter fun r => r.contains (p.k1, p.w1) && r.contains (p.k2, p.w2)).length
/-- R91: the saving. -/
def saving (rows : List Entries) (p : Pair2) : Int :=
  let u := holders rows p
  let c := powers p.w1 + powers p.w2
  (u * c : Nat) - (c + u : Nat)
/-- The order among candidates with equal savings: k1, k2, w1, w2. -/
def Pair2.before (a b : Pair2) : Bool :=
  if a.k1 ≠ b.k1 then decide (a.k1 < b.k1)
  else if a.k2 ≠ b.k2 then decide (a.k2 < b.k2)
  else if a.w1 ≠ b.w1 then decide (a.w1 < b.w1)
  else decide (a.w2 < b.w2)
/-- R91: the candidate to select, if any saves. -/
def bestPair (rows : List Entries) : Option Pair2 :=
  let cs := (rows.flatMap pairsOf).filter fun p => decide (2 ≤ holders rows p ∧ 0 < saving rows p)
  cs.foldl (fun best p =>
    match best with
    | none => some p
    | some b =>
      if saving rows b < saving rows p || (saving rows p == saving rows b && p.before b) then some p
      else some b) none

/-- The result of factoring: factors with the rows that use each, and the rows' entries left. -/
structure Factored where
  factors : List (Pair2 × List Nat)
  rows : List Entries
  deriving DecidableEq, Repr

/-- R91: select, remove, recount, while a scratch register is left. -/
def factor (scratch : Nat) (f : Factored) : Factored :=
  match scratch with
  | 0 => f
  | k + 1 =>
    match bestPair f.rows with
    | none => f
    | some p =>
      let holds (r : Entries) : Bool := r.contains (p.k1, p.w1) && r.contains (p.k2, p.w2)
      let users := (f.rows.zipIdx.filter fun x => holds x.1).map (·.2)
      factor k
        { factors := f.factors ++ [(p, users)]
          rows := f.rows.map fun r =>
            if holds r then r.filter fun e => e != (p.k1, p.w1) && e != (p.k2, p.w2) else r }

/-- R92: a group: its row, its value and its columns. -/
structure Group where
  row : Nat
  w : Int
  cols : List Nat
  deriving DecidableEq, Repr

/-- Insert a number into a rising list without repeats. -/
def insertInt (x : Int) (xs : List Int) : List Int :=
  match xs with
  | [] => [x]
  | y :: ys => if x < y then x :: y :: ys else if x = y then y :: ys else y :: insertInt x ys
/-- The distinct values of a row, rising. -/
def valuesOf (xs : Entries) : List Int := xs.foldl (fun acc e => insertInt e.2 acc) []

/-- R92: the groups of one row, while scratch registers are left; the entries that remain. -/
def groupRow (row : Nat) (vals : List Int) (free : Nat) (xs : Entries) : List Group × Nat × Entries :=
  match vals with
  | [] => ([], free, xs)
  | w :: rest =>
    let es := xs.filter fun e => e.2 == w
    if 0 < free && decide (es.length + powers w < es.length * powers w) then
      let r := groupRow row rest (free - 1) (xs.filter fun e => e.2 != w)
      (⟨row, w, es.map (·.1)⟩ :: r.1, r.2)
    else groupRow row rest free xs

/-- R92: the rows in order. -/
def groupRows (rows : List (Entries × Nat)) (free : Nat) : List Group × List Entries :=
  match rows with
  | [] => ([], [])
  | (xs, r) :: rest =>
    let a := groupRow r (valuesOf xs) free xs
    let b := groupRows rest a.2.1
    (a.1 ++ b.1, a.2.2 :: b.2)

/-- R93: the sequence of W and N bundles. -/
def Block.sequence (b : Block) : List Instr :=
  let rows : List Entries := b.weights.map fun r => (r.zipIdx.map fun x => (x.2, x.1)).filter fun e => e.2 != 0
  let f := factor b.scnt ⟨[], rows⟩
  let g := groupRows f.rows.zipIdx (b.scnt - f.factors.length)
  let fs := f.factors.zipIdx
  let gs := g.1.zipIdx
  let abuf (k : Nat) : WSrc := ⟨false, b.abase + k⟩
  let fReg (j : Nat) : WSrc := ⟨true, b.sbase + j⟩
  let gReg (j : Nat) : WSrc := ⟨true, b.sbase + f.factors.length + j⟩
  let lines := fs.flatMap (fun x => weightLine (b.sbase + x.2)
      [(abuf x.1.1.k1, x.1.1.w1), (abuf x.1.1.k2, x.1.1.w2)])
    ++ gs.flatMap (fun x => weightLine (b.sbase + f.factors.length + x.2)
      (x.1.cols.map fun k => (abuf k, 1)))
  let gap : List Instr := if lines.isEmpty then [] else [.nop 1]
  let row (x : Entries × Nat) : List Instr :=
    weightLine (b.dbase + x.2)
      (x.1.map (fun e => (abuf e.1, e.2))
        ++ (gs.filter fun y => y.1.row == x.2).map (fun y => (gReg y.2, y.1.w))
        ++ (fs.filter fun y => y.1.2.contains x.2).map (fun y => (fReg y.2, (1 : Int))))
  lines ++ gap ++ g.2.zipIdx.flatMap row

/-- R94: the checkpoint RET, before the last two bundles. -/
def returnBundle (link : Nat) : Bits256 :=
  (encode (.ret ⟨false, 0⟩ ⟨BitVec.ofNat 5 link, false⟩)).getD 0 ||| (1#256 <<< 253)

/-- R93, R94: the block's bundles. -/
def Block.code (b : Block) : List Bits256 :=
  let xs := (b.sequence).map fun i => (encode i).getD 0
  let xs := if xs.length = 1 then xs ++ [(encode (.nop 0)).getD 0] else xs
  xs.take (xs.length - 2) ++ [returnBundle b.link] ++ xs.drop (xs.length - 2)

/-- Bundles of a 64 KiB page. -/
def pageBundles : Nat := 2048

/-! ### The service (R89, R97, R98, R352, R353) -/

/-- The code for a record under the compiler's errata mask. -/
def owcCode (errata : BitVec 64) (record : List Byte) (b : Block) : List Bits256 :=
  if errata = 0 then b.code else Config.errataCode errata record

/-- Bundles as they stand in a cache entry, and the bundles that such bytes hold. -/
def codeBytes (bs : List Bits256) : List Byte := bs.flatMap fun b => leBytes 32 b.toNat
def codeBundles (bs : List Byte) : List Bits256 :=
  (List.range (bs.length / 32)).map fun k => BitVec.ofNat 256 (leNat ((bs.drop (32 * k)).take 32))

/-- R353: an entry's associated data: its key and RELMASK. -/
def OwcEntry.associated (e : OwcEntry) : List Byte :=
  e.digest ++ leBytes 8 e.compiler ++ leBytes 8 e.errata.toNat ++ leBytes 16 e.features.toNat ++ leBytes 8 e.relmask.toNat
/-- Bytes under the key stream of a nonce: encryption, and decryption. -/
def sealBytes (nonce : BitVec 96) (bs : List Byte) : List Byte := bs.zipIdx.map fun x => x.1 ^^^ Config.sealStream nonce x.2
/-- R353: does an entry's tag verify? -/
def OwcEntry.genuine (e : OwcEntry) : Bool := e.auth == Config.sealTag e.nonce e.associated e.code
/-- R353: an entry as the host's file system holds it. -/
def OwcEntry.seal (e : OwcEntry) (nonce : BitVec 96) : OwcEntry :=
  let x := { e with code := sealBytes nonce e.code, nonce := nonce }
  { x with auth := Config.sealTag nonce x.associated x.code }

/-- The features of the key. -/
def Pkg.features (p : Pkg) : BitVec 128 := p.featact.extractLsb' 0 128
/-- Does an entry's whole key match? -/
def Pkg.keyed (p : Pkg) (digest : List Byte) (e : OwcEntry) : Bool :=
  e.digest == digest && e.compiler == p.compiler && e.errata == p.errata && e.features == p.features
/-- R352, R353: the bundles of the entry that the service loads for a request; in sealed mode none whose tag fails. -/
def Pkg.loaded (p : Pkg) (digest : List Byte) : Option (List Bits256) :=
  (p.owc.find? fun e => p.keyed digest e && (!p.record.sealedCache || e.genuine)).map fun e =>
    codeBundles (if p.record.sealedCache then sealBytes e.nonce e.code else e.code)
/-- R352: the cache takes the code of a request; an entry of the key that was rejected leaves it. -/
def Pkg.cached (p : Pkg) (record digest : List Byte) (code : List Bits256) : Pkg :=
  let e : OwcEntry :=
    { digest := digest, compiler := p.compiler, errata := p.errata, features := p.features
      relmask := Config.relmask record, code := codeBytes code, auth := 0, nonce := 0 }
  let kept := p.owc.filter fun x => !p.keyed digest x
  if p.record.sealedCache then { p with owc := kept ++ [e.seal p.nonce], nonce := p.nonce + 1 } else { p with owc := kept ++ [e] }

/-- The answer to a block request, and the cache after it. -/
def Pkg.request (p : Pkg) (record : List Byte) : OwcReply × Pkg :=
  if !p.featact.getLsbD 1 then (.feature, p)
  else match Block.ofRecord record with
    | none => (.range, p)
    | some b =>
      let d := Machine.digest record
      match p.loaded d with
      | some code => (.code code, p)
      | none =>
        let code := owcCode p.errata record b
        if b.span * pageBundles < code.length then (.span, p) else (.code code, p.cached record d code)

/-- BLOCK_REQUEST. -/
def execBlockRequest (record : List Byte) (s : State) : Host.Outcome State Fault Refusal :=
  let r := s.pkg.request record
  .next { s with pkg := { r.2 with owcOut := r.2.owcOut ++ [r.1] } }

/-! ### Partial weight updates (R97, R98) -/

/-- A record with weight `i`, in reading order, replaced (R351); none where the weight does not exist or is outside FMT. -/
def setWeight (b : Block) (bs : List Byte) (i : Nat) (w : Int) : Option (List Byte) :=
  let lo : Int := if b.fmt = 0 then -1 else if b.fmt = 1 then -8 else -128
  let hi : Int := if b.fmt = 0 then 1 else if b.fmt = 1 then 7 else 127
  if decide (b.rows * b.cols ≤ i) || decide (w < lo ∨ hi < w) then none
  else if b.fmt = 2 then some (bs.set (16 + i) (BitVec.ofInt 8 w))
  else
    let k := 16 + i / 2
    let n : Byte := (BitVec.ofInt 4 w).setWidth 8
    let old := bs.getD k 0
    some (bs.set k (if i % 2 = 0 then (old &&& 0xF0) ||| n else (old &&& 0x0F) ||| (n <<< 4)))
/-- The request for a block with its changed weights. -/
def updateRequest (u : BlockUpdate) : Option (List Byte) :=
  (Block.ofRecord u.record).bind fun b =>
    u.changes.foldl (fun r x => r.bind fun bs => setWeight b bs x.1 x.2) (some u.record)
/-- SPAN of a block. -/
def updateSpan (u : BlockUpdate) : Nat := byteAt u.record 10 + 256 * byteAt u.record 11

/-- The bundles of a block's span: its code, and N bundles in the places that are not used. -/
def spanBundles (code : List Bits256) (bundles : Nat) : List Bits256 :=
  (code ++ List.replicate bundles ((encode (.nop 0)).getD 0)).take bundles

/-- R97: one block's pages in order, sealed, and the table doublewords that map them. -/
def Mem.install (m : Mem) (code : List Bits256) (u : BlockUpdate) : Mem :=
  let m := u.pages.zipIdx.foldl (fun (m : Mem) x =>
    { m with images := Map.put m.images x.1 (spanBundles (code.drop (x.2 * pageBundles)) pageBundles) }) m
  let m := u.table.foldl (fun (m : Mem) x => m.store 0 x.1 (leBytes 8 x.2.toNat)) m
  { m with sealed := (m.sealed ++ u.pages.map fun p => p * 65536 / 2 ^ 21).dedup }

/-- The answers for every block; no codes where one is refused. -/
def Pkg.requests (p : Pkg) (us : List BlockUpdate) : Option (List (List Bits256)) × List OwcReply × Pkg :=
  match us with
  | [] => (some [], [], p)
  | u :: rest =>
    let r := match updateRequest u with | some record => p.request record | none => (.range, p)
    let t := r.2.requests rest
    match r.1, t.1 with
    | .code c, some cs => (some (c :: cs), r.1 :: t.2.1, t.2.2)
    | _, _ => (none, r.1 :: t.2.1, t.2.2)

/-- The physical pages that a block's span is mapped to under a GENROOT value. -/
def Mem.spanPages (m : Mem) (asid : BitVec 12) (gen : Word) (u : BlockUpdate) : List (Option Nat) :=
  (List.range (updateSpan u)).map fun i => (m.walk asid gen (u.va + 65536 * i)).map fun t => t.pa (u.va + 65536 * i) / 65536
/-- GENROOT of a task that is launched now (R293). -/
def Mem.genroot (m : Mem) (asid : BitVec 12) : Word :=
  let e := m.aste asid
  e.dw2 ||| (if e.dw1.getLsbD 63 then 1 else 0)
/-- R97, R98: the pages are fresh and distinct, the new generation maps each block's span to its pages in order, and the
translations of the current generation stay. -/
def Mem.updates (m new : Mem) (asid : BitVec 12) (gen : Word) (us : List BlockUpdate) : Bool :=
  let ps := us.flatMap (·.pages)
  ps.dedup == ps && ps.all (fun p => (Map.find? m.images p).isNone)
    && us.all fun u => new.spanPages asid (gen ||| 1) u == u.pages.map some
      && new.spanPages asid (m.genroot asid) u == m.spanPages asid (m.genroot asid) u
/-- R98: the pages of the new generation: those of the current one, but for the spans of the blocks that are replaced. -/
def Pkg.recordGen (p : Pkg) (m : Mem) (asid : BitVec 12) (gen : Word) (us : List BlockUpdate) : Pkg :=
  let g := m.genroot asid
  let old := us.flatMap fun u => (m.spanPages asid g u).filterMap id
  let now := asid.toNat * 4096 + bitsAt g.toNat 52 12
  let next := asid.toNat * 4096 + bitsAt gen.toNat 52 12
  let had := Map.getD p.gens now []
  { p with
    gens := Map.put (Map.put p.gens now (had ++ old).dedup) next ((had.filter fun x => !old.contains x) ++ us.flatMap (·.pages))
    released := p.released.filter fun x => x != (asid.toNat, bitsAt gen.toNat 52 12) }

/-- PARTIAL_WEIGHT_UPDATE: the requests of every block that holds a changed weight; where all are answered, their pages are
installed together as a new generation, which GENERATION_SWAP makes current.  The
pages and the tables are the service's: those that do not map the blocks as R97 and R98 say are no update. -/
def execPartialWeightUpdate (asid : BitVec 12) (u : WeightUpdate) (s : State) :
    Host.Outcome State Fault Refusal :=
  let us := u.blocks.filter fun u => !u.changes.isEmpty
  let r := s.pkg.requests us
  let pkg := { r.2.2 with owcOut := r.2.2.owcOut ++ r.2.1 }
  match r.1 with
  | none => .next { s with pkg := pkg }
  | some codes =>
    let m := (codes.zip us).foldl (fun (m : Mem) x => m.install x.1 x.2) s.mem
    .next (if s.mem.updates m asid u.gen us then { s with pkg := pkg.recordGen s.mem asid u.gen us, mem := m } else { s with pkg := pkg })

end Sys2Proof.Machine
end

