-- ==== Sys2Proof/Machine/Bundle.lean ====
section
/-! DEFINITION. A bundle at issue: its operations, the decode checks (R80, R81), what R221 says of it, the rendezvous
and transit gates (R145, R331), checkpoints (R145, R231), freezes and their ends (R227, R228), boundary events (R221),
the debugger's requests and the writes of registers through a die controller. -/

namespace Sys2Proof.Machine

/-! ### The operation of an instruction -/

/-- The operation of a slot or of a W bundle; an N bundle and the steps of the module have none. -/
def opOf (i : Instr) : Option Op :=
  match i with
  | .add g d a b => some (opAdd g d a b)
  | .sub g d a b => some (opSub g d a b)
  | .mul g d a b => some (opMul g d a b)
  | .mulh g d a b => some (opMulh g d a b)
  | .mulhu g d a b => some (opMulhu g d a b)
  | .div g d a b => some (opDiv g d a b)
  | .divu g d a b => some (opDivu g d a b)
  | .rem g d a b => some (opRem g d a b)
  | .remu g d a b => some (opRemu g d a b)
  | .and g d a b => some (opAnd g d a b)
  | .or g d a b => some (opOr g d a b)
  | .xor g d a b => some (opXor g d a b)
  | .andn g d a b => some (opAndn g d a b)
  | .shlReg g d a b => some (opShlReg g d a b)
  | .shrReg g d a b => some (opShrReg g d a b)
  | .sarReg g d a b => some (opSarReg g d a b)
  | .rotReg g d a b => some (opRotReg g d a b)
  | .shlImm g d a n => some (opShlImm g d a n)
  | .shrImm g d a n => some (opShrImm g d a n)
  | .sarImm g d a n => some (opSarImm g d a n)
  | .rotImm g d a n => some (opRotImm g d a n)
  | .min g d a b => some (opMin g d a b)
  | .max g d a b => some (opMax g d a b)
  | .minu g d a b => some (opMinu g d a b)
  | .maxu g d a b => some (opMaxu g d a b)
  | .abs g d a => some (opAbs g d a)
  | .sel g d pc a b => some (opSel g d pc a b)
  | .mov g d a => some (opMov g d a)
  | .addi g d a imm => some (opAddi g d a imm)
  | .lea g d a b sh => some (opLea g d a b sh)
  | .cmp g pd c a b => some (opCmp g pd c a b)
  | .bfx g d a pos len => some (opBfx g d a pos len)
  | .bfxz g d a pos len => some (opBfxz g d a pos len)
  | .bfi g d a b pos len => some (opBfi g d a b pos len)
  | .bfxVar g d a b len => some (opBfxVar g d a b len)
  | .bfxzVar g d a b len => some (opBfxzVar g d a b len)
  | .bfiVar g d a b c len => some (opBfiVar g d a b c len)
  | .fshl g d a b c => some (opFshl g d a b c)
  | .fshr g d a b c => some (opFshr g d a b c)
  | .clz g d a => some (opClz g d a)
  | .ctz g d a => some (opCtz g d a)
  | .popc g d a => some (opPopc g d a)
  | .brev g d a => some (opBrev g d a)
  | .pand g pd pa pb => some (opPand g pd pa pb)
  | .por g pd pa pb => some (opPor g pd pa pb)
  | .pxor g pd pa pb => some (opPxor g pd pa pb)
  | .pnot g pd pa => some (opPnot g pd pa)
  | .pmov g pd pa => some (opPmov g pd pa)
  | .movi g d imm => some (opMovi g d imm)
  | .movhi g d imm => some (opMovhi g d imm)
  | .ld g t a w sp acq sc off => some (opLd g t a w sp acq sc off)
  | .st g t a w sp rel sc off => some (opSt g t a w sp rel sc off)
  | .aadd g d a b w64 sc o => some (opAadd g d a b w64 sc o)
  | .aand g d a b w64 sc o => some (opAand g d a b w64 sc o)
  | .aor g d a b w64 sc o => some (opAor g d a b w64 sc o)
  | .axor g d a b w64 sc o => some (opAxor g d a b w64 sc o)
  | .amin g d a b w64 sc o u => some (opAmin g d a b w64 sc o u)
  | .amax g d a b w64 sc o u => some (opAmax g d a b w64 sc o u)
  | .axchg g d a b w64 sc o => some (opAxchg g d a b w64 sc o)
  | .acas g d a b c w64 sc o => some (opAcas g d a b c w64 sc o)
  | .afadd g d a b sc o => some (opAfadd g d a b sc o)
  | .afmax g d a b sc o => some (opAfmax g d a b sc o)
  | .fence g sc => some (opFence g sc)
  | .qmark g => some (opQmark g)
  | .vjoin g => some (opVjoin g)
  | .ownCore g a => some (opOwnCore g a)
  | .ownEngine g a => some (opOwnEngine g a)
  | .arma g a target => some (opArma g a target)
  | .waitaCnt g a n => some (opWaitaCnt g a n)
  | .waitaGen g a gen => some (opWaitaGen g a gen)
  | .sysr g d q => some (opSysr g d q)
  | .sysw g a q => some (opSysw g a q)
  | .rngs g a b => some (opRngs g a b)
  | .taga g d a => some (opTaga g d a)
  | .tagf g a => some (opTagf g a)
  | .tagq g d a => some (opTagq g d a)
  | .pgref g a => some (opPgref g a)
  | .tlbi g a b k => some (opTlbi g a b k)
  | .xlate g d a acc => some (opXlate g d a acc)
  | .pop g d a => some (opPop g d a)
  | .popNb g d a => some (opPopNb g d a)
  | .pushw g a => some (opPushw g a)
  | .join g a => some (opJoin g a)
  | .launch g a => some (opLaunch g a)
  | .launchi g a b => some (opLaunchi g a b)
  | .bar g n => some (opBar g n)
  | .bara g n => some (opBara g n)
  | .barw g n => some (opBarw g n)
  | .talw g d a => some (opTalw g d a)
  | .flowq g d a => some (opFlowq g d a)
  | .br g disp => some (opBr g disp)
  | .bri g a => some (opBri g a)
  | .brt g a pw px py pz => some (opBrt g a pw px py pz)
  | .call g d disp => some (opCall g d disp)
  | .calli g d a => some (opCalli g d a)
  | .ret g a => some (opRet g a)
  | .lbm g a n => some (opLbm g a n)
  | .pfi g n disp => some (opPfi g n disp)
  | .trap g code => some (opTrap g code)
  | .brk g code => some (opBrk g code)
  | .halt g => some (opHalt g)
  | .eret g => some (opEret g)
  | .vadd g d a b mk rm => some (opVadd g d a b mk rm)
  | .vsub g d a b mk rm => some (opVsub g d a b mk rm)
  | .vmul g d a b mk rm => some (opVmul g d a b mk rm)
  | .vmulh g d a b mk rm => some (opVmulh g d a b mk rm)
  | .vfma g d a b mk rm => some (opVfma g d a b mk rm)
  | .vmin g d a b mk rm => some (opVmin g d a b mk rm)
  | .vmax g d a b mk rm => some (opVmax g d a b mk rm)
  | .vabs g d a mk => some (opVabs g d a mk)
  | .vneg g d a mk => some (opVneg g d a mk)
  | .vand g d a b mk rm => some (opVand g d a b mk rm)
  | .vor g d a b mk rm => some (opVor g d a b mk rm)
  | .vxor g d a b mk rm => some (opVxor g d a b mk rm)
  | .vshl g d a b mk rm => some (opVshl g d a b mk rm)
  | .vshr g d a b mk rm => some (opVshr g d a b mk rm)
  | .vsar g d a b mk rm => some (opVsar g d a b mk rm)
  | .vcmp g md c a b mk => some (opVcmp g md c a b mk)
  | .vsel g d a b mk => some (opVsel g d a b mk)
  | .vmov g d a mk => some (opVmov g d a mk)
  | .vbcast g d a mk => some (opVbcast g d a mk)
  | .vcvt g d a mk tgt rm sat => some (opVcvt g d a mk tgt rm sat)
  | .vcvts g d a mk tgt sat => some (opVcvts g d a mk tgt sat)
  | .vrq g d a b mk rm sat => some (opVrq g d a b mk rm sat)
  | .vexp2 g d a mk rm => some (opVexp2 g d a mk rm)
  | .vrcp g d a mk rm => some (opVrcp g d a mk rm)
  | .vrsq g d a mk rm => some (opVrsq g d a mk rm)
  | .vlog2 g d a mk rm => some (opVlog2 g d a mk rm)
  | .vred g d a mk op => some (opVred g d a mk op)
  | .vscan g d a mk op => some (opVscan g d a mk op)
  | .vperm g d a b mk => some (opVperm g d a b mk)
  | .vcomp g d a mk => some (opVcomp g d a mk)
  | .vexpd g d a mk => some (opVexpd g d a mk)
  | .vlut g d a b mk ent => some (opVlut g d a b mk ent)
  | .vbfx g d a b mk len => some (opVbfx g d a b mk len)
  | .vfsh g d a b mk sh => some (opVfsh g d a b mk sh)
  | .vpopc g d a mk => some (opVpopc g d a mk)
  | .vclz g d a mk => some (opVclz g d a mk)
  | .vld g d a sp off => some (opVld g d a sp off)
  | .vst g d a sp off => some (opVst g d a sp off)
  | .vldx g d a sp b mk => some (opVldx g d a sp b mk)
  | .vstx g d a sp b mk => some (opVstx g d a sp b mk)
  | .vtag g d t => some (opVtag g d t)
  | .vmsk g md a => some (opVmsk g md a)
  | .vtst g pd ma => some (opVtst g pd ma)
  | .txm g a p => some (opTxm g a p)
  | .rxm g d p => some (opRxm g d p)
  | .mma g t fa fb kg => some (opMma g t fa fb kg)
  | .mmas g t fa fb kg => some (opMmas g t fa fb kg)
  | .mmai g t kg => some (opMmai g t kg)
  | .tclr g t => some (opTclr g t)
  | .trd g d t row => some (opTrd g d t row)
  | .twr g a t row => some (opTwr g a t row)
  | .fqskip g f n => some (opFqskip g f n)
  | .msig g d => some (opMsig g d)
  | .cpy g a b c inc chk => some (opCpy g a b c inc chk)
  | .cpy2 g a b c inc chk => some (opCpy2 g a b c inc chk)
  | .cpy3 g a b c inc chk => some (opCpy3 g a b c inc chk)
  | .cpyx g a b c inc => some (opCpyx g a b c inc)
  | .unf g a b c inc => some (opUnf g a b c inc)
  | .gth g a b c inc => some (opGth g a b c inc)
  | .sct g a b c inc => some (opSct g a b c inc)
  | .fill g a b inc => some (opFill g a b inc)
  | .feed g a b inc f => some (opFeed g a b inc f)
  | .xfmT g a b c inc => some (opXfmT g a b c inc)
  | .xfmCvt g a b c inc => some (opXfmCvt g a b c inc)
  | .xfmPack g a b c inc => some (opXfmPack g a b c inc)
  | .pfd g a b => some (opPfd g a b)
  | .pfc g a b cls => some (opPfc g a b cls)
  | .sred g a b c inc op => some (opSred g a b c inc op)
  | .stg g a b c inc chk => some (opStg g a b c inc chk)
  | .cjs g s b pos => some (opCjs g s b pos)
  | .cjsl g a b pos => some (opCjsl g a b pos)
  | .wacc vd mk ts => some (opW .acc vd mk ts)
  | .wset vd mk ts => some (opW .set vd mk ts)
  | .wneg vd mk ts => some (opW .neg vd mk ts)
  | .nop _ | .arrayOperationComplete _ | .segmentCommit _ |
    .rendezvousRelease _ | .copyPieceLand _ _ | .arrivalIncrement _ _ | .copyFaultReport _ |
    .engineWriteAccept _ _ | .loadDeparture _ | .storeDeparture _ | .markerRemoval _ _ | .variableReply _ _ |
    .freezeEnd _ | .freezeWatchdog _ | .recovery _ | .segctlCommit _ | .csreqSave _ _ | .csreqRestore _ _ |
    .csreqBadreq _ | .lsclrClra _ | .lsclrClrt _ | .traceSelect _ _ | .traceTrigger _ | .registerWrite _ _ |
    .codeFetchMiss _ | .debugRequest _ _ | .debuggerRelease _ | .orderPointServe _ _ | .lineFill _ _ |
    .atomicUpdate _ _ | .translationWalk _ _ | .codePageStaging _ _ | .slcfgWrite _ _ | .asteWrite _ _ _ |
    .generationSwap _ _ | .generationRelease _ _ | .releaseRingWrite _ _ | .dramRefresh _ _ _ |
    .stagingAreaSizing _ _ | .pairmodeWrite _ _ _ | .operandArrival _ | .resultDelivery _ | .resultForward _ |
    .operandRetry _ _ | .sendRefusal _ | .orphanTimeout _ | .tagFree _ | .tagRetirementEnd _ |
    .tagBlockRecordWrite _ _ _ | .blockRequest _ | .partialWeightUpdate _ _ | .queueDescriptorWrite _ _ _ _ _ |
    .enqueue _ _ _ _ | .dispatchPlacement _ | .gangLaunch _ _ | .gangCompletion _ _ | .gridCompletion _ _ |
    .gridRelease _ _ | .popTimeout _ | .preemptionRequest _ _ _ _ | .preemptionRepeat _ _ |
    .barrierPhaseComplete _ _ _ | .transitPhaseStart _ _ | .transitPhaseEnd _ _ | .routerProgramWrite _ _ _ _ |
    .droop _ _ | .moduleReset | .start | .hqtail _ _ | .hostEntryTake _ | .jobCompletion _ | .cxlMemAccess _ _ _ _ |
    .attestationRequest _ | .firmwareUpdate _ | .powerLossWarning | .storageTransfer | .checkpointRestore |
    .ephreq _ | .modflowWrite _ | .slotAdvance | .sensorSample _ _ _ | .dryChannelEvacuation _ _ |
    .flitReceive _ _ | .retryRequest _ _ | .portDown _ | .laneRetrain _ | .capability _ _ _ | .fabcfgWrite _ |
    .messageForward _ | .messageDelivery _ | .routeTimeout _ | .remoteCompletion _ _ | .linkUp _ _ => none


/-- The predicates that an instruction writes, whatever its guard, and whether it writes the leaves (Table CTL-2). -/
def predDests (i : Instr) : BitVec 16 × Bool :=
  match i with
  | .cmp _ pd _ _ _ | .pand _ pd _ _ | .por _ pd _ _ | .pxor _ pd _ _ | .pnot _ pd _ | .pmov _ pd _ | .vtst _ pd _ =>
    (1#16 <<< pd.toNat, false)
  | .brt .. => (0, true)
  | _ => (0, false)

/-! ### Decode checks (Table BND-16) -/

/-- The raw bits of a slot; the header for slot number 6. -/
def slotRaw (w : Bits256) (k : Nat) : Nat :=
  match k with
  | 0 => (w.extractLsb' 192 48).toNat
  | 1 => (w.extractLsb' 152 40).toNat
  | 2 => (w.extractLsb' 112 40).toNat
  | 3 => (w.extractLsb' 80 32).toNat
  | 4 => (w.extractLsb' 40 40).toNat
  | 5 => (w.extractLsb' 0 40).toNat
  | _ => (w.extractLsb' 240 16).toNat

/-- A bundle that has passed the decode checks: its bits, its header marks, the idle count of an N bundle, and its
slots that are not empty: slot number, raw bits, instruction. -/
structure View where
  bits : Bits256
  ck : Bool
  rdv : Bool
  transit : Bool
  idle : Option (BitVec 12)
  slots : List (Nat × Nat × Instr)
  deriving DecidableEq, Repr

/-- The trap of a failed decode check: TINFO holds the slot's raw bits. -/
def decodeFails (w : Bits256) (code k : Nat) : TrapInfo := ⟨code, 0, k, BitVec.ofNat 64 (slotRaw w k)⟩
/-- R145: may V slot `k` of a TRANSIT bundle hold this?  TXM and RXM are told by their opcodes: a qualifier that is
unassigned is a matter of check 5. -/
def meshSlot (w : Bits256) (k : Nat) (r : SlotRes) : Bool :=
  r == .empty || bitsAt (slotRaw w k) 28 6 == 0x2C || bitsAt (slotRaw w k) 28 6 == 0x2D
/-- The TRANSIT content test, the last part of check 4. -/
def transitBad (w : Bits256) (b : GBundle) : Bool :=
  b.transit && !(b.m == .empty && b.c0 == .empty && b.c1 == .empty && meshSlot w 1 b.v0 && meshSlot w 2 b.v1)
/-- Check 5 of an instruction, for the core that issues. -/
def State.slotLegal (s : State) (i : Instr) : Bool :=
  i.wf && (match opOf i with | some o => o.legal s | none => true)
/-- Check 6. -/
def State.slotAllowed (s : State) (i : Instr) : Bool := match opOf i with | some o => o.allowed s | none => true
/-- Checks 5 and 6 of a slot. -/
def State.slotTrap (s : State) (w : Bits256) (k : Nat) (r : SlotRes) : Option TrapInfo :=
  match r with
  | .unassigned => some (decodeFails w 2 k)
  | .op i => if s.slotLegal i then none else some (decodeFails w 2 k)
  | _ => none
def State.slotForbid (s : State) (w : Bits256) (k : Nat) (r : SlotRes) : Option TrapInfo :=
  match r with
  | .op i => if s.slotAllowed i then none else some (decodeFails w 3 k)
  | _ => none
/-- The state in which a bundle of core `n` is checked and issued. -/
def State.facing (s : State) (n : Nat) (transit ck : Bool) : State :=
  { s with iss := { Issue.zero with cur := n, transit := transit, ck := ck } }

/-- R80, R81: the decode checks of a bundle at core `n`, in the order of Table BND-16. -/
def State.decode (s : State) (n : Nat) (w : Bits256) : Except TrapInfo View :=
  match decodeBundle w with
  | .illegal => .error (decodeFails w 1 6)
  | .idle c => .ok ⟨w, false, false, false, some c, []⟩
  | .weight i =>
    if (s.facing n false false).slotLegal i then .ok ⟨w, false, false, false, none, [(6, slotRaw w 6, i)]⟩
    else .error (decodeFails w 2 6)
  | .general b =>
    let s := s.facing n b.transit b.ckpt
    let rs : List (SlotRes × Nat) := b.slots.zipIdx
    match rs.find? fun x => x.1 == .bad with
    | some x => .error (decodeFails w 1 x.2)
    | none =>
      if transitBad w b then .error (decodeFails w 1 6)
      else match rs.findSome? fun x => s.slotTrap w x.2 x.1 with
        | some t => .error t
        | none =>
          match rs.findSome? fun x => s.slotForbid w x.2 x.1 with
          | some t => .error t
          | none => .ok ⟨w, b.ckpt, b.rdv, b.transit, none,
              rs.filterMap fun x => match x.1 with | .op i => some (x.2, slotRaw w x.2, i) | _ => none⟩

/-! ### What R221 says of the next bundle -/

/-- An operation with its slot's raw bits before its checks. -/
def Op.withRaw (o : Op) (raw : Nat) : Op :=
  { o with chk := fun s => o.chk { s with iss := { s.iss with raw := raw } } }
/-- The operations of a bundle whose guards are true, in slot order. -/
def View.ops (v : View) (r : Regs) : List (Nat × Op) :=
  v.slots.filterMap fun x => match opOf x.2.2 with
    | some o => if r.guard o.guard then some (x.1, o.withRaw x.2.1) else none
    | none => none

/-- R145: does a partner's recovery hold an RDV bundle of core `n` back? -/
def State.rdvHeld (s : State) (n : Nat) : Bool :=
  let c := s.core n
  !c.inTrap && c.recov.phase == 0 && (s.gangCores n).any fun m =>
    let x := s.core m
    m != n && x.recov.phase != 0 && !(x.recov.phase == 2 && decide (c.ctx.rdv.toNat < x.ctx.rdv.toNat))
/-- The freeze of a rendezvous: the spec does not say what TINFO<63:8> holds in its watchdog trap (log 11). -/
def waitFreeze (pc : Word) : Verdict := .freeze 7 (Config.waitInfo pc.toNat % 2 ^ 56) .none

/-- What a core's next turn meets. -/
inductive Look where
  | stop (v : Verdict)
  | go (w : View)
  deriving DecidableEq, Repr

/-- Does the bundle commit a segment before its slots take effect? A handler ignores CKPT (R222). -/
def Core.commits (c : Core) (v : View) : Bool := v.ck && !c.inTrap && !c.btw.ckpted
/-- R200: has the engine room for the copies of the segment that ends? -/
def Core.roomToCommit (c : Core) : Bool := c.engineRoom (c.held.filter isCopy).length

/-- R145, R221: a bundle that has passed the decode checks, at core `n`. -/
def State.weigh (s : State) (n : Nat) (v : View) : Look :=
  let c := s.core n
  let t := s.facing n v.transit v.ck
  if v.rdv && s.rdvHeld n then .stop (waitFreeze c.ctx.pc)
  else match t.verdict (c.commits v) (v.ops c.ctx.regs) with
    | .go => if c.commits v && !c.roomToCommit then .stop (.freeze 8 0 .none) else .go v
    | x => .stop x

/-- The bundle at the program counter of core `n`: its fetch, its decode checks and what R221 says of it. -/
def State.ownLook (s : State) (n : Nat) : Look :=
  match s.fetch n with
  | .stop v => .stop v
  | .bundle w _ =>
    match s.decode n w with
    | .error t => .stop (.trap t)
    | .ok v => s.weigh n v

/-- Is the core between two cycles of one bundle, or in the course of HALT? -/
def Core.midway (c : Core) : Bool := c.btw.halting || c.btw.vjoin != 0 || c.btw.idle != 0 || c.btw.replay
/-- Is the core's next cycle one without a bundle of its own: of VJOIN or an N bundle, or a replay? -/
def Core.between (c : Core) : Bool := c.btw.vjoin != 0 || c.btw.idle != 0 || c.btw.replay
/-- What core `n` meets, but for the other cores of its gang. -/
def State.look (s : State) (n : Nat) : Look :=
  let c := s.core n
  match c.barPending with
  | some b => if s.barWaits n b.toNat then .stop (barFreeze b.toNat) else s.ownLook n
  | none => s.ownLook n
/-- R331: does a core of a gang in a transit phase move when its gang does? -/
def State.moves (s : State) (n : Nat) : Bool :=
  let c := s.core n
  let goes := c.midway || (match s.look n with | .go _ => true | .stop _ => false)
  !c.inTrap && c.saving.isNone && !s.gatedCore n
    && (match c.run with
      | .run => goes
      | .frozen f => f.reason == 7 && goes
      | .stopped .halted => true
      | _ => false)
/-- R331: does a partner's freeze or handler hold core `n` in its transit phase? -/
def State.phaseHeld (s : State) (n : Nat) : Bool :=
  let c := s.core n
  c.inPhase && (s.gangCores n).any fun m => m != n && !s.moves m
/-- What core `n` meets at its next turn. -/
def State.meets (s : State) (n : Nat) : Look :=
  match s.look n with
  | .go v => if s.phaseHeld n then .stop (waitFreeze (s.core n).ctx.pc) else .go v
  | x => x

/-- What the S slot of the capture record meets (R224). -/
def State.replayMeets (s : State) (n : Nat) : Verdict :=
  let c := s.core n
  let raw := c.ctx.caph.toNat % 2 ^ 48
  let t := { s with iss := { Issue.zero with cur := n, raw := raw, ov := some (c.ctx.capa, c.ctx.capb, c.ctx.capc) } }
  match decodeS (BitVec.ofNat 48 raw) with
  | .op i => (match opOf i with | some o => t.verdict false [(0, o)] | none => .go)
  | _ => .go
/-- What a frozen core still waits for. -/
def State.awaits (s : State) (n : Nat) : Verdict :=
  let c := s.core n
  if c.between && s.phaseHeld n then waitFreeze c.ctx.pc
  else if c.btw.replay then s.replayMeets n
  else if c.between then .go
  else match s.meets n with | .stop v => v | .go _ => .go

/-! ### A gang's rollback in a transit phase (R331) -/

/-- The transit barriers that a context has passed in its segment. -/
def Core.transitBars (c : Core) : List Nat :=
  (List.range 4).filter fun k => c.ctx.barCount (1020 + k) != c.entry.barCount (1020 + k)
/-- The phase of a transit barrier is to be arrived at anew. -/
def Gang.reopen (g : Gang) (k : Nat) (a : BitVec 16) : Gang :=
  { g with
    transit := none
    bars := Map.put g.bars (1020 + k) ⟨a - 1, (List.range g.cores.length).map fun r => (r, a)⟩ }
/-- A rollback of core `n` between two states of the module, of a recovery that began in a transit phase, in the segment that its
BAR opened: where every context of the gang is in such a segment, all of them roll back, and the phase is arrived at anew. -/
def State.gangBack (old s : State) (n : Nat) : State :=
  let c := old.core n
  if (s.core n).btw.rolls = c.btw.rolls || !(c.recov.phased || (s.core n).recov.phased) then s
  else match s.gangOf n, c.transitBars with
    | some g, k :: _ =>
      let others := g.cores.filter fun m => m != n
      if others.all fun m => (s.core m).transitBars.contains k then
        let a := (s.core n).ctx.barCount (1020 + k)
        let s := others.foldl (fun (s : State) m => s.rollback m) s
        s.setGang (dieOf n) (s.core n).gangId (g.reopen k a)
      else s
    | _, _ => s

/-! ### Commits (R145, R231, R304) -/

/-- A core's commit, which a protected pair delays (R244). -/
def State.closeSegment (s : State) (n : Nat) (ck : Bool) : State :=
  let c := s.core n
  let c := { c with recov := ⟨0, 0, 0, false, false⟩, ctx := { c.ctx with thermal := some (s.thermal (dieOf n)) } }
  s.setCore n ((c.checkpoint (s.protected_ n) ck).traced s.time 5 0 c.ctx.pc)
/-- The end of a segment of core `n`, at its next bundle (`ck`) or in HALT; whether it has been committed.  The end of a
rerun may roll back or retire the core instead (R231). -/
def State.endSegment (s : State) (n : Nat) (ck : Bool) : State × Bool :=
  match (s.core n).rerunEnd with
  | .commit => (s.closeSegment n ck, true)
  | .again r =>
    let t := s.rollback n
    (s.gangBack (t.setCore n { t.core n with recov := r }) n, false)
  | .retire => (s.gangBack (s.retire n) n, false)
/-- The commit of the checkpoint bundle at the program counter; `late` says that a watchdog trap follows it (R228). -/
def State.commitAt (s : State) (n : Nat) (late : Option Bool) : State :=
  match s.endSegment n true with
  | (t, true) =>
    let c := t.core n
    t.setCore n { c with btw := { c.btw with ckpted := true, mid := late } }
  | (t, false) => t
/-- The commit of HALT: in a trap handler that of SEGCTL, after which the trapped context's results land (R143). -/
def State.commitHalt (s : State) (n : Nat) : State :=
  if (s.core n).inTrap then
    let t := s.segctl n
    let c := (t.core n).endTrapped
    t.setCore n { c with btw := { c.btw with haltCommit := false } }
  else match s.endSegment n false with
  | (t, true) =>
    let c := t.core n
    t.setCore n { c with btw := { c.btw with haltCommit := false } }
  | (t, false) => t
/-- Has core `n` a commit to make: of HALT, or of a checkpoint bundle that may issue? -/
def State.commitDue (s : State) (n : Nat) : Option State :=
  let c := s.core n
  if c.run != .run then none
  else if c.btw.halting then
    if c.btw.haltCommit && c.roomToCommit then some (s.commitHalt n) else none
  else if c.midway then none
  else match s.meets n with
    | .go v => if c.commits v then some (s.commitAt n none) else none
    | .stop _ => none

/-- R120, R244: a frozen pair's commit completes too, since a checkpoint bundle may wait for the reply of an operation
that its own commit releases (DEDUCED, log 28). -/
def State.closesFrozen (s : State) (n : Nat) : Option State :=
  let c := s.core n
  match c.run with
  | .frozen _ => if c.btw.closing.isEmpty then none else some (s.setCore n c.closeDue)
  | _ => none

/-- SEGMENT_COMMIT. -/
def execSegmentCommit (n : Nat) (s : State) : Host.Outcome State Fault Refusal :=
  let n := s.leader n
  .next (((s.commitDue n).or (s.closesFrozen n)).getD s)

/-! ### Freezes (R227, R228) -/

/-- The freeze of core `n` has ended. -/
def State.resume (s : State) (n : Nat) : State := s.setCore n ((s.core n).thaw s.time)
/-- Act on a verdict at core `n`. -/
def State.halts (s : State) (n : Nat) (v : Verdict) : State :=
  let t := (s.facing n false false).stop v
  let t := s.gangBack { t with iss := s.iss } n
  let c := t.core n
  match v with
  | .freeze .. => t.setCore n { c with btw := { c.btw with mid := if c.btw.mid = some false then none else c.btw.mid } }
  | _ => t
/-- R227: the awaited event has come: the core goes on, or waits for what is next.  The freeze of a checkpoint ends
with its commit (R228), and its bundle and a handler's that waited for the engine complete before a watchdog trap that is
due; that of LSCLR ends with the clear.  A freeze whose count has exceeded LIMIT ends with the watchdog trap alone. -/
def State.freezeEnds (s : State) (n : Nat) : Option State :=
  let c := s.core n
  match c.run with
  | .frozen f =>
    if f.reason = 9 then none
    else if f.reason = 8 then
      if c.btw.halting then (if c.roomToCommit then some (s.resume n) else none)
      else match s.meets n with
        | .stop (.freeze 8 _ _) => none
        | .go v =>
          if c.commits v then some ((s.resume n).commitAt n (some c.expired))
          else
            let t := s.resume n
            let d := t.core n
            some (t.setCore n { d with btw := { d.btw with mid := if c.expired then some true else d.btw.mid } })
        | _ => some (s.resume n)
    else if c.expired then none
    else match s.awaits n with
      | .freeze r i b =>
        let t := s.halts n (.freeze r i b)
        if t.core n = c then none else some t
      | _ => some (s.resume n)
  | _ => none

/-- FREEZE_END. -/
def execFreezeEnd (n : Nat) (s : State) : Host.Outcome State Fault Refusal := .next ((s.freezeEnds (s.leader n)).getD s)
/-- RENDEZVOUS_RELEASE: the end of a freeze of reason 7. -/
def execRendezvousRelease (n : Nat) (s : State) : Host.Outcome State Fault Refusal :=
  let n := s.leader n
  .next (if (s.core n).frozenFor 7 then (s.freezeEnds n).getD s else s)

/-- FREEZE_WATCHDOG: the trap at the waiting bundle; TSLOT is a free value (log 11).  Reasons 8 and 9 end first. -/
def State.watchdog (s : State) (n : Nat) : Option State :=
  let c := s.core n
  match c.run with
  | .frozen f =>
    if c.expired && f.reason != 8 && f.reason != 9 then
      some (s.trapAt n ⟨11, 0, (Config.watchSlot s.tick).toNat, BitVec.ofNat 64 (f.info % 2 ^ 56 * 256 + f.reason)⟩)
    else none
  | _ => none
def execFreezeWatchdog (n : Nat) (s : State) : Host.Outcome State Fault Refusal := .next ((s.watchdog (s.leader n)).getD s)

/-- RECOVERY: what starts it at core `n`: poisoned data at the next bundle, or a lockstep mismatch of its pair. -/
def execRecovery (n : Nat) (s : State) : Host.Outcome State Fault Refusal :=
  let n := s.leader n
  let c := s.core n
  .next (if c.run != .run then s
    else match s.meets n with
      | .stop (.recover t) => s.halts n (.recover t)
      | _ => if s.protected_ n then s.gangBack (s.mismatch n) n else s)

/-! ### Boundary events (R221) -/

/-- The order in which boundary events are taken. -/
def boundaryOrder : List Nat := [7, 10, 12, 13, 14, 15, 16, 19]
/-- May a boundary event be taken?  Not inside a run of TRANSIT bundles, nor while it is not known whether the next bundle
belongs to one (R145, R221). -/
def State.mayInterrupt (s : State) (n : Nat) : Bool :=
  let c := s.core n
  !c.inTrap && c.btw.mid.isNone && c.btw.clear.isNone && c.btw.vjoin == 0 && !c.btw.halting && c.saving.isNone
    && (match c.run with | .run => true | .frozen f => f.reason != 8 && f.reason != 9 && !c.expired | _ => false)
    && !(c.btw.transit && (match s.fetch n with
      | .bundle w _ => (match decodeBundle w with | .general b => b.transit | _ => false)
      | .stop _ => true))
/-- The debug trap that a frozen trace raises (Table TRP-10). -/
def traceEvent : BEvent := ⟨16, 1, 1⟩
/-- The boundary events that wait for a core. -/
def Core.events (c : Core) : List BEvent := c.pending ++ (if c.trace.due then [traceEvent] else [])
/-- An event has been taken. -/
def Core.took (c : Core) (e : BEvent) : Core :=
  if c.pending.contains e then { c with pending := c.pending.erase e } else { c with trace := { c.trace with due := false } }
/-- The event that core `n` takes: TSLOT 7 names an asynchronous report. -/
def State.interrupt (s : State) (n : Nat) : Option State :=
  let c := s.core n
  match boundaryOrder.findSome? fun k => c.events.find? fun e => e.code == k with
  | some e =>
    if s.mayInterrupt n then
      let s := s.setCore n (c.took e)
      some (s.trapAt n ⟨e.code, e.sub, 7, e.info⟩)
    else none
  | none => none

/-! ### The debugger -/

/-- DEBUG_REQUEST: the debug trap (TINFO 0), or a hold. -/
def execDebugRequest (n : Nat) (hold : Bool) (s : State) : Host.Outcome State Fault Refusal :=
  let n := s.leader n
  let c := s.core n
  .next (match hold, c.run with
    | false, .idle | false, .stopped .halted => s
    | false, _ => s.post n ⟨16, 0, 0⟩
    | true, .run => s.setCore n { c with run := .stopped (.debugger none) }
    | true, .frozen f => s.setCore n { c with run := .stopped (.debugger (some f)) }
    | true, _ => s)
/-- DEBUGGER_RELEASE. -/
def execDebuggerRelease (n : Nat) (s : State) : Host.Outcome State Fault Refusal :=
  let n := s.leader n
  let c := s.core n
  .next (match c.run with
    | .stopped (.debugger none) => s.setCore n { c with run := .run }
    | .stopped (.debugger (some f)) => s.setCore n { c with run := .frozen f }
    | _ => s)

/-! ### Registers written through a die controller or the host's window -/

/-- The registers of a core that act on the bundle at hand, or that have a step of their own. -/
def ownSteps : List Nat := [0x130, 0x138, 0x142, 0x3E2, 0x410, 0x418]

/-- REGISTER_WRITE.  A protected pair has one set of registers but for LPART, which each core's LSU holds (R186, R241). -/
def State.registerWrite (s : State) (r : RegTarget) (x : Word) : State :=
  match r with
  | .core n q =>
    if !sysAssigned q || ownSteps.contains q.toNat then s
    else s.sysWrite (if q.toNat = 0x303 then n else s.leader n) q x
  | .slpart sl j =>
    let y := s.slice sl
    s.setSlice sl { y with slpart := y.slpart.set (j % 4) x (Nat.mod_lt _ (by decide)) }
  | .schctl d =>
    let y := s.die d
    s.setDie d { y with schctl := x &&& 0xFF01 }
  | .featsel j => s.setPkg (s.pkg.writeFeatsel j x)
  | .hostQueue q off => s.setPkg (s.pkg.setHq q ((s.pkg.hq q).writeReg off x))
  | .fpstat p => { s with fab := s.fab.writeStatus p x }
  | .route m => { s with fab := s.fab.writeRoute m x }
  | .hdm => s.writeWindow x
  | .slotbase =>
    if s.expert 12 then s.setPkg { s.pkg with slotbase := x }
    else s.setPkg { s.pkg with log := s.pkg.log ++ [(0x500, x)] }
def execRegisterWrite (r : RegTarget) (x : Word) (s : State) : Host.Outcome State Fault Refusal :=
  .next (s.registerWrite r x)

end Sys2Proof.Machine
end

