-- ==== Sys2Proof/Machine/Dispatch.lean ====
section
/-! DEFINITION. The meaning of every instruction: one arm for each. -/

namespace Sys2Proof.Machine

/-- What an instruction does: an operation of a slot or of a W bundle, at issue on the core that `s.iss` names; a step
of the module, where it applies. -/
def exec (i : Instr) (s : State) : Host.Outcome State Fault Refusal :=
  match i with
  | .nop count => Sys2Proof.Machine.execNop count s
  | .wacc vd mk ts => Sys2Proof.Machine.execWacc vd mk ts s
  | .wset vd mk ts => Sys2Proof.Machine.execWset vd mk ts s
  | .wneg vd mk ts => Sys2Proof.Machine.execWneg vd mk ts s
  | .add g d a b => Sys2Proof.Machine.execAdd g d a b s
  | .sub g d a b => Sys2Proof.Machine.execSub g d a b s
  | .mul g d a b => Sys2Proof.Machine.execMul g d a b s
  | .mulh g d a b => Sys2Proof.Machine.execMulh g d a b s
  | .mulhu g d a b => Sys2Proof.Machine.execMulhu g d a b s
  | .div g d a b => Sys2Proof.Machine.execDiv g d a b s
  | .divu g d a b => Sys2Proof.Machine.execDivu g d a b s
  | .rem g d a b => Sys2Proof.Machine.execRem g d a b s
  | .remu g d a b => Sys2Proof.Machine.execRemu g d a b s
  | .and g d a b => Sys2Proof.Machine.execAnd g d a b s
  | .or g d a b => Sys2Proof.Machine.execOr g d a b s
  | .xor g d a b => Sys2Proof.Machine.execXor g d a b s
  | .andn g d a b => Sys2Proof.Machine.execAndn g d a b s
  | .shlReg g d a b => Sys2Proof.Machine.execShlReg g d a b s
  | .shrReg g d a b => Sys2Proof.Machine.execShrReg g d a b s
  | .sarReg g d a b => Sys2Proof.Machine.execSarReg g d a b s
  | .rotReg g d a b => Sys2Proof.Machine.execRotReg g d a b s
  | .shlImm g d a n => Sys2Proof.Machine.execShlImm g d a n s
  | .shrImm g d a n => Sys2Proof.Machine.execShrImm g d a n s
  | .sarImm g d a n => Sys2Proof.Machine.execSarImm g d a n s
  | .rotImm g d a n => Sys2Proof.Machine.execRotImm g d a n s
  | .min g d a b => Sys2Proof.Machine.execMin g d a b s
  | .max g d a b => Sys2Proof.Machine.execMax g d a b s
  | .minu g d a b => Sys2Proof.Machine.execMinu g d a b s
  | .maxu g d a b => Sys2Proof.Machine.execMaxu g d a b s
  | .abs g d a => Sys2Proof.Machine.execAbs g d a s
  | .sel g d pc a b => Sys2Proof.Machine.execSel g d pc a b s
  | .mov g d a => Sys2Proof.Machine.execMov g d a s
  | .addi g d a imm => Sys2Proof.Machine.execAddi g d a imm s
  | .lea g d a b sh => Sys2Proof.Machine.execLea g d a b sh s
  | .cmp g pd c a b => Sys2Proof.Machine.execCmp g pd c a b s
  | .bfx g d a pos len => Sys2Proof.Machine.execBfx g d a pos len s
  | .bfxz g d a pos len => Sys2Proof.Machine.execBfxz g d a pos len s
  | .bfi g d a b pos len => Sys2Proof.Machine.execBfi g d a b pos len s
  | .bfxVar g d a b len => Sys2Proof.Machine.execBfxVar g d a b len s
  | .bfxzVar g d a b len => Sys2Proof.Machine.execBfxzVar g d a b len s
  | .bfiVar g d a b c len => Sys2Proof.Machine.execBfiVar g d a b c len s
  | .fshl g d a b c => Sys2Proof.Machine.execFshl g d a b c s
  | .fshr g d a b c => Sys2Proof.Machine.execFshr g d a b c s
  | .clz g d a => Sys2Proof.Machine.execClz g d a s
  | .ctz g d a => Sys2Proof.Machine.execCtz g d a s
  | .popc g d a => Sys2Proof.Machine.execPopc g d a s
  | .brev g d a => Sys2Proof.Machine.execBrev g d a s
  | .pand g pd pa pb => Sys2Proof.Machine.execPand g pd pa pb s
  | .por g pd pa pb => Sys2Proof.Machine.execPor g pd pa pb s
  | .pxor g pd pa pb => Sys2Proof.Machine.execPxor g pd pa pb s
  | .pnot g pd pa => Sys2Proof.Machine.execPnot g pd pa s
  | .pmov g pd pa => Sys2Proof.Machine.execPmov g pd pa s
  | .movi g d imm => Sys2Proof.Machine.execMovi g d imm s
  | .movhi g d imm => Sys2Proof.Machine.execMovhi g d imm s
  | .ld g t a w sp acq sc off => Sys2Proof.Machine.execLd g t a w sp acq sc off s
  | .st g t a w sp rel sc off => Sys2Proof.Machine.execSt g t a w sp rel sc off s
  | .aadd g d a b w64 sc o => Sys2Proof.Machine.execAadd g d a b w64 sc o s
  | .aand g d a b w64 sc o => Sys2Proof.Machine.execAand g d a b w64 sc o s
  | .aor g d a b w64 sc o => Sys2Proof.Machine.execAor g d a b w64 sc o s
  | .axor g d a b w64 sc o => Sys2Proof.Machine.execAxor g d a b w64 sc o s
  | .amin g d a b w64 sc o u => Sys2Proof.Machine.execAmin g d a b w64 sc o u s
  | .amax g d a b w64 sc o u => Sys2Proof.Machine.execAmax g d a b w64 sc o u s
  | .axchg g d a b w64 sc o => Sys2Proof.Machine.execAxchg g d a b w64 sc o s
  | .acas g d a b c w64 sc o => Sys2Proof.Machine.execAcas g d a b c w64 sc o s
  | .afadd g d a b sc o => Sys2Proof.Machine.execAfadd g d a b sc o s
  | .afmax g d a b sc o => Sys2Proof.Machine.execAfmax g d a b sc o s
  | .fence g sc => Sys2Proof.Machine.execFence g sc s
  | .qmark g => Sys2Proof.Machine.execQmark g s
  | .vjoin g => Sys2Proof.Machine.execVjoin g s
  | .ownCore g a => Sys2Proof.Machine.execOwnCore g a s
  | .ownEngine g a => Sys2Proof.Machine.execOwnEngine g a s
  | .arma g a target => Sys2Proof.Machine.execArma g a target s
  | .waitaCnt g a n => Sys2Proof.Machine.execWaitaCnt g a n s
  | .waitaGen g a gen => Sys2Proof.Machine.execWaitaGen g a gen s
  | .sysr g d q => Sys2Proof.Machine.execSysr g d q s
  | .sysw g a q => Sys2Proof.Machine.execSysw g a q s
  | .rngs g a b => Sys2Proof.Machine.execRngs g a b s
  | .taga g d a => Sys2Proof.Machine.execTaga g d a s
  | .tagf g a => Sys2Proof.Machine.execTagf g a s
  | .tagq g d a => Sys2Proof.Machine.execTagq g d a s
  | .pgref g a => Sys2Proof.Machine.execPgref g a s
  | .tlbi g a b k => Sys2Proof.Machine.execTlbi g a b k s
  | .xlate g d a acc => Sys2Proof.Machine.execXlate g d a acc s
  | .pop g d a => Sys2Proof.Machine.execPop g d a s
  | .popNb g d a => Sys2Proof.Machine.execPopNb g d a s
  | .pushw g a => Sys2Proof.Machine.execPushw g a s
  | .join g a => Sys2Proof.Machine.execJoin g a s
  | .launch g a => Sys2Proof.Machine.execLaunch g a s
  | .launchi g a b => Sys2Proof.Machine.execLaunchi g a b s
  | .bar g n => Sys2Proof.Machine.execBar g n s
  | .bara g n => Sys2Proof.Machine.execBara g n s
  | .barw g n => Sys2Proof.Machine.execBarw g n s
  | .talw g d a => Sys2Proof.Machine.execTalw g d a s
  | .flowq g d a => Sys2Proof.Machine.execFlowq g d a s
  | .br g disp => Sys2Proof.Machine.execBr g disp s
  | .bri g a => Sys2Proof.Machine.execBri g a s
  | .brt g a pw px py pz => Sys2Proof.Machine.execBrt g a pw px py pz s
  | .call g d disp => Sys2Proof.Machine.execCall g d disp s
  | .calli g d a => Sys2Proof.Machine.execCalli g d a s
  | .ret g a => Sys2Proof.Machine.execRet g a s
  | .lbm g a n => Sys2Proof.Machine.execLbm g a n s
  | .pfi g n disp => Sys2Proof.Machine.execPfi g n disp s
  | .trap g code => Sys2Proof.Machine.execTrap g code s
  | .brk g code => Sys2Proof.Machine.execBrk g code s
  | .halt g => Sys2Proof.Machine.execHalt g s
  | .eret g => Sys2Proof.Machine.execEret g s
  | .vadd g d a b mk rm => Sys2Proof.Machine.execVadd g d a b mk rm s
  | .vsub g d a b mk rm => Sys2Proof.Machine.execVsub g d a b mk rm s
  | .vmul g d a b mk rm => Sys2Proof.Machine.execVmul g d a b mk rm s
  | .vmulh g d a b mk rm => Sys2Proof.Machine.execVmulh g d a b mk rm s
  | .vfma g d a b mk rm => Sys2Proof.Machine.execVfma g d a b mk rm s
  | .vmin g d a b mk rm => Sys2Proof.Machine.execVmin g d a b mk rm s
  | .vmax g d a b mk rm => Sys2Proof.Machine.execVmax g d a b mk rm s
  | .vabs g d a mk => Sys2Proof.Machine.execVabs g d a mk s
  | .vneg g d a mk => Sys2Proof.Machine.execVneg g d a mk s
  | .vand g d a b mk rm => Sys2Proof.Machine.execVand g d a b mk rm s
  | .vor g d a b mk rm => Sys2Proof.Machine.execVor g d a b mk rm s
  | .vxor g d a b mk rm => Sys2Proof.Machine.execVxor g d a b mk rm s
  | .vshl g d a b mk rm => Sys2Proof.Machine.execVshl g d a b mk rm s
  | .vshr g d a b mk rm => Sys2Proof.Machine.execVshr g d a b mk rm s
  | .vsar g d a b mk rm => Sys2Proof.Machine.execVsar g d a b mk rm s
  | .vcmp g md c a b mk => Sys2Proof.Machine.execVcmp g md c a b mk s
  | .vsel g d a b mk => Sys2Proof.Machine.execVsel g d a b mk s
  | .vmov g d a mk => Sys2Proof.Machine.execVmov g d a mk s
  | .vbcast g d a mk => Sys2Proof.Machine.execVbcast g d a mk s
  | .vcvt g d a mk tgt rm sat => Sys2Proof.Machine.execVcvt g d a mk tgt rm sat s
  | .vcvts g d a mk tgt sat => Sys2Proof.Machine.execVcvts g d a mk tgt sat s
  | .vrq g d a b mk rm sat => Sys2Proof.Machine.execVrq g d a b mk rm sat s
  | .vexp2 g d a mk rm => Sys2Proof.Machine.execVexp2 g d a mk rm s
  | .vrcp g d a mk rm => Sys2Proof.Machine.execVrcp g d a mk rm s
  | .vrsq g d a mk rm => Sys2Proof.Machine.execVrsq g d a mk rm s
  | .vlog2 g d a mk rm => Sys2Proof.Machine.execVlog2 g d a mk rm s
  | .vred g d a mk op => Sys2Proof.Machine.execVred g d a mk op s
  | .vscan g d a mk op => Sys2Proof.Machine.execVscan g d a mk op s
  | .vperm g d a b mk => Sys2Proof.Machine.execVperm g d a b mk s
  | .vcomp g d a mk => Sys2Proof.Machine.execVcomp g d a mk s
  | .vexpd g d a mk => Sys2Proof.Machine.execVexpd g d a mk s
  | .vlut g d a b mk ent => Sys2Proof.Machine.execVlut g d a b mk ent s
  | .vbfx g d a b mk len => Sys2Proof.Machine.execVbfx g d a b mk len s
  | .vfsh g d a b mk sh => Sys2Proof.Machine.execVfsh g d a b mk sh s
  | .vpopc g d a mk => Sys2Proof.Machine.execVpopc g d a mk s
  | .vclz g d a mk => Sys2Proof.Machine.execVclz g d a mk s
  | .vld g d a sp off => Sys2Proof.Machine.execVld g d a sp off s
  | .vst g d a sp off => Sys2Proof.Machine.execVst g d a sp off s
  | .vldx g d a sp b mk => Sys2Proof.Machine.execVldx g d a sp b mk s
  | .vstx g d a sp b mk => Sys2Proof.Machine.execVstx g d a sp b mk s
  | .vtag g d t => Sys2Proof.Machine.execVtag g d t s
  | .vmsk g md a => Sys2Proof.Machine.execVmsk g md a s
  | .vtst g pd ma => Sys2Proof.Machine.execVtst g pd ma s
  | .txm g a p => Sys2Proof.Machine.execTxm g a p s
  | .rxm g d p => Sys2Proof.Machine.execRxm g d p s
  | .mma g t fa fb kg => Sys2Proof.Machine.execMma g t fa fb kg s
  | .mmas g t fa fb kg => Sys2Proof.Machine.execMmas g t fa fb kg s
  | .mmai g t kg => Sys2Proof.Machine.execMmai g t kg s
  | .tclr g t => Sys2Proof.Machine.execTclr g t s
  | .trd g d t row => Sys2Proof.Machine.execTrd g d t row s
  | .twr g a t row => Sys2Proof.Machine.execTwr g a t row s
  | .fqskip g f n => Sys2Proof.Machine.execFqskip g f n s
  | .msig g d => Sys2Proof.Machine.execMsig g d s
  | .arrayOperationComplete n => Sys2Proof.Machine.execArrayOperationComplete n s
  | .cpy g a b c inc chk => Sys2Proof.Machine.execCpy g a b c inc chk s
  | .cpy2 g a b c inc chk => Sys2Proof.Machine.execCpy2 g a b c inc chk s
  | .cpy3 g a b c inc chk => Sys2Proof.Machine.execCpy3 g a b c inc chk s
  | .cpyx g a b c inc => Sys2Proof.Machine.execCpyx g a b c inc s
  | .unf g a b c inc => Sys2Proof.Machine.execUnf g a b c inc s
  | .gth g a b c inc => Sys2Proof.Machine.execGth g a b c inc s
  | .sct g a b c inc => Sys2Proof.Machine.execSct g a b c inc s
  | .fill g a b inc => Sys2Proof.Machine.execFill g a b inc s
  | .feed g a b inc f => Sys2Proof.Machine.execFeed g a b inc f s
  | .xfmT g a b c inc => Sys2Proof.Machine.execXfmT g a b c inc s
  | .xfmCvt g a b c inc => Sys2Proof.Machine.execXfmCvt g a b c inc s
  | .xfmPack g a b c inc => Sys2Proof.Machine.execXfmPack g a b c inc s
  | .pfd g a b => Sys2Proof.Machine.execPfd g a b s
  | .pfc g a b cls => Sys2Proof.Machine.execPfc g a b cls s
  | .sred g a b c inc op => Sys2Proof.Machine.execSred g a b c inc op s
  | .stg g a b c inc chk => Sys2Proof.Machine.execStg g a b c inc chk s
  | .cjs g v b pos => Sys2Proof.Machine.execCjs g v b pos s
  | .cjsl g a b pos => Sys2Proof.Machine.execCjsl g a b pos s
  | .segmentCommit n => Sys2Proof.Machine.execSegmentCommit n s
  | .rendezvousRelease n => Sys2Proof.Machine.execRendezvousRelease n s
  | .copyPieceLand n k => Sys2Proof.Machine.execCopyPieceLand n k s
  | .arrivalIncrement n k => Sys2Proof.Machine.execArrivalIncrement n k s
  | .copyFaultReport n => Sys2Proof.Machine.execCopyFaultReport n s
  | .engineWriteAccept n k => Sys2Proof.Machine.execEngineWriteAccept n k s
  | .loadDeparture n => Sys2Proof.Machine.execLoadDeparture n s
  | .storeDeparture n => Sys2Proof.Machine.execStoreDeparture n s
  | .markerRemoval n sq => Sys2Proof.Machine.execMarkerRemoval n sq s
  | .variableReply n k => Sys2Proof.Machine.execVariableReply n k s
  | .freezeEnd n => Sys2Proof.Machine.execFreezeEnd n s
  | .freezeWatchdog n => Sys2Proof.Machine.execFreezeWatchdog n s
  | .recovery n => Sys2Proof.Machine.execRecovery n s
  | .segctlCommit n => Sys2Proof.Machine.execSegctlCommit n s
  | .csreqSave n area => Sys2Proof.Machine.execCsreqSave n area s
  | .csreqRestore n area => Sys2Proof.Machine.execCsreqRestore n area s
  | .csreqBadreq n => Sys2Proof.Machine.execCsreqBadreq n s
  | .lsclrClra n => Sys2Proof.Machine.execLsclrClra n s
  | .lsclrClrt n => Sys2Proof.Machine.execLsclrClrt n s
  | .traceSelect n idx => Sys2Proof.Machine.execTraceSelect n idx s
  | .traceTrigger n => Sys2Proof.Machine.execTraceTrigger n s
  | .registerWrite r x => Sys2Proof.Machine.execRegisterWrite r x s
  | .codeFetchMiss n => Sys2Proof.Machine.execCodeFetchMiss n s
  | .debugRequest n hold => Sys2Proof.Machine.execDebugRequest n hold s
  | .debuggerRelease n => Sys2Proof.Machine.execDebuggerRelease n s
  | .orderPointServe sl k => Sys2Proof.Machine.execOrderPointServe sl k s
  | .lineFill sl line => Sys2Proof.Machine.execLineFill sl line s
  | .atomicUpdate sl k => Sys2Proof.Machine.execAtomicUpdate sl k s
  | .translationWalk d k => Sys2Proof.Machine.execTranslationWalk d k s
  | .codePageStaging d page => Sys2Proof.Machine.execCodePageStaging d page s
  | .slcfgWrite sl x => Sys2Proof.Machine.execSlcfgWrite sl x s
  | .asteWrite asid dw x => Sys2Proof.Machine.execAsteWrite asid dw x s
  | .generationSwap asid x => Sys2Proof.Machine.execGenerationSwap asid x s
  | .generationRelease asid gen => Sys2Proof.Machine.execGenerationRelease asid gen s
  | .releaseRingWrite dw x => Sys2Proof.Machine.execReleaseRingWrite dw x s
  | .dramRefresh d ch layer => Sys2Proof.Machine.execDramRefresh d ch layer s
  | .stagingAreaSizing d pages => Sys2Proof.Machine.execStagingAreaSizing d pages s
  | .pairmodeWrite p mode win => Sys2Proof.Machine.execPairmodeWrite p mode win s
  | .operandArrival k => Sys2Proof.Machine.execOperandArrival k s
  | .resultDelivery t => Sys2Proof.Machine.execResultDelivery t s
  | .resultForward t => Sys2Proof.Machine.execResultForward t s
  | .operandRetry n k => Sys2Proof.Machine.execOperandRetry n k s
  | .sendRefusal n => Sys2Proof.Machine.execSendRefusal n s
  | .orphanTimeout t => Sys2Proof.Machine.execOrphanTimeout t s
  | .tagFree t => Sys2Proof.Machine.execTagFree t s
  | .tagRetirementEnd t => Sys2Proof.Machine.execTagRetirementEnd t s
  | .tagBlockRecordWrite d blk x => Sys2Proof.Machine.execTagBlockRecordWrite d blk x s
  | .blockRequest record => Sys2Proof.Machine.execBlockRequest record s
  | .partialWeightUpdate asid u => Sys2Proof.Machine.execPartialWeightUpdate asid u s
  | .queueDescriptorWrite d q dw0 dw1 dw2 => Sys2Proof.Machine.execQueueDescriptorWrite d q dw0 dw1 dw2 s
  | .enqueue d r src ctx => Sys2Proof.Machine.execEnqueue d r src ctx s
  | .dispatchPlacement d => Sys2Proof.Machine.execDispatchPlacement d s
  | .gangLaunch d k => Sys2Proof.Machine.execGangLaunch d k s
  | .gangCompletion d gang => Sys2Proof.Machine.execGangCompletion d gang s
  | .gridCompletion d grid => Sys2Proof.Machine.execGridCompletion d grid s
  | .gridRelease d k => Sys2Proof.Machine.execGridRelease d k s
  | .popTimeout n => Sys2Proof.Machine.execPopTimeout n s
  | .preemptionRequest d gang kind prio => Sys2Proof.Machine.execPreemptionRequest d gang kind prio s
  | .preemptionRepeat d gang => Sys2Proof.Machine.execPreemptionRepeat d gang s
  | .barrierPhaseComplete d gang n => Sys2Proof.Machine.execBarrierPhaseComplete d gang n s
  | .transitPhaseStart d gang => Sys2Proof.Machine.execTransitPhaseStart d gang s
  | .transitPhaseEnd d gang => Sys2Proof.Machine.execTransitPhaseEnd d gang s
  | .routerProgramWrite d cl k entries => Sys2Proof.Machine.execRouterProgramWrite d cl k entries s
  | .droop d cycles => Sys2Proof.Machine.execDroop d cycles s
  | .moduleReset => Sys2Proof.Machine.execModuleReset s
  | .start => Sys2Proof.Machine.execStart s
  | .hqtail q x => Sys2Proof.Machine.execHqtail q x s
  | .hostEntryTake q => Sys2Proof.Machine.execHostEntryTake q s
  | .jobCompletion k => Sys2Proof.Machine.execJobCompletion k s
  | .cxlMemAccess write addr n data => Sys2Proof.Machine.execCxlMemAccess write addr n data s
  | .attestationRequest nonce => Sys2Proof.Machine.execAttestationRequest nonce s
  | .firmwareUpdate img => Sys2Proof.Machine.execFirmwareUpdate img s
  | .powerLossWarning => Sys2Proof.Machine.execPowerLossWarning s
  | .storageTransfer => Sys2Proof.Machine.execStorageTransfer s
  | .checkpointRestore => Sys2Proof.Machine.execCheckpointRestore s
  | .ephreq k => Sys2Proof.Machine.execEphreq k s
  | .modflowWrite x => Sys2Proof.Machine.execModflowWrite x s
  | .slotAdvance => Sys2Proof.Machine.execSlotAdvance s
  | .sensorSample zones inlet pressure => Sys2Proof.Machine.execSensorSample zones inlet pressure s
  | .dryChannelEvacuation d z => Sys2Proof.Machine.execDryChannelEvacuation d z s
  | .flitReceive p flit => Sys2Proof.Machine.execFlitReceive p flit s
  | .retryRequest p ack => Sys2Proof.Machine.execRetryRequest p ack s
  | .portDown p => Sys2Proof.Machine.execPortDown p s
  | .laneRetrain p => Sys2Proof.Machine.execLaneRetrain p s
  | .capability p modnum flags => Sys2Proof.Machine.execCapability p modnum flags s
  | .fabcfgWrite x => Sys2Proof.Machine.execFabcfgWrite x s
  | .messageForward m => Sys2Proof.Machine.execMessageForward m s
  | .messageDelivery k => Sys2Proof.Machine.execMessageDelivery k s
  | .routeTimeout k => Sys2Proof.Machine.execRouteTimeout k s
  | .remoteCompletion n k => Sys2Proof.Machine.execRemoteCompletion n k s
  | .linkUp p lanes => Sys2Proof.Machine.execLinkUp p lanes s

end Sys2Proof.Machine
end

