-- ==== Sys2Proof/Machine/Turn.lean ====
section
/-! DEFINITION. A core's turn: the issue of a bundle (R80, R130, R137), what takes no cycle (R138, R221), the cycles
without a bundle (R124, R143, R146), the replay (R224), and the cycles that a gang takes together (R331 to R333). -/

namespace Sys2Proof.Machine

/-! ### The random word of a bundle (R54, R55) -/

/-- RngNext. -/
def Ctx.rngNext (c : Ctx) : Word × Ctx :=
  let x := c.s0
  let y := c.s1
  let x := x ^^^ (x <<< 23)
  let x := x ^^^ (x >>> 17)
  let x := x ^^^ y ^^^ (y >>> 26)
  (x + y, { c with s0 := y, s1 := x })
/-- The oldest word of the queue, which the generator keeps ahead of. -/
def Ctx.popWord (c : Ctx) : Word × Ctx :=
  match c.queue with
  | w :: rest => (w, { c with queue := rest })
  | [] => c.rngNext
/-- The word that the generator adds in a cycle. -/
def Ctx.fillQueue (c : Ctx) : Ctx :=
  if c.queue.length < 32 then
    let (w, d) := c.rngNext
    { d with queue := c.queue ++ [w] }
  else c
/-- Does a bundle pop a word? -/
def View.pops (v : View) (r : Regs) : Bool :=
  v.slots.any fun x => match x.2.2 with | .vcvts g .. => r.guard g | _ => false

/-! ### The look-ahead nullifier (R138) -/

/-- The predicates, and the leaves, with a write in flight. -/
def flyingP (xs : List Land) : BitVec 16 :=
  xs.foldl (fun a l => match l.dst with | .p d _ => a ||| (1#16 <<< d.toNat) | _ => a) 0
def flyingLf (xs : List Land) : BitVec 5 :=
  if xs.any fun l => match l.dst with | .leaf _ => true | _ => false then 31 else 0
/-- What the nullifier holds of a bundle's cycle: guards as they stand at its start, and what is not stable. -/
def Core.latch (c : Core) (x : Ctx) (is : List Instr) : Core :=
  let ds := is.map predDests
  { c with btw := { c.btw with
    nulP := x.regs.p ||| 1
    nulLf := x.regs.lf
    nulBadP := ds.foldl (fun a d => a ||| d.1) (flyingP x.pipe)
    nulBadLf := if ds.any (·.2) then 31 else flyingLf x.pipe
    nulLeft := 3 } }
/-- A guard that was false and stable at the start of the cycle. -/
def Between.falseGuard (b : Between) (g : Guard) : Bool :=
  let k := g.sel.toNat
  if k < 16 then b.nulP.getLsbD k == g.inv && !b.nulBadP.getLsbD k
  else b.nulLf.getLsbD (k - 16) == g.inv && !b.nulBadLf.getLsbD (k - 16)
/-- Table CTL-2, of a bundle that passes the decode checks. -/
def View.skippable (v : View) (b : Between) : Bool :=
  !v.ck && !v.rdv && !v.transit && v.idle.isNone && !v.slots.isEmpty
    && v.slots.all fun x => x.1 != 6 && (match opOf x.2.2 with | some o => b.falseGuard o.guard | none => false)
/-- The bundle that core `n` skips. -/
def State.nullified (s : State) (n : Nat) : Option State :=
  let c := s.core n
  if c.btw.nulLeft = 0 then none
  else match s.fetch n with
    | .stop _ => none
    | .bundle w pa =>
      match s.decode n w with
      | .error _ => none
      | .ok v =>
        if v.skippable c.btw then
          let c := { c with fetch := (match pa with | some a => c.fetch.hit a | none => c.fetch) }
          let d := (c.capture c.ctx.pc w).pass
          some (s.setCore n { d with btw := { d.btw with nulLeft := d.btw.nulLeft - 1 } })
        else none

/-! ### Issue -/

/-- SYSR reads before the other slots act; the S slot acts after them, so that its trap finds their effects done. -/
def readsFirst (i : Instr) : Bool := match i with | .sysr .. => true | _ => false
/-- The slots of a bundle in the order in which they act here: their operands are those at issue (R5). -/
def View.acts (v : View) : List (Nat × Nat × Instr) :=
  let s := v.slots.filter fun x => x.1 == 0
  let others := v.slots.filter fun x => x.1 != 0
  if s.any fun x => readsFirst x.2.2 then s ++ others else others ++ s
/-- One slot acts. -/
def State.act (s : State) (x : Nat × Nat × Instr) : State :=
  if s.iss.ended then s
  else match exec x.2.2 { s with iss := { s.iss with slot := x.1, raw := x.2.1 } } with
    | .next t => t
    | _ => s
/-- Copies of this bundle that are in the engine already wait for the accesses of its S slot too (R313). -/
def Core.remark (c : Core) (from_ : Nat) : Core :=
  { c with engine := c.engine.map fun e =>
    match e with
    | .copy x => if from_ ≤ x.id then e.marked (releaseMark c.accs) c.btw.commits else e
    | .send _ => e }
/-- The target of the transfer that a bundle has taken. -/
def State.taken (s : State) (n : Nat) : Option Word :=
  let q := (s.core n).ctx.seqr
  if s.iss.advanced && q.pend == 2 then some q.tgt else none
/-- The end of a bundle that core `n` has issued as `c0`. No bundle issues in a cycle of an N bundle (R146), so the
nullifier examines nothing from there (DEDUCED, log 27). -/
def State.finish (s : State) (n : Nat) (v : View) (c0 : Core) : State :=
  let s := if s.iss.ended then s else s.closeCycleOf c0.ctx.pc
  let xfer := s.taken n
  let c := s.core n
  let c := if s.iss.ended || s.iss.advanced then c else c.pass
  let late := c.btw.mid == some true && !s.iss.ended
  let at_ : TrapAt := { c0.at with done := true, xfer := xfer, idle := 0 }
  let c := { c.remark c0.btw.nextId with btw := { c.btw with seqno := c.btw.seqno + 1 } }
  if s.iss.ended then s.setCore n c
  else
    let c := { c with
      fetch := { c.fetch with direct := none }
      btw := { c.btw with
        mid := none, transit := v.transit, waita := none, brt := none, ckpted := c.btw.ckpted && c.inTrap } }
    let c := (if v.idle.isSome then { c with btw := { c.btw with nulLeft := 0 } } else c.latch c0.ctx (v.slots.map fun y => y.2.2)).beginClear at_
    let s := s.setCore n c
    if late then s.trapWith n ⟨11, 0, (Config.watchSlot s.tick).toNat, 8⟩ at_ else s
/-- The bundle at the program counter of core `n` issues; its commit has been made.  A loop's body is captured as it issues
(R192), so that a bundle whose trap completes it, or whose S slot is replayed, is in the buffer when it is passed.  Idle cycles
recorded for another bundle than an N bundle are none (R147). -/
def State.runBundle (s : State) (n : Nat) (v : View) : State :=
  let c0 := s.core n
  let r := c0.ctx.regs
  let p := if v.pops r then c0.ctx.popWord else (0, c0.ctx)
  let x := p.2.fillQueue
  let x := if v.rdv && !c0.inTrap then { x with rdv := x.rdv + 1 } else x
  let x := if v.idle.isSome then x else { x with idleRun := 0 }
  let c := { c0 with
    ctx := x
    fetch := (match s.fetch n with | .bundle _ (some pa) => c0.fetch.hit pa | _ => c0.fetch)
    btw := { c0.btw with transit := c0.btw.transit && v.transit } }
  let c := c.capture c0.ctx.pc v.bits
  let iss := { Issue.zero with cur := n, transit := v.transit, ck := v.ck, word := p.1 }
  let s := { s.setCore n c with iss := iss }
  let s := match v.idle with
    | some k => s.act (6, slotRaw v.bits 6, .nop k)
    | none => v.acts.foldl State.act s
  s.finish n v c0
/-! ### Replay (R224, R226) -/

/-- The S slot of the capture record executes on the captured operands.  The bundle is captured for the loop where the cache
still supplies it (R192), and the nullifier examines those that follow it (R147). -/
def State.replay (s : State) (n : Nat) : State :=
  let c0 := s.core n
  let s := match s.fetch n with
    | .bundle w _ => s.setCore n (c0.capture c0.ctx.pc w)
    | .stop _ => s
  let raw := c0.ctx.caph.toNat % 2 ^ 48
  let iss := { Issue.zero with cur := n, raw := raw, ov := some (c0.ctx.capa, c0.ctx.capb, c0.ctx.capc) }
  let s := { s with iss := iss }
  let bad (code : Nat) : State := s.refuse ⟨code, 0, 0, BitVec.ofNat 64 raw⟩
  let s := match decodeS (BitVec.ofNat 48 raw) with
    | .empty => s
    | .bad => bad 1
    | .unassigned => bad 2
    | .op i => if i.wf then s.act (0, raw, i) else bad 2
  if s.iss.ended then s
  else
    let s := s.closeCycleOf c0.ctx.pc
    let c := s.core n
    let c := if s.iss.advanced then c else c.pass
    let c := c.latch c0.ctx (match decodeS (BitVec.ofNat 48 raw) with | .op i => [i] | _ => [])
    s.setCore n { c with
      ctx := { c.ctx with caph := putBit c.ctx.caph 63 false, owed := [], idleRun := 0 }
      btw := { c.btw with replay := false, seqno := c.btw.seqno + 1, ckpted := c.btw.ckpted && c.inTrap } }

/-! ### HALT (R143) -/

/-- Has every held effect left the core, and every reply been written? -/
def Core.leftAll (c : Core) : Bool :=
  c.accs.isEmpty && c.replies.isEmpty && c.held.isEmpty && c.loc.wbuf.isEmpty && c.arr.queue.isEmpty
    && !c.engine.any fun e => match e with
      | .copy x => x.ctx == c.regs.ctxId
      | .send x => x.ctx == c.regs.ctxId
/-- The core stops, and reports it. -/
def State.haltEnds (s : State) (n : Nat) : State :=
  let c := s.core n
  let c := { c with
    run := .stopped .halted, loc := c.loc.flush, fetch := { c.fetch with pfi := [] }
    btw := { c.btw with halting := false, phase := none } }
  ({ s.setCore n c with reports := s.reports ++ [Report.halted n] }).gangLeft (dieOf n) c.gangId

/-! ### A turn -/

/-- What a core's turn is: nothing, something that takes no core cycle, or a core cycle. -/
inductive Turn where
  | rest
  | now (s : State)
  | cycle (s : State)
  deriving DecidableEq, Repr

/-- A bundle of core `n` that R221 lets go: a checkpoint's commit comes first, and the checks are then made anew, with the
waits inside its slots (R120, R145). -/
def State.issue (s : State) (n : Nat) (v : View) : Turn :=
  if (s.core n).commits v then
    match s.endSegment n true with
    | (t, false) => .now t
    | (t, true) =>
      let c := t.core n
      let t := t.setCore n { c with btw := { c.btw with ckpted := true } }
      match t.weigh n v with
      | .go _ => .cycle (t.runBundle n v)
      | .stop x => .now (t.halts n x)
  else .cycle (s.runBundle n v)
/-- The turn of a core in HALT. -/
def State.haltTurn (s : State) (n : Nat) : Turn :=
  let c := s.core n
  if c.btw.haltCommit then
    if c.roomToCommit then .now (s.commitHalt n) else .now (s.halts n (.freeze 8 0 .none))
  else if !c.ctx.pipe.isEmpty then .cycle (s.setCore n (c.idleCycle s.tick))
  else if !c.btw.closing.isEmpty then .now (s.setCore n c.closeDue)
  else if c.inTrap then .now (s.setCore n c.leaveTrap)
  else if c.leftAll then .now (s.haltEnds n)
  else .rest
/-- The turn of core `n`. -/
def State.turn (s : State) (n : Nat) : Turn :=
  let c := s.core n
  if c.run != .run || c.saving.isSome || s.gatedCore n then .rest
  else if c.btw.halting then s.haltTurn n
  else if c.between && s.phaseHeld n then .now (s.halts n (waitFreeze c.ctx.pc))
  else if c.btw.vjoin != 0 then
    let d := c.idleCycle s.tick
    .cycle (s.setCore n { d with btw := { d.btw with vjoin := d.btw.vjoin - 1 } })
  else match s.nullified n with
    | some t => .now t
    | none =>
      match s.interrupt n with
      | some t => .now t
      | none =>
        if c.btw.idle != 0 then .cycle (s.setCore n ((c.idleCycle s.tick).idled (c.btw.idle - 1)))
        else if c.btw.replay then .cycle (s.replay n)
        else match s.meets n with
          | .stop v => .now (s.halts n v)
          | .go v =>
            match (s.core n).barPending with
            | some _ => (s.setCore n c.barDone).issue n v
            | none => s.issue n v
/-- Does core `n` take its cycles with its gang (R331)? -/
def State.inStep (s : State) (n : Nat) : Bool := (s.core n).btw.phase.isSome && !(s.core n).inTrap
/-- The turn of core `n` alone; a rollback may bring its gang back. -/
def State.coreTurn (s : State) (n : Nat) : Option State :=
  match s.turn n with
  | .rest => none
  | .now t => some (s.gangBack t n)
  | .cycle t => if s.inStep n then none else some (s.gangBack t n)
/-- A boundary event that ends a freeze (R228). -/
def State.wakes (s : State) (n : Nat) : Option State :=
  match (s.core n).run with | .frozen _ => s.interrupt n | _ => none

/-! ### The cycles of a transit phase (R331 to R333) -/

/-- Beat `j` of a row. -/
def beatOf (x : Row) (j : Nat) : BitVec 4096 := x.extractLsb' (4096 * j) 4096
/-- The outputs that the cores of a cluster drive in this cycle: the beats of TXM on port `p`. -/
def txBeats (xs : List Land) (p : Nat) : BitVec 4096 :=
  xs.foldl (fun a l => match l.dst with
    | .tx q x => if q.code.toNat = p && decide (1 ≤ l.rem ∧ l.rem ≤ 4) then a ||| beatOf x (4 - l.rem) else a
    | _ => a) 0
/-- The place beyond an edge of a place in the mesh of four rows of eight: 0 north, 1 east, 2 south, 3 west. -/
def neighbour (cl p : Nat) : Option Nat :=
  match p with
  | 0 => if cl < 8 then none else some (cl - 8)
  | 1 => if cl % 8 = 7 then none else some (cl + 1)
  | 2 => if 24 ≤ cl then none else some (cl + 8)
  | _ => if cl % 8 = 0 then none else some (cl - 1)
/-- The presented cluster beyond an edge of a presented cluster of a die: the mesh is that of the places (R342). -/
def Shape.beyond (x : Shape) (d cl p : Nat) : Option Nat := (neighbour (x.place d cl) p).bind (x.clusterAt d)
/-- The input of a router from one side: what its neighbour in the gang drove in the cycle before. -/
def inputOf (x : Shape) (dn : Nat) (wires : Map (BitVec 4096)) (cls : List Nat) (cl p : Nat) : BitVec 4096 :=
  match x.beyond dn cl p with
  | some m => if cls.contains m then Map.getD wires (m * 8 + (p + 2) % 4) 0 else 0
  | none => 0
/-- The source of output `p` in a program entry (Table SCH-9). -/
def sourceOf (e : BitVec 16) (p : Nat) : Nat := bitsAt e.toNat (13 - 3 * p) 3
/-- What a router drives on output `p` (4: the local bus). -/
def outputOf (x : Shape) (dn : Nat) (d : Die) (cls : List Nat) (xs : List Land) (prog cycle cl p : Nat) : BitVec 4096 :=
  let pr := d.program cl prog
  let e := if cycle < pr.xlen then pr.entries.getD cycle 0 else 0
  let k := sourceOf e p
  txBeats xs p ||| (if k = 0 then 0 else inputOf x dn d.wires cls cl (k - 1))
/-- The results in flight of the cores of a cluster. -/
def State.landsOf (s : State) (ns : List Nat) (cl : Nat) : List Land :=
  (ns.filter fun n => clusterOf n == cl).flatMap fun n => (s.core n).ctx.pipe
/-- A row with beat `j` replaced. -/
def putBeat (x : Row) (j : Nat) (b : BitVec 4096) : Row :=
  (x &&& ~~~((BitVec.allOnes 4096).setWidth 16384 <<< (4096 * j))) ||| (b.setWidth 16384 <<< (4096 * j))
/-- A row that RXM receives takes the beat that is present. -/
def Land.take (l : Land) (present : Nat → BitVec 4096) : Land :=
  match l.dst with
  | .rx d sel x =>
    if 1 ≤ l.rem ∧ l.rem ≤ 4 then { l with dst := .rx d sel (putBeat x (4 - l.rem) (present sel.code.toNat)) } else l
  | _ => l
/-- One phase cycle of the gang `k` of die `d`: none where a core of the gang does not move. -/
def State.phaseMoves (s : State) (d k : Nat) : Option State :=
  match s.gang d k with
  | none => none
  | some g =>
    match g.transit with
    | none => none
    | some (prog, cycle) =>
      let ns := g.cores.filter fun n => (s.core n).run != .stopped .halted
      let ready (n : Nat) : Bool :=
        s.moves n && (s.core n).run == .run && (match s.turn n with | .now _ => false | _ => true)
      if !g.saved.isEmpty || ns.isEmpty || !ns.all ready then none
      else
        let x := s.die d
        let cls := g.clusters
        let out (cl p : Nat) : BitVec 4096 := outputOf s.mem.shape d x cls (s.landsOf ns cl) prog cycle cl p
        let wires := cls.foldl (fun w cl =>
          (List.range 5).foldl (fun w p => Map.put w (cl * 8 + p) (out cl p)) w) x.wires
        let present (cl sel : Nat) : BitVec 4096 := if sel = 4 then out cl 4 else inputOf s.mem.shape d x.wires cls cl sel
        let receive (s : State) (n : Nat) : State :=
          let c := s.core n
          s.setCore n { c with ctx := { c.ctx with pipe := c.ctx.pipe.map fun l => l.take (present (clusterOf n)) } }
        let s := ns.foldl receive s
        let s := ns.foldl (fun (s : State) n =>
          match s.turn n with | .cycle t => s.gangBack t n | _ => s) s
        match s.gang d k with
        | some h =>
          if h.transit.isNone then some s
          else
            let s := s.setGang d k { h with transit := some (prog, cycle + 1) }
            let y := s.die d
            let s := s.setDie d { y with wires := wires }
            some (ns.foldl (fun (s : State) n =>
              let c := s.core n
              s.setCore n { c with btw := { c.btw with phase := c.btw.phase.map fun _ => cycle + 1 } }) s)
        | none => some s

end Sys2Proof.Machine
end

