-- ==== Sys2Proof/Machine/Moves.lean ====
section
/-! DEFINITION. The moves that the module can make by itself, one of which a step makes (R300; log 6), and what time
does to what counts ticks (R228, R233). -/

namespace Sys2Proof.Machine

/-! ### Time -/

/-- `dt` reference ticks pass for a core: a freeze and a SAVE count them (R228, R233). -/
def Core.age (c : Core) (dt : Nat) : Core :=
  { c with
    run := (match c.run with | .frozen f => .frozen { f with ticks := f.ticks + dt } | r => r)
    saving := c.saving.map fun x => { x with ticks := x.ticks + dt } }
/-- `dt` reference ticks pass. -/
def State.pass (s : State) (dt : Nat) : State :=
  { s with cores := s.cores.map fun e => (e.1, e.2.age dt), time := s.time + dt, tick := s.tick + 1 }

/-! ### The follower of a protected pair (R241, R242) -/

/-- A memory takes the bytes that another has changed. -/
def Memory.follow (old new own : Memory) : Memory :=
  if old = new then own
  else
    let put (m : Memory) (a : Nat) : Memory :=
      if Memory.read old a = Memory.read new a then m else Memory.write m a (Memory.read new a)
    (new.map (·.1)).foldl put ((old.map (·.1)).foldl put own)
/-- Elements with an error keep it, but for those that have been written. -/
def stillBad (old new : Memory) (es : List Nat) : List Nat :=
  es.filter fun e => (upFrom (8 * e) 8).all fun a => Memory.read old a == Memory.read new a
/-- The follower's storage takes what its leader's has taken; its errors are its own. -/
def Local.follow (old new own : Local) : Local :=
  { new with
    abuf := Memory.follow old.abuf new.abuf own.abuf, tspad := Memory.follow old.tspad new.tspad own.tspad
    eccA := stillBad old.abuf new.abuf own.eccA, eccT := stillBad old.tspad new.tspad own.eccT }
/-- The follower takes its leader's state: the skew of two core cycles is not modelled (log 36).  No request of it leaves the pair,
its share of the array rests, and LPART is its own until the leader's changes. -/
def Core.follow (old new own : Core) : Core :=
  { new with
    loc := Local.follow old.loc new.loc own.loc, accs := [], replies := [], held := [], owns := [], engine := [], incs := []
    arr := own.arr, backs := own.backs, saving := none
    regs := { new.regs with lpart := if new.regs.lpart = old.regs.lpart then own.regs.lpart else new.regs.lpart } }
/-- The followers of the protected pairs whose leaders a step has changed. -/
def State.mirror (old s : State) : State :=
  (s.listed.filter fun n => n % 2 == 0 && s.protected_ n && old.core n != s.core n).foldl
    (fun (s : State) n => s.setCore (n + 1) (Core.follow (old.core n) (s.core n) (s.core (n + 1)))) s

/-! ### The moves -/

/-- One half of an LSCLR clear whose time has come (R194). -/
def State.clears (s : State) (n : Nat) (tspad : Bool) : Option State :=
  let c := s.core n
  match c.btw.clear with
  | none => none
  | some (a, t) =>
    if (!a && !t && c.frozenFor 9) || ((if tspad then t else a) && c.clearReady (a && !tspad) (t && tspad)) then
      some (s.clearHalf n tspad)
    else none
/-- The event of a list of which place `k` is taken. -/
def eachOf {α : Type} (xs : List α) (f : Nat → Option State) : List (Option State) := (List.range xs.length).map f
/-- An event that applies when it is listed. -/
def always (o : Host.Outcome State Fault Refusal) : Option State :=
  match o with | .next t => some t | _ => none
/-- The moves of core `n`: its turn, its freeze, its queues, its engine, its array, its fetch.  A core whose clocks are stopped
makes none (R361), nor does a follower of its own (R242). -/
def State.coreMoves (s : State) (n : Nat) : List (Option State) :=
  let c := s.core n
  if s.leader n != n || s.gatedCore n then []
  else
    [s.coreTurn n, s.wakes n, s.freezeEnds n, s.closesFrozen n, s.watchdog n, s.saveStep n, s.tlbiEnds n, s.loadDeparts n,
      s.storeDeparts n, s.markerGoes n false, s.markerGoes n true, s.faultReport n, s.arrayStep n, s.fetchMiss n, s.sendRefused n,
      s.popTimesOut n, s.clears n false, s.clears n true,
      (s.wantedPage n).bind fun w => always (execCodePageStaging (dieOf n) w.1 s)]
    ++ (List.range (c.replies.length + c.accs.length)).map (s.repliesNow n)
    ++ c.accs.map (s.workArrives n)
    ++ c.accs.map (fun a => match a.kind with | .tagf t => if a.departed then s.tagFrees t else none | _ => none)
    ++ eachOf c.engine (s.advanceCopy n)
    ++ c.toMove.map (s.engineMove n)
    ++ eachOf c.incs (fun k => always (execArrivalIncrement n k s))
    ++ eachOf c.engine (s.retrySend n)
    ++ eachOf s.fab.waiting (s.remoteCompletes n)
/-- The moves of slice `sl`. -/
def State.sliceMoves (s : State) (sl : Nat) : List (Option State) :=
  let y := s.slice sl
  eachOf (s.requests sl) (s.pointServe sl) ++ y.mshr.map (fun e => s.fill sl e.1) ++ eachOf y.updates (s.update sl)
/-- The slices with something to do. -/
def State.busySlices (s : State) : List Nat :=
  (s.mem.slices.map (fun (e : Nat × Slice) => e.1) ++ s.mem.channels.map fun (e : Nat × List Nat) => e.1 % 128).dedup
/-- The moves of gang `k` of die `d`. -/
def State.gangMoves (s : State) (d k : Nat) (g : Gang) : List (Option State) :=
  [s.gangStarts d k, s.gangEnds d k, s.gangAbandoned d k, s.preemptAgain d k, s.transitStarts d k, s.transitEnds d k, s.phaseMoves d k]
  ++ g.bars.map fun b => s.barCompletes d k b.1
/-- The moves of a die controller. -/
def State.dieMoves (s : State) (d : Nat) (x : Die) : List (Option State) :=
  s.dispatches d :: x.gangs.flatMap (fun g => s.gangMoves d g.1 g.2)
  ++ x.grids.flatMap fun g => [s.gridEnds d g.1, s.gridReleases d g.1]
/-- The moves of the dies' walk units. -/
def State.walkMoves (s : State) : List (Option State) :=
  (List.range s.mem.shape.nd).flatMap fun d => eachOf (s.walksOf d) (s.walkStarts d)
/-- The moves of the conjunction units. -/
def State.conjMoves (s : State) : List (Option State) :=
  eachOf s.arrivals s.operandArrives ++ eachOf s.conj.told s.orphanReports
  ++ s.conj.results.flatMap (fun r => [s.deliver r.tag, s.forward r.tag])
  ++ s.conj.tags.flatMap fun e =>
    let t := tagOf e.2.scope s.fab.modnum (e.1 / 2 ^ 20) (e.1 % 2 ^ 20)
    [s.orphaned t, s.retired t]
/-- Does a slot's start hold or release a context (R361)? -/
def State.slotTurns (s : State) : Bool := s.cores.any fun e => (e.2.gate (s.gatedCore e.1)).run != e.2.run
/-- Is the next step of Table CLT-9 due for a zone? -/
def State.dryDue (s : State) (d z : Nat) : Bool :=
  let x := s.cool.zone d z
  match x.state with
  | .dry t0 => decide (t0 + 50500 ≤ s.time)
  | .gatedDry t0 => decide (100 ≤ x.good) || decide (t0 + 651000 ≤ s.time)
  | _ => false
/-- The moves of the coolant. -/
def State.coolMoves (s : State) : List (Option State) :=
  [s.arbitrates, if s.slotTurns then some s.gateAll else none]
  ++ s.cool.zones.map fun e =>
    if s.dryDue (e.1 / 16) (e.1 % 16) then always (execDryChannelEvacuation (e.1 / 16) (e.1 % 16) s) else none
/-- The moves of the package, of the OWC service and of the fabric. -/
def State.packageMoves (s : State) : List (Option State) :=
  [s.checkpointDone, s.unitLeaves, if s.pkg.state = 4 then some s.checkpointRestore else none, s.takesPort]
  ++ s.busy.map s.stopLate ++ s.pkg.hqs.map (fun e => s.takeEntry e.1) ++ eachOf s.pkg.roots s.completes
  ++ s.pkg.gens.map (fun e => s.generationLeaves (BitVec.ofNat 12 (e.1 / 4096)) (BitVec.ofNat 12 e.1))
  ++ s.fab.links.map (fun e => s.flitLeaves e.1) ++ eachOf s.fab.arrived s.delivers
  ++ eachOf s.fab.stranded s.routeFails
/-- The states that one move of the module leads to: none before MODULE_RESET has ended, nor in FAILED (R341, Table PKG-8). -/
def State.moved_ (s : State) : List State :=
  if s.pkg.state = 0 || s.pkg.state = 5 then []
  else
    (s.listed.flatMap s.coreMoves ++ s.busySlices.flatMap s.sliceMoves
      ++ s.dies.flatMap (fun e => s.dieMoves e.1 e.2)
      ++ s.walkMoves ++ s.conjMoves ++ s.coolMoves ++ s.packageMoves).filterMap id

/-! ### Outside events -/

/-- Is it a step of the module, and no operation of a bundle? -/
def isEvent (i : Instr) : Bool := match i with | .nop _ => false | i => (opOf i).isNone

end Sys2Proof.Machine
end

