-- ==== Sys2Proof/Machine/Step.lean ====
section
/-! DEFINITION. One step of the module, and the state in which a given instruction is the next to issue. -/

namespace Sys2Proof.Machine

/-- One of the enabled moves, by the free value where there are several (R300; log 6). -/
def State.choose (s : State) (ts : List State) : State :=
  match ts with
  | [] => s
  | [t] => t
  | t :: rest => (t :: rest).getD (Config.pick s.tick % (rest.length + 1)) t

/-- An outcome with the followers of the protected pairs brought up to their leaders (R241). -/
def State.followed (s : State) (o : Host.Outcome State Fault Refusal) : Host.Outcome State Fault Refusal :=
  match o with
  | .next t => .next (s.mirror t)
  | .fault f => .fault f
  | .refused r => .refused r

/-- A step: the oldest outside event, and otherwise one move of the module. -/
def step (s : State) : Host.Outcome State Fault Refusal :=
  let t := s.pass (Config.elapsed s.tick)
  match t.inbox with
  | i :: rest => if isEvent i && i.wf then s.followed (exec i { t with inbox := rest }) else .fault .noSuchUnit
  | [] => .next (s.mirror (t.choose t.moved_))

/-- A leaf for a code page of 64 KiB at physical address 0 plus its offset: V, LEAF, R, X, C, G64. -/
def codeLeaf : Word := 0x197

/-- Core 0 as a launch leaves it, about to issue from its program counter, in user mode (log 1). -/
def Core.ready (c : Core) (t : Tlb) (l : CodeLine) : Core :=
  { c with
    run := .run, sup := false, saving := none, pending := []
    fetch := { c.fetch with
      tlb := [t], lines := [l], loopBuf := [], walks := [], misses := [], failed := [], pfi := [] }
    ctx := { c.ctx with barWait := none }
    btw := { c.btw with
      idle := 0, vjoin := 0, replay := false, nulLeft := 0, halting := false, phase := none, ckpted := false } }

/-- The bundle that holds the instruction stands in the code cache at core 0's program counter, on a page that its
translations hold, and the module is in RUN with every feature selected. -/
def State.withFetchWord (s : State) (nbits w : Nat) : State :=
  let c := s.core 0
  let pc := c.ctx.pc.toNat % 2 ^ 56
  let t : Tlb := ⟨c.regs.asid, c.regs.genroot &&& (if c.regs.genroot.getLsbD 0 then BitVec.allOnes 64 else 0),
    alignDown pc 65536, 1, 0, codeLeaf, 0⟩
  let b := tableBundle nbits w
  let l : CodeLine := ⟨alignDown (s.codePa t (pc % 65536)) 128, 0, b, b, b, b⟩
  let s := s.setCore 0 (c.ready t l)
  { s with inbox := [], pkg := { s.pkg with state := 2, featact := BitVec.allOnes 256 } }

end Sys2Proof.Machine
end

