-- ==== Sys2Proof/Machine/Object.lean ====
section
/-! DEFINITION. Code objects (R349): the header and the section table (Table PKG-6), the digest list with its signature, dictionaries,
stored sections, and what a loader refuses. -/

namespace Sys2Proof.Machine

/-- `n` bytes of an object at an offset, and the little-endian number that they hold. -/
def slice (bs : List Byte) (off n : Nat) : List Byte := (bs.drop off).take n
def fieldAt (bs : List Byte) (off n : Nat) : Nat := leNat (slice bs off n)

/-- The kinds of section (Table PKG-6). -/
inductive SectKind where
  | code | wcode | rodata | data | btt | tagdecl | entries | pageclass | reloc
  deriving DecidableEq, Repr
def sectKinds : List SectKind := [.code, .wcode, .rodata, .data, .btt, .tagdecl, .entries, .pageclass, .reloc]
/-- Is a section for the loader only (Table ASM-6)? -/
def SectKind.loaderOnly (k : SectKind) : Bool :=
  match k with | .tagdecl | .entries | .pageclass | .reloc => true | .code | .wcode | .rodata | .data | .btt => false
/-- Does a section hold code page images? -/
def SectKind.isCode (k : SectKind) : Bool := k == .code || k == .wcode

/-- An entry of the section table. -/
structure Sect where
  kind : SectKind
  ndict : Nat
  rank : Nat
  voff : Nat
  bound : Nat
  off : Nat
  size : Nat
  deriving DecidableEq, Repr

/-- The entry of 32 bytes at an offset; none where KIND or NDICT is out of range. -/
def sectAt (bs : List Byte) (off : Nat) : Option Sect :=
  (sectKinds[fieldAt bs off 1]?).bind fun k =>
    let n := fieldAt bs (off + 1) 1
    if 15 < n then none
    else some { kind := k, ndict := n, rank := fieldAt bs (off + 2) 2, voff := fieldAt bs (off + 4) 8, bound := fieldAt bs (off + 12) 8,
                off := fieldAt bs (off + 20) 8, size := fieldAt bs (off + 28) 4 }
/-- The end of a section's stored bytes. -/
def Sect.fin (x : Sect) : Nat := x.off + x.size

/-- The bytes of an ML-DSA-65 signature (FIPS 204). -/
def signatureLen : Nat := 3309
/-- An object: its bytes, NPAGE, the offsets of the table and of the list, the sections. -/
structure CodeObject where
  bytes : List Byte
  npage : Nat
  table : Nat
  list : Nat
  sects : List Sect
  deriving DecidableEq, Repr

/-- R349: the object that bytes lay out; none where the header or the table is not as Table PKG-6 has it. -/
def objectOf (bs : List Byte) : Option CodeObject :=
  let ns := fieldAt bs 6 2
  let table := fieldAt bs 12 4
  if bs.length < 64 || fieldAt bs 0 4 != 0x4C53564F || fieldAt bs 4 2 != 1 || (upFrom 20 44).any (fun i => bs.getD i 0 != 0)
      || bs.length < table + 32 * ns then none
  else ((List.range ns).mapM fun k => sectAt bs (table + 32 * k)).map fun xs =>
    { bytes := bs, npage := fieldAt bs 8 4, table := table, list := fieldAt bs 16 4, sects := xs }

/-- Where the signature stands, and where the sections begin. -/
def CodeObject.sigAt (o : CodeObject) : Nat := o.list + 32 * o.npage
def CodeObject.firstAt (o : CodeObject) : Nat := o.sigAt + signatureLen
/-- What the signature covers: the header, the section table and the list. -/
def CodeObject.signed (o : CodeObject) : List Byte :=
  slice o.bytes 0 64 ++ slice o.bytes o.table (32 * o.sects.length) ++ slice o.bytes o.list (32 * o.npage)
/-- The digest of page `k` in the list. -/
def CodeObject.pageDigest (o : CodeObject) (k : Nat) : List Byte := slice o.bytes (o.list + 32 * k) 32

/-- R349: the order of an object's parts: header, table, list and signature, loader-only sections, the others by rank. -/
def CodeObject.ordered (o : CodeObject) : Bool :=
  decide (64 ≤ o.table ∧ o.table + 32 * o.sects.length ≤ o.list)
    && o.sects.all (fun x => decide (o.firstAt ≤ x.off ∧ x.fin ≤ o.bytes.length))
    && o.sects.all fun x => o.sects.all fun y =>
      x == y || (if x.kind.loaderOnly then y.kind.loaderOnly || decide (x.fin ≤ y.off)
        else y.kind.loaderOnly || decide (y.rank ≤ x.rank) || decide (x.fin ≤ y.off))

/-- Where the bytes before a section end: its dictionaries begin there (DESIGN CHOICE, log 16). -/
def CodeObject.before (o : CodeObject) (x : Sect) : Nat :=
  (o.sects.filter fun y => decide (y.off < x.off)).foldl (fun m y => max m y.fin) o.firstAt
/-- `n` dictionaries from an offset on, each raw after its length of 4 bytes; none where one has not 1 to 65536 bytes. -/
def readDicts (bs : List Byte) (n off : Nat) : Option (List (List Byte)) :=
  match n with
  | 0 => some []
  | k + 1 =>
    let len := fieldAt bs off 4
    if len = 0 || 65536 < len || bs.length < off + 4 + len then none
    else (readDicts bs k (off + 4 + len)).map fun ds => slice bs (off + 4) len :: ds
/-- The dictionaries of a section. -/
def CodeObject.dicts (o : CodeObject) (x : Sect) : Option (List (List Byte)) := readDicts o.bytes x.ndict (o.before x)
/-- Dictionary `k` of a section's, from 1 on: none above NDICT. -/
def dictOf (ds : List (List Byte)) (k : Nat) : Option (List Byte) := if k = 0 then none else ds[k - 1]?

/-- Blocks back to back, expanded; none for a block failure. -/
def expandBlocks (fuel : Nat) (ds : List (List Byte)) (bs : List Byte) : Option (List Byte) :=
  match fuel, bs with
  | _, [] => some []
  | 0, _ => none
  | k + 1, bs =>
    (cbfHead bs).bind fun h =>
      let n := 16 + h.bodyLen
      if bs.length < n then none
      else (cbfExpand h (slice bs 16 h.bodyLen) (dictOf ds)).bind fun x =>
        (expandBlocks k ds (bs.drop n)).map fun rest => x ++ rest
/-- Block `k` of a code page image: its directory gives the offset. -/
def imageBlock (ds : List (List Byte)) (image : List Byte) (k : Nat) : Option (List Byte) :=
  let w := fieldAt image (4 * k) 4
  let off := bitsAt w 0 20
  if bitsAt w 20 12 ≠ 0 then none
  else (cbfHead (slice image off 16)).bind fun h =>
    if h.expLen ≠ 1024 then none else cbfExpand h (slice image (off + 16) h.bodyLen) (dictOf ds)
/-- The expanded bytes of a section: of its code page images, each of 64 KiB, or of its blocks. -/
def CodeObject.expanded (o : CodeObject) (x : Sect) : Option (List Byte) :=
  (o.dicts x).bind fun ds =>
    let bs := slice o.bytes x.off x.size
    if x.kind.isCode then
      ((List.range (x.size / 65536)).mapM fun i =>
        ((List.range 64).mapM (imageBlock ds (slice bs (65536 * i) 65536))).map List.flatten).map List.flatten
    else expandBlocks x.size ds bs

/-- R349: what a loader takes: an object that is laid out as R349 says, whose signature verifies and whose expanded sections are
within their bounds. -/
def CodeObject.accepted (o : CodeObject) : Bool :=
  o.ordered && Config.verifies (digest o.signed) (slice o.bytes o.sigAt signatureLen)
    && o.sects.all fun x => match o.expanded x with | some bs => decide (bs.length ≤ x.bound) | none => false
/-- The object that a loader loads from bytes; none where it refuses them. -/
def loadObject (bs : List Byte) : Option CodeObject := (objectOf bs).filter CodeObject.accepted

end Sys2Proof.Machine
end

