-- ==== Sys2Proof/Safety.lean ====
section
/-! DEFINITION. What counts as a safe run, and when a slot operation is ready, in the terms that the statements use. -/

namespace Sys2Proof.Machine

open Host

/-- Does a step go on? -/
def goesOn (o : Outcome State Fault Refusal) : Bool :=
  match o with
  | .next _ => true
  | .fault _ => false
  | .refused _ => false

/-- The invariant of global memory: its list is in the canonical form, so that equal memories are equal data. -/
def State.Canonical (s : State) : Prop := s.mem.bytes.wf = true

/-- Every event that waits outside names units that the module has. -/
def State.Sane (s : State) : Prop := ∀ i ∈ s.inbox, (isEvent i && i.wf) = true

/-- A run of `k` steps is safe where no step of it stops. -/
def StepsSafely (k : Nat) (s : State) : Prop :=
  match k with
  | 0 => True
  | j + 1 => match step s with
    | .next t => StepsSafely j t
    | .fault _ => False
    | .refused _ => False

/-! ### When a slot operation is ready -/

/-- Would the operation's held effects stay within the limits of its segment (Table TRP-5)? -/
def Op.fits (o : Op) (s : State) : Bool :=
  (o.uses s).isEmpty || (overLimit (addUses (if s.me.inTrap then [] else s.me.heldUses) (o.uses s))).isNone

/-- R220, R221: an operation executes normally where its guard is true, its values are assigned and its features
selected, its privilege is there, its sources are full and not poisoned, its destinations full, and no other cause to
wait, no data still to come or uncorrectable, no tag check, no check of the slot and no limit stands against it; the bundle is no
replay. -/
def Op.ready (o : Op) (s : State) : Bool :=
  s.iss.ov.isNone && s.me.ctx.regs.guard o.guard && o.legal s && o.allowed s
    && (o.srcs.all fun x => !s.me.srcEmpty x && !s.me.srcPoison x) && (o.dests.all fun x => !s.me.srcEmpty x)
    && (o.wait s).isNone && o.ask s == .go && (o.tag s).isNone && (o.bad s).isNone && (o.chk s).isNone && o.fits s
    && o.xlat s == .ok && o.late s == .go

/-- R220, R221: the instruction in the slot at hand of the core at hand executes normally. -/
def ready (i : Instr) (s : State) : Bool :=
  match opOf i with
  | some o => o.ready s
  | none => false

/-- The state in which an instruction's effect begins: what it asks of others has been noted for the commit signature
(R243); nothing else of the state differs. -/
def State.noted (s : State) (i : Instr) : State :=
  match opOf i with
  | some o => s.noteReq (o.reqs s)
  | none => s

/-! ### The words of the statements -/

/-- The value of a G operand at issue (R5, R99). -/
abbrev State.gReg (s : State) (a : GSrc) : Word := s.me.ctx.regs.gv a.reg
/-- A row operand at issue. -/
abbrev State.vReg (s : State) (a : VSrc) : VCell := s.me.ctx.regs.vCell a.reg

/-- Where the instruction is ready it completes, and all it does is to put a result of latency `l` in flight (R100). -/
def delivers (i : Instr) (s : State) (l : Nat) (d : Dst) : Prop :=
  ready i s = true → exec i s = .next (s.send l d)

/-- Where the instruction is ready it completes, and it leads to `f` of the state in which its request is noted. -/
def completes (i : Instr) (s : State) (f : State → State) : Prop :=
  ready i s = true → exec i s = .next (f (s.noted i))

/-- The instruction leads on, to a state of which `q` is true. -/
def leads (i : Instr) (s : State) (q : State → Prop) : Prop := ∃ t, exec i s = .next t ∧ q t

/-- Where the row instruction is ready it completes, and all it does is to put in flight a row whose lane `j` is `x j`,
with the flags that its enabled lanes raise (R52, R149, R174). -/
def yields (i : Instr) (s : State) (l : Nat) (d : VReg) (mask : Mask) (tag : Option Tag) (x : Nat → FRes) : Prop :=
  ready i s = true → ∃ (row : Row) (fl : BitVec 5),
    (∀ j < 512, lane row j = BitVec.ofNat 32 (x j).bits)
    ∧ (∀ k < 5, fl.getLsbD k = true ↔ ∃ j < 512, mask.getLsbD j = true ∧ (x j).flags.getLsbD k = true)
    ∧ exec i s = .next (s.send l (.v d row mask tag false false) fl)

/-- An access as the core at hand issues it now (R302): in program order after every other, held where it is to be,
unless a trap handler issues it (R222), not yet departed, for an address that no translation has given. -/
def State.access (s : State) (k : AccKind) (held : Bool) : Acc :=
  { id := s.me.btw.nextId, kind := k, held := held && !s.me.inTrap, departed := false, performed := false
    own := s.me.inTrap, seg := s.me.btw.seg, commit := s.me.btw.commits, opens := s.me.btw.ckpted && !s.me.inTrap
    part := s.me.regs.part, pa := 0, home := 0, key := 0, cached := true, cbf := false }

/-- The access's address as its translation gives it. -/
def Acc.at (a : Acc) (pa : Nat) (e : Tlb) : Acc :=
  { a with pa := pa, home := pteHome e.hi, key := pteKey e.hi, cached := pteC e.lo }

/-- A core with the full bit of a G register cleared; G0 stays as it is (R99). -/
def Core.emptied (c : Core) (d : GReg) : Core :=
  if d = 0 then c
  else { c with ctx := { c.ctx with regs := c.ctx.regs.setG d { c.ctx.regs.gCell d with full := false } } }

end Sys2Proof.Machine
end

