-- ==== Sys2Proof/Certificates/Slice0/Obligations.lean ====
section
/-! DEFINITION. The statements for the provers: what the rules of the spec say that the instructions, the steps of
the module and the machine do. -/

open Sys2Proof Sys2Proof.Machine

/-! ### The S slot: integer, field, count, compare and predicate operations -/

/-- R103, Table SCL-1: the register forms that add, subtract, combine bits and choose. -/
def Obligations.register_forms : Prop :=
  ∀ (g : Guard) (d : GReg) (a b : GSrc) (p : PReg) (sh : BitVec 3) (s : State),
    let A := s.gReg a
    let B := s.gReg b
    delivers (.add g d a b) s 1 (.g d (BitVec.ofNat 64 (A.toNat + B.toNat)) false)
    ∧ delivers (.sub g d a b) s 1 (.g d (BitVec.ofInt 64 ((A.toNat : Int) - B.toNat)) false)
    ∧ delivers (.and g d a b) s 1 (.g d (A &&& B) false)
    ∧ delivers (.or g d a b) s 1 (.g d (A ||| B) false)
    ∧ delivers (.xor g d a b) s 1 (.g d (A ^^^ B) false)
    ∧ delivers (.andn g d a b) s 1 (.g d (A &&& ~~~B) false)
    ∧ delivers (.min g d a b) s 1 (.g d (if A.toInt ≤ B.toInt then A else B) false)
    ∧ delivers (.max g d a b) s 1 (.g d (if B.toInt ≤ A.toInt then A else B) false)
    ∧ delivers (.minu g d a b) s 1 (.g d (if A.toNat ≤ B.toNat then A else B) false)
    ∧ delivers (.maxu g d a b) s 1 (.g d (if B.toNat ≤ A.toNat then A else B) false)
    ∧ delivers (.abs g d a) s 1 (.g d (BitVec.ofNat 64 A.toInt.natAbs) false)
    ∧ delivers (.sel g d p a b) s 1 (.g d (if s.me.ctx.regs.pv p then A else B) false)
    ∧ delivers (.mov g d a) s 1 (.g d A false)
    ∧ delivers (.lea g d a b sh) s 1 (.g d (BitVec.ofNat 64 (A.toNat + B.toNat * 2 ^ sh.toNat)) false)

/-- R103, R105: shifts and rotations, whose count is bits 5:0 of B or the immediate. -/
def Obligations.shifts : Prop :=
  ∀ (g : Guard) (d : GReg) (a b : GSrc) (k : BitVec 6) (s : State),
    let A := s.gReg a
    let n := (s.gReg b).toNat % 64
    let shl (n : Nat) : Word := BitVec.ofNat 64 (A.toNat * 2 ^ n)
    let shr (n : Nat) : Word := BitVec.ofNat 64 (A.toNat / 2 ^ n)
    let sar (n : Nat) : Word := BitVec.ofInt 64 (A.toInt / 2 ^ n)
    let rot (n : Nat) (x : Word) : Prop := ∀ i < 64, x.getLsbD ((i + n) % 64) = A.getLsbD i
    delivers (.shlReg g d a b) s 1 (.g d (shl n) false)
    ∧ delivers (.shrReg g d a b) s 1 (.g d (shr n) false)
    ∧ delivers (.sarReg g d a b) s 1 (.g d (sar n) false)
    ∧ (∃ x, rot n x ∧ delivers (.rotReg g d a b) s 1 (.g d x false))
    ∧ delivers (.shlImm g d a k) s 1 (.g d (shl k.toNat) false)
    ∧ delivers (.shrImm g d a k) s 1 (.g d (shr k.toNat) false)
    ∧ delivers (.sarImm g d a k) s 1 (.g d (sar k.toNat) false)
    ∧ (∃ x, rot k.toNat x ∧ delivers (.rotImm g d a k) s 1 (.g d x false))

/-- R104, Tables NUM-1 and SCL-1: products of latency 3; quotients and remainders of latency 18, with the results of
a zero divisor. -/
def Obligations.products_and_quotients : Prop :=
  ∀ (g : Guard) (d : GReg) (a b : GSrc) (s : State),
    let A := s.gReg a
    let B := s.gReg b
    delivers (.mul g d a b) s 3 (.g d (BitVec.ofNat 64 (A.toNat * B.toNat)) false)
    ∧ delivers (.mulh g d a b) s 3 (.g d ((BitVec.ofInt 128 (A.toInt * B.toInt)).extractLsb' 64 64) false)
    ∧ delivers (.mulhu g d a b) s 3 (.g d ((BitVec.ofNat 128 (A.toNat * B.toNat)).extractLsb' 64 64) false)
    ∧ delivers (.div g d a b) s 18
        (.g d (if B = 0 then BitVec.ofInt 64 (-1) else BitVec.ofInt 64 (A.toInt.tdiv B.toInt)) false)
    ∧ delivers (.divu g d a b) s 18
        (.g d (if B = 0 then BitVec.ofInt 64 (-1) else BitVec.ofNat 64 (A.toNat / B.toNat)) false)
    ∧ delivers (.rem g d a b) s 18 (.g d (if B = 0 then A else BitVec.ofInt 64 (A.toInt.tmod B.toInt)) false)
    ∧ delivers (.remu g d a b) s 18 (.g d (if B = 0 then A else BitVec.ofNat 64 (A.toNat % B.toNat)) false)

/-- R105, R106: ADDI, MOVI and MOVHI. -/
def Obligations.immediate_forms : Prop :=
  ∀ (g : Guard) (d : GReg) (a : GSrc) (i24 : BitVec 24) (i32 : BitVec 32) (s : State),
    delivers (.addi g d a i24) s 1 (.g d (BitVec.ofInt 64 ((s.gReg a).toInt + i24.toInt)) false)
    ∧ delivers (.movi g d i32) s 1 (.g d (BitVec.ofInt 64 i32.toInt) false)
    ∧ delivers (.movhi g d i32) s 1
        (.g d (BitVec.ofNat 64 (i32.toNat * 2 ^ 32 + (s.gReg ⟨d, false⟩).toNat % 2 ^ 32)) false)

/-- R107 to R110: fields are read and inserted bit by bit, the bits above 63 reading as zero; the funnel shifts; the
counts, each by the bits it counts. `pos` is any unsigned value; LEN is encoded less one; the opcodes of the insertions
and of the funnel shifts. -/
def Obligations.bit_fields_and_counts : Prop :=
  (∀ (g : Guard) (d : GReg) (a b c : GSrc) (pos len : BitVec 6) (s : State),
     let A := s.gReg a
     let B := s.gReg b
     let C := s.gReg c
     let n := len.toNat + 1
     let field (pos i : Nat) : Bool := decide (i < n) && decide (pos + i ≤ 63) && A.getLsbD (pos + i)
     let zeroExt (pos : Nat) (x : Word) : Prop := ∀ i < 64, x.getLsbD i = field pos i
     let signExt (pos : Nat) (x : Word) : Prop := ∀ i < 64, x.getLsbD i = field pos (min i (n - 1))
     let insert (pos : Nat) (x : Word) : Prop :=
       ∀ j < 64, x.getLsbD j = if pos ≤ j ∧ j < pos + n then B.getLsbD (j - pos) else A.getLsbD j
     let m := min C.toNat 64
     (∃ x, signExt pos.toNat x ∧ delivers (.bfx g d a pos len) s 1 (.g d x false))
     ∧ (∃ x, zeroExt pos.toNat x ∧ delivers (.bfxz g d a pos len) s 1 (.g d x false))
     ∧ (∃ x, insert pos.toNat x ∧ delivers (.bfi g d a b pos len) s 1 (.g d x false))
     ∧ (∃ x, signExt B.toNat x ∧ delivers (.bfxVar g d a b len) s 1 (.g d x false))
     ∧ (∃ x, zeroExt B.toNat x ∧ delivers (.bfxzVar g d a b len) s 1 (.g d x false))
     ∧ (∃ x, insert C.toNat x ∧ delivers (.bfiVar g d a b c len) s 1 (.g d x false))
     ∧ delivers (.fshl g d a b c) s 1
         (.g d (BitVec.ofNat 64 ((A.toNat * 2 ^ 64 + B.toNat) * 2 ^ m / 2 ^ 64)) false)
     ∧ delivers (.fshr g d a b c) s 1 (.g d (BitVec.ofNat 64 ((A.toNat * 2 ^ 64 + B.toNat) / 2 ^ m)) false)
    ∧ (∀ w, encodeS (.bfi g d a b pos len) = some w →
        w.extractLsb' 35 7 = 0x22 ∧ w.extractLsb' 6 6 = pos ∧ w.extractLsb' 0 6 = len)
    ∧ (∀ w, encodeS (.bfiVar g d a b c len) = some w → w.extractLsb' 35 7 = 0x25 ∧ w.extractLsb' 0 6 = len)
    ∧ (∀ w, encodeS (.fshl g d a b c) = some w → w.extractLsb' 35 7 = 0x26)
    ∧ (∀ w, encodeS (.fshr g d a b c) = some w → w.extractLsb' 35 7 = 0x27))
  ∧ (∀ (g : Guard) (d : GReg) (a : GSrc) (s : State),
       let A := s.gReg a
       (∃ k : Nat, (if A = 0 then k = 64
           else k < 64 ∧ A.getLsbD (63 - k) = true ∧ ∀ j, 63 - k < j → A.getLsbD j = false)
         ∧ delivers (.clz g d a) s 1 (.g d (BitVec.ofNat 64 k) false))
       ∧ (∃ k : Nat, (if A = 0 then k = 64 else k < 64 ∧ A.getLsbD k = true ∧ ∀ j < k, A.getLsbD j = false)
         ∧ delivers (.ctz g d a) s 1 (.g d (BitVec.ofNat 64 k) false))
       ∧ delivers (.popc g d a) s 1 (.g d (BitVec.ofNat 64 ((List.range 64).countP A.getLsbD)) false)
       ∧ (∃ x : Word, (∀ i < 64, x.getLsbD (63 - i) = A.getLsbD i) ∧ delivers (.brev g d a) s 1 (.g d x false)))

/-- R111, R112, R171: CMP under each condition, the predicate operations, and VTST. -/
def Obligations.compares_and_predicates : Prop :=
  ∀ (g : Guard) (pd pa pb : PReg) (a b : GSrc) (m : MReg) (s : State),
    let A := s.gReg a
    let B := s.gReg b
    let P := s.me.ctx.regs.pv
    delivers (.cmp g pd .eq a b) s 1 (.p pd (decide (A.toInt = B.toInt)))
    ∧ delivers (.cmp g pd .ne a b) s 1 (.p pd (decide (A.toInt ≠ B.toInt)))
    ∧ delivers (.cmp g pd .lt a b) s 1 (.p pd (decide (A.toInt < B.toInt)))
    ∧ delivers (.cmp g pd .le a b) s 1 (.p pd (decide (A.toInt ≤ B.toInt)))
    ∧ delivers (.cmp g pd .gt a b) s 1 (.p pd (decide (B.toInt < A.toInt)))
    ∧ delivers (.cmp g pd .ge a b) s 1 (.p pd (decide (B.toInt ≤ A.toInt)))
    ∧ delivers (.cmp g pd .ltu a b) s 1 (.p pd (decide (A.toNat < B.toNat)))
    ∧ delivers (.cmp g pd .leu a b) s 1 (.p pd (decide (A.toNat ≤ B.toNat)))
    ∧ delivers (.cmp g pd .gtu a b) s 1 (.p pd (decide (B.toNat < A.toNat)))
    ∧ delivers (.cmp g pd .geu a b) s 1 (.p pd (decide (B.toNat ≤ A.toNat)))
    ∧ delivers (.pand g pd pa pb) s 1 (.p pd (P pa && P pb))
    ∧ delivers (.por g pd pa pb) s 1 (.p pd (P pa || P pb))
    ∧ delivers (.pxor g pd pa pb) s 1 (.p pd (Bool.xor (P pa) (P pb)))
    ∧ delivers (.pnot g pd pa) s 1 (.p pd (!P pa))
    ∧ delivers (.pmov g pd pa) s 1 (.p pd (P pa))
    ∧ delivers (.vtst g pd m) s 1 (.p pd ((List.range 512).any (s.me.ctx.regs.mv m).getLsbD))

/-! ### The S slot: memory, ordering, owners and arrival words -/

/-- R114 to R116: LD and ST. A local load delivers the bytes that its view shows, zero-extended, after 4 cycles; a
global load joins the load queue and leaves its register empty, unless the core's own stores hold every byte; a local
store joins the segment write buffer and a global store the store queue, held. -/
def Obligations.loads_and_stores : Prop :=
  ∀ (g : Guard) (t : GReg) (b a : GSrc) (w : Width) (sp : Space) (ord : Bool) (sc : Scope) (off : BitVec 14) (s : State),
    let n := match w with | .w8 => 1 | .w16 => 2 | .w32 => 4 | .w64 => 8
    let EA := BitVec.ofInt 64 ((s.gReg a).toInt + off.toInt)
    let bytes := leBytes n (s.gReg b).toNat
    (∀ v, spaceLoc sp = some v →
      (completes (.ld g t a w sp ord sc off) s fun u =>
        u.send 4 (.g t (BitVec.ofNat 64 (leNat (s.me.loc.load v s.me.btw.seqno EA.toNat n)))
          (s.me.loc.bad v EA.toNat n)))
      ∧ (completes (.st g b a w sp ord sc off) s fun u => u.onMe fun c =>
          { c with loc := if c.inTrap then c.loc.storeNow v c.btw.seqno 0 c.btw.seg EA.toNat bytes
                          else c.loc.hold v c.btw.seqno 0 c.btw.seg EA.toNat bytes }))
    ∧ (sp = .global → ∀ pa e, s.translate s.me .load EA = .hit pa e →
        let fw := forwards s.me.accs (pteHome e.hi) pa n
        let x : Acc := { (s.access (.load (.g t 0 false) pa n ord sc fw) false).at pa e with cbf := pteCbf e.lo }
        (fw.length ≠ n → completes (.ld g t a w sp ord sc off) s fun u => u.onMe fun c => (c.enters x).emptied t)
        ∧ (fw.length = n → completes (.ld g t a w sp ord sc off) s fun u => u.onMe fun c =>
            let y : Reply := ⟨x.id, .g t (BitVec.ofNat 64 (leNat (fw.map (·.2)))) false, c.inTrap⟩
            Core.emptied { c.enters { x with departed := true, performed := true } with replies := c.replies ++ [y] } t))
    ∧ (sp = .global → ∀ pa e, s.translate s.me .store EA = .hit pa e →
        completes (.st g b a w sp ord sc off) s fun u => u.onMe fun c =>
          c.enters ((s.access (.store pa bytes ord sc) true).at pa e))

/-- R118 to R120: every atomic joins the store queue, held until its segment commits, and leaves its destination
empty; it carries its operands as they stand at issue. -/
def Obligations.atomics_at_issue : Prop :=
  ∀ (g : Guard) (d : GReg) (a b c : GSrc) (w u : Bool) (sc : Scope) (o : AOrd) (s : State) (pa : Nat) (e : Tlb),
    s.translate s.me .atomic (s.gReg a) = .hit pa e →
    let B := s.gReg b
    let C := s.gReg c
    let n := if w then 8 else 4
    let held (i : Instr) (op : AtomOp) (n : Nat) (y : Word) : Prop :=
      completes i s fun u => u.onMe fun x => (x.enters ((s.access (.atomic op d pa n B y sc o) true).at pa e)).emptied d
    held (.aadd g d a b w sc o) .add n 0
    ∧ held (.aand g d a b w sc o) .and n 0
    ∧ held (.aor g d a b w sc o) .or n 0
    ∧ held (.axor g d a b w sc o) .xor n 0
    ∧ held (.amin g d a b w sc o u) (if u then .minU else .minS) n 0
    ∧ held (.amax g d a b w sc o u) (if u then .maxU else .maxS) n 0
    ∧ held (.axchg g d a b w sc o) .xchg n 0
    ∧ held (.acas g d a b c w sc o) .cas n C
    ∧ held (.afadd g d a b sc o) .fadd 4 0
    ∧ held (.afmax g d a b sc o) .fmax 4 0

/-- R121, R122, R124 to R127: FENCE and QMARK join the queues as markers; VJOIN lands every committed store, joins the
held ones and takes two cycles; OWN.CORE takes the tile at issue, OWN.ENGINE at its segment's commit; ARMA
writes count 0 and its target and keeps the generation; a satisfied WAITA only passes. -/
def Obligations.ordering_owners_and_arrivals : Prop :=
  ∀ (g : Guard) (a : GSrc) (sc : Scope) (target n : BitVec 24) (gen : BitVec 16) (s : State),
    let x := (s.gReg a).toNat % 262144
    (completes (.fence g sc) s fun u => u.onMe fun c => c.enters (s.access (.fence sc) false))
    ∧ (completes (.qmark g) s fun u => u.onMe fun c => c.enters (s.access .qmark false))
    ∧ (ready (.vjoin g) s = true → leads (.vjoin g) s fun t =>
        t.me.btw.vjoin = 2 ∧ t.me.loc.draining = []
        ∧ (∀ r ∈ t.me.loc.wbuf, r.seq < s.me.btw.seqno → r.joined = true)
        ∧ t.me.loc.wbuf.length = s.me.loc.wbuf.length ∧ t.me.ctx = s.me.ctx ∧ t.mem = s.mem)
    ∧ (∃ o : BitVec 64, (∀ k < 64, o.getLsbD k = if k = x / 4096 then false else s.me.loc.owner.getLsbD k)
        ∧ completes (.ownCore g a) s fun u => u.onMe fun c => { c with loc := { c.loc with owner := o } })
    ∧ (s.me.loc.owner.getLsbD (x / 4096) = true → completes (.ownEngine g a) s fun u => u)
    ∧ (s.me.loc.owner.getLsbD (x / 4096) = false → s.me.inTrap = false →
        completes (.ownEngine g a) s fun u => u.onMe fun c => { c with owns := c.owns ++ [(c.btw.seg, x)] })
    ∧ (completes (.arma g a target) s fun u => u.onMe fun c =>
        let w := (c.loc.word x).toNat / 2 ^ 48 * 2 ^ 48 + target.toNat * 2 ^ 24
        { c with loc := { c.loc with tspad := Memory.writeLe c.loc.tspad x 8 w } })
    ∧ (completes (.waitaCnt g a n) s fun u => u.onMe fun c => { c with btw := { c.btw with waita := none } })
    ∧ (completes (.waitaGen g a gen) s fun u => u.onMe fun c => { c with btw := { c.btw with waita := none } })

/-! ### The S slot: system registers, tags, pages, work, barriers and coolant -/

/-- R128, Tables SCL-5, TRP-2, PAR-1, PAR-3, PAR-6, SCH-11, CST-6, CST-9, MEM-6, MEM-7, CLT-6: SYSR reads each system
register with latency 1. -/
def Obligations.system_registers_read : Prop :=
  ∀ (g : Guard) (d : GReg) (s : State),
    let c := s.me
    let n := s.iss.cur
    ∀ x ∈ ([(0x000, c.ctx.fstat.setWidth 64), (0x001, c.ctx.wovf), (0x002, c.ctx.cycle),
        (0x003, BitVec.ofNat 64 s.time), (0x004, BitVec.ofNat 64 (n % 1024)), (0x100, c.trap.tcause),
        (0x101, c.trap.tbundle), (0x102, c.trap.tslot), (0x103, c.trap.tinfo), (0x104, c.trap.tvec),
        (0x105, c.trap.fwdog.setWidth 64), (0x110, c.trap.tseq), (0x111, c.trap.ttgt), (0x112, c.ctx.caph),
        (0x113, c.ctx.capa), (0x114, c.ctx.capb), (0x115, c.ctx.capc), (0x118, c.trap.tscr0), (0x119, c.trap.tscr1),
        (0x11A, c.trap.tscr2), (0x11B, c.trap.tscr3), (0x120, c.trap.cfr0), (0x121, c.trap.cfr1),
        (0x122, c.trap.cfr2), (0x123, c.trap.cfr3), (0x139, c.regs.csstat), (0x140, c.trace.trctl),
        (0x141, c.trace.idx.setWidth 64), (0x200, (s.pair (n / 2)).word), (0x201, c.regs.asarea),
        (0x202, c.arr.tbusy), (0x300, (s.die (n / 256)).schctl), (0x301, c.regs.gang),
        (0x302, c.regs.cprio.setWidth 64), (0x303, c.regs.lpart), (0x304, (s.die (n / 256)).dstr),
        (0x3E0, c.regs.ccway), (0x3E1, c.regs.part.setWidth 64), (0x3E4, c.regs.asctl), (0x3E5, c.regs.genroot),
        (0x401, c.regs.thctl), (0x411, c.regs.ephstat)] : List (BitVec 12 × Word)),
      delivers (.sysr g d x.1) s 1 (.g d x.2 false)

/-- R52, R54, R85, R128, R129, Tables TRP-2, PAR-6, SCH-11, CST-9, MEM-6, MEM-7, CLT-6: SYSW writes the writable bits of a
register before the next bundle issues; FSTAT and WOVF clear the bits written as one; a register that is only read
does not change. RNGS sets the generator's two words, and the second to 1 where both would be zero; the words that the
generator had ready are gone. -/
def Obligations.system_registers_written_and_seed : Prop :=
  (∀ (g : Guard) (a : GSrc) (s : State),
     let X := s.gReg a
     ∀ x ∈ ([(0x000, fun c => { c with ctx := { c.ctx with fstat := c.ctx.fstat &&& ~~~X.extractLsb' 0 5 } }),
         (0x001, fun c => { c with ctx := { c.ctx with wovf := c.ctx.wovf &&& ~~~X } }),
         (0x002, fun c => c), (0x003, fun c => c), (0x004, fun c => c),
         (0x101, fun c => { c with trap := { c.trap with tbundle := X &&& ~~~31 } }),
         (0x102, fun c => { c with trap := { c.trap with tslot := X &&& 7 } }),
         (0x103, fun c => { c with trap := { c.trap with tinfo := X } }),
         (0x104, fun c => { c with trap := { c.trap with tvec := X &&& ~~~31 } }),
         (0x105, fun c => { c with trap := { c.trap with fwdog := X.extractLsb' 0 32 } }),
         (0x111, fun c => { c with trap := { c.trap with ttgt := X &&& ~~~31 } }),
         (0x113, fun c => { c with ctx := { c.ctx with capa := X } }),
         (0x114, fun c => { c with ctx := { c.ctx with capb := X } }),
         (0x115, fun c => { c with ctx := { c.ctx with capc := X } }),
         (0x118, fun c => { c with trap := { c.trap with tscr0 := X } }),
         (0x119, fun c => { c with trap := { c.trap with tscr1 := X } }),
         (0x11A, fun c => { c with trap := { c.trap with tscr2 := X } }),
         (0x11B, fun c => { c with trap := { c.trap with tscr3 := X } }),
         (0x139, fun c => c), (0x202, fun c => c), (0x301, fun c => c), (0x302, fun c => c), (0x411, fun c => c),
         (0x3E0, fun c => { c with regs := { c.regs with ccway := X } }),
         (0x3E4, fun c => { c with regs := { c.regs with
           asid := X.extractLsb' 0 12, sasid := X.extractLsb' 16 12, useu := X.getLsbD 31 } }),
         (0x3E5, fun c => { c with regs := { c.regs with genroot := X &&& 0xFFFFFFFFFFFFE001 } })] :
         List (BitVec 12 × (Core → Core))),
       completes (.sysw g a x.1) s fun u =>
         State.onMe { u with iss := { u.iss with sysw := u.iss.sysw ++ [(x.1, X)] } } x.2)
  ∧ (∀ (g : Guard) (a b : GSrc) (s : State),
       let X := s.gReg a
       let Y := s.gReg b
       completes (.rngs g a b) s fun u => u.onMe fun c =>
         { c with ctx := { c.ctx with s0 := X, s1 := if X = 0 ∧ Y = 0 then 1 else Y, queue := [] } })

/-- R265, R297 to R299, R328, R370: the operations that ask another unit and wait for a reply join the queues; each but
TAGF and PGREF leaves its destination empty, and TAGA, TAGF and PGREF are held until the segment commits; PGREF is for the entry that
its translation came from. -/
def Obligations.requests_to_other_units : Prop :=
  ∀ (g : Guard) (d : GReg) (a : GSrc) (acc : Access) (s : State),
    let A := s.gReg a
    let tag := A.extractLsb' 0 32
    (completes (.taga g d a) s fun u => u.onMe fun c =>
      (c.enters (s.access (.taga d (s.readDesc (A &&& 0x3FFFF)) s.me.space) true)).emptied d)
    ∧ (completes (.tagf g a) s fun u => u.onMe fun c => c.enters (s.access (.tagf tag) true))
    ∧ (completes (.tagq g d a) s fun u => u.onMe fun c => (c.enters (s.access (.tagq d tag) false)).emptied d)
    ∧ (∀ pa e, s.translate s.me .pgref (A &&& 0x00FFFFFFFFFFFFFF) = .hit pa e →
        completes (.pgref g a) s fun u => u.onMe fun c =>
          c.enters { s.access (.pgref A e.asid e.sz) true with pa := e.ent, home := s.fab.modnum })
    ∧ (completes (.xlate g d a acc) s fun u => u.onMe fun c =>
        (c.enters (s.access (.xlate d A acc ⟨s.me.space, s.me.gen, A.toNat / 4096 * 4096⟩ (!s.me.sup)) false)).emptied d)
    ∧ (completes (.flowq g d a) s fun u => u.onMe fun c => (c.enters (s.access (.flowq d A) false)).emptied d)
    ∧ (completes (.pop g d a) s fun u => u.onMe fun c =>
        (c.enters (s.access (.pop d (A.toNat / 2 ^ 56) (A.toNat % 262144) false 0 s.me.space) false)).emptied d)
    ∧ (completes (.popNb g d a) s fun u => u.onMe fun c =>
        (c.enters (s.access (.pop d (A.toNat / 2 ^ 56) (A.toNat % 262144) true 0 s.me.space) false)).emptied d)
    ∧ delivers (.talw g d a) s 1 (.g d (s.talw s.iss.cur A) false)

/-- R326: PUSHW, LAUNCH, LAUNCHI and JOIN are held as atomics; a record is read at issue from the descriptor in TSPAD,
and goes in the right of the context that issues it. -/
def Obligations.work_instructions : Prop :=
  ∀ (g : Guard) (a b : GSrc) (s : State),
    let A := s.gReg a
    let right : EnqCtx := ⟨!s.me.sup, s.me.space, s.me.regs.cprio, s.me.regs.job⟩
    let record : BitVec 512 := BitVec.ofNat 512 (leNat (descBytes (s.readDesc A)))
    (completes (.pushw g a) s fun u => u.onMe fun c => c.enters (s.access (.pushw record right) true))
    ∧ (completes (.launch g a) s fun u => u.onMe fun c => c.enters (s.access (.launch record right) true))
    ∧ (∀ pa e, s.translate s.me .load (s.gReg b &&& 0x00FFFFFFFFFFFFFF) = .hit pa e →
        completes (.launchi g a b) s fun u => u.onMe fun c =>
          c.enters ((s.access (.launchi record right) true).at pa e))
    ∧ (∀ pa e, s.translate s.me .atomic A = .hit pa e →
        completes (.join g a) s fun u => u.onMe fun c => c.enters ((s.access (.join right) true).at pa e))

/-- R233, R297: TLBI removes every translation that it names, from every core and every cluster, and no other; where it names a
page that a SAVE has pinned, or a walk that may have read what it removes is under way, it waits. -/
def Obligations.translations_removed : Prop :=
  ∀ (g : Guard) (a b : GSrc) (k : TlbiKind) (s : State),
    let asid := (s.gReg b).extractLsb' 0 12
    let va := (s.gReg a).toNat % 2 ^ 56
    let named (t : Tlb) : Prop := match k with
      | .all => True
      | .space => t.asid = asid
      | .page => t.asid = asid ∧ t.va = va / pageBytes t.sz * pageBytes t.sz
    (s.tlbiHeld k asid va = true → completes (.tlbi g a b k) s fun u => u.onMe fun c =>
      { c with fetch := { c.fetch with tlbis := c.fetch.tlbis ++ [(k, asid, va)] } })
    ∧ (ready (.tlbi g a b k) s = true → s.tlbiHeld k asid va = false → leads (.tlbi g a b k) s fun t =>
      (∀ n x, x ∈ (t.core n).fetch.tlb ↔ x ∈ (s.core n).fetch.tlb ∧ ¬ named x)
      ∧ (∀ cl x, x ∈ Map.getD t.mem.ctlb cl [] ↔ x ∈ Map.getD s.mem.ctlb cl [] ∧ ¬ named x)
      ∧ t.mem.bytes = s.mem.bytes ∧ ∀ n, (t.core n).ctx = (s.core n).ctx)

/-- R330: BARA and BAR arrive at the phase that the context's count names and add one to it; BAR's wait then stands
before the next bundle; BARW, once its phase is complete, changes nothing. -/
def Obligations.barriers_at_issue : Prop :=
  ∀ (g : Guard) (n : BitVec 10) (s : State),
    let q := Map.getD s.me.ctx.bars n.toNat 0
    let arrived (c : Core) : Core :=
      let x := c.enters (s.access (.barrier n q) false)
      { x with ctx := { x.ctx with bars := Map.put x.ctx.bars n.toNat (q + 1) } }
    (completes (.bara g n) s fun u => u.onMe arrived)
    ∧ (s.me.inTrap = false → completes (.bar g n) s fun u => u.onMe fun c =>
        let x := arrived c
        { x with ctx := { x.ctx with barWait := some n } })
    ∧ (s.me.inTrap = true → completes (.bar g n) s fun u => u.onMe fun c =>
        let x := arrived c
        { x with btw := { x.btw with ownWait := some n } })
    ∧ completes (.barw g n) s fun u => u

/-! ### The S slot: control flow, traps and returns -/

/-- R131 to R135: a taken transfer. The two bundles that follow still issue; the link is the address after them; a
loop ends; BRT sets the leaf that its predicates reach, and takes its target from the table entry that has arrived. -/
def Obligations.transfers : Prop :=
  ∀ (g : Guard) (d : GReg) (a : GSrc) (disp : BitVec 30) (pw px py pz : PReg) (s : State),
    let pc := s.me.ctx.pc
    let label := BitVec.ofInt 64 (pc.toInt + 32 * disp.toInt)
    let P := s.me.ctx.regs.pv
    let leaf := if P pw = false then (if P px = false then 0 else 1)
      else if P py = false then 2 else if P pz = false then 3 else 4
    let goes (i : Instr) (x : Word) (sent : List Land) : Prop :=
      ready i s = true → leads i s fun t =>
        t.me.ctx.pc = pc + 32 ∧ t.me.ctx.seqr = { s.me.ctx.seqr with pend := 2, tgt := x, loop := false }
        ∧ t.me.ctx.pipe = s.me.ctx.pipe ++ sent ∧ t.me.ctx.regs = s.me.ctx.regs ∧ t.iss.advanced = true
        ∧ t.mem = s.mem ∧ ∀ n, n ≠ s.iss.cur → t.core n = s.core n
    let link : Land := ⟨1, .g d (pc + 96) false, 0, 0⟩
    goes (.br g disp) label [] ∧ goes (.bri g a) (s.gReg a) [] ∧ goes (.ret g a) (s.gReg a) []
    ∧ goes (.call g d disp) label [link] ∧ goes (.calli g d a) (s.gReg a) [link]
    ∧ (∀ x, s.me.btw.brt = some (x, false) → goes (.brt g a pw px py pz) x [⟨1, .leaf leaf, 0, 0⟩])

/-- R139 to R141: LBM starts a loop over the bundles after it, or passes them where the count is zero; PFI asks for
lines of code and changes nothing else. -/
def Obligations.loops_and_prefetch : Prop :=
  ∀ (g : Guard) (a : GSrc) (n : BitVec 6) (k : BitVec 5) (disp : BitVec 30) (s : State),
    let pc := s.me.ctx.pc
    let count := (s.gReg a).extractLsb' 0 32
    (ready (.lbm g a n) s = true → leads (.lbm g a n) s fun t =>
      (if count = 0 then t.me.ctx.pc = pc + BitVec.ofNat 64 (32 * (n.toNat + 2)) ∧ t.me.ctx.seqr = s.me.ctx.seqr
       else t.me.ctx.pc = pc + 32 ∧ t.me.ctx.seqr =
         { s.me.ctx.seqr with loop := true, lstart := pc + 32, llen := n, lrem := count - 1 })
      ∧ t.me.ctx.regs = s.me.ctx.regs ∧ t.me.fetch.loopBuf = [] ∧ t.iss.advanced = true ∧ t.mem = s.mem)
    ∧ completes (.pfi g k disp) s fun u => u.onMe fun c =>
        let first := (pc + BitVec.ofInt 64 (32 * disp.toInt)).toNat / 128 * 128
        let lines := (List.range (k.toNat + 1)).map fun j => first + 128 * j
        { c with fetch := { c.fetch with pfi := c.fetch.pfi ++ [lines] } }

/-- R130, R131: the bundle that a transfer stands in is followed by two more, and then by the target. -/
def Obligations.delay_bundles : Prop :=
  ∀ (c : Core) (x : Word),
    let a := c.ctx.pc
    let c1 := c.goto (transfer c.ctx.seqr a x)
    c1.ctx.pc = a + 32 ∧ c1.pass.ctx.pc = a + 64 ∧ c1.pass.pass.ctx.pc = x ∧ c1.pass.pass.ctx.seqr.pend = 0
    ∧ c1.pass.pass.ctx.regs = c.ctx.regs

/-- R139, R140: a loop of `n` bundles with count `k` issues them `k` times and then goes on after them. -/
def Obligations.loop_runs_count_times : Prop :=
  ∀ (c : Core) (n : Nat) (k : BitVec 32), 1 ≤ n → n ≤ 64 → k ≠ 0 → c.ctx.seqr.pend = 0 →
    let a := c.ctx.pc
    let start := c.goto (lbmStart c.ctx.seqr a n k)
    let at_ (j : Nat) : Core := Core.pass^[j] start
    (∀ j < n * k.toNat, (at_ j).ctx.pc = a + BitVec.ofNat 64 (32 * (j % n + 1)))
    ∧ (at_ (n * k.toNat)).ctx.pc = a + BitVec.ofNat 64 (32 * (n + 1))
    ∧ (at_ (n * k.toNat)).ctx.seqr.loop = false

/-- R222, Tables TRP-2, TRP-3, CTL-4: what every trap does to its core, outside a handler: the trap registers record
it, the results in flight move to the snapshot buffer, and the core issues from TVEC in supervisor mode, with no
transfer pending and no loop; the registers and every other core stay as they are. In a handler a synchronous trap
stops the core, and the die controller is told both causes. -/
def Obligations.trap_entry_and_double_trap : Prop :=
  (∀ (s : State) (n : Nat) (i : TrapInfo) (w : TrapAt),
     i.code < 256 → i.sub < 256 → (s.core n).inTrap = false →
     let c := s.core n
     let t := s.trapWith n i w
     let c' := t.core n
     c'.trap.tcause.toNat = i.code + 256 * i.sub + 65536 * c.sup.toNat + 131072
     ∧ c'.trap.tbundle = (w.pc &&& ~~~31) ∧ c'.trap.tslot = BitVec.ofNat 64 i.slot ∧ c'.trap.tinfo = i.info
     ∧ (tseqDone c'.trap.tseq = w.done ∧ tseqXfer c'.trap.tseq = w.xfer.isSome ∧ tseqPend c'.trap.tseq = w.seqr.pend
       ∧ tseqLoop c'.trap.tseq = w.seqr.loop ∧ tseqLlen c'.trap.tseq = w.seqr.llen
       ∧ tseqLrem c'.trap.tseq = w.seqr.lrem)
     ∧ c'.sup = true ∧ c'.inTrap = true ∧ c'.run = .run ∧ c'.ctx.pc = c.trap.tvec
     ∧ c'.ctx.seqr.pend = 0 ∧ c'.ctx.seqr.loop = false
     ∧ c'.ctx.snap = c.ctx.pipe ∧ c'.ctx.pipe = [] ∧ c'.ctx.regs = c.ctx.regs ∧ c'.trap.tvec = c.trap.tvec
     ∧ t.mem = s.mem ∧ ∀ m, m ≠ n → t.core m = s.core m)
  ∧ (∀ (s : State) (n : Nat) (i : TrapInfo) (w : TrapAt), (s.core n).inTrap = true →
       let t := s.trapWith n i w
       (t.core n).run = .stopped .doubleTrap
       ∧ t.reports = s.reports ++ [.doubleTrap n ((s.core n).trap.tcause.toNat % 256) i.code i.info]
       ∧ (t.core n).ctx = (s.core n).ctx ∧ (t.core n).trap = (s.core n).trap ∧ t.mem = s.mem
       ∧ ∀ m, m ≠ n → t.core m = s.core m)

/-- R142, R143: TRAP and BRK complete, and then take traps 18 and 17 with their codes: outside a handler the core goes on at
TVEC, and the trap registers say that the bundle is done. HALT ends its bundle's cycle and begins to end the context: no
transfer pending, no loop, a commit to come; in a handler the core stays in it until the commit and the landings are done,
and leaves it then. -/
def Obligations.traps_and_halt : Prop :=
  (∀ (g : Guard) (code : BitVec 16) (s : State), s.me.inTrap = false →
     let enters (i : Instr) (k : Nat) : Prop :=
       ready i s = true → leads i s fun t =>
         t.me.trap.tcause = BitVec.ofNat 64 (k + 65536 * s.me.sup.toNat + 131072)
         ∧ t.me.trap.tbundle = (s.me.ctx.pc &&& ~~~31) ∧ t.me.trap.tslot = 0 ∧ t.me.trap.tinfo = code.setWidth 64
         ∧ tseqDone t.me.trap.tseq = true ∧ tseqXfer t.me.trap.tseq = false
         ∧ t.me.ctx.pc = s.me.trap.tvec ∧ t.me.sup = true ∧ t.me.ctx.pipe = [] ∧ t.iss.ended = true ∧ t.mem = s.mem
     enters (.trap g code) 18 ∧ enters (.brk g code) 17)
  ∧ (∀ (g : Guard) (s : State), ready (.halt g) s = true → leads (.halt g) s fun t =>
       t.me.btw.halting = true ∧ t.me.btw.haltCommit = true ∧ t.me.ctx.seqr = Seqr.zero ∧ t.me.fetch.loopBuf = []
       ∧ t.me.trap = s.me.trap ∧ t.me.sup = s.me.sup ∧ t.iss.ended = true ∧ t.mem = s.mem)
  ∧ (∀ c : Core, c.leaveTrap.inTrap = false ∧ c.leaveTrap.ctx.parked = [] ∧ c.leaveTrap.ctx.pc = c.ctx.pc)

/-- R144, R147, R223: ERET restores the mode from PPRIV, clears INTRAP and goes on from the trap registers: at the
trapped bundle where it has still to complete, at the bundle after it where it is done, and with its transfer pending
where it took one. -/
def Obligations.return_from_trap : Prop :=
  ∀ (g : Guard) (s : State), ready (.eret g) s = true → leads (.eret g) s fun t =>
    let r := s.me.trap
    let q := seqrOf r.tseq r.ttgt r.tbundle
    t.me.sup = r.tcause.getLsbD 16 ∧ t.me.trap.tcause.getLsbD 17 = false ∧ t.me.ctx.snap = [] ∧ t.me.ctx.parked = []
    ∧ (if tseqDone r.tseq = false then t.me.ctx.pc = r.tbundle ∧ t.me.ctx.seqr = q
        ∧ t.me.btw.replay = s.me.ctx.caph.getLsbD 63
       else if tseqXfer r.tseq = true then
         t.me.ctx.pc = r.tbundle + 32 ∧ t.me.ctx.seqr = { q with pend := 2, tgt := r.ttgt, loop := false }
       else t.me.ctx.pc = (advance q r.tbundle).1 ∧ t.me.ctx.seqr = (advance q r.tbundle).2)
    ∧ t.iss.ended = true ∧ t.mem = s.mem

/-- R147, R222, R223: ERET from a refused trap restores the state in which the bundle was about to issue: the
address, the mode, the pending transfer and the loop. -/
def Obligations.trap_and_return : Prop :=
  ∀ (c : Core) (i : TrapInfo) (time : Nat), i.code < 256 → i.sub < 256 →
    c.ctx.pc &&& 31 = 0 → c.ctx.seqr.tgt &&& 31 = 0 →
    (c.ctx.seqr.loop = true → ∃ k : Nat, k ≤ c.ctx.seqr.llen.toNat ∧
      c.ctx.pc = c.ctx.seqr.lstart + BitVec.ofNat 64 (32 * k)) →
    let r := (c.enter i c.at).return_ time
    r.ctx.pc = c.ctx.pc ∧ r.sup = c.sup ∧ r.ctx.seqr.pend = c.ctx.seqr.pend ∧ r.ctx.seqr.tgt = c.ctx.seqr.tgt
    ∧ r.ctx.seqr.loop = c.ctx.seqr.loop ∧ r.ctx.seqr.llen = c.ctx.seqr.llen ∧ r.ctx.seqr.lrem = c.ctx.seqr.lrem
    ∧ (c.ctx.seqr.loop = true → r.ctx.seqr.lstart = c.ctx.seqr.lstart)
    ∧ r.ctx.pipe = c.ctx.pipe ∧ (c.ctx.parked = [] → r.ctx.regs = c.ctx.regs)

/-- R81, Table BND-16: a privileged operation in user mode takes the privilege trap, class 3, and an operation whose
values or features are not there the illegal-operation trap, class 2; TINFO holds the slot's raw bits. -/
def Obligations.decode_traps : Prop :=
  ∀ (i : Instr) (o : Op) (s : State), opOf i = some o → s.me.inTrap = false →
    let traps (code : Nat) : Prop := leads i s fun t =>
      t.me.trap.tcause = BitVec.ofNat 64 (code + 65536 * s.me.sup.toNat + 131072)
      ∧ t.me.trap.tslot = BitVec.ofNat 64 s.iss.slot ∧ t.me.trap.tinfo = BitVec.ofNat 64 s.iss.raw
      ∧ t.me.trap.tbundle = (s.me.ctx.pc &&& ~~~31) ∧ tseqDone t.me.trap.tseq = false
      ∧ t.me.ctx.pc = s.me.trap.tvec ∧ t.me.sup = true ∧ t.me.ctx.regs = s.me.ctx.regs ∧ t.mem = s.mem
    (o.assigned s = false ∨ (∃ k ∈ o.needs, s.pkg.featact.getLsbD k = false) → traps 2)
    ∧ (o.legal s = true → o.sup = true → s.me.sup = false → traps 3)

/-! ### Bundle forms -/

/-- R146, R226: an N bundle runs its idle cycles one by one, and passes after the last; outside a handler each counts. -/
def Obligations.idle_runs : Prop :=
  ∀ (k : BitVec 12) (s : State), leads (.nop k) s fun t =>
    let left := k.toNat - s.me.ctx.idleRun
    (if left = 0 then t.me.ctx.pc = (advance s.me.ctx.seqr s.me.ctx.pc).1 ∧ t.me.ctx.idleRun = 0 ∧ t.me.btw.idle = 0
     else t.me.ctx.pc = s.me.ctx.pc ∧ t.me.ctx.idleRun = s.me.ctx.idleRun + 1 ∧ t.me.btw.idle = left)
    ∧ t.me.ctx.cycle = (if s.me.inTrap then s.me.ctx.cycle else s.me.ctx.cycle + 1)
    ∧ t.me.ctx.pipe = ((s.me.ctx.pipe.filter fun l => decide (1 < l.rem)).map fun l => { l with rem := l.rem - 1 })
    ∧ t.iss.ended = true ∧ t.mem = s.mem

/-- R82 to R87: WACC, WSET and WNEG. Lane `i` of the result is, modulo 2^32, the sum of the terms' values times their
sources, added to or taken from the destination as the W bundles before leave it; it lands after 3 cycles with tag
INT32, and sets the destination's bit of WOVF where an enabled lane leaves the range. -/
def Obligations.weight_bundles : Prop :=
  ∀ (vd : VReg) (mk : MReg) (ts : List WTerm) (s : State),
    let c := s.me
    let mask := c.ctx.regs.mv mk
    let source (t : WTerm) (i : Nat) : Int :=
      if t.reg then (lane (c.ctx.regs.vCell (t.index.extractLsb' 0 6)).row i).toInt
      else (c.loc.see .abuf c.btw.seqno (512 * t.index.toNat + i)).toInt
    let power (neg : Bool) (k : BitVec 3) : Int := if neg then -(2 ^ k.toNat) else 2 ^ k.toNat
    let value (t : WTerm) : Int := power t.s1 t.k1 + if t.e2 then power t.s2 t.k2 else 0
    let sum (i : Nat) : Int := (ts.map fun t => value t * source t i).sum
    let old (i : Nat) : Int := (lane (c.ctx.oldRow vd) i).toInt
    let gives (i : Instr) (x : Nat → Int) (poison : Bool) : Prop :=
      ∃ row : Row, (∀ j < 512, (lane row j).toInt = (x j).bmod (2 ^ 32))
        ∧ completes i s fun u => u.send 3 (.v vd row mask (some .int32) poison true) 0
          (if ∃ j < 512, mask.getLsbD j = true ∧ (x j < -2 ^ 31 ∨ 2 ^ 31 ≤ x j) then 1#64 <<< vd.toNat else 0)
    (∀ us : List WTerm, us.Perm ts → ∀ j, (us.map fun t => value t * source t j).sum = sum j)
    ∧ gives (.wset vd mk ts) sum (ts.any c.termBad)
    ∧ gives (.wacc vd mk ts) (fun j => old j + sum j) (ts.any c.termBad || c.ctx.oldPoison vd)
    ∧ gives (.wneg vd mk ts) (fun j => old j - sum j) (ts.any c.termBad || c.ctx.oldPoison vd)

/-! ### The V slots -/

/-- R152 to R155, R42, R50, R51: lane arithmetic under the mask. Integer lanes are exact modulo 2^w; floating-point
lanes are the rounded exact value; the result has A's tag. -/
def Obligations.lane_arithmetic : Prop :=
  ∀ (g : Guard) (d : VReg) (a b c : VSrc) (mk : MReg) (rm : RMode) (s : State),
    let A := s.vReg a
    let B := s.vReg b
    let C := s.vReg c
    let w := tagWidth A.tag
    let f := fltFmt A.tag
    let gives (i : Instr) (l : Nat) (d : VReg) (x : Nat → FRes) : Prop :=
      yields i s l d (s.me.ctx.regs.mv mk) (some A.tag) x
    let int (x : Nat → Int) (j : Nat) : FRes := ⟨(x j % 2 ^ w).toNat, 0⟩
    let nvWhere (p : Bool) (r : FRes) : FRes := if p then ⟨r.bits, r.flags ||| flNV⟩ else r
    (isInt A.tag = true →
      gives (.vadd g d a b mk rm) 2 d (int fun j => A.int j + B.int j)
      ∧ gives (.vsub g d a b mk rm) 2 d (int fun j => A.int j - B.int j)
      ∧ gives (.vmul g d a b mk rm) 4 d (int fun j => A.int j * B.int j)
      ∧ gives (.vmulh g d a b mk rm) 4 d (int fun j => A.int j * B.int j / 2 ^ w)
      ∧ gives (.vfma g c a b mk rm) 4 c.reg (int fun j => A.int j * B.int j + C.int j)
      ∧ gives (.vmin g d a b mk rm) 2 d (int fun j => min (A.int j) (B.int j))
      ∧ gives (.vmax g d a b mk rm) 2 d (int fun j => max (A.int j) (B.int j))
      ∧ gives (.vabs g d a mk) 2 d (int fun j => |A.int j|)
      ∧ gives (.vneg g d a mk) 2 d (int fun j => -A.int j))
    ∧ (isFlt A.tag = true →
      gives (.vadd g d a b mk rm) 4 d (fun j => exactSum [A.elem j, B.elem j] f rm)
      ∧ gives (.vsub g d a b mk rm) 4 d (fun j => exactSum [A.elem j, (B.elem j).negate] f rm)
      ∧ (B.tag = A.tag → gives (.vmul g d a b mk rm) 4 d fun j =>
          nvWhere ((A.elem j).zeroTimesInf (B.elem j)) (f.round ((A.elem j).mul (B.elem j)) (.mode rm) false))
      ∧ (A.tag = .fp32 → B.tag = .e8m0 → gives (.vmul g d a b mk rm) 4 d fun j =>
          fmtFp32.round (if B.bits j = 255 then .nan else (A.elem j).scale ((B.bits j : Int) - 127)) (.mode rm) false)
      ∧ gives (.vfma g c a b mk rm) 4 c.reg (fun j =>
          nvWhere ((A.elem j).zeroTimesInf (B.elem j) && (!(C.elem j).isNan || Config.fmaNanNv))
            (exactSum [(A.elem j).mul (B.elem j), C.elem j] f rm))
      ∧ gives (.vmin g d a b mk rm) 2 d (fun j => ⟨f.fmin (A.bits j) (B.bits j), 0⟩)
      ∧ gives (.vmax g d a b mk rm) 2 d (fun j => ⟨f.fmax (A.bits j) (B.bits j), 0⟩)
      ∧ gives (.vabs g d a mk) 2 d (fun j =>
          ⟨if (A.elem j).isNan then f.nan.getD 0 else A.bits j % 2 ^ (w - 1), 0⟩)
      ∧ gives (.vneg g d a mk) 2 d (fun j =>
          ⟨if (A.elem j).isNan then f.nan.getD 0 else A.bits j ^^^ 2 ^ (w - 1), 0⟩))

/-- R155, R167, Table VEC-2: lane logic, shifts, counts and fields, on the bits of the elements. -/
def Obligations.lane_bits : Prop :=
  ∀ (g : Guard) (d : VReg) (a b : VSrc) (mk : MReg) (rm : RMode) (k : BitVec 5) (s : State),
    let A := s.vReg a
    let B := s.vReg b
    let w := tagWidth A.tag
    let gives (i : Instr) (x : Nat → Nat) : Prop :=
      yields i s 2 d (s.me.ctx.regs.mv mk) (some A.tag) fun j => ⟨x j, 0⟩
    gives (.vand g d a b mk rm) (fun j => A.bits j &&& B.bits j)
    ∧ gives (.vor g d a b mk rm) (fun j => A.bits j ||| B.bits j)
    ∧ gives (.vxor g d a b mk rm) (fun j => A.bits j ^^^ B.bits j)
    ∧ gives (.vshl g d a b mk rm) (fun j => A.bits j * 2 ^ (B.bits j % w) % 2 ^ w)
    ∧ gives (.vshr g d a b mk rm) (fun j => A.bits j / 2 ^ (B.bits j % w))
    ∧ gives (.vsar g d a b mk rm) (fun j => (A.int j / 2 ^ (B.bits j % w) % 2 ^ w).toNat)
    ∧ gives (.vmov g d a mk) (fun j => A.bits j)
    ∧ gives (.vpopc g d a mk) (fun j => (List.range w).countP (A.bits j).testBit)
    ∧ gives (.vclz g d a mk) (fun j => w - Nat.size (A.bits j))
    ∧ gives (.vbfx g d a b mk k) (fun j => if 32 ≤ B.bits j then 0 else A.bits j / 2 ^ B.bits j % 2 ^ (k.toNat + 1))
    ∧ gives (.vfsh g d a b mk k) (fun j => (A.bits j * 2 ^ 32 + B.bits j) * 2 ^ k.toNat / 2 ^ 32 % 2 ^ 32)

/-- R156, R157, R163 to R165, R171: compares, choices, permutation, sparsity, tags and masks. -/
def Obligations.lane_choices : Prop :=
  ∀ (g : Guard) (d : VReg) (md mk : MReg) (a b : VSrc) (ga : GSrc) (c : VCond) (t : Tag) (s : State),
    let A := s.vReg a
    let B := s.vReg b
    let M := s.me.ctx.regs.mv mk
    let all := BitVec.allOnes 512
    let holds (x y : Int) : Bool := match c with
      | .eq => x = y | .ne => x ≠ y | .lt => x < y | .le => x ≤ y | .gt => y < x | .ge => y ≤ x
    let compares (p : Nat → Bool) : Prop :=
      ∃ m : Mask, (∀ j < 512, m.getLsbD j = p j) ∧ delivers (.vcmp g md c a b mk) s 2 (.m md m M)
    let nan (j : Nat) : Bool := (A.elem j).isNan || (B.elem j).isNan
    let sign (x : Int) : Int := if x < 0 then x + 1 else x
    (isInt A.tag = true → compares fun j => holds (A.int j) (B.int j))
    ∧ (A.tag = .raw → B.tag = .raw → compares fun j => holds (A.bits j) (B.bits j))
    ∧ (isFlt A.tag = true → B.tag = A.tag → compares fun j =>
        if nan j then decide (c = .ne)
        else holds (sign ((fltFmt A.tag).key (A.bits j))) (sign ((fltFmt A.tag).key (B.bits j))))
    ∧ yields (.vsel g d a b mk) s 2 d all (some A.tag) (fun j => ⟨if M.getLsbD j then A.bits j else B.bits j, 0⟩)
    ∧ yields (.vbcast g d ga mk) s 2 d M none
        (fun _ => ⟨(s.gReg ga).toNat % 2 ^ tagWidth (s.me.ctx.regs.vCell d).tag, 0⟩)
    ∧ yields (.vperm g d a b mk) s 4 d M (some A.tag) (fun j => ⟨A.bits (B.bits j % 512), 0⟩)
    ∧ (∀ w, encodeV (.vperm g d a b mk) = some w → w.extractLsb' 28 6 = 0x1D)
    ∧ yields (.vcomp g d a mk) s 3 d M (some A.tag) (fun j =>
        let keep := groupKeep A (if j < 256 then j / 2 else j - 256)
        if j < 256 then ⟨A.bits (4 * (j / 2) + if j % 2 = 0 then keep.1 else keep.2.1), 0⟩
        else if j < 384 then ⟨keep.1 + 4 * keep.2.1 + (if keep.2.2 then 16 else 0), 0⟩
        else ⟨0, 0⟩)
    ∧ yields (.vexpd g d a mk) s 3 d M (some A.tag) (fun j =>
        let meta_ := A.bits (256 + j / 4)
        if j % 4 = meta_ / 4 % 4 then ⟨A.bits (2 * (j / 4) + 1), 0⟩
        else if j % 4 = meta_ % 4 then ⟨A.bits (2 * (j / 4)), 0⟩
        else ⟨0, 0⟩)
    ∧ delivers (.vtag g d t) s 2 (.v d 0 0 (some t) false false)
    ∧ (∃ m : Mask, (∀ j < 512, m.getLsbD j = decide (A.bits j ≠ 0)) ∧ delivers (.vmsk g md a) s 2 (.m md m all))

/-- R45, R49, R56, R158 to R161: conversions, requantisation and the transcendental functions. -/
def Obligations.conversions : Prop :=
  ∀ (g : Guard) (d : VReg) (a : VSrc) (gb : GSrc) (mk : MReg) (t : Tag) (rm : RMode) (sat : Bool) (s : State),
    let A := s.vReg a
    let M := s.me.ctx.regs.mv mk
    let f := fltFmt A.tag
    let B := (s.gReg gb).toNat
    (t ≠ .e8m0 → yields (.vcvt g d a mk t rm sat) s 3 d M (some t)
      fun j => convert A.tag t (A.bits j) (.mode rm) sat)
    ∧ yields (.vcvt g d a mk .e8m0 rm sat) s 3 d M (some .e8m0) (fun j =>
        ⟨chooseScale ((List.range 32).map fun k => A.elem (j / 32 * 32 + k))
          (match rm with | .rne => .e4m3 | .rtz => .e5m2 | _ => .e2m1), 0⟩)
    ∧ yields (.vcvts g d a mk t sat) s 3 d M (some t) (fun j =>
        convert A.tag t (A.bits j) (.sr (laneRandom s.iss.word j (s.iss.slot - 1))) sat)
    ∧ yields (.vrq g d a gb mk rm sat) s 3 d M (some .int8) (fun j =>
        let p := A.int j * (BitVec.ofNat 32 B).toInt
        let unit : Int := 2 ^ (B / 2 ^ 32 % 64)
        let down := p / unit
        let left := p % unit
        let n := match rm with
          | .rne => if unit < 2 * left ∨ 2 * left = unit ∧ down % 2 = 1 then down + 1 else down
          | .rtz => if p < 0 ∧ left ≠ 0 then down + 1 else down
          | .rup => if left ≠ 0 then down + 1 else down
          | .rdn => down
        let y := n + (BitVec.ofNat 8 (B / 2 ^ 40)).toInt
        ⟨(max (-128) (min 127 y) % 256).toNat,
          (if left ≠ 0 then flNX else 0) ||| (if y < -128 ∨ 127 < y then flSAT else 0)⟩)
    ∧ yields (.vexp2 g d a mk rm) s 8 d M (some A.tag) (fun j => f.exp2 (A.elem j) rm)
    ∧ (isFlt A.tag = true → yields (.vrcp g d a mk rm) s 8 d M (some A.tag) fun j => f.rcp (A.elem j) rm)
    ∧ (A.tag = .e8m0 → yields (.vrcp g d a mk rm) s 8 d M (some .e8m0)
        fun j => ⟨if A.bits j = 255 then 255 else 254 - A.bits j, 0⟩)
    ∧ yields (.vrsq g d a mk rm) s 8 d M (some A.tag) (fun j => f.rsq (A.elem j) rm)
    ∧ yields (.vlog2 g d a mk rm) s 8 d M (some A.tag) (fun j => f.log2 (A.elem j) rm)

/-- R57, R59, R162: reductions and scans. On integers and raw patterns the order of the tree cannot be seen: the result
is the sum, the extremum or the union of the enabled lanes, up to the lane itself for a scan; on FP32 it is that of the
tree of R57 and of the blocks of R59. -/
def Obligations.reductions : Prop :=
  ∀ (g : Guard) (d : VReg) (a : VSrc) (mk : MReg) (op : RedOp) (s : State),
    let A := s.vReg a
    let M := s.me.ctx.regs.mv mk
    let of (n : Nat) : List Nat := ((List.range n).filter M.getLsbD).map A.bits
    let ints (n : Nat) : List Int := (of n).map (signedOf 32)
    let result (n : Nat) : Nat := match op with
      | .add => (of n).sum % 2 ^ 32
      | .max => ((ints n).foldl max (-2 ^ 31) % 2 ^ 32).toNat
      | .min => ((ints n).foldl min (2 ^ 31 - 1) % 2 ^ 32).toNat
      | .or => (of n).foldl (· ||| ·) 0
    let gives (i : Instr) (x : Nat → FRes) : Prop := yields i s 6 d (BitVec.allOnes 512) (some A.tag) x
    (A.tag = .int32 ∨ A.tag = .raw →
      gives (.vred g d a mk op) (fun _ => ⟨result 512, 0⟩)
      ∧ gives (.vscan g d a mk op) (fun j => ⟨result (j + 1), 0⟩))
    ∧ (A.tag = .fp32 →
      gives (.vred g d a mk op) (fun _ => tree (redNode op .fp32) ⟨0, 0⟩ (redInputs op M A))
      ∧ gives (.vscan g d a mk op)
          (fun j => (scanLane (redNode op .fp32) ⟨0, 0⟩ (redInputs op M A) j).canonical .fp32))

/-- R19, R166, R168, R169, R331, R332: the row instructions that reach a buffer, and the mesh. An image packs the
elements in rising lanes; a lane's element lies at base plus index, modulo the space. -/
def Obligations.rows_and_buffers : Prop :=
  ∀ (g : Guard) (d : VReg) (a b : VSrc) (ga : GSrc) (sp : LSpace) (off : BitVec 13) (mk : MReg) (e : EntW) (p : Port)
      (s : State),
    let c := s.me
    let D := c.ctx.regs.vCell d
    let A := s.vReg a
    let B := s.vReg b
    let G := s.gReg ga
    let M := c.ctx.regs.mv mk
    let at_ (unit : Nat) (x : Int) : Nat := (G + BitVec.ofInt 64 (unit * x)).toNat % LSpace.size sp
    let unit := match sp with | .abuf => 512 | _ => 128
    let ea := at_ unit off.toInt
    let some_ (f : Nat → Bool) : Bool := ((List.range 512).filter M.getLsbD).any f
    let idx (v : VCell) (j : Nat) : Nat := at_ (tagWidth v.tag / 8) (B.int j)
    let entry := match e with | .w8 => 1 | .w16 => 2 | .w32 => 4
    let look (j : Nat) : Nat := (G.toNat % 2 ^ 18 + entry * A.bits j) % 2 ^ 18
    let read (sp : LSpace) (x n : Nat) : Nat := leNat (c.loc.load sp c.btw.seqno x n)
    (∃ row : Row, (∀ j < 512, lane row j =
        BitVec.ofNat 32 (read sp ea (64 * tagWidth D.tag) / 2 ^ (tagWidth D.tag * j) % 2 ^ tagWidth D.tag))
      ∧ completes (.vld g d ga sp off) s fun u =>
          u.send 4 (.v d row (BitVec.allOnes 512) none (c.loc.bad sp ea (64 * tagWidth D.tag)) false))
    ∧ (∃ bs : List Byte, bs.length = 64 * tagWidth A.tag
      ∧ (∀ j < 512, leNat bs / 2 ^ (tagWidth A.tag * j) % 2 ^ tagWidth A.tag = A.bits j)
      ∧ completes (.vst g a ga sp off) s fun u => u.onMe fun c => c.localStore sp s.iss.slot ea bs)
    ∧ (∃ row : Row, (∀ j < 512, lane row j = BitVec.ofNat 32 (read sp (idx D j) (tagWidth D.tag / 8)))
      ∧ completes (.vldx g d ga sp b mk) s fun u => u.send 6
          (.v d row M none (some_ fun j => c.loc.bad sp (idx D j) (tagWidth D.tag / 8)) false))
    ∧ completes (.vstx g a ga sp b mk) s (fun u =>
        ((List.range 512).filter M.getLsbD).foldl (fun u j => u.onMe fun c =>
          c.localStore sp s.iss.slot (idx A j) (leBytes (tagWidth A.tag / 8) (A.bits j))) u)
    ∧ (∃ row : Row, (∀ j < 512, lane row j = BitVec.ofNat 32 (read .tsLinear (look j) entry))
      ∧ completes (.vlut g d a ga mk e) s fun u => u.send 4
          (.v d row M (some (match e with | .w8 => .int8 | .w16 => .int16 | .w32 => .int32))
            (some_ fun j => c.loc.bad .tsLinear (look j) entry) false))
    ∧ delivers (.txm g a p) s 5 (.tx p A.row)
    ∧ delivers (.rxm g d p) s 5 (.rx d p 0)

/-! ### The M and C slots -/

/-- R249 to R255: MMA, MMAS, MMAI and FQSKIP join the array's queue, which fixes the tile's kind; TCLR, TRD, TWR and
MSIG act on tiles that no queued operation names. -/
def Obligations.matrix_slot : Prop :=
  ∀ (g : Guard) (d : VReg) (gd : GReg) (tl : TReg) (a : VSrc) (fa fb : BitVec 4) (kg row : BitVec 6) (f : Stream)
      (n : BitVec 16) (s : State),
    let r := s.me.arr
    let joins (i : Instr) (k : ArrKind) (x : TReg) (groups : Nat) (kind : Option Kind) : Prop :=
      ready i s = true → leads i s fun t =>
        t.me.arr.queue = r.queue ++ [⟨k, x, groups, s.me.btw.seg, s.me.inTrap, r.issued⟩]
        ∧ (∀ j, t.me.arr.kindOf j = if j = x.toNat then kind.getD (r.kindOf j) else r.kindOf j)
        ∧ t.me.arr.tiles = r.tiles ∧ t.me.arr.fa = r.fa ∧ t.me.arr.fb = r.fb ∧ t.me.arr.asig = r.asig
        ∧ t.me.ctx = s.me.ctx ∧ t.mem = s.mem
    let writes (i : Instr) (x : Tile) : Prop :=
      ready i s = true → leads i s fun t =>
        (∀ j, t.me.arr.tile j = if j = tl.toNat then x else r.tile j)
        ∧ (∀ j, t.me.arr.kindOf j = if j = tl.toNat then x.kind else r.kindOf j)
        ∧ t.me.arr.queue = r.queue ∧ t.me.arr.asig = r.asig ∧ t.me.ctx = s.me.ctx ∧ t.mem = s.mem
    let old := r.tile tl.toNat
    joins (.mma g tl fa fb kg) (.mma false fa fb) tl (kg.toNat + 1) (some .fp32)
    ∧ joins (.mmas g tl fa fb kg) (.mma true fa fb) tl (kg.toNat + 1) (some .fp32)
    ∧ joins (.mmai g tl kg) .mmai tl (kg.toNat + 1) (some .int32)
    ∧ joins (.fqskip g f n) (.skip f) 0 (n.toNat + 1) none
    ∧ writes (.tclr g tl) Tile.zero
    ∧ writes (.twr g a tl row)
        { rows := Map.put old.rows row.toNat ((s.vReg a).row.setWidth 2048)
          kind := if (s.vReg a).tag = .int32 then .int32 else .fp32
          poison := old.poison &&& ~~~(1#64 <<< row.toNat) }
    ∧ ((tl.toNat, row.toNat) ∉ r.ecc → ∃ x : Row,
        (∀ j < 512, lane x j = if j < 64 then old.elem row.toNat j else 0)
        ∧ completes (.trd g d tl row) s fun u => u.send 4
            (.v d x (BitVec.allOnes 512) (some (if old.kind = .int32 then .int32 else .fp32)) (old.poison != 0) false))
    ∧ completes (.msig g gd) s (fun u => u.send 1 (.g gd r.asig false))

/-- R195 to R201, R216 to R219, R266, R313: a copy or a send latches its operands, its place and its address space, and
joins the held queue of its segment; FEED, PFD and PFC, and what a trap handler issues, go to the engine at once. -/
def Obligations.copies_and_sends_at_issue : Prop :=
  ∀ (g : Guard) (a b c : GSrc) (v : VSrc) (inc : BitVec 7) (chk : Bool) (f : Stream) (cls : Residency) (op : CombOp)
      (pos : BitVec 4) (s : State),
    let me := s.me
    let A := s.gReg a
    let B := s.gReg b
    let C := s.gReg c
    let queued (t : State) (now : Bool) (held engine : EngItem) : Prop :=
      (if now || me.inTrap then t.me.engine = me.engine ++ [engine] ∧ t.me.held = me.held
       else t.me.held = me.held ++ [held] ∧ t.me.engine = me.engine)
      ∧ t.me.btw.nextId = me.btw.nextId + 1 ∧ t.me.ctx = me.ctx ∧ t.me.accs = me.accs ∧ t.me.loc = me.loc
      ∧ t.mem = s.mem ∧ ∀ n, n ≠ s.iss.cur → t.core n = s.core n
    let copies (i : Instr) (now : Bool) (o : CopyOp) (a b c : Word) (ds : List Word) (inc : BitVec 7) (chk : Bool) :
        Prop :=
      ready i s = true → leads i s fun t =>
        let x (mark k : Nat) : Copy :=
          { id := me.btw.nextId, op := o, a := a, b := b, c := c, desc := ds, inc := inc, chk := chk, slot := s.iss.slot
            bundle := me.ctx.pc, asid := me.space, gen := me.gen, seg := me.btw.seg, mark := mark, acc := 0
            commits := k, writes := [], done := [], sent := [], aux := [], got := [], asked := [], tries := 0, spos := 0
            idx := [], idxBad := none, base := 0, ctx := me.regs.ctxId, own := me.inTrap, stop := none }
        queued t now (.copy (x 0 0)) (.copy (x (releaseMark me.accs) me.btw.commits))
    let sends (i : Instr) (src : Option Nat) (fmt : Option Tag) (row : Option Row) : Prop :=
      ready i s = true → leads i s fun t =>
        let x : Send :=
          { id := me.btw.nextId, tag := B.extractLsb' 0 32, pos := pos, src := src, fmt := fmt, row := row
            ctx := me.regs.ctxId, asid := me.space, seg := me.btw.seg, sent := false, refused := 0, due := 0
            waiting := false, stop := none }
        queued t false (.send x) (.send x)
    copies (.cpy g a b c inc chk) false .cpy A B C [] inc chk
    ∧ copies (.cpy2 g a b c inc chk) false .cpy2 A B C (s.readDesc C) inc chk
    ∧ copies (.cpy3 g a b c inc chk) false .cpy3 A B C (s.readDesc C) inc chk
    ∧ copies (.cpyx g a b c inc) false .cpyx A B C [] inc false
    ∧ copies (.unf g a b c inc) false .unf A B C (s.readDesc C) inc false
    ∧ copies (.gth g a b c inc) false .gth A B C (s.readDesc C) inc false
    ∧ copies (.sct g a b c inc) false .sct A B C (s.readDesc C) inc false
    ∧ copies (.fill g a b inc) false .fill A 0 B [] inc false
    ∧ copies (.feed g a b inc f) true (.feed f) 0 A B [] inc false
    ∧ copies (.xfmT g a b c inc) false .xfmT A B C [] inc false
    ∧ copies (.xfmCvt g a b c inc) false .xfmCvt A B C [] inc false
    ∧ copies (.xfmPack g a b c inc) false .xfmPack A B C [] inc false
    ∧ copies (.pfd g a b) true .pfd A 0 B [] 0 false
    ∧ copies (.pfc g a b cls) true (.pfc cls) A 0 B [] 0 false
    ∧ copies (.sred g a b c inc op) false (.sred op) A B C [] inc false
    ∧ copies (.stg g a b c inc chk) false .stg A B C [] inc chk
    ∧ sends (.cjs g v b pos) none (some (s.vReg v).tag) (some (s.vReg v).row)
    ∧ sends (.cjsl g a b pos) (some A.toNat) none none

/-! ### Memory: what the die and the supervisor do -/

/-- R279, R281, R286, R287, R295, R298: SLCFG_WRITE, ASTE_WRITE, GENERATION_SWAP, GENERATION_RELEASE,
RELEASE_RING_WRITE, DRAM_REFRESH, STAGING_AREA_SIZING and CODE_PAGE_STAGING, where nothing refuses them. -/
def Obligations.memory_control : Prop :=
  ∀ (sl d ch layer pages page : Nat) (asid gen : BitVec 12) (x : Word) (s : State),
    let m := s.mem
    let f (lo n : Nat) : Nat := x.toNat / 2 ^ lo % 2 ^ n
    let others (t : State) : Prop := t.cores = s.cores ∧ t.dies = s.dies ∧ t.mem.bytes = m.bytes
    let busy : Prop := m.ring0.getLsbD 63 = true ∧ m.tail ≠ m.head
    let held := m.staged.filter fun y => y.die == d
    (f 0 5 + f 8 4 ≤ 16 → f 8 4 ≤ 8 → s.entries sl true = 0 → s.stgFlies sl = false →
      leads (.slcfgWrite sl x) s fun t =>
        t.slice sl = { s.slice sl with
          slcfg := x &&& 0xF1F
          present := (s.slice sl).present.filter fun e => decide (f 0 5 ≤ e.2 ∧ e.2 + f 8 4 < 16)
          window := (s.slice sl).window.filter fun c => decide (c.1 < f 0 5 * 2 ^ 18) }
        ∧ (∀ k, k ≠ sl → t.slice k = s.slice k) ∧ others t)
    ∧ (f 52 6 = 0 → f 58 5 ≤ 17 → f 0 52 % (16 * 2 ^ f 58 5) = 0 → leads (.asteWrite asid false x) s fun t =>
        t.mem.aste asid = { m.aste asid with dw0 := x } ∧ (∀ b, b ≠ asid → t.mem.aste b = m.aste b) ∧ others t)
    ∧ (f 17 46 = 0 → (x.getLsbD 63 = true → f 0 17 < 2 ^ ((m.aste asid).dw0.toNat / 2 ^ 58 % 32)) →
        leads (.asteWrite asid true x) s fun t =>
          t.mem.aste asid = { m.aste asid with dw1 := x } ∧ (∀ b, b ≠ asid → t.mem.aste b = m.aste b) ∧ others t)
    ∧ leads (.generationSwap asid x) s (fun t =>
        t.mem.aste asid = { m.aste asid with dw2 := x &&& ~~~0x1FFF } ∧ (∀ b, b ≠ asid → t.mem.aste b = m.aste b)
        ∧ others t)
    ∧ ((∀ e ∈ s.dies, Map.getD e.2.tasks (asid.toNat * 4096 + gen.toNat) 0 = 0) →
        (m.aste asid).dw2.toNat / 2 ^ 52 ≠ gen.toNat → (asid.toNat, gen.toNat) ∉ s.pkg.released →
        leads (.generationRelease asid gen) s fun t =>
          let g := asid.toNat * 4096 + gen.toNat
          let last (p : Nat) : Prop := p ∈ Map.getD s.pkg.gens g [] ∧ ∀ e ∈ s.pkg.gens, e.1 ≠ g → p ∉ e.2
          t.pkg.released = s.pkg.released ++ [(asid.toNat, gen.toNat)] ∧ t.dies = s.dies ∧ t.mem.bytes = m.bytes
          ∧ (∀ n, (t.core n).ctx = (s.core n).ctx)
          ∧ (∀ p, last p → Map.find? t.mem.images p = none ∧ (∀ y ∈ t.mem.staged, y.page ≠ p)
            ∧ ∀ n, ∀ l ∈ (t.core n).fetch.lines, l.pa / 65536 ≠ p)
          ∧ (∀ p, ¬last p → Map.find? t.mem.images p = Map.find? m.images p))
    ∧ (¬ busy → 4 ≤ f 58 5 → f 58 5 ≤ 20 → f 4 52 * 16 % (16 * 2 ^ f 58 5) = 0 →
        leads (.releaseRingWrite 0 x) s fun t => t.mem = { m with ring0 := x &&& 0xFCFFFFFFFFFFFFF0 })
    ∧ (busy → x &&& 0x7CFFFFFFFFFFFFF0 = m.ring0 &&& 0x7CFFFFFFFFFFFFF0 → leads (.releaseRingWrite 0 x) s fun t =>
        t.mem = { m with ring0 := (m.ring0 &&& 0x7CFFFFFFFFFFFFF0) ||| (x &&& 0x8000000000000000) })
    ∧ ((busy → x.extractLsb' 52 12 = m.ring1.extractLsb' 52 12) →
        leads (.releaseRingWrite 1 x) s fun t => t.mem = { m with ring1 := x &&& 0xFFF0000000000000 })
    ∧ ((x.setWidth 32 - m.head).toNat ≤ (m.tail - m.head).toNat →
        leads (.releaseRingWrite 2 x) s fun t => t.mem = { m with head := x.setWidth 32 })
    ∧ (let k := dramKey d ch layer
       let fast := (Map.getD m.refresh ((d * 16 + ch / 4) * 8 + layer) (0, false)).2
       let last := (Map.getD m.refresh k (0, false)).1
       last = 0 ∨ last + (if fast then 160 else 355) ≤ s.time → leads (.dramRefresh d ch layer) s fun t =>
         t.mem = { m with refresh := Map.put m.refresh k (s.time + 35, false) } ∧ t.cores = s.cores)
    ∧ ((held.filter fun y => y.cls == .pinned).length ≤ pages → leads (.stagingAreaSizing d pages) s fun t =>
        Map.getD t.mem.areas d 1024 = pages ∧ (∀ y ∈ t.mem.staged, y ∈ m.staged)
        ∧ (∀ y ∈ m.staged, y.die ≠ d ∨ y.cls = .pinned → y ∈ t.mem.staged) ∧ others t)
    ∧ (page < 2 ^ 36 → (held.filter fun y => y.page != page).length < Map.getD m.areas d 1024 →
        leads (.codePageStaging d page) s fun t => ∃ cls good,
          t.stagedPage d page = some ⟨d, page, good, cls, s.time, m.bytes.filter fun c => c.1 / 65536 == page,
            List.filter (fun e : Nat × BitVec 8 => e.1 / 4096 == page) m.keys, Map.find? m.images page, s.tick⟩
          ∧ (good = true ↔ (∀ u ∈ m.ecc, u / 2048 ≠ page) ∧ ((Map.find? m.images page).isSome = true
            ∨ digest (Memory.readBytes m.bytes (page * 65536) 65536) = Config.pageDigest page))
          ∧ (∀ y, s.stagedPage d page = some y → cls = y.cls)
          ∧ (∀ y ∈ m.staged, y.die ≠ d ∨ y.page ≠ page → y ∈ t.mem.staged) ∧ others t)

/-- R285, R290: bytes stored under a key read back under it; every other byte reads under that key as before, and the
16-byte units that the store does not touch read as before under any key. -/
def Obligations.keyed_memory : Prop :=
  ∀ (m : Mem) (key : BitVec 8) (a : Nat) (bs : List Byte), m.bytes.wf = true →
    let t := m.store key a bs
    t.load key a bs.length = bs
    ∧ (∀ x, x < a ∨ a + bs.length ≤ x → t.byte key x = m.byte key x)
    ∧ (∀ k x, (∀ y, a ≤ y → y < a + bs.length → y / 16 ≠ x / 16) → t.byte k x = m.byte k x)
    ∧ t.bytes.wf = true

/-- R305 to R309, R330: LOAD_DEPARTURE, STORE_DEPARTURE and MARKER_REMOVAL. The access at the head of its queue leaves
for the channel of its home slice, or towards the die; a marker leaves its queue, and a barrier's arrives. -/
def Obligations.departures : Prop :=
  ∀ (n : Nat) (a : Acc) (s : State),
    let c := s.core n
    let moved (f : Acc → Acc) : List Acc := c.accs.map fun b => if b.id == a.id then f b else b
    let left (b : Acc) : Acc :=
      { b with departed := true, kind := match b.kind with | .pop d q ts nb _ x => .pop d q ts nb s.time x | k => k }
    let dropped : List Acc := c.accs.filter fun b => b.id != a.id
    let departs (i : Instr) : Prop := leads i s fun t =>
      (t.core n).accs = moved left ∧ (t.core n).ctx = c.ctx ∧ t.mem.bytes = s.mem.bytes
      ∧ (let q := inbound n (s.mem.shape.homeSlice a.pa)
         if a.kind.isMem = true then t.mem.channels = Map.put s.mem.channels q (Map.getD s.mem.channels q [] ++ [a.id])
         else t.mem = s.mem)
    let marker (sq : Bool) : Prop := leads (.markerRemoval n sq) s fun t =>
      (t.core n).accs = (if (if sq then a.departed else a.performed) then dropped
        else moved fun b => if sq then { b with performed := true } else { b with departed := true })
      ∧ (t.core n).ctx = c.ctx ∧ t.mem = s.mem
    n < 1024 → (a.kind.isMem = true → s.remote a.home = false) →
    (c.lqHead = some a → c.loadMayGo s.mem a = true → departs (.loadDeparture n))
    ∧ (c.sqHead = some a → s.storeMayGo c a = true → departs (.storeDeparture n))
    ∧ ((∀ b p, a.kind ≠ .barrier b p) → a.kind.isMark = true →
        (c.lqHead = some a → s.markerFree c.accs a false = true → marker false)
        ∧ (c.sqHead = some a → s.markerFree c.accs a true = true → marker true))
    ∧ (∀ b p g, a.kind = .barrier b p → c.sqHead = some a → s.markerFree c.accs a true = true → s.gangOf n = some g →
        leads (.markerRemoval n true) s fun t =>
          let x := g.bar b.toNat
          let x' : Barrier := { x with at_ := Map.put x.at_ c.rank (p + 1) }
          (t.core n).accs = dropped ∧ t.mem = s.mem
          ∧ t.gangOf n = some (if x.has c.rank p then g else { g with bars := Map.put g.bars b.toNat x' }))

/-- R281 to R283, R303, R310, R311, R119: ORDER_POINT_SERVE, LINE_FILL and ATOMIC_UPDATE. A load of a line that is
present is answered, a store writes its bytes, an atomic goes to its unit, a request for an absent line gets a miss
register; a fill serves its requests; the unit writes the new value and replies with the old. -/
def Obligations.order_points : Prop :=
  ∀ (sl k n id line : Nat) (a : Acc) (s : State),
    let y := s.slice sl
    let key := lineOf a.pa
    let plain (pa w : Nat) : Prop := ∀ x, pa ≤ x → x < pa + w → inControl x = false
    let open_ (pa w : Nat) : Prop := ∀ x, pa ≤ x → x < pa + w → s.mem.isSealed x = false
    let first : Prop := n < 1024 ∧ (s.requests sl)[k]? = some (n, id, false) ∧ s.acc n id = some a
      ∧ s.waitsBefore y.ingress key = false ∧ (∀ e ∈ y.mshr, e.1 ≠ key) ∧ s.updating sl n id (a.span s.mem) = false
      ∧ a.cached = true ∧ inControl a.pa = false ∧ a.kind.coversLine = false ∧ ∀ m, a.kind ≠ .ask m
    let gone (t : State) : Prop := (t.core n).accs = (s.core n).accs.filter fun b => b.id != id
    let answered (t : State) (d : Dst) : Prop :=
      (t.core n).replies = (s.core n).replies ++ [⟨a.id, d, a.own⟩] ∧ (t.core n).ctx = (s.core n).ctx
    let loaded (t : State) (d : Dst) (pa w : Nat) (fw : List (Nat × Byte)) : Prop :=
      let bs := (upFrom pa w).map fun x =>
        match fw.find? (fun f => f.1 == x) with | some f => some f.2 | none => s.mem.homeByte a x
      answered t (d.withValue (BitVec.ofNat 64 (leNat (bs.map fun b => b.getD 0))) (bs.any (·.isNone)))
      ∧ t.mem.bytes = s.mem.bytes
    (first → y.present.any (fun e => e.1 == key) = true →
      (∀ d pa w acq sc fw, a.kind = .load d pa w acq sc fw → plain pa w →
        leads (.orderPointServe sl k) s fun t => loaded t d pa w fw)
      ∧ (∀ pa bs rel sc, a.kind = .store pa bs rel sc → inControl pa = false → open_ pa bs.length →
        leads (.orderPointServe sl k) s fun t => gone t ∧ t.mem.bytes = (s.mem.store a.key pa bs).bytes)
      ∧ (∀ op d pa w b c sc o, a.kind = .atomic op d pa w b c sc o → leads (.orderPointServe sl k) s fun t =>
          (t.slice sl).updates = y.updates ++ [(n, id)] ∧ t.mem.bytes = s.mem.bytes))
    ∧ (first → y.present.any (fun e => e.1 == key) = false → y.mshr.length < 64 →
        leads (.orderPointServe sl k) s fun t =>
          (t.slice sl).mshr = y.mshr ++ [(key, [(n, id)])] ∧ t.cores = s.cores ∧ t.mem.bytes = s.mem.bytes)
    ∧ (∀ d pa w acq sc fw, y.mshr.find? (fun e => e.1 == line) = some (line, [(n, id)]) →
        s.blocked (line * 128) = false → s.acc n id = some a → s.updating sl n id (a.span s.mem) = false →
        a.kind = .load d pa w acq sc fw → plain pa w → leads (.lineFill sl line) s fun t =>
          (∀ e ∈ (t.slice sl).mshr, e.1 ≠ line) ∧ loaded t d pa w fw)
    ∧ (∀ op d pa w b c sc o, y.updates[k]? = some (n, id) → s.acc n id = some a →
        a.kind = .atomic op d pa w b c sc o → inControl pa = false → s.mem.bad pa w = false →
        open_ pa w → leads (.atomicUpdate sl k) s fun t =>
          let old := BitVec.ofNat 64 (leNat (s.mem.load a.key pa w))
          t.mem.bytes = (s.mem.store a.key pa (leBytes w (atomNew op w old b c).toNat)).bytes
          ∧ answered t (.g d old false) ∧ (t.slice sl).updates = y.updates.eraseIdx k)

/-- R101, R222, R265, R276, R299, R328, R368: VARIABLE_REPLY, POP_TIMEOUT and TAG_FREE. A reply fills its register, or is
parked where a handler runs that did not ask for it; the die answers what has departed to it; a freed tag retires. -/
def Obligations.replies : Prop :=
  ∀ (n k : Nat) (a : Acc) (r : Reply) (tg : BitVec 32) (s : State),
    let c := s.core n
    let written (u t : State) (id : Nat) (d : Dst) (own : Bool) : Prop :=
      (t.core n).accs = c.accs.filter (fun b => b.id != id)
      ∧ (t.core n).ctx = (if c.inTrap && !own then { c.ctx with parked := c.ctx.parked ++ [⟨id, d, own⟩] }
          else c.ctx.reply d)
      ∧ (t.core n).loc = (u.core n).loc ∧ t.dies = u.dies ∧ t.conj = u.conj ∧ t.mem = u.mem
    let answers (u : State) (d : GReg) (x : Word) : Prop :=
      leads (.variableReply n k) s fun t => written u t a.id (.g d x false) a.own
    n < 1024 →
    (c.replies[k]? = some r → leads (.variableReply n k) s fun t =>
      written s t r.id r.dst r.own ∧ (t.core n).replies = c.replies.eraseIdx k)
    ∧ (c.replies.length ≤ k → (c.accs.filter fun b => b.departed && b.kind.asksDie)[k - c.replies.length]? = some a →
        (∀ d va acc w user, a.kind = .xlate d va acc w user → c.fetch.tlbis = [] →
          (∀ p, s.pageOf n a.id w.asid w.gen va.toNat = .page p → answers s d (s.xlateWord va acc w.asid user p))
          ∧ (∀ x, s.pageOf n a.id w.asid w.gen va.toNat = .fault x → answers s d (BitVec.ofNat 64 (2 ^ 63 + x)))
          ∧ (∀ v, s.pageOf n a.id w.asid w.gen va.toNat = .walk v → (a.id, v) ∉ c.fetch.asks →
            leads (.variableReply n k) s fun t =>
              (t.core n).fetch.asks = c.fetch.asks ++ [(a.id, v)] ∧ (t.core n).ctx = c.ctx ∧ t.mem = s.mem))
        ∧ (∀ d x, a.kind = .tagq d x → answers s d (s.tagStatus n x))
        ∧ (∀ d x, a.kind = .flowq d x → answers s d (s.flowq n x))
        ∧ (∀ d ds x, a.kind = .taga d ds x → answers (s.tagAlloc n ds x).1 d (s.tagAlloc n ds x).2)
        ∧ (∀ d q ts nb since asid u x, a.kind = .pop d q ts nb since asid → s.popServe n a q ts nb asid = some (u, x) →
          answers u d x))
    ∧ (∀ d q ts nb since asid, c.accs.find? (fun b => match b.kind with | .pop .. => true | _ => false) = some a →
        a.kind = .pop d q ts nb since asid → a.departed = true → s.popServe n a q ts nb asid = none →
        since + (s.queue (dieOf n) q).poplim.toNat ≤ s.time → (s.settled (s.queue (dieOf n) q)).recs = [] →
        (s.queue (dieOf n) q).closed = false →
        leads (.popTimeout n) s fun t => written s t a.id (.g d (BitVec.ofNat 64 (2 ^ 62)) false) a.own)
    ∧ (let frees (b : Acc) : Bool := b.departed && decide (b.kind = .tagf tg)
       ∀ q, s.listed.find? (fun m => (s.core m).accs.any frees) = some n → c.accs.find? frees = some a →
        s.tag tg = some q → q.owner = c.regs.ctxId → q.state ∈ [TagState.idle, .opened, .broken] →
        (q.state = .opened → q.orph = 0) → leads (.tagFree tg) s fun t =>
          (t.core n).accs = c.accs.filter (fun b => b.id != a.id) ∧ (t.core n).ctx = c.ctx ∧ t.mem = s.mem
          ∧ t.tag tg = some { q with state := .retired, held := [], pres := 0, next := 0, since := s.time })

/-- R189, R190, R238, R289, R293, R294: TRANSLATION_WALK and CODE_FETCH_MISS. A walk goes to a free walker, which asks for
the entry of its level as a request of its own; where the last entry comes, every core of the die that waits for the walk takes
its translation; a walk that finds nothing at once is remembered as such. A missed line comes in from the block that the block buffer
holds or that the staged copy gives, or the block is remembered as failed. -/
def Obligations.walks_and_fetch : Prop :=
  ∀ (n d j k m sl src id level ent sz pa e : Nat) (via : Bool) (lo hi lo' hi' : Word) (w : Walk) (a : Acc) (tr : Tlb)
      (x : Staged) (s : State),
    let l := s.leader n
    let c := s.core l
    let at_ := s.codePa tr pa
    let mine (y : Walker) : Bool := y.die == d && y.num == j
    let told (i : Instr) (z : State → Prop) : Prop := leads i s fun t =>
      (dieOf m = d → w ∈ (s.core m).fetch.walks →
        (t.core m).fetch.walks = (s.core m).fetch.walks.filter (· != w) ∧ z t)
      ∧ (dieOf m ≠ d → t.core m = s.core m) ∧ (t.core m).ctx = (s.core m).ctx ∧ t.mem.bytes = s.mem.bytes
    let starts := (s.walksOf d)[k]? = some w ∧ j < 64 ∧ s.mem.walkers.any mine = false
      ∧ ∀ i < j, (s.mem.walkers.any fun y => y.die == d && y.num == i) = true
    let comes := 1024 ≤ src ∧ (s.requests sl)[k]? = some (src, id, false) ∧ s.acc src id = some a ∧ a.kind = .pte d j
      ∧ s.waitsBefore (s.slice sl).ingress (lineOf a.pa) = false ∧ (∀ e ∈ (s.slice sl).mshr, e.1 ≠ lineOf a.pa)
      ∧ s.updating sl src id (a.span s.mem) = false ∧ a.cached = true
      ∧ ((s.slice sl).present.any fun e => e.1 == lineOf a.pa) = true
      ∧ s.mem.walkers.find? mine = some ⟨d, j, w, level, ent, via⟩
    let demands := c.frozenFor 4 = true ∧ s.translate c .fetch c.ctx.pc = .hit pa tr ∧ c.fetch.line at_ = none
      ∧ c.fetch.failed.contains (at_ / 1024) = false
    let fetched (bs : List Byte) : Prop := leads (.codeFetchMiss n) s fun t =>
      ((t.core l).fetch.line at_).map (fun l => l.bundle at_) = some (bundleOf bs (at_ % 1024 / 32))
      ∧ (t.core l).ctx = c.ctx ∧ t.mem.bytes = s.mem.bytes
    (starts → s.mem.walkStart w.asid w.gen w.va = .read level ent via → leads (.translationWalk d k) s fun t =>
      t.mem.walkers = s.mem.walkers ++ [⟨d, j, w, level, ent, via⟩] ∧ t.cores = s.cores ∧ t.mem.bytes = s.mem.bytes
      ∧ t.mem.nextReq = s.mem.nextReq + 1
      ∧ (∃ r, Map.find? t.mem.reqs s.mem.nextReq = some r ∧ r.kind = .pte d j ∧ r.pa = ent)
      ∧ (let q := inbound (srcWalker d j) (s.mem.shape.homeSlice ent)
         t.mem.channels = Map.put s.mem.channels q (Map.getD s.mem.channels q [] ++ [s.mem.nextReq])))
    ∧ (starts → s.mem.walkStart w.asid w.gen w.va = .absent → told (.translationWalk d k) fun t =>
        (s.core m).demands w = true → w ∈ (t.core m).fetch.misses)
    ∧ (comes → s.mem.pte ent = some (lo, hi) → s.mem.shape.walkNext level ent w.va via lo hi = .leaf sz e lo' hi' →
        told (.orderPointServe sl k) fun t => (t.core m).fetch.tlb.head? =
          some ⟨w.asid, w.gen, alignDown w.va (pageBytes sz), sz, e, lo', hi'⟩)
    ∧ (demands → ∀ bs, c.fetch.heldBlock at_ = some bs → fetched bs)
    ∧ (demands → c.fetch.heldBlock at_ = none → s.stagedPage (dieOf l) (at_ / 65536) = some x → x.good = true →
        (∀ bs, x.block s.mem (pteKey tr.hi) (at_ % 65536 / 1024) = some bs → fetched bs)
        ∧ (x.block s.mem (pteKey tr.hi) (at_ % 65536 / 1024) = none → leads (.codeFetchMiss n) s fun t =>
            (t.core l).fetch.failed = (at_ / 1024) :: c.fetch.failed ∧ (t.core l).ctx = c.ctx
            ∧ t.mem.bytes = s.mem.bytes))

/-! ### Steps of a core that no bundle makes -/

/-- R145, R230, R244, R304: SEGMENT_COMMIT at a checkpoint bundle and in HALT, and SEGCTL_COMMIT. The state of the
context is recorded as segment entry, and what the segment held is released: at once, or after the delay of a protected
pair. -/
def Obligations.segment_ends : Prop :=
  ∀ (m : Nat) (v : View) (s : State),
    let n := s.leader m
    let c := s.core n
    let closes (t : State) : Prop :=
      let c' := t.core n
      c'.btw.seg = c.btw.seg + 1 ∧ c'.btw.commits = c.btw.commits + 1 ∧ c'.ctx.pc = c.ctx.pc
      ∧ c'.ctx.regs = c.ctx.regs ∧ c'.ctx.sig = 0 ∧ t.mem = s.mem ∧ (∀ k, k ≠ n → t.core k = s.core k)
      ∧ c'.ctx.thermal = some (s.thermal (dieOf n))
      ∧ (if s.protected_ n then
          c'.btw.closing = c.btw.closing ++ [(2, c.btw.seg, c.entry)] ∧ c'.accs = c.accs ∧ c'.held = c.held
            ∧ c'.engine = c.engine
         else
          c'.accs = (c.accs.map fun a => if a.held ∧ a.seg ≤ c.btw.seg then
              { a with held := false, commit := c.btw.commits + 1 } else a)
          ∧ c'.held = c.held.filter (fun e => decide (c.btw.seg < e.seg))
          ∧ c'.engine = c.engine ++ (c.held.filter fun e => decide (e.seg ≤ c.btw.seg)).map
              fun e => e.marked (releaseMark c'.accs) (c.btw.commits + 1))
    (c.run = .run → c.recov.phase = 0 → c.btw.halting = false → c.midway = false → s.meets n = .go v →
        c.commits v = true → leads (.segmentCommit m) s fun t =>
          closes t ∧ (t.core n).entry = (t.core n).ctx ∧ (t.core n).btw.ckpted = true)
    ∧ (c.run = .run → c.recov.phase = 0 → c.inTrap = false → c.btw.halting = true → c.btw.haltCommit = true →
        c.roomToCommit = true → leads (.segmentCommit m) s fun t =>
          closes t ∧ (t.core n).entry = (t.core n).ctx ∧ (t.core n).btw.haltCommit = false)
    ∧ (c.run = .run → c.inTrap = true → c.btw.halting = true → c.btw.haltCommit = true → c.roomToCommit = true →
        leads (.segmentCommit m) s fun t =>
          (t.core n).btw.seg = c.btw.seg + 1 ∧ (t.core n).btw.haltCommit = false ∧ (t.core n).inTrap = true
          ∧ (t.core n).ctx.caph = 0 ∧ (t.core n).ctx.parked = [] ∧ (t.core n).ctx.snap = []
          ∧ (t.core n).ctx.pipe = c.ctx.snap ++ c.ctx.pipe ∧ t.mem = s.mem)
    ∧ (c.inTrap = true → leads (.segctlCommit m) s fun t =>
        closes t ∧ (t.core n).inTrap = true
        ∧ (t.core n).entry = { ((t.core n).return_ s.time).ctx with priv := c.trap.ppriv })

/-- R145, R227, R228, R231, R331: FREEZE_END and RENDEZVOUS_RELEASE where nothing is awaited any more; FREEZE_WATCHDOG
past LIMIT, class 11; RECOVERY at uncorrectable data or a lockstep mismatch. -/
def Obligations.freezes_and_recovery : Prop :=
  ∀ (m : Nat) (f : Freeze) (ti : TrapInfo) (s : State),
    let n := s.leader m
    let c := s.core n
    let goes (t : State) : Prop :=
      (t.core n).run = .run ∧ (t.core n).ctx = c.ctx ∧ (t.core n).accs = c.accs ∧ t.mem = s.mem
      ∧ ∀ k, k ≠ n → t.core k = s.core k
    let reruns (t : State) : Prop :=
      (t.core n).run = .run ∧ (t.core n).recov = ⟨1, 0, 0, false, c.inPhase⟩ ∧ (t.core n).ctx = c.entry
      ∧ (t.core n).sup = c.entry.priv ∧ (t.core n).inTrap = false
      ∧ (t.core n).btw.rolls = c.btw.rolls + 1
      ∧ (∀ a, a ∈ (t.core n).accs ↔ a ∈ c.accs ∧ (a.own = true ∨ a.seg < c.btw.seg))
      ∧ (t.core n).held = c.held.filter (fun e => decide (e.seg < c.btw.seg)) ∧ t.mem = s.mem
    (c.run = .frozen f → f.reason ≠ 8 → f.reason ≠ 9 → c.expired = false → s.awaits n = .go →
        leads (.freezeEnd m) s goes)
    ∧ (c.run = .frozen f → f.reason = 7 → c.expired = false → s.awaits n = .go → leads (.rendezvousRelease m) s goes)
    ∧ (c.run = .frozen f → f.reason ≠ 8 → c.expired = true → leads (.freezeEnd m) s fun t => t = s)
    ∧ (c.run = .frozen f → 0 < c.trap.fwdog.toNat → c.trap.fwdog.toNat < f.ticks → f.reason ≠ 8 → f.reason ≠ 9 →
        c.inTrap = false → leads (.freezeWatchdog m) s fun t =>
          (t.core n).trap.tcause = BitVec.ofNat 64 (11 + 65536 * c.sup.toNat + 131072)
          ∧ (t.core n).trap.tinfo = BitVec.ofNat 64 (f.info % 2 ^ 56 * 256 + f.reason)
          ∧ (t.core n).trap.tbundle = (c.ctx.pc &&& ~~~31) ∧ (t.core n).ctx.pc = c.trap.tvec
          ∧ (t.core n).ctx.regs = c.ctx.regs ∧ t.mem = s.mem)
    ∧ (c.run = .run → c.recov.phase = 0 → c.btw.closing = [] → c.transitBars = [] →
        (s.meets n = .stop (.recover ti) ∨ s.protected_ n = true ∧ ∀ x, s.meets n ≠ .stop (.recover x)) →
        leads (.recovery m) s reruns)

/-- R194, R232 to R236: CSREQ_SAVE and CSREQ_RESTORE where their areas are there, CSREQ_BADREQ, the two clears of LSCLR,
TRACE_SELECT and TRACE_TRIGGER. -/
def Obligations.saves_and_clears : Prop :=
  ∀ (m : Nat) (area : Word) (idx : BitVec 12) (p : Nat × BitVec 8) (ps : List (Nat × BitVec 8)) (r : Saved) (b : Bool)
      (s : State),
    let n := s.leader m
    let c := s.core n
    let va := area.toNat / 2 ^ 16 % 2 ^ 40 * 2 ^ 16
    let keeps (t : State) : Prop :=
      (t.core n).ctx = c.ctx ∧ (t.core n).run = c.run ∧ t.mem = s.mem ∧ ∀ k, k ≠ n → t.core k = s.core k
    let cleared (t : State) (x : Bool × Bool) : Prop :=
      if b then (t.core n).btw.clear = some x ∧ (t.core n).run = c.run
      else if c.frozenFor 9 then (t.core n).btw.clear = none ∧ (t.core n).run = .run
      else (t.core n).btw.clear = some (false, false) ∧ (t.core n).run = c.run
    (c.saving = none → c.inTrap = true → c.trap.tcause.getLsbD 16 = false → s.areaPages n va saveLen = .ok (p :: ps) →
        c.arr = Arr.zero → c.accs = [] → c.replies = [] → c.btw.closing = [] → c.engine = [] →
        leads (.csreqSave m area) s fun t =>
          (t.core n).run = .idle ∧ (t.core n).regs.csstat = 0 ∧ (t.core n).held = []
          ∧ ∃ x, Map.find? t.saves p.1 = some x ∧ x.ctx = c.ctx.settle ∧ x.entry = c.entry ∧ x.trap = c.trap
            ∧ x.held = c.held ∧ x.owns = c.owns ∧ x.wbuf = c.loc.wbuf ∧ x.arr = c.arr ∧ x.restored = false
            ∧ x.mode = (s.pair (pairOf n)).mode)
    ∧ (c.run = .idle → (s.protected_ n = true → (s.core (n + 1)).run = .idle) →
        ((s.pair (pairOf n)).mode = 2 → (s.pair (pairOf n)).q0 = false ∧ (s.pair (pairOf n)).q1 = false) →
        s.areaPages n va saveLen = .ok (p :: ps) →
        Map.find? s.saves p.1 = some r → r.restored = false → r.mode = (s.pair (pairOf n)).mode → r.arrAt = none →
        s.mem.badPages (p :: ps) = false → leads (.csreqRestore n area) s fun t =>
          (t.core n).run = .run ∧ (t.core n).ctx = ((c.reload r (s.thermal (dieOf n))).resumed s.time).ctx
          ∧ (t.core n).sup = (if r.trap.intrap then r.trap.tcause.getLsbD 16 else r.ctx.priv)
          ∧ (t.core n).entry = { r.entry with thermal := some (s.thermal (dieOf n)) } ∧ (t.core n).regs.csstat = 0
          ∧ (t.core n).recov = r.recov ∧ (t.core n).regs.thctl = r.regs.thctl ∧ (t.core n).regs.job = r.regs.job
          ∧ (t.core n).regs.ctxId = r.regs.ctxId ∧ (t.core n).regs.asid = r.regs.asid
          ∧ (r.ctx.parked = [] → (t.core n).ctx.regs = r.ctx.regs)
          ∧ (∃ x, Map.find? t.saves p.1 = some x ∧ x.restored = true) ∧ t.mem = s.mem)
    ∧ leads (.csreqBadreq m) s (fun t => (t.core n).regs.csstat = 7 ∧ keeps t)
    ∧ (c.btw.clear = some (true, b) → c.engine.any EngItem.midAbuf = false → c.expired = false →
        leads (.lsclrClra m) s fun t =>
          (t.core n).loc.abuf = [] ∧ (t.core n).loc.eccA = [] ∧ (t.core n).loc.tspad = c.loc.tspad
          ∧ (t.core n).loc.lines = c.loc.lines ∧ (t.core n).ctx = c.ctx ∧ t.mem = s.mem ∧ cleared t (false, true))
    ∧ (c.btw.clear = some (b, true) → (∀ l ∈ c.loc.lines, l.2.count = 0) → c.expired = false →
        leads (.lsclrClrt m) s fun t =>
          (t.core n).loc.tspad = [] ∧ (t.core n).loc.lines = [] ∧ (t.core n).loc.owner = 0
          ∧ (t.core n).loc.draining = [] ∧ (t.core n).ctx = c.ctx ∧ t.mem = s.mem ∧ cleared t (true, false))
    ∧ leads (.traceSelect m idx) s (fun t => (t.core n).trace = { c.trace with sel := idx } ∧ keeps t)
    ∧ (c.trace.trctl.getLsbD 63 = true → c.trace.trctl.getLsbD 62 = false → c.trace.left = none →
        leads (.traceTrigger m) s fun t =>
          let post := c.trace.trctl.toNat / 2 ^ 36 % 2 ^ 12
          (if post = 0 then (t.core n).trace.trctl.getLsbD 62 = true
              ∧ (t.core n).trace.due = (c.trace.due || c.trace.trctl.getLsbD 61)
            else (t.core n).trace.left = some post)
          ∧ (t.core n).trace.entries = c.trace.entries ∧ keeps t)

/-! ### The package, the OWC service and the host -/

/-- R341 to R343, R355 to R357, R383: MODULE_RESET, START, ATTESTATION_REQUEST, FIRMWARE_UPDATE, POWER_LOSS_WARNING,
STORAGE_TRANSFER and CHECKPOINT_RESTORE. That DRAM and the host's memory stay over a reset is log 23. -/
def Obligations.bring_up_and_power : Prop :=
  ∀ (n d k p a : Nat) (g : Gang) (nonce : BitVec 256) (x : FwImage) (v : Safe) (ps : List Nat) (s : State),
    let rec_ := s.pkg.record
    let images := s.pkg.pendingFw.foldl (fun m e => Map.put m e.1 e.2) s.pkg.running
    let sound (y : FwImage) : Prop :=
      Config.verifies (digest (signedPart y)) y.signature = true ∧ y.length = y.body.length
      ∧ ((rec_.fwMin.find? fun e => e.1 == y.kind).map (·.2)).getD 0 ≤ y.version
    let good := Config.verifies (digest (Config.recordBytes rec_)) rec_.sig = true
      ∧ ∀ kind < 3, ∃ y, Map.find? images kind = some y ∧ sound y
    let shape := shapeOf rec_
    let phys := shape.physPair p
    let q := ((rec_.pairQ.find? fun e => e.1 == phys).map (·.2)).getD 0 ||| Map.getD s.pkg.qannex phys 0
    (leads .moduleReset s fun t =>
      t.core n = Core.reset n ∧ t.dies = [] ∧ t.conj = State.reset.conj ∧ t.cool = Cool.reset ∧ t.fab = Fabric.reset
      ∧ t.time = 0 ∧ t.mem.bytes = s.mem.bytes ∧ t.mem.sealed = s.mem.sealed ∧ t.mem.slices = [] ∧ t.mem.shape = shape
      ∧ (good → t.pkg.state = 1) ∧ (¬good → t.pkg.state = 5) ∧ t.pkg.featsel = 1 ∧ t.pkg.featact = 1 ∧ t.pkg.hqs = []
      ∧ t.pkg.roots = [] ∧ t.pkg.hostMem = s.pkg.hostMem ∧ t.pkg.log = s.pkg.log ∧ t.pkg.pendingFw = []
      ∧ t.pkg.safe = s.pkg.safe
      ∧ (p < 512 → p / 128 < shape.nd → p / 4 % 32 < shape.ncl (p / 128) →
          (t.pair p).q0 = q.getLsbD 0 ∧ (t.pair p).q1 = q.getLsbD 1 ∧ (t.pair p).aq = q.getLsbD 2
          ∧ (t.pair p).mode = if q.getLsbD 0 ∧ q.getLsbD 1 then 0 else 1))
    ∧ (leads .start s fun t => t.cores = s.cores ∧ t.mem = s.mem ∧ t.pkg =
        if s.pkg.state = 1 ∧ s.pkg.safe.isNone then
          { s.pkg with state := 2, featact := (s.pkg.featsel &&& rec_.featMask &&& featMask) ||| 1, started := true }
        else s.pkg)
    ∧ (leads (.attestationRequest nonce) s fun t =>
        let body := leBytes 32 nonce.toNat ++ rec_.serial ++ s.pkg.digest 0 ++ s.pkg.digest 1 ++ s.pkg.digest 2
          ++ digest (Config.annexedBytes rec_ s.pkg.annexBytes) ++ leBytes 32 s.pkg.featact.toNat
          ++ leBytes 8 rec_.errata.toNat
        t.pkg = { s.pkg with out := s.pkg.out ++ [body ++ Config.attestation body] } ∧ t.mem = s.mem)
    ∧ (leads (.firmwareUpdate x) s fun t => t.mem = s.mem ∧ t.pkg.running = s.pkg.running
        ∧ (sound x → Map.find? t.pkg.pendingFw x.kind = some x ∧ t.pkg.errata = x.errata
          ∧ ∀ e ∈ t.pkg.owc, rec_.sealedCache = false → x.errata ≠ s.pkg.errata →
              e.errata = x.errata ∧ (s.pkg.errata ^^^ x.errata) &&& e.relmask = 0)
        ∧ (¬sound x → t.pkg = s.pkg))
    ∧ (s.pkg.state ≠ 0 → s.pkg.state ≠ 3 → s.pkg.state ≠ 5 → s.gang d k = some g → leads .powerLossWarning s fun t =>
        t.pkg = { s.pkg with state := 3, warned := some s.time } ∧ t.mem = s.mem
        ∧ t.gang d k = some { g with preempt := some (preemptWord k 1 0, s.time) } ∧ (t.core n).ctx = (s.core n).ctx)
    ∧ (s.pkg.state = 3 → s.pkg.safe = some v → s.pkg.warned = none → s.pkg.storage = none →
        s.fab.storePorts = p :: ps → leads .storageTransfer s fun t =>
        t.pkg = { s.pkg with storage := some (s.fab.peer p, (p :: ps).filter fun q => s.fab.peer q == s.fab.peer p)
                             unsent := 0, sent := [] }
        ∧ t.mem = s.mem ∧ t.cores = s.cores)
    ∧ (s.pkg.state = 1 → s.pkg.safe = some v → leads .checkpointRestore s fun t =>
        t = { s with pkg := { s.pkg with state := 4 } })
    ∧ (s.pkg.state = 4 → s.pkg.safe = some v → s.Canonical → v.bytes.wf = true →
        (∀ c ∈ v.bytes, s.mem.shape.inStack c.1 = true) → leads .checkpointRestore s fun t =>
          t.mem.bytes.read a = (if s.mem.shape.inStack a then v.bytes.read a else s.mem.bytes.read a)
          ∧ (t.core n).loc.abuf = (Map.find? v.abufs n).getD (s.core n).loc.abuf ∧ t.dies = v.dies ∧ t.saves = v.saves
          ∧ t.pkg = { s.pkg with hqs := v.hqs, roots := v.roots, safe := none, state := 1 })

/-- R88, R89, R93, R94, R97, R98, R346 to R349, R352: which code objects a loader takes; BLOCK_REQUEST, PARTIAL_WEIGHT_UPDATE, HQTAIL, HOST_ENTRY_TAKE,
JOB_COMPLETION and CXL_MEM_ACCESS within a line. The layout of a record is log 15, the key of an access of the host
log 23. -/
def Obligations.host_and_weights : Prop :=
  ∀ (q k addr n i : Nat) (v : Int) (tl : BitVec 32) (ws : List (Nat × Byte)) (r : Root) (data record : List Byte)
      (asid : BitVec 12) (gen : Word) (blocks : List BlockUpdate) (u : BlockUpdate) (b : Block)
      (codes : List (List Bits256)) (code : List Bits256) (object : CodeObject) (s : State),
    let x := s.pkg.hq q
    let ring := 2 ^ x.log2
    let y := s.pkg.hq r.queue
    let pa := 0x100000000000 + s.pkg.window.1 * 2 ^ 28 + addr
    let within := s.pkg.featact.getLsbD 11 = true ∧ addr + n ≤ s.pkg.window.2 * 2 ^ 28
    let ask (w : Option (List Byte)) : State := s.push srcHost (agentReq (.host n w) pa 0 true false 0)
    let us := blocks.filter fun u => !u.changes.isEmpty
    let installed (cs : List (List Bits256)) : Mem := (cs.zip us).foldl (fun (m : Mem) x => m.install x.1 x.2) s.mem
    (leads (.hqtail q ⟨tl, ws⟩) s fun t => t.mem = s.mem
        ∧ t.pkg.hostMem = ws.foldl (fun (m : Memory) w => Memory.write m w.1 w.2) s.pkg.hostMem ∧ t.pkg.hq q =
        if (tl - x.head).toNat ≤ ring ∧ (x.tail - x.head).toNat ≤ (tl - x.head).toNat then { x with tail := tl }
        else { x with err := true })
    ∧ (s.pkg.state = 2 → x.en = true → x.head ≠ x.tail → s.pkg.open_ < 4096 → leads (.hostEntryTake q) s fun t =>
        let e := BitVec.ofNat 512 (Memory.readLe s.pkg.hostMem (x.base.toNat + 64 * (x.head.toNat % ring)) 64)
        let p := s.pkg.setHq q { x with head := x.head + 1 }
        let root : Root := ⟨s.pkg.nextJob, BitVec.ofNat 64 (recAddr e 2), x.asid, x.die, q, x.head, none⟩
        if recAddr e 2 = 0 then t = ({ s with pkg := p }).discard x.die (recQueue e)
        else t = State.enqueue { s with pkg := { p with roots := p.roots ++ [root], nextJob := s.pkg.nextJob + 1 } } x.die
          (recWith e x.asid (min (recPrio e) x.pmax)) .host ⟨true, x.asid, BitVec.ofNat 6 x.pmax, s.pkg.nextJob⟩ none)
    ∧ ((s.pkg.roots.filter fun o => o.finished.isSome)[k]? = some r → (y.cqtail - y.cqhead).toNat ≠ 2 ^ y.log2 →
        leads (.jobCompletion k) s fun t =>
          let d0 := r.head.toNat + (if r.finished = some true then 2 ^ 32 else 0)
          (t.pkg.hq r.queue).cqtail = y.cqtail + 1 ∧ t.pkg.roots = dropFirst (· == r) s.pkg.roots
          ∧ t.pkg.msix = s.pkg.msix ++ [y.vec] ∧ t.mem = s.mem
          ∧ t.pkg.hostMem = Memory.writeBytes s.pkg.hostMem (y.cqbase.toNat + 16 * (y.cqtail.toNat % 2 ^ y.log2))
              (leBytes 8 d0 ++ leBytes 8 r.addr.toNat))
    ∧ (within → 0 < n → pa % 128 + n ≤ 128 →
        leads (.cxlMemAccess true addr n data) s (fun t => t = ask (some (data.take n)))
        ∧ leads (.cxlMemAccess false addr n data) s (fun t => t = ask none))
    ∧ (¬within → leads (.cxlMemAccess true addr n data) s fun t => t = s)
    ∧ (leads (.blockRequest record) s fun t =>
        t.mem = s.mem ∧ t.cores = s.cores ∧ ∃ reply, t.pkg.owcOut = s.pkg.owcOut ++ [reply]
          ∧ (∀ c, reply = .code c → t.pkg.loaded (digest record) = some c)
          ∧ if s.pkg.featact.getLsbD 1 = false then reply = .feature
          else match Block.ofRecord record with
          | none => reply = .range
          | some b => match s.pkg.loaded (digest record) with
            | some c => reply = .code c
            | none => reply = if b.span * 2048 < (owcCode s.pkg.errata record b).length then .span
                else .code (owcCode s.pkg.errata record b))
    ∧ (u.changes = [(i, v)] → Block.ofRecord u.record = some b → b.fmt = 2 → i < b.rows * b.cols → -128 ≤ v → v ≤ 127 →
        updateRequest u = some (u.record.set (16 + i) (BitVec.ofInt 8 v)))
    ∧ ((s.pkg.requests us).1 = none → leads (.partialWeightUpdate asid ⟨gen, blocks⟩) s fun t => t.mem = s.mem)
    ∧ ((s.pkg.requests us).1 = some codes → s.mem.updates (installed codes) asid gen us = false →
        leads (.partialWeightUpdate asid ⟨gen, blocks⟩) s fun t => t.mem = s.mem)
    ∧ ((s.pkg.requests us).1 = some codes → s.mem.updates (installed codes) asid gen us = true →
        leads (.partialWeightUpdate asid ⟨gen, blocks⟩) s fun t => ∀ u ∈ us, ∀ p ∈ u.pages,
          t.mem.isSealed (p * 65536) = true ∧ p ∈ Map.getD t.pkg.gens (asid.toNat * 4096 + gen.toNat / 2 ^ 52 % 4096) [])
    ∧ (us = [u] → (s.pkg.requests [u]).1 = some [code] → s.mem.updates (installed [code]) asid gen [u] = true →
        leads (.partialWeightUpdate asid ⟨gen, blocks⟩) s fun t =>
        (∀ i p, u.pages[i]? = some p →
          Map.find? t.mem.images p = some (spanBundles (code.drop (i * 2048)) 2048))
        ∧ t.mem.bytes = (u.table.foldl (fun (m : Mem) e => m.store 0 e.1 (leBytes 8 e.2.toNat)) s.mem).bytes)
    ∧ (objectOf data = some object →
        let header := data.take 64
        let table := (data.drop object.table).take (32 * object.sects.length)
        let list := (data.drop object.list).take (32 * object.npage)
        let sig := (data.drop (object.list + 32 * object.npage)).take signatureLen
        let after (a b : Sect) : Prop := a.off + a.size ≤ b.off
        (loadObject data = some object ↔ 64 ≤ object.table ∧ object.table + 32 * object.sects.length ≤ object.list
          ∧ Config.verifies (digest (header ++ table ++ list)) sig = true
          ∧ (∀ a ∈ object.sects, object.list + 32 * object.npage + signatureLen ≤ a.off ∧ a.off + a.size ≤ data.length
            ∧ (∃ e, object.expanded a = some e ∧ e.length ≤ a.bound)
            ∧ ∀ b ∈ object.sects, (a.kind.loaderOnly = true → b.kind.loaderOnly = false → after a b)
              ∧ (a.kind.loaderOnly = false → b.kind.loaderOnly = false → a.rank < b.rank → after a b)))
        ∧ (loadObject data ≠ some object → loadObject data = none))

/-! ### The coolant -/

/-- R286, R359 to R361, R363 to R366, R369 to R371, Tables CLT-2, CLT-5, CLT-9: EPHREQ, MODFLOW_WRITE, SLOT_ADVANCE,
SENSOR_SAMPLE and DRY_CHANNEL_EVACUATION. -/
def Obligations.coolant_steps : Prop :=
  ∀ (n k d z : Nat) (w addr : Word) (g : Gang) (rest : List EphReq) (c : Commit) (zones : List ZoneSample) (inlet : Inlet) (kpa : Nat)
      (v : ZoneSample) (t0 : Nat) (s : State),
    let y := s.core n
    let o := s.cool.zone d z
    let pos := s.pos d z
    let stay := o.throtJ = true ∨ o.throtD = true
    let calm := v.tj ≤ 400 ∧ highestLayer v ≤ 368
    let stands (t : State) (u : ZoneState) : Prop := t.cool.zone d z = { o with state := u, good := 0 } ∧ t.mem = s.mem
    (s.cool.reqs = .commit n addr :: rest → s.commitHeld n addr = false → s.readCommit n addr = none →
        leads (.ephreq 0) s fun t => (t.core n).regs.ephstat = 1 ∧ t.cool = { s.cool with reqs := rest })
    ∧ (s.cool.reqs = .commit n addr :: rest → s.commitHeld n addr = false → s.readCommit n addr = some c →
        leads (.ephreq 0) s fun t =>
        let (st, slot) := s.checkCommit c
        (t.core n).regs.ephstat = BitVec.ofNat 64 (if st = 0 then 0 else slot * 256 + st)
        ∧ t.cool.reqs = rest ∧ t.mem = s.mem
        ∧ (st ≠ 0 → t.cool.eph = s.cool.eph)
        ∧ (st = 0 → ∀ i x, c.words.length ≤ 256 → c.words[i]? = some x → z < 16 →
            posIn (t.cool.entry c.die ((c.first + i) % 256)) z =
              if c.mask.getLsbD z then posIn x z else posIn (s.cool.entry c.die ((c.first + i) % 256)) z)
        ∧ (st = 0 → c.wd = true → k ∈ s.lowered c → s.gang c.die k = some g →
            t.gang c.die k = some { g with preempt := some (preemptWord k 2 0, s.time) }))
    ∧ (s.cool.reqs = .flow w :: rest → leads (.ephreq 0) s fun t => t.mem = s.mem ∧
        let f := w.toNat % 256
        let taken := f ≤ 240 ∧ ∀ k < 256, s.sum k ≤ f
        (taken → t.cool = { s.cool with reqs := rest, modflow := f }) ∧ (¬taken → t.cool = { s.cool with reqs := rest }))
    ∧ (leads (.modflowWrite w) s fun t =>
        if s.expert 10 then t = { s with cool := { s.cool with reqs := s.cool.reqs ++ [.flow w] } }
        else t = { s with pkg := { s.pkg with log := s.pkg.log ++ [(0x418, w)] } })
    ∧ (leads .slotAdvance s fun t => t.mem = s.mem ∧ (t.core n).ctx = y.ctx
        ∧ (s.gated (dieOf n) (s.zoneOf n) = true →
            (∀ f, y.run = .frozen f → (t.core n).run = .stopped (.gated (some f)))
            ∧ (y.run = .run → (t.core n).run = .stopped (.gated none)))
        ∧ (s.gated (dieOf n) (s.zoneOf n) = false →
            (∀ f, y.run = .stopped (.gated (some f)) → (t.core n).run = .frozen f)
            ∧ (y.run = .stopped (.gated none) → (t.core n).run = .run)))
    ∧ (s.time / 1000 < s.cool.sampled → leads (.sensorSample zones inlet kpa) s fun t => t = s)
    ∧ (s.cool.sampled ≤ s.time / 1000 → d < s.mem.shape.nd → z < 16 → zones[d * 16 + z]? = some v →
        leads (.sensorSample zones inlet kpa) s fun t =>
        let x := t.cool.zone d z
        let event (sub : Nat) : BEvent := ⟨14, sub, t.talwWord d z⟩
        x.tj = v.tj ∧ x.td = highestLayer v ∧ x.meas = v.meas
        ∧ (x.throtJ = true ↔ 420 < v.tj ∨ stay ∧ o.throtJ = true ∧ ¬calm)
        ∧ (x.throtD = true ↔ 380 < highestLayer v ∨ stay ∧ o.throtD = true ∧ ¬calm)
        ∧ (∀ l r, l < 8 → v.layers[l]? = some r →
            (x.ref2x.getLsbD l = true ↔ (o.ref2x.getLsbD l = true ∨ 340 < r) ∧ 328 < r)
            ∧ Map.find? t.mem.refresh ((d * 16 + z) * 8 + l) = some (0, x.ref2x.getLsbD l))
        ∧ x.plant = (if 140 < inlet.temp ∨ inlet.flow < 4 * s.sum s.cur then o.plant + 1 else 0)
        ∧ (o.state = .normal → x.press = if kpa < 50 then o.press + 1 else 0)
        ∧ (o.state = .normal → x.low = if 0 < pos ∧ v.meas < 2 * pos then o.low + 1 else 0)
        ∧ (o.state = .normal → (x.state = .dry s.time ↔ 3 ≤ x.low ∨ 3 ≤ x.press ∧ 0 < pos))
        ∧ t.cool.sampled = s.time / 1000 + 1
        ∧ t.mem.bytes = s.mem.bytes ∧ (t.core n).ctx = y.ctx ∧ (t.core n).run = y.run
        ∧ (n ∈ s.residents d z →
            (o.state = .normal → 3 ≤ x.low →
              ⟨15, 1, BitVec.ofNat 64 (z + v.meas % 256 * 256 + pos * 65536)⟩ ∈ (t.core n).pending)
            ∧ (y.regs.thctl.getLsbD 4 = true → o.throtJ = false → x.throtJ = true → event 4 ∈ (t.core n).pending)
            ∧ (y.regs.thctl.getLsbD 5 = true → x.plant = 100 → event 5 ∈ (t.core n).pending)))
    ∧ (o.state = .dry t0 → t0 + 50500 ≤ s.time → leads (.dryChannelEvacuation d z) s fun t =>
        stands t (.gatedDry t0) ∧ (t.core n).ctx = y.ctx
        ∧ (n ∈ s.residents d z → (t.core n).run = .stopped .lost ∧ Report.stopped n ∈ t.reports))
    ∧ (o.state = .gatedDry t0 → 100 ≤ o.good → leads (.dryChannelEvacuation d z) s fun t => stands t .primed)
    ∧ (o.state = .gatedDry t0 → o.good < 100 → t0 + 651000 ≤ s.time → leads (.dryChannelEvacuation d z) s fun t =>
        stands t .failed)

/-! ### Writes of control registers, and the debugger -/

/-- R52, R85, R128, R228, R240, R241, R282, R320, R333, R335, R342, R343, R344, R346, R348, R377, Tables TRP-2, CST-9,
MEM-6, SCH-11: REGISTER_WRITE of every kind, DEBUG_REQUEST, DEBUGGER_RELEASE, PAIRMODE_WRITE, ROUTER_PROGRAM_WRITE,
QUEUE_DESCRIPTOR_WRITE, TAG_BLOCK_RECORD_WRITE, FABCFG_WRITE and DROOP. A protected pair has one set of registers but
for LPART. What a LOG2 out of its range and a window beyond the tier do is log 23. -/
def Obligations.control_writes : Prop :=
  ∀ (n sl j d q k p m blk cycles : Nat) (x w1 w2 : Word) (mode win : BitVec 2) (es : List (BitVec 16)) (f : Freeze)
      (s : State),
    let l := s.leader n
    let y := s.core l
    let u := s.pair p
    let a := s.queue d q
    let puts (r : RegTarget) (z : State → Prop) : Prop :=
      leads (.registerWrite r x) s fun t => t.cores = s.cores ∧ t.mem.bytes = s.mem.bytes ∧ z t
    let runs (i : Instr) (r : RunState) : Prop := leads i s fun t =>
      t.core l = { y with run := r } ∧ t.mem = s.mem ∧ ∀ i, i ≠ l → t.core i = s.core i
    (∀ r ∈ ([(0x000, { y with ctx := { y.ctx with fstat := y.ctx.fstat &&& ~~~x.extractLsb' 0 5 } }),
        (0x001, { y with ctx := { y.ctx with wovf := y.ctx.wovf &&& ~~~x } }),
        (0x101, { y with trap := { y.trap with tbundle := x &&& ~~~31 } }),
        (0x103, { y with trap := { y.trap with tinfo := x } }),
        (0x104, { y with trap := { y.trap with tvec := x &&& ~~~31 } }),
        (0x105, { y with trap := { y.trap with fwdog := x.extractLsb' 0 32 } }),
        (0x111, { y with trap := { y.trap with ttgt := x &&& ~~~31 } }),
        (0x118, { y with trap := { y.trap with tscr0 := x } }),
        (0x3E0, { y with regs := { y.regs with ccway := x } }),
        (0x3E1, { y with regs := { y.regs with part := x.extractLsb' 0 4 } }),
        (0x401, { y with regs := { y.regs with thctl := x &&& 0xFFC0003E } })] : List (BitVec 12 × Core)),
      leads (.registerWrite (.core n r.1) x) s fun t =>
        t.core l = r.2 ∧ t.mem = s.mem ∧ ∀ i, i ≠ l → t.core i = s.core i)
    ∧ (leads (.registerWrite (.core n 0x303) x) s fun t =>
        t.core n = { s.core n with regs := { (s.core n).regs with lpart := x &&& 15 } } ∧ t.mem = s.mem
        ∧ ∀ i, i ≠ n → t.core i = s.core i)
    ∧ (j < 4 → puts (.slpart sl j) fun t => (t.slice sl).slpart[j]? = some x)
    ∧ (puts (.schctl d) fun t => t.die d = { s.die d with schctl := x &&& 0xFF01 })
    ∧ (puts (.featsel 0) fun t => t.pkg.featact = s.pkg.featact ∧ t.pkg.featsel.extractLsb' 64 192 =
          (if s.pkg.started then s.pkg.featsel else s.pkg.featsel &&& featMask).extractLsb' 64 192
        ∧ t.pkg.featsel.extractLsb' 0 64 = if s.pkg.started then s.pkg.featsel.extractLsb' 0 64 else x &&& 0x1FFF)
    ∧ (puts (.hostQueue q 0x20) fun t => t.pkg.hq q = { s.pkg.hq q with cqbase := x &&& ~~~15 })
    ∧ (puts (.fpstat p) fun t => t.fab = s.fab.setStatus p (s.fab.status p &&& ~~~(x &&& 0xFFFFFFFF)))
    ∧ (puts (.route m) fun t =>
          t.fab = { s.fab with routes := Map.put s.fab.routes m (x &&& 0x80000003FFFFFFFF) })
    ∧ (puts .hdm fun t => t.pkg.window =
          let w := (x.toNat % 2 ^ 32, x.toNat / 2 ^ 32)
          if s.mem.shape.tierBytes < (w.1 + w.2) * 2 ^ 28 then s.pkg.window else w)
    ∧ (puts .slotbase fun t => t.pkg.slotbase = if s.expert 12 then x else s.pkg.slotbase)
    ∧ (y.run ≠ .idle → y.run ≠ .stopped .halted → leads (.debugRequest n false) s fun t =>
        t.core l = { y with pending := y.pending ++ [⟨16, 0, 0⟩] } ∧ t.mem = s.mem)
    ∧ (y.run = .run → runs (.debugRequest n true) (.stopped (.debugger none)))
    ∧ (y.run = .frozen f → runs (.debugRequest n true) (.stopped (.debugger (some f))))
    ∧ (y.run = .stopped (.debugger none) → runs (.debuggerRelease n) .run)
    ∧ (y.run = .stopped (.debugger (some f)) → runs (.debuggerRelease n) (.frozen f))
    ∧ ((∀ i ∈ [2 * p, 2 * p + 1], (s.core i).run = .idle ∧ (s.core i).arr.queue = []) → mode ≠ 3 → win ≠ 3 →
        (mode = 2 → u.q0 = false ∧ u.q1 = false) → (mode ≠ 0 → ¬(u.q0 = true ∧ u.q1 = true)) →
        leads (.pairmodeWrite p mode win) s fun t =>
          t.pair p = { u with mode := mode, win := win } ∧ t.mem = s.mem
          ∧ ∀ i ∈ [2 * p, 2 * p + 1], t.core i = { s.core i with arr := Arr.zero, backs := [] })
    ∧ (es ≠ [] → es.length ≤ 4096 → (∀ e ∈ es, ∀ i < 5, e.toNat / 2 ^ (1 + 3 * i) % 8 ≤ 4) →
        (∀ e ∈ (s.die d).gangs, e.2.transit.isSome = true → p ∉ e.2.clusters) →
        leads (.routerProgramWrite d p k es) s fun t =>
          (t.die d).program p k = ⟨es.length, es.map fun e => e &&& 0xFFFE⟩ ∧ t.mem = s.mem ∧ t.cores = s.cores)
    ∧ (leads (.queueDescriptorWrite d q x w1 w2) s fun t =>
        let log2 := w1.toNat % 32
        t.mem = s.mem ∧ t.queue d q =
          if (a.en = true ∧ a.recs ≠ []) ∨ log2 < 6 ∨ 20 < log2 then a
          else { a with
            dw0 := x &&& 0xE000000000000FFF, base := w1 &&& 0x00FFFFFFFFFFFFC0, log2 := BitVec.ofNat 5 log2
            poplim := BitVec.ofNat 24 (w2.toNat % 2 ^ 16 * 256 + w1.toNat / 2 ^ 56)
            drop := a.drop &&& ~~~(w2.extractLsb' 16 16) })
    ∧ ((∀ e ∈ s.conj.tags, d * 2 ^ 20 + blk * 256 ≤ e.1 → e.1 < d * 2 ^ 20 + blk * 256 + 256 →
          e.2.state = .retired ∨ e.2.state = .free) →
        leads (.tagBlockRecordWrite d blk x) s fun t =>
          t.block d blk = (x &&& 0xFFF8000007FFFFFF) ∧ t.conj.tags = s.conj.tags ∧ t.mem = s.mem)
    ∧ ((∀ i < 144, s.fab.width i = 0) → leads (.fabcfgWrite x) s fun t =>
        t.fab = { s.fab with cfg := x &&& 0xC0FF0000FFFFFFFF } ∧ t.mem = s.mem)
    ∧ (p < 144 → s.fab.width p ≠ 0 → leads (.fabcfgWrite x) s fun t =>
        t.fab.cfg.extractLsb' 48 8 = s.fab.cfg.extractLsb' 48 8 ∧ t.fab.cfg.extractLsb' 0 32 = x.extractLsb' 0 32
        ∧ (t.fab.link p).cap = true ∧ t.fab.fpstat = s.fab.fpstat)
    ∧ (leads (.droop d cycles) s fun t =>
        t.die d = { s.die d with dstr := (s.die d).dstr + BitVec.ofNat 64 cycles } ∧ t.mem = s.mem ∧ t.cores = s.cores)

/-! ### The die controllers -/

/-- R319 to R325, R329, Tables SCH-2, SCH-3, SCH-11: ENQUEUE by what the record and its queue say, GRID_RELEASE,
DISPATCH_PLACEMENT of the first record or saved gang, and GANG_LAUNCH: each answers a next state, under conditions on the
state and the operands alone. That a record of PUSHW, JOIN or the host is a grid of one instance, that dependent grids wait
outside the queue, and that a set-aside record asks its victims at once are the model's readings (log 32). -/
def Obligations.records_and_placement : Prop :=
  ∀ (d k g n i qn' : Nat) (r : BitVec 512) (src : EnqSource) (ctx : EnqCtx) (e : QRec) (y : Grid) (G : Gang)
      (ps : List Nat) (s : State),
    let qn := recQueue r
    let asid := if ctx.user then ctx.asid else recAsid r
    let prio := if ctx.user then min (recPrio r) ctx.cprio.toNat else recPrio r
    let q := s.queue d qn
    let fresh := (s.die d).nextGrid
    let many := src = .launch ∨ src = .launchi
    let enqueued (z : State → Prop) : Prop := leads (.enqueue d r src ctx) s fun t =>
      t.cores = s.cores ∧ t.mem.bytes = s.mem.bytes ∧ z t
    let drops (t : State) : Prop :=
      t.queue d qn = { q with drop := BitVec.ofNat 16 (min 65535 (q.drop.toNat + 1)) }
      ∧ t.reports = s.reports ++ [.discarded d qn] ∧ (t.die d).grids = (s.die d).grids
    let lets := q.en = true ∧ q.asid = asid ∧ q.closed = false
    let work := lets ∧ recClose r = false ∧ q.isPop = false ∧ recOk r src = true
    let grid (N : Nat) : Grid := ⟨recWith r asid prio, qn, prio, N, 0, 0, none, none, false, ctx.job⟩
    let gains (t : State) (m : Nat) (b : BitVec 512) (pr : Nat) (o : Option Nat) : Prop :=
      let a := s.queue d m
      if a.full then (t.queue d m).recs = a.recs ∧ (t.queue d m).waiting = a.waiting ++ [⟨b, 0, 0, pr, o, none, false⟩]
      else (t.queue d m).next = (a.next + 1) % 2 ^ 48 ∧ ∃ slot, (slot = none ∨ slot = some a.freeSlot)
        ∧ (t.queue d m).recs = a.recs ++ [⟨b, a.next, s.time, pr, o, slot, false⟩]
    let joins (t : State) (u : Grid) (key : Nat) : Prop :=
      t.grid d key = some { u with waiting := none, released := true }
      ∧ (u.total = 0 → t.queue d u.queue = s.queue d u.queue)
      ∧ (u.total ≠ 0 → gains t u.queue u.record u.prio (some key))
    let best (c : Cand) : Prop := (s.die d).aside = [] ∧ lowest ((s.die d).order s.time) (s.die d).cands = some c
    let fits (b : BitVec 512) : Prop := ∀ p ∈ ps, (s.core (2 * p)).run = .idle ∧ (s.core (2 * p + 1)).run = .idle
      ∧ (s.core (2 * p)).regs.lpart = (recPart b).setWidth 64 ∧ s.gated d (s.zoneOf (2 * p)) = false
      ∧ (s.pair p).mode ≠ 0 ∧ ∀ x ∈ (s.die d).gangs, p ∉ x.2.pairs
    (¬lets → enqueued drops)
    ∧ (lets → recClose r = true → enqueued fun t => t.queue d qn = { q with dw0 := q.dw0 ||| 0x2000000000000000 })
    ∧ (lets → recClose r = false → q.isPop = true → src ≠ .pushw → enqueued drops)
    ∧ (lets → recClose r = false → q.isPop = true → src = .pushw → enqueued fun t =>
        (t.queue d qn).drop = q.drop ∧ gains t qn (recPut r prio) prio none)
    ∧ (lets → recClose r = false → q.isPop = false → recOk r src = false → enqueued drops)
    ∧ (work → ¬many → enqueued fun t => joins t (grid 1) fresh)
    ∧ (work → many → recAddr r 7 = 0 → enqueued fun t => joins t (grid (recField r 6 0 25)) fresh)
    ∧ (∀ lf bs, s.dieLeaf asid (recAddr r 7) = some lf → s.dieRead asid (recAddr r 7) 4 = some bs →
        work → many → recAddr r 7 ≠ 0 →
        (leNat bs = 0 → enqueued fun t => joins t (grid (recField r 6 0 25)) fresh)
        ∧ (leNat bs ≠ 0 → enqueued fun t => t.queue d qn = q ∧ t.grid d fresh = some { grid (recField r 6 0 25) with
            waiting := some (wordKey (leafHome lf) (lf.pa (recAddr r 7))) }))
    ∧ (work → many → recAddr r 7 ≠ 0 → s.dieRead asid (recAddr r 7) 4 = none → enqueued drops)
    ∧ (s.grid d g = some y → y.waiting.isSome = true → y.released = true → y.idx = none →
        leads (.gridRelease d g) s fun t => joins t y g ∧ t.cores = s.cores ∧ t.mem.bytes = s.mem.bytes)
    ∧ (∀ pa key, s.grid d g = some y → y.waiting.isSome = true → y.released = true → y.idx = some (pa, key) →
        pa < 2 ^ 56 → s.runHeld (pa, 4) = false → leads (.gridRelease d g) s fun t =>
          joins t { y with total := min (leNat (s.mem.load key pa 4)) (2 ^ 24) } g ∧ t.cores = s.cores
          ∧ t.mem.bytes = s.mem.bytes)
    ∧ (best (.record qn' e) → e.grid = some g → s.grid d g = some y →
        (s.placement d e.bits [] [] = some ps → leads (.dispatchPlacement d) s fun t =>
          (∃ G, t.gang d (s.die d).nextGang = some G ∧ G.record = y.record ∧ G.inst = y.placed ∧ G.pairs = ps
            ∧ G.cores = coresFor y.record ps ∧ G.launched = false)
          ∧ t.grid d g = some { y with placed := y.placed + 1 }
          ∧ (y.placed + 1 < y.total → t.queue d qn' = s.queue d qn')
          ∧ (y.total ≤ y.placed + 1 → (s.queue d qn').waiting = [] → t.queue d qn' =
              { s.queue d qn' with recs := (s.queue d qn').recs.filter fun x => x.seq != e.seq })
          ∧ t.mem.bytes = s.mem.bytes ∧ fits e.bits ∧ (∀ p ∈ ps, (t.pair p).mode = recMode e.bits)
          ∧ (recRect e.bits = true → ps ∈ s.rects d e.bits)
          ∧ (recRect e.bits = false → ps.length = recField e.bits 3 0 7 + 1))
        ∧ (s.placement d e.bits [] [] = none → leads (.dispatchPlacement d) s fun t =>
          (t.die d).aside = [⟨g, none, s.reservation d e.bits [] []⟩] ∧ t.queue d qn' = s.queue d qn' ∧ t.mem = s.mem
          ∧ (k ∈ s.victims d (.record qn' e) → s.gang d k = some G → G.preempt = none → t.gang d k =
              some { G with preempt := some (preemptWord k 0 (effPrio e.prio e.time s.time), s.time) })))
    ∧ (best (.saved k G) → s.placement d G.record [] [] = some ps → leads (.dispatchPlacement d) s fun t =>
        t.gang d k = some { G with pairs := ps, cores := coresFor G.record ps, slot := slotAt s.time, holds := true }
        ∧ t.mem = s.mem ∧ fits G.record)
    ∧ (s.gang d k = some G → G.launched = false → (∀ p ∈ G.pairs, (s.pair p).mode ≠ 0
          ∧ (recSplit G.record = true → (s.pair p).q0 = false ∧ (s.pair p).q1 = false)
          ∧ ∀ j ∈ [2 * p, 2 * p + 1], (s.core j).run = .idle ∧ (s.core j).arr.queue = []) →
        G.cores.Nodup → G.cores[i]? = some n → leads (.gangLaunch d k) s fun t =>
          let c := t.core n
          let R := G.record
          let gen := (s.mem.genOf (recAsid R)).toNat / 2 ^ 52 % 2 ^ 12
          c.run = .run ∧ c.sup = false ∧ c.inTrap = false ∧ c.ctx.pc = BitVec.ofNat 64 (recField R 0 5 51 * 32)
          ∧ c.entry = c.ctx ∧ c.ctx.seqr = Seqr.zero ∧ c.ctx.pipe = [] ∧ c.arr = Arr.zero ∧ c.held = []
          ∧ (∀ x ∈ ([(1, recDw R 1), (2, recDw R 4), (3, recDw R 5), (4, BitVec.ofNat 64 i),
              (5, BitVec.ofNat 64 G.cores.length), (6, BitVec.ofNat 64 G.inst)] : List (GReg × Word)),
              c.ctx.regs.gCell x.1 = ⟨x.2, true, false⟩)
          ∧ (∀ y, s.grid d G.grid = some y →
              c.ctx.regs.gCell 7 = ⟨BitVec.ofNat 64 y.total, true, false⟩ ∧ c.regs.job = y.job)
          ∧ (∀ x : GReg, 7 < x.toNat → c.ctx.regs.gCell x = GCell.zero) ∧ c.ctx.regs.p = 0
          ∧ c.regs.asid = recAsid R ∧ c.regs.genroot = s.mem.genOf (recAsid R) ∧ c.regs.part = recPart R
          ∧ c.regs.cprio = BitVec.ofNat 6 (recPrio R) ∧ c.regs.gang = gangWord k G.cores.length i ∧ c.regs.thctl = 0
          ∧ c.ctx.thermal = some (s.thermal d) ∧ t.gang d k = some { G with launched := true, gen := gen }
          ∧ (∀ p ∈ G.pairs, (t.pair p).mode = recMode R)
          ∧ Map.getD (t.die d).tasks (taskKey (recAsid R) gen) 0 = Map.getD (s.die d).tasks (taskKey (recAsid R) gen) 0 + 1
          ∧ t.mem = s.mem)

/-- R325, R327, R329 to R331: GANG_COMPLETION, GRID_COMPLETION with its join at a word of this module,
PREEMPTION_REQUEST, PREEMPTION_REPEAT, BARRIER_PHASE_COMPLETE, TRANSIT_PHASE_START and TRANSIT_PHASE_END. -/
def Obligations.gangs_and_barriers : Prop :=
  ∀ (d k b i n : Nat) (kind : BitVec 2) (prio : BitVec 6) (G : Gang) (y : Grid) (lf : Tlb) (e : Cand) (w : Word)
      (t0 c : Nat) (s : State),
    let asked (t : State) (w : Word) : Prop :=
      t.gang d k = some { G with preempt := some (w, s.time) } ∧ t.mem = s.mem ∧ (t.core n).ctx = (s.core n).ctx
      ∧ (G.launched = true → G.cores[i]? = some n → i ∉ G.saved → i ∉ G.done → (s.core n).run ≠ .stopped .halted →
          ⟨19, 0, w⟩ ∈ (t.core n).pending)
    let stand := G.standing.map (·.1)
    (s.gang d k = some G → G.launched = true → G.saved = [] → (∀ n ∈ stand, (s.core n).run = .stopped .halted
          ∧ ∀ a ∈ (s.core n).accs, a.kind.isWrite = true → s.accDone a .module = true) →
        (∀ x ∈ G.left, ∀ a, s.acc x.1 x.2 = some a → a.kind.isWrite = true → s.accDone a .module = true) →
        leads (.gangCompletion d k) s fun t =>
          t.gang d k = none ∧ (n ∈ stand → t.core n = { s.core n with run := .idle }) ∧ t.mem = s.mem
          ∧ (n ∉ stand → t.core n = s.core n)
          ∧ (∀ y, s.grid d G.grid = some y → t.grid d G.grid = some { y with finished := y.finished + 1 })
          ∧ Map.getD (t.die d).tasks (taskKey (recAsid G.record) G.gen) 0
              = Map.getD (s.die d).tasks (taskKey (recAsid G.record) G.gen) 0 - 1)
    ∧ (s.grid d i = some y → y.released = true → y.waiting = none → y.total ≤ y.finished →
        let at_ := recAddr y.record 2
        (at_ = 0 → leads (.gridCompletion d i) s fun t =>
          t.grid d i = none ∧ t.mem = s.mem ∧ t.cores = s.cores ∧ t.pkg = s.pkg)
        ∧ (at_ ≠ 0 → s.dieLeaf (recAsid y.record) at_ = some lf → s.remote (leafHome lf) = false →
            s.mem.checkLeaf .atomic true (recAsid y.record) lf.lo lf.hi (lf.pa at_) = none →
            s.mem.bad (lf.pa at_) 16 = false → s.dieHeld (recAsid y.record) at_ 16 = false →
            s.joinHeld (lf.pa at_) (pteKey lf.hi) (recAsid y.record) = false →
            let lo := BitVec.ofNat 64 (leNat (s.mem.load (pteKey lf.hi) (lf.pa at_) 8))
            let hi := leNat (s.mem.load (pteKey lf.hi) (lf.pa at_ + 8) 8)
            let put (x : Word) : Mem := s.mem.store (pteKey lf.hi) (lf.pa at_) (leBytes 8 x.toNat)
            lo.toNat / 2 ^ 32 % 2 ^ 31 = 0 → hi / 2 ^ 56 % 2 ^ 8 = 0 → hi % 64 = 0 →
            leads (.gridCompletion d i) s fun t => (i ≠ (s.die d).nextGrid → t.grid d i = none) ∧ t.cores = s.cores
              ∧ t.mem.bytes = (put (if lo.toNat % 2 ^ 32 = 0 then lo ||| 0x8000000000000000 else lo - 1)).bytes
              ∧ (lo.toNat % 2 ^ 32 = 1 → hi = 0 → n ≠ i → t.grid d n = (s.grid d n).map fun x =>
                  if x.waiting = some (wordKey s.fab.modnum (lf.pa at_)) then { x with released := true } else x)))
    ∧ (s.gang d k = some G →
        (kind ≠ 0 → leads (.preemptionRequest d k kind prio) s fun t => asked t (preemptWord k kind.toNat 0))
        ∧ (e ∈ (s.die d).cands → (s.die d).isAside e = true → e.level s.time = prio.toNat →
            k ∈ s.victims d e → leads (.preemptionRequest d k 0 prio) s fun t => asked t (preemptWord k 0 prio.toNat))
        ∧ (G.preempt = some (w, t0) → t0 + 4096 ≤ s.time → n ∈ stand → (s.core n).declined = true →
            leads (.preemptionRepeat d k) s fun t =>
              t.gang d k = some { G with preempt := some (w, s.time) } ∧ t.mem = s.mem
              ∧ (t.core n).ctx = (s.core n).ctx ∧ ⟨19, 0, w⟩ ∈ (t.core n).pending)
        ∧ (b < 1020 → G.launched = true → (∀ i < G.cores.length,
            (Map.getD (G.bar b).at_ i 0 - 1 - ((G.bar b).done + 1)).toNat < 2 ^ 15) →
            leads (.barrierPhaseComplete d k b) s fun t =>
              (∃ G', t.gang d k = some G' ∧ (G'.bar b).done = (G.bar b).done + 1 ∧ (G'.bar b).at_ = (G.bar b).at_
                ∧ ∀ u, u ≠ b → G'.bar u = G.bar u)
              ∧ t.mem = s.mem ∧ t.cores = s.cores)
        ∧ (G.transit = none → b < 4 → G.phaseDone (1020 + b) = true → (∀ u < b, G.phaseDone (1020 + u) = false) →
            leads (.transitPhaseStart d k) s fun t =>
              (∃ G', t.gang d k = some G' ∧ G'.transit = some (b, 0)
                ∧ (G'.bar (1020 + b)).done = (G.bar (1020 + b)).done + 1)
              ∧ (n ∈ G.cores → (t.core n).btw.phase = some 0) ∧ (t.core n).ctx = (s.core n).ctx ∧ t.mem = s.mem
              ∧ ∀ x ∈ G.clusters, ∀ o < 8, Map.find? (t.die d).wires (x * 8 + o) = none)
        ∧ (G.transit = some (b, c) → (∀ x ∈ G.clusters, ((s.die d).program x b).xlen ≤ c) →
            leads (.transitPhaseEnd d k) s fun t =>
              t.gang d k = some { G with transit := none } ∧ (n ∈ G.cores → (t.core n).btw.phase = none)
              ∧ (t.core n).ctx = (s.core n).ctx ∧ t.mem = s.mem
              ∧ ∀ x ∈ G.clusters, ∀ o < 8, Map.find? (t.die d).wires (x * 8 + o) = none))

/-! ### The copy engine and the array -/

/-- R181, R184, R202 to R207, R209 to R219, R250 to R252, R255, R256, R313, R316: ENGINE_WRITE_ACCEPT of the next piece, of
a piece whose destination faults, at the end of a copy and of a prefetch; COPY_PIECE_LAND of a part that is read, of one
that lands, by the kind of the place, and of a block that is verified; COPY_FAULT_REPORT; ARRIVAL_INCREMENT;
ARRAY_OPERATION_COMPLETE. -/
def Obligations.engine_and_array : Prop :=
  ∀ (n i j o u st off a : Nat) (ad : Word) (x : Copy) (w : Piece) (op : ArrOp) (rest : List ArrOp) (tl : Tlb)
      (g : Nat → Byte) (s : State),
    let c := s.core n
    let l := c.loc
    let window := (s.slice (stgSlice x.b)).windowBytes
    let stays (t : State) : Prop := (t.core n).ctx = c.ctx ∧ (t.core n).accs = c.accs ∧ (t.core n).run = c.run
    let puts (t : State) (y : Copy) : Prop := (t.core n).engine = c.engine.set i (.copy y)
    let moving := c.copyAt i = some x ∧ x.stop = none ∧ x.op ≠ .pfd ∧ ∀ q, x.op ≠ .pfc q
    let dp := s.placeOf n x .store (x.dst x.acc)
    let dt := Page.tlb dp
    let s0 := x.firstSrc (pageSpan dt (x.dst x.acc)) window
    let sp := s0.bind (s.placeOf n x .load)
    let hi := x.nextEnd s0 (Page.tlb sp) dt window
    let lines := x.lines x.acc hi
    let known (p : Option Page) : Prop := p = none ∨ ∃ t, p = some (.page t)
    let ready := moving ∧ x.acc < x.len ∧ x.unlatched x.acc = false ∧ (hi < x.len → x.unlatched hi = false) ∧ known sp
      ∧ (∀ q ∈ lines, l.takes q = true) ∧ (lines ≠ [] → c.acceptsLater i x hi = false ∧ c.clearsT = false)
    let inside := (∀ sl q, x.dst x.acc = .slice sl q → q < window) ∧ (∀ sl q, s0 = some (.slice sl q) → q < window)
    let moves (m : EngMove) (z : State → Prop) : Prop := c.toMove[j]? = some m → c.copyAt i = some x →
      leads (.copyPieceLand n j) s fun t => stays t ∧ z t
    let fresh := x.has o = false ∧ (∀ p ∈ x.asked, p.1 ≠ o) ∧ u = x.readEnd w o
    let part := c.feedRoom i x o ≠ 0 ∧ u = min (x.unitEnd w o) (o + c.feedRoom i x o) ∧ x.isDone o = false
      ∧ (∀ p ∈ x.sent, p.1 ≠ o) ∧ x.mayWrite w = true ∧ c.mustWait i x o u = false ∧ c.awaitsClear x w o = false
      ∧ x.op.isXfm = false
    let bs := x.bytes o (u - o)
    let block := 4096 * x.blockAt
    let word := BitVec.ofNat 32 (leNat (x.bytes (crcKey + 4 * x.blockAt) 4))
    let va := cpAddr x.a + x.acc
    let page := s.codePa tl (tl.pa va) / 65536
    let steps := c.arr.stepsReady op
    let ti := op.t.toNat
    let sound := c.arr.residue = false ∧ ∀ e ∈ c.arr.ecc, e.1 ≠ ti
    (ready → known dp → inside → leads (.engineWriteAccept n i) s fun t => stays t ∧ t.mem = s.mem
        ∧ puts t { x with acc := hi, writes := x.writes ++ [⟨x.acc, hi, Page.tlb sp, dt⟩] }
        ∧ (t.core n).loc.tspad = l.tspad ∧ (t.core n).loc.abuf = l.abuf
        ∧ ∀ q, ((t.core n).loc.line q).count = (l.line q).count + if q ∈ lines then 1 else 0)
    ∧ (ready → dp = some (.fault st) → (∀ v ∈ x.writes, v.lo < x.acc) → leads (.engineWriteAccept n i) s fun t =>
        stays t ∧ t.mem = s.mem
        ∧ puts t { x with aux := [], stop := some (st, x.acc, placeWord x (x.dst x.acc) x.acc) }
        ∧ ∀ q, ((t.core n).loc.line q).failed = ((l.line q).failed || decide (q ∈ lines)))
    ∧ (moving → x.len ≤ x.acc → x.whole = true → x.writes = [] → leads (.engineWriteAccept n i) s fun t =>
        stays t ∧ t.mem = s.mem ∧ (t.core n).engine = c.engine.eraseIdx i ∧ (t.core n).incs = c.incs ++
          if (x.chk = true ∧ 0 < x.len) ∨ x.inc = 0 then [] else [(x.aw, x.inc.toNat)])
    ∧ (c.copyAt i = some x → (x.op = .pfd ∨ ∃ q, x.op = .pfc q) → ctlLen x.c ≤ x.acc →
        leads (.engineWriteAccept n i) s fun t =>
          stays t ∧ t.mem = s.mem ∧ (t.core n).engine = c.engine.eraseIdx i ∧ (t.core n).incs = c.incs)
    ∧ (c.copyAt i = some x → x.op = .pfd → x.acc < ctlLen x.c → s.resolve n x.id x.asid x.gen .load va = .page tl →
        s.remote (leafHome tl) = false → inControl (tl.pa va) = false → leads (.engineWriteAccept n i) s fun t =>
          stays t ∧ puts t { x with acc := va / 128 * 128 + 128 - cpAddr x.a }
          ∧ t.mem = s.mem.push (agentEngine n) (tl.req .touch (tl.pa va) c.regs.part))
    ∧ (∀ cls, c.copyAt i = some x → x.op = .pfc cls → x.acc < ctlLen x.c →
        s.resolve n x.id x.asid x.gen .fetch va = .page tl → leads (.engineWriteAccept n i) s fun t =>
          stays t ∧ t.mem = (s.stagePage (dieOf n) page cls true).mem
          ∧ ((∀ y ∈ t.mem.staged, y.die = dieOf n → y.page = page → y.good = true) →
              puts t { x with acc := va / 65536 * 65536 + 65536 - cpAddr x.a }))
    ∧ (fresh → ∀ v q, x.srcAt o = some (.bank v q) →
        (∀ k, o ≤ k → k < u → ∃ p, x.srcAt k = some p ∧ s.nearByte n i x p = .ok (g k)) →
        moves (.read i w o) fun t => t.mem = s.mem ∧ ∃ y, (t.core n).copyAt i = some y ∧ y.acc = x.acc
          ∧ y.writes = x.writes ∧ ∀ k, o ≤ k → k < u → Map.find? y.got k = some (g k))
    ∧ (fresh → ∀ q, x.srcAt o = some (.va q) → w.src = some tl → s.remote (leafHome tl) = false →
        c.markServed x = true → moves (.read i w o) fun t =>
          puts t { x with asked := x.asked ++ [(o, u)] }
          ∧ t.mem = s.mem.push (agentEngine n) (tl.req (.engRead n x.id o (u - o)) (tl.pa q) c.regs.part))
    ∧ (part → ∀ q, x.dst o = .va q → w.dst = some tl → s.remote (leafHome tl) = false → c.markServed x = true →
        moves (.land i w o) fun t =>
          puts t { x with sent := x.sent ++ [(o, u)] }
          ∧ ((∀ r, x.op ≠ .sred r) → t.mem = s.mem.push (agentEngine n)
              (tl.req (.engWrite n x.id o bs (x.wholeLine w q)) (tl.pa q) c.regs.part))
          ∧ (∀ r, x.op = .sred r → t.mem = s.mem.push (agentEngine n)
              (tl.req (.engSred n x.id o r (BitVec.ofNat 64 (leNat bs))) (tl.pa q) c.regs.part)))
    ∧ (part → ∀ v q, x.dst o = .bank v q → moves (.land i w o) fun t =>
        let l' := l.put ((upFrom o (u - o)).map x.dst) bs
        (t.core n).loc.tspad = l'.tspad ∧ (t.core n).loc.abuf = l'.abuf ∧ t.mem = s.mem)
    ∧ (part → ∀ f, x.dst o = .fifo f → moves (.land i w o) fun t =>
        (t.core n).arr = c.arr.feed f bs (if x.own then none else some x.seg) ∧ t.mem = s.mem)
    ∧ (part → ∀ sl q, x.dst o = .slice sl q → moves (.land i w o) fun t =>
        (t.slice sl).window = Memory.writeBytes (s.slice sl).window q bs ∧ t.mem.bytes = s.mem.bytes)
    ∧ (x.blockReady = true → x.hasAll (crcKey + 4 * x.blockAt) (crcKey + 4 * x.blockAt + 4) = true →
        (crc32c (x.bytes block 4096) = word → moves (.verify i) fun t => t.mem = s.mem
          ∧ (t.core n).incs = c.incs ++ (if x.inc = 0 then [] else [(x.aw, x.inc.toNat)])
          ∧ ∃ y, (t.core n).copyAt i = some y ∧ y.stop = x.stop ∧ y.acc = x.acc
            ∧ y.writes = x.writes.filter fun v => v.lo / 4096 != x.blockAt)
        ∧ (crc32c (x.bytes block 4096) ≠ word → x.tries < 2 → moves (.verify i) fun t => t.mem = s.mem
          ∧ (t.core n).incs = c.incs ∧ ∃ y, (t.core n).copyAt i = some y ∧ y.tries = x.tries + 1
            ∧ y.writes = x.writes ∧ ∀ k, block ≤ k → k < block + 4096 → Map.find? y.got k = none)
        ∧ (crc32c (x.bytes block 4096) ≠ word → 2 ≤ x.tries → x.stop = none → moves (.verify i) fun t => t.mem = s.mem
          ∧ (t.core n).incs = c.incs ∧ ∃ y, (t.core n).copyAt i = some y ∧ y.stop = some (4, block, x.addrOf block)))
    ∧ (c.copyAt i = some x → x.stop = some (st, off, ad) → x.writes = [] →
        (∀ k < i, ∀ y, c.copyAt k = some y → y.stop = none ∨ y.writes ≠ []) → s.homeOf x.ctx = some a →
        leads (.copyFaultReport n) s fun t =>
          let r := (s.core a).trap
          let r' := (t.core a).trap
          (t.core n).engine = c.engine.eraseIdx i ∧ t.mem = s.mem ∧ (t.core a).ctx = (s.core a).ctx
          ∧ (r.cfr0.getLsbD 63 = true → r' = { r with cfr0 := r.cfr0 ||| 0x4000000000000000 }
              ∧ (t.core a).pending = (s.core a).pending)
          ∧ (r.cfr0.getLsbD 63 = false → r' = { r with
                cfr0 := (r.cfr0 &&& 0x4000000000000000) ||| 0x8000000000000000
                  ||| BitVec.ofNat 64 (st * 2 ^ 40 + x.op.code * 2 ^ 35 + x.slot * 2 ^ 32)
                cfr1 := BitVec.ofNat 64 (off % 2 ^ 48), cfr2 := x.bundle &&& ~~~31, cfr3 := ad }
              ∧ (t.core a).pending = (s.core a).pending ++ [⟨if st ∈ [1, 2, 3, 8] then 7 else 10, st, BitVec.ofNat 64 st⟩]))
    ∧ (c.incs[i]? = some (a, j) → leads (.arrivalIncrement n i) s fun t =>
        let v := (l.word a).toNat
        let N := v % 2 ^ 24 + j
        let target := v / 2 ^ 24 % 2 ^ 24
        let y := if j = 0 then v else if target = 0 then v / 2 ^ 48 * 2 ^ 48 + N % 2 ^ 24
          else (v / 2 ^ 48 + N / target) % 2 ^ 16 * 2 ^ 48 + target * 2 ^ 24 + N % target
        stays t ∧ t.mem = s.mem ∧ (t.core n).incs = c.incs.eraseIdx i
        ∧ (t.core n).loc = { l with tspad := Memory.writeLe l.tspad (a % 262144) 8 y })
    ∧ (c.arr.queue = op :: rest → steps ≠ 0 → sound → leads (.arrayOperationComplete n) s fun t =>
          let y := (t.core n).arr
          let ga := (c.arr.fa.data.take op.kind.unit.1).map (·.1)
          let gb := (c.arr.fb.data.take op.kind.unit.2).map (·.1)
          stays t ∧ t.mem = s.mem
          ∧ y.queue = (if steps = op.groups then rest else { op with groups := op.groups - steps } :: rest)
          ∧ y.fa.data = c.arr.fa.data.drop (steps * op.kind.unit.1)
          ∧ y.fb.data = c.arr.fb.data.drop (steps * op.kind.unit.2)
          ∧ (∀ k, k ≠ ti → y.tile k = c.arr.tile k)
          ∧ (∀ f, op.kind = .skip f → y.tiles = c.arr.tiles ∧ y.asig = c.arr.asig)
          ∧ ((∀ f, op.kind ≠ .skip f) → y.asig =
              if steps = op.groups then asigFold c.arr.asig ti (y.tile ti) else c.arr.asig)
          ∧ (∀ sp fa fb, op.kind = .mma sp fa fb → steps = 1 → (y.tile ti).kind = .fp32 ∧ ∀ m < 64, ∀ k < 64,
              (y.tile ti).elem m k = mmaElem sp fa fb ga gb m k ((c.arr.tile ti).elem m k))
          ∧ (op.kind = .mmai → steps = 1 → (y.tile ti).kind = .int32 ∧ ∀ m < 64, ∀ k < 64,
              (y.tile ti).elem m k = BitVec.ofInt 32 (((c.arr.tile ti).elem m k).toInt
                + ((List.range 32).map fun q => (ga.getD (32 * m + q) 0).toInt * (gb.getD (32 * k + q) 0).toInt).sum)))
    ∧ (c.arr.queue = op :: rest → steps ≠ 0 → op.names ti = true → ¬sound → s.protected_ n = false →
        leads (.arrayOperationComplete n) s fun t =>
          stays t ∧ t.mem = s.mem ∧ ((t.core n).arr.tile ti).poison = BitVec.allOnes 64
          ∧ (t.core n).arr.residue = false ∧ ∀ e ∈ (t.core n).arr.ecc, e.1 ≠ ti)

/-! ### The conjunction units -/

/-- R57, R262, R266 to R269, R272 to R274, R276, Table CJN-5: OPERAND_ARRIVAL of a send and of a forwarded result by
what its tag says, RESULT_DELIVERY, RESULT_FORWARD, OPERAND_RETRY, SEND_REFUSAL, ORPHAN_TIMEOUT and
TAG_RETIREMENT_END. -/
def Obligations.conjunction_steps : Prop :=
  ∀ (n k i a : Nat) (tg : BitVec 32) (x : Send) (r : TagRec) (y : Result) (o : Operand) (row row0 : Row) (sp b : Bool)
      (st : Nat) (u : State) (s : State),
    let c := s.core n
    let p := x.pos.toNat
    let base := s.arrivals[k]? = some (.inl (n, i)) ∧ c.sendAt i = some x ∧ s.sendFirst n i x = true
      ∧ c.sendRow i x = .ok row ∧ s.tagRemote x.tag = false ∧ s.tag x.tag = some r
    let lives := r.state ≠ .free ∧ blockEn (s.tagBlock x.tag) = true
    let scope := s.mem.shape.inScope x.tag (some (sliceOf n)) = true ∧ (tagScope x.tag = 3 → s.active [8] = true)
    let stays (t : State) : Prop := (t.core n).ctx = c.ctx ∧ (t.core n).loc = c.loc ∧ t.mem.bytes = s.mem.bytes
    let refused (q : Prop) (st : Nat) : Prop := base → q → leads (.operandArrival k) s fun t =>
      stays t ∧ t.conj = s.conj
      ∧ (t.core n).engine = c.engine.set i (.send { x with row := some row, sent := false, stop := some st })
    let met (q : Prop) (r' : TagRec) (rs : List Result) : Prop :=
      base → lives → scope → p < r.arity → fmtFits r.op x.fmt = true → q → leads (.operandArrival k) s fun t =>
        stays t ∧ t.tag x.tag = some r' ∧ t.conj.results = s.conj.results ++ rs
        ∧ (t.core n).engine = c.engine.eraseIdx i
    let up := r.state ≠ .broken ∧ r.state ≠ .retired
    let mine := c.sendAt i = some x
    let told (t : State) (code sub : Nat) (w : Word) : Prop := (t.core a).pending = (s.core a).pending ++ [⟨code, sub, w⟩]
    let delay (m : Nat) : Nat := min (16 * 2 ^ (m - 1)) 1024
    let broken (s t : State) (q : BitVec 32) (st : Nat) : Prop :=
      t.tag q = some { r with state := .broken, held := [] }
      ∧ t.conj.told = s.conj.told ++ [(s.mem.nextReq, t.mem.nextReq, r.owner,
          ⟨12, st, BitVec.ofNat 64 (q.toNat + r.pres.toNat * 2 ^ 32 + r.round.toNat * 2 ^ 48)⟩)]
    refused (¬lives) 5
    ∧ refused (lives ∧ ¬scope) 2
    ∧ refused (lives ∧ scope ∧ r.arity ≤ p) 3
    ∧ refused (lives ∧ scope ∧ p < r.arity ∧ fmtFits r.op x.fmt = false) 4
    ∧ met (r.state = .broken ∨ r.state = .retired) { r with disc := min 255 (r.disc + 1) } []
    ∧ met (up ∧ 2 ≤ r.arity ∧ r.held = [] ∧ r.pres.getLsbD p = false ∧ s.freeEntry (s.tagUnit x.tag) = some sp)
        { r with
          pres := r.pres ||| (1#16 <<< p), state := .opened, held := [⟨p, p + 1, row, false, sp⟩]
          since := if r.pres = 0 then s.time else r.since } []
    ∧ (up → 2 ≤ r.arity → r.held = [] → r.pres.getLsbD p = false → s.freeEntry (s.tagUnit x.tag) = none →
        base → lives → scope → p < r.arity → fmtFits r.op x.fmt = true → leads (.operandArrival k) s fun t =>
          stays t ∧ t.conj = s.conj ∧ (t.core n).engine = c.engine.set i (.send
            (if 16 ≤ x.refused + 1 then
              { x with row := some row, sent := false, refused := x.refused + 1, stop := some 1 }
            else { x with
              row := some row, sent := false, refused := x.refused + 1, waiting := true
              due := s.time + delay (x.refused + 1) })))
    ∧ (∃ out : Row, (∀ j < 512, lane out j = combine32 r.op (lane row0 j) (lane row j))
        ∧ met (up ∧ r.arity = 2 ∧ p = 1 ∧ r.pres = 1 ∧ r.next = 0 ∧ r.held = [⟨0, 1, row0, false, b⟩])
            { r with round := r.round + 1, pres := 0, held := [], state := .idle, since := s.time } [⟨x.tag, out, r⟩])
    ∧ met (up ∧ r.pres.getLsbD p = true ∧ r.next.getLsbD p = false ∧ s.freeEntry (s.tagUnit x.tag) = some sp)
        { r with next := r.next ||| (1#16 <<< p), held := ⟨p, p + 1, row, true, sp⟩ :: r.held } []
    ∧ (up → r.pres.getLsbD p = true → r.next.getLsbD p = true → r.orph = 0 →
        base → lives → scope → p < r.arity → fmtFits r.op x.fmt = true → leads (.operandArrival k) s fun t =>
          stays t ∧ broken s t x.tag 2 ∧ (t.core n).engine = c.engine.eraseIdx i)
    ∧ (s.arrivals[k]? = some (.inr i) → s.conj.flying[i]? = some o → o.src = .tag tg → o.due ≤ s.time →
        let m := s.meet o.tag o.pos o.fmt o.row (some (s.tagUnit tg))
        (m = (u, .placed) → leads (.operandArrival k) s fun t =>
          t.conj = { u.conj with flying := u.conj.flying.eraseIdx i } ∧ t.mem = u.mem ∧ t.cores = u.cores)
        ∧ (m = (u, .full) → o.refused + 1 < 16 → leads (.operandArrival k) s fun t =>
          let o' : Operand := { o with refused := o.refused + 1, due := u.time + delay (o.refused + 1) }
          t.conj = { u.conj with flying := u.conj.flying.set i o' })
        ∧ (m = (u, .refused st) → u.tag tg = some r → up → r.state ≠ .free → r.orph = 0 →
            leads (.operandArrival k) s fun t =>
              broken u t tg 3 ∧ t.conj.flying = u.conj.flying.eraseIdx i))
    ∧ (s.resultOf tg = some y → y.tr.forward = false → (s.core y.tr.dcore).clearsT = false →
        (∀ j < 16, (s.core y.tr.dcore).loc.takes ((y.tr.dest + 128 * j) % 262144 / 128) = true) →
        leads (.resultDelivery tg) s fun t =>
          let d := s.core y.tr.dcore
          let d' := t.core y.tr.dcore
          let places := (upFrom y.tr.dest 2048).map fun q => Loc.bank .tsLinear (q % 262144)
          d'.loc.tspad = (d.loc.put places (leBytes 2048 y.row.toNat)).tspad ∧ d'.ctx = d.ctx ∧ t.mem = s.mem
          ∧ d'.incs = d.incs ++ (if y.tr.inc = 0 then [] else [(y.tr.aw, y.tr.inc.toNat)])
          ∧ (∀ j < 16, (d'.loc.line ((y.tr.dest + 128 * j) % 262144 / 128)).failed = false)
          ∧ t.conj = { s.conj with results := dropFirst (fun q => q.tag == tg) s.conj.results })
    ∧ (s.resultOf tg = some y → y.tr.forward = true → (∀ q ∈ s.conj.flying, q.src ≠ .tag tg) →
        leads (.resultForward tg) s fun t => t.cores = s.cores ∧ t.mem = s.mem ∧ t.conj = { s.conj with
          results := dropFirst (fun q => q.tag == tg) s.conj.results
          flying := s.conj.flying ++ [⟨.tag tg, y.tr.ftag, y.tr.fpos,
            some (if y.tr.op = .addI32 ∨ y.tr.op = .or then .int32 else .fp32), y.row, 0, 0⟩] })
    ∧ (mine → x.waiting = true → x.due ≤ s.time → ((List.range c.engine.length).filter fun j =>
          match c.sendAt j with | some x => x.waiting && decide (x.due ≤ s.time) | none => false)[k]? = some i →
        leads (.operandRetry n k) s fun t => stays t ∧ t.conj = s.conj
          ∧ (t.core n).engine = c.engine.eraseIdx i ++ [.send { x with waiting := false }])
    ∧ (mine → x.stop = some st → (∀ j < i, ∀ z, c.sendAt j = some z → z.stop = none) → s.homeOf x.ctx = some a →
        leads (.sendRefusal n) s fun t => stays t ∧ (t.core n).engine = c.engine.eraseIdx i
          ∧ told t 13 st (BitVec.ofNat 64 (x.tag.toNat + p * 2 ^ 32 + x.src.isSome.toNat * 2 ^ 36)))
    ∧ (s.tag tg = some r → r.state = .opened → r.since + blockOlim (s.tagBlock tg) ≤ s.time →
        (r.orph = 0 → leads (.orphanTimeout tg) s fun t => broken s t tg 1 ∧ t.mem = s.mem)
        ∧ (leads (.orphanTimeout tg) s fun t =>
          t.tag tg = some { r with state := .broken, held := [] } ∧ t.mem = (s.orphanArea tg r 1).1.mem))
    ∧ (s.tag tg = some r → r.state = .retired → r.since + blockOlim (s.tagBlock tg) ≤ s.time →
        leads (.tagRetirementEnd tg) s fun t => t.tag tg = none ∧ t.mem = s.mem ∧ t.cores = s.cores
          ∧ ∀ q, tagKey q ≠ tagKey tg → t.tag q = s.tag q)

/-! ### The fabric -/

/-- R373 to R377, R379, Tables FAB-1 to FAB-3: FLIT_RECEIVE of a flit that fails, of one out of sequence and of one that
brings a message; RETRY_REQUEST, PORT_DOWN, LANE_RETRAIN, LINK_UP and CAPABILITY. How the parity code's symbols lie, and
that a retraining ends by LINK_UP, are log 26. -/
def Obligations.ports : Prop :=
  ∀ (p key fixed vc : Nat) (bs out ub : List Byte) (ack : BitVec 16) (lanes : BitVec 2) (m flags : Byte) (s : State),
    let f := s.fab
    let l := f.link p
    let x := flitOf out
    let low (t : State) : Prop := t.fab.status p &&& 0x3FFFFFFFFFFFFFFF = f.status p &&& 0x3FFFFFFFFFFFFFFF
    let local_ (t : State) : Prop := t.cores = s.cores ∧ t.mem = s.mem
    let kept := l.retry.filter fun e => decide ((e.1 - ack).toNat < 2 ^ 15)
    let downed (t : State) : Prop := local_ t ∧ t.fab.width p = 0
      ∧ t.fab.link p = { Link.reset with wire := l.wire }
      ∧ t.fab.arrived = f.arrived ++ l.carry.map (fun m => { m with hops := m.hops - 1 })
      ∧ (Map.getD t.fab.out key Chan.reset).unacked.map (·.1) = (Map.getD f.out key Chan.reset).unacked.map (·.1)
      ∧ (p ≠ noPort → ∀ u ∈ (Map.getD t.fab.out key Chan.reset).unacked, u.2.1 ≠ p)
    let open_ := f.width p ≠ 0 ∧ l.training = false
    (open_ → flitCheck bs = none → leads (.flitReceive p bs) s fun t =>
      local_ t ∧ t.fab = f.setLink p { l with nak := true })
    ∧ (open_ → flitCheck bs = some (out, 0) → (x.kind = 0 ∨ x.kind = 1 ∨ x.kind = 3) → x.seq ≠ l.expect →
        leads (.flitReceive p bs) s fun t => local_ t ∧ t.fab = f.setLink p { l with nak := true })
    ∧ (open_ → flitCheck bs = some (out, fixed) → x.kind = 1 → x.seq = l.expect →
        leads (.flitReceive p bs) s fun t =>
          local_ t ∧ (t.fab.link p).expect = l.expect + 1 ∧ (t.fab.link p).ackDue = true
          ∧ (t.fab.link p).nak = l.nak ∧ t.fab.status p = (if fixed = 0 then f.status p else countUp (f.status p) 0)
          ∧ (t.fab.link p).retry = l.retry.filter (fun e => decide ((e.1 - x.ack).toNat < 2 ^ 15))
          ∧ (x.slots = [some (vc, ub), none, none] → Map.find? l.rx vc = none → ub.length = 64 →
              leNat (ub.take 8) / 2 ^ 27 % 2 ^ 6 = 0 → t.fab.arrived = f.arrived ++ [msgOf ub]
                ∧ Map.getD (t.fab.link p).owed vc 0 = Map.getD l.owed vc 0 + 1))
    ∧ (open_ → flitCheck bs = some (out, 0) → x.kind = 2 →
        leads (.flitReceive p bs) s fun t => exec (.retryRequest p x.ack) s = .next t)
    ∧ (f.width p ≠ 0 → l.retries < 15 → leads (.retryRequest p ack) s fun t =>
        local_ t ∧ (t.fab.link p).retry = kept ∧ (t.fab.link p).resend = kept.map (·.2)
        ∧ t.fab.status p = countUp (f.status p) 16 ∧ (t.fab.link p).expect = l.expect
        ∧ (t.fab.link p).retries = (if kept.length = l.retry.length then l.retries else 0) + (if kept = [] then 0 else 1))
    ∧ (f.width p ≠ 0 → 15 ≤ l.retries → l.retry ≠ [] → kept = l.retry → leads (.retryRequest p ack) s downed)
    ∧ (leads (.portDown p) s downed)
    ∧ (f.width p = 2 → leads (.laneRetrain p) s fun t => local_ t ∧ t.fab = f.setLink p { l with training := true })
    ∧ (f.width p = 1 → leads (.laneRetrain p) s downed)
    ∧ (f.en = true → s.pkg.record.portMap.getLsbD p = true → lanes = 1 ∨ lanes = 2 → l.training = true →
        leads (.linkUp p lanes) s fun t =>
        local_ t ∧ t.fab.width p = 1 ∧ low t ∧ t.fab.link p = { l with training := false, cap := true })
    ∧ (s.pkg.record.portMap.getLsbD p = false → leads (.linkUp p lanes) s fun t => t = s)
    ∧ (f.en = true → s.pkg.record.portMap.getLsbD p = true → lanes = 1 ∨ lanes = 2 → l.training = false →
        f.width p = 0 → leads (.linkUp p lanes) s fun t =>
        let l' := t.fab.link p
        local_ t ∧ t.fab.width p = lanes.toNat ∧ low t ∧ l'.cap = true ∧ l'.next = 0 ∧ l'.expect = 0 ∧ l'.retry = []
        ∧ l'.used = [] ∧ (Map.getD t.fab.out key Chan.reset).unacked.map (·.1)
          = (Map.getD f.out key Chan.reset).unacked.map (·.1))
    ∧ (f.width p ≠ 0 → leads (.capability p m flags) s fun t =>
        let y := t.fab.status p
        local_ t ∧ t.fab.width p = f.width p ∧ y.extractLsb' 0 32 = (f.status p).extractLsb' 0 32
        ∧ y.extractLsb' 48 8 = m ∧ y.getLsbD 61 = flags.getLsbD 0 ∧ y.getLsbD 60 = flags.getLsbD 1
        ∧ y.getLsbD 59 = flags.getLsbD 2 ∧ t.fab.links = f.links)

/-- R378 to R381, Tables FAB-4 to FAB-6: MESSAGE_FORWARD, MESSAGE_DELIVERY, ROUTE_TIMEOUT and REMOTE_COMPLETION. What a
request word says, and how replies and acknowledgements name their message, are log 18. -/
def Obligations.messages : Prop :=
  ∀ (n k i key since st : Nat) (m : Msg) (r : Remote) (a : Acc) (x : Copy) (p : Piece) (bs : List Byte) (s : State),
    let f := s.fab
    let c := s.core n
    let local_ (t : State) : Prop := t.cores = s.cores ∧ t.mem = s.mem
    let rest := f.arrived.erase m
    let m' : Msg := { m with hops := m.hops + 1 }
    let routed := (Map.getD f.routes m.dst 0).getLsbD 63 = true ∧ m.hops < 7
    let q := askOf m
    let here := f.arrived[k]? = some m ∧ m.dst = f.modnum ∧ f.livePorts m.src ≠ []
    let ch := Map.getD f.inn (chanKey m.agent m.src m.vc) Chan.reset
    let comes := (f.waiting.filter fun r => r.core == n)[k]? = some r
      ∧ f.replies.find? (fun y => y.1 == r.module_ && y.2.1 == replyKey r.agent r.vc r.cseq) =
        some (r.module_, replyKey r.agent r.vc r.cseq, st, bs)
    let answers (z : State → Prop) : Prop := leads (.remoteCompletion n k) s fun t =>
      r ∉ t.fab.waiting ∧ (t.core n).ctx = c.ctx ∧ t.mem = s.mem
      ∧ (∀ y ∈ t.fab.replies, y ∈ f.replies ∧ y ≠ (r.module_, replyKey r.agent r.vc r.cseq, st, bs)) ∧ z t
    (m.dst ≠ f.modnum → ¬routed → leads (.messageForward m) s fun t =>
      local_ t ∧ t.fab = { f with arrived := rest, log := f.log ++ [m] })
    ∧ (m.dst ≠ f.modnum → routed → f.livePorts m.dst = [] → leads (.messageForward m) s fun t =>
        local_ t ∧ t.fab = { f with arrived := rest ++ [m] })
    ∧ (m.dst ≠ f.modnum → routed → f.livePorts m.dst ≠ [] → (∀ p ∈ f.livePorts m.dst, p ≠ noPort) →
        leads (.messageForward m) s fun t => local_ t ∧ t.fab.arrived = rest ∧ ∃ p ∈ f.livePorts m.dst,
          t.fab.link p = { f.link p with units := (f.link p).units ++ msgUnits m', carry := (f.link p).carry ++ [m'] }
          ∧ ∀ p', p' ≠ p → t.fab.link p' = f.link p')
    ∧ (here → m.cseq = ch.expect → leads (.messageDelivery k) s fun t =>
        let a := agentReq (.ask m) q.addr q.key true (q.kind == 0 && q.op == 1) 0
        let home := s.mem.shape.assigned q.addr
        let room := f.open_ (agentUnit (s.mem.shape.homeSlice q.addr)) m.src 1
        let turn := (Map.getD t.fab.inn (chanKey m.agent m.src m.vc) Chan.reset).expect = (ch.expect + 1) % 2 ^ 24
        (q.kind = 5 → local_ t ∧ t.fab.inn = f.inn ∧ t.fab.arrived = f.arrived.eraseIdx k)
        ∧ (q.kind = 4 → local_ t ∧ turn ∧ t.fab.replies = f.replies ++ [(m.src, q.addr, q.op, q.data)])
        ∧ (q.kind = 3 → local_ t ∧ turn ∧ ∃ o : Operand, t.conj.flying = s.conj.flying ++ [o] ∧ o.due = 0
            ∧ o.tag = BitVec.ofNat 32 q.addr ∧ o.row = BitVec.ofNat 16384 (leNat q.data)
            ∧ o.src = .module_ m.src m.agent m.cseq)
        ∧ (q.kind < 3 → home = false → room = false → t = s)
        ∧ (q.kind < 3 → home = false → room = true → local_ t ∧ turn)
        ∧ (q.kind < 3 → home = true → turn ∧ t.cores = s.cores
            ∧ t.mem = s.mem.push (srcPort ((f.livePorts m.src).headD 0)) a))
    ∧ (here → m.cseq ≠ ch.expect → leads (.messageDelivery k) s fun t =>
        q.kind ≠ 5 → local_ t ∧ t.conj = s.conj ∧ t.fab.replies = f.replies
          ∧ t.fab.arrived = f.arrived.eraseIdx k
          ∧ (2 ^ 23 ≤ (ch.expect + 2 ^ 24 - m.cseq) % 2 ^ 24 →
              m ∈ (Map.getD t.fab.inn (chanKey m.agent m.src m.vc) Chan.reset).early))
    ∧ (f.stranded[k]? = some (key, m, since) → since + f.tmo ≤ s.time → leads (.routeTimeout k) s fun t =>
        t.fab.log = f.log ++ [m] ∧ t.mem = s.mem ∧ (Map.getD t.fab.out key Chan.reset).unacked
          = (Map.getD f.out key Chan.reset).unacked.filter fun u => u.1 != m)
    ∧ (comes → r.copy = false → n < 1024 → s.acc n r.id = some a →
        (∀ d pa w acq sc fw, a.kind = .load d pa w acq sc fw → answers fun t =>
          let v := (List.range w).map fun j => match fw.find? (fun y => y.1 == pa + j) with
            | some y => y.2
            | none => bs.getD j 0
          (t.core n).replies = c.replies ++
            [⟨a.id, d.withValue (BitVec.ofNat 64 (leNat v)) (decide (st ≠ 0)), a.own⟩])
        ∧ (∀ op d pa w b z sc o, a.kind = .atomic op d pa w b z sc o → answers fun t =>
          (t.core n).replies = c.replies ++ [⟨a.id, .g d (BitVec.ofNat 64 (leNat bs)) (decide (st ≠ 0)), a.own⟩]
          ∧ (t.core n).pending = c.pending ++ if st = 2 then [⟨7, 2, BitVec.ofNat 64 a.pa⟩] else [])
        ∧ (∀ pa, a.kind = .brtEntry pa [] → answers fun t =>
          (t.core n).accs = c.accs.filter (fun y => y.id != a.id)
          ∧ (t.core n).btw.brt = some (BitVec.ofNat 64 (leNat ((List.range 8).map fun j => bs.getD j 0)), decide (st ≠ 0)))
        ∧ (∀ pa w rel sc, a.kind = .store pa w rel sc → answers fun t =>
          (t.core n).accs = c.accs.filter (fun y => y.id != a.id)
          ∧ (t.core n).pending = c.pending ++ if st = 2 then [⟨7, 2, BitVec.ofNat 64 a.pa⟩] else []))
    ∧ (comes → r.copy = true → c.itemAt r.id = some (i, .copy x) → x.pieceOf r.lo = some p →
        (st ≠ 0 → r.write = true → x.stop = none → answers fun t => ∃ y ad, (t.core n).copyAt i = some y
          ∧ y.stop = some (if st = 2 then 2 else 7, p.lo, ad))
        ∧ (st ≠ 0 → r.write = false → x.stop = none → r.lo < idxKey → (∃ u, (r.lo, u) ∈ x.asked) →
            answers fun t => ∃ y ad, (t.core n).copyAt i = some y ∧ y.stop = some (if st = 2 then 2 else 7, p.lo, ad))
        ∧ (st = 0 → r.write = false → (∃ u, (r.lo, u) ∈ x.asked) → answers fun t => ∃ y, (t.core n).copyAt i = some y
            ∧ (∀ j < bs.length, Map.find? y.got (r.lo + j) = bs[j]?) ∧ (∀ e ∈ y.asked, e.1 ≠ r.lo)
            ∧ (t.core n).loc = c.loc ∧ (t.core n).accs = c.accs)
        ∧ (st = 0 → r.write = true → answers fun t => ∃ y, (t.core n).copyAt i = some y
            ∧ (∀ e ∈ y.sent, e.1 ≠ r.lo) ∧ (t.core n).loc.tspad = c.loc.tspad ∧ (t.core n).loc.abuf = c.loc.abuf
            ∧ (t.core n).accs = c.accs))

/-! ### Reset, the constants, decoding, a step, the invariants -/

/-- R172, R173, Tables CST-2, NUM-6, TRP-2 to TRP-4, PAR-1, CLT-4, SCH-11, PKG-2, CJN-1 and FAB-3: the module right after
reset. That the program counter is 0 and that the privilege is the supervisor's until a launch are the model's choice
(logs 3 and 4). -/
def Obligations.reset_values : Prop :=
  let s := State.reset
  (∀ n : Nat,
    let c := s.core n
    let r := c.ctx.regs
    c.run = .idle ∧ c.sup = true ∧ c.ctx.pc = 0
    ∧ (∀ d : GReg, r.gCell d = ⟨0, true, false⟩) ∧ (∀ d : VReg, r.vCell d = ⟨0, .raw, true, false⟩)
    ∧ (∀ d : PReg, r.pv d = decide (d = 0)) ∧ (∀ d : MReg, r.mv d = if d = 0 then BitVec.allOnes 512 else 0)
    ∧ r.lf = 0 ∧ c.ctx.seqr.pend = 0 ∧ c.ctx.seqr.loop = false ∧ c.ctx.rdv = 0 ∧ c.ctx.fstat = 0 ∧ c.ctx.wovf = 0
    ∧ c.ctx.cycle = 0 ∧ c.ctx.s0 = 0x243F6A8885A308D3 ^^^ BitVec.ofNat 64 n ∧ c.ctx.s1 = 0x13198A2E03707344
    ∧ c.ctx.pipe = [] ∧ c.regs.part = 0 ∧ c.regs.ccway = BitVec.allOnes 64 ∧ c.fetch = Fetch.zero
    ∧ (∀ t, c.arr.tile t = Tile.zero ∧ c.arr.busy t = false) ∧ c.arr.fa = Fifo.zero ∧ c.arr.fb = Fifo.zero
    ∧ c.arr.asig = 0 ∧ (∀ a, Memory.read c.loc.abuf a = 0 ∧ Memory.read c.loc.tspad a = 0)
    ∧ (∀ k, c.loc.full k = true) ∧ (∀ a, c.loc.engineOwns a = false) ∧ c.loc.wbuf = [] ∧ c.ctx.snap = []
    ∧ c.trace.entries = [] ∧ c.accs = [] ∧ c.held = [] ∧ c.engine = [] ∧ c.pending = []
    ∧ c.trap = { TrapRegs.zero with fwdog := 5000 } ∧ c.trap.intrap = false ∧ (s.pair (pairOf n)).word = 1
    ∧ (∀ q : BitVec 12, sysAssigned q = true → s.sysRead n q =
        if q = 0x105 then 5000 else if q = 0x200 then 1 else if q = 0x300 then 0x801
        else if q = 0x3E0 then BitVec.allOnes 64 else if q = 0x418 then 240
        else if q = 0x004 then BitVec.ofNat 64 (n % 1024)
        else if q = 0x400 then BitVec.ofNat 64 (dieOf n % 4 * 256 + s.zoneOf n) else 0))
  ∧ (∀ a, s.mem.bytes.read a = 0) ∧ (∀ d b, s.block d b = 20000) ∧ s.conj.tags = [] ∧ s.pkg.featsel = 1
  ∧ s.pkg.featact = 1 ∧ s.pkg.state = 0 ∧ (∀ d k, s.cool.entry d k = 0x3333333333333333) ∧ s.cool.modflow = 240
  ∧ (∀ d q, (s.queue d q).poplim = 2000 ∧ (s.queue d q).log2 = 6 ∧ (s.queue d q).recs = []) ∧ s.fab.cfg = 0x186A0
  ∧ (∀ k : Nat, (s.slice k).slcfg = 0 ∧ ∀ j < 4, (s.slice k).slpart[j]! = BitVec.allOnes 64) ∧ s.time = 0

/-- R99, R100, R137, R149, R151: G0, P0 and M0 read as constants, and what is written to them is discarded; a result in
flight lands with the values of its issue, in its register alone, in its last cycle, the later-issued result last; a
slot whose guard is false has no effect and takes no part in the waits and traps of its bundle. -/
def Obligations.constants_guards_and_landings : Prop :=
  ∀ (r : Regs) (x : Ctx) (a b : Land) (d e : GReg) (p : PReg) (m : MReg) (v w : VReg) (y : Word) (z : Mask) (k : Mask)
      (row : Row) (tag : Option Tag) (bit q wb : Bool) (i : Instr) (o : Op) (u : View) (s : State),
    let gd := r.apply (.g d y q)
    let vd := r.apply (.v v row k tag q wb)
    r.gv 0 = 0 ∧ r.gFull 0 = true ∧ r.gPoison 0 = false ∧ r.pv 0 = true ∧ r.mv 0 = BitVec.allOnes 512
    ∧ r.apply (.g 0 y q) = r ∧ r.applyReply (.g 0 y q) = r ∧ r.emptyG 0 = r ∧ r.apply (.p 0 bit) = r
    ∧ r.apply (.m 0 z k) = r
    ∧ (d ≠ 0 → gd.gv d = y ∧ gd.gPoison d = q ∧ gd.gFull d = r.gFull d) ∧ (e ≠ d → gd.gCell e = r.gCell e)
    ∧ gd.p = r.p ∧ gd.m = r.m ∧ gd.v = r.v ∧ gd.lf = r.lf
    ∧ (p ≠ 0 → (r.apply (.p p bit)).pv p = bit) ∧ (∀ p', p' ≠ p → (r.apply (.p p bit)).pv p' = r.pv p')
    ∧ (m ≠ 0 → ∀ j < 512, ((r.apply (.m m z k)).mv m).getLsbD j =
        if k.getLsbD j then z.getLsbD j else (r.mv m).getLsbD j)
    ∧ (∀ m', m' ≠ m → (r.apply (.m m z k)).mv m' = r.mv m')
    ∧ (∀ j < 512, lane (vd.vCell v).row j = if k.getLsbD j then lane row j else lane (r.vCell v).row j)
    ∧ (vd.vCell v).tag = tag.getD (r.vCell v).tag ∧ (w ≠ v → vd.vCell w = r.vCell w)
    ∧ vd.g = r.g ∧ vd.p = r.p ∧ vd.m = r.m ∧ vd.lf = r.lf
    ∧ (x.pipe = [a] → 1 < a.rem → x.advance.regs = x.regs ∧ x.advance.pipe = [{ a with rem := a.rem - 1 }])
    ∧ (x.pipe = [a] → a.rem ≤ 1 → x.advance.regs = x.regs.apply a.dst ∧ x.advance.pipe = []
        ∧ x.advance.fstat = x.fstat ||| a.flags)
    ∧ (x.pipe = [a, b] → a.rem ≤ 1 → b.rem ≤ 1 → x.advance.regs = (x.regs.apply a.dst).apply b.dst)
    ∧ (opOf i = some o → s.iss.ov = none → o.legal s = true → o.allowed s = true →
        s.me.ctx.regs.guard o.guard = false → exec i s = .next s)
    ∧ (∀ j ∈ u.ops r, r.guard j.2.guard = true)

/-- R62, R64, R67, R80 and the tables of 03: what bits 255:254 of a bundle say; an N bundle's count; and, of words
written out from the spec's encodings, the instruction that each stands for. -/
def Obligations.bundle_forms_and_words : Prop :=
  (∀ w : Bits256,
    (w.extractLsb' 254 2 = 3 → decodeBundle w = .illegal)
    ∧ (w.extractLsb' 254 2 = 2 → decodeBundle w =
        if w.extractLsb' 0 242 = 0 then .idle (w.extractLsb' 242 12) else .illegal)
    ∧ (w.extractLsb' 254 2 = 1 → decodeBundle w = .illegal ∨ ∃ i, decodeBundle w = .weight i)
    ∧ (w.extractLsb' 254 2 = 0 → w.extractLsb' 240 11 ≠ 0 → decodeBundle w = .illegal)
    ∧ (w.extractLsb' 254 2 = 0 → w.extractLsb' 240 11 = 0 → ∃ b, decodeBundle w = .general b
        ∧ b.ckpt = w.getLsbD 253 ∧ b.rdv = w.getLsbD 252 ∧ b.transit = w.getLsbD 251
        ∧ b.slots = [decodeS (w.extractLsb' 192 48), decodeV (w.extractLsb' 152 40), decodeV (w.extractLsb' 112 40),
          decodeM (w.extractLsb' 80 32), decodeC (w.extractLsb' 40 40), decodeC (w.extractLsb' 0 40)]))
  ∧ (∀ w : BitVec 48, 20 < (w.extractLsb' 42 5).toNat → decodeS w = .bad)
  ∧ decodeS 0x038312345678 = .op (.movi ⟨false, 0⟩ 3 0x12345678)
  ∧ decodeS 0x00F8C8280002 = .op (.cmp ⟨false, 0⟩ 3 .lt ⟨4, false⟩ ⟨5, false⟩)
  ∧ decodeS 0x02C03FFFFFFD = .op (.br ⟨false, 0⟩ (-3))
  ∧ decodeS 0x030000000021 = .op (.trap ⟨false, 0⟩ 0x21)
  ∧ decodeS 0x030800000000 = .op (.eret ⟨false, 0⟩)
  ∧ decodeV 0x0012051200 = .op (.vadd ⟨false, 0⟩ 8 ⟨5, false⟩ ⟨9, false⟩ 0 .rne)
  ∧ decodeC 0x0024146200 = .op (.cpy ⟨false, 0⟩ ⟨4, false⟩ ⟨5, false⟩ ⟨6, false⟩ 32 false)

/-- R80, R241, R300: a step. Time passes; the oldest outside event is executed; where there is none, one enabled move is
made, which for a core whose clocks run is its turn; before MODULE_RESET has ended and in FAILED there is none. The
followers of protected pairs are then brought up to their leaders (`State.mirror`, log 36). Where R221 lets a bundle with one operation go, that turn is `exec` of the instruction that
the bundle at the program counter holds, followed by the end of the bundle's cycle, with the program counter 32 bytes
further unless the instruction, a delay slot or a loop has moved it. -/
def Obligations.step_runs_decoded : Prop :=
  ∀ (n k raw : Nat) (i : Instr) (rest : List Instr) (w : Bits256) (pa : Option Nat) (v : View) (u s s2 : State),
    let t := s.pass (Config.elapsed s.tick)
    let c := s.core n
    let free := c.run = .run ∧ c.saving = none ∧ c.btw.halting = false ∧ c.btw.vjoin = 0 ∧ c.btw.nulLeft = 0
      ∧ s.interrupt n = none ∧ c.btw.idle = 0 ∧ c.btw.replay = false ∧ c.barPending = none ∧ c.btw.phase = none
      ∧ s.gatedCore n = false
    (t.inbox = i :: rest → isEvent i = true → i.wf = true → exec i { t with inbox := rest } = .next u →
        step s = .next (s.mirror u))
    ∧ (t.inbox = [] → ∃ x, step s = .next (s.mirror x) ∧ (x = t ∧ t.moved_ = [] ∨ x ∈ t.moved_))
    ∧ (t.inbox = [] → t.moved_ = [u] → step s = .next (s.mirror u))
    ∧ ((∀ m ∈ s.listed, m % 2 = 0 → s.protected_ m = true → u.core m = s.core m) → u.listed = s.listed →
        (∀ m, u.protected_ m = s.protected_ m) → s.mirror u = u)
    ∧ (∀ m, m % 2 = 0 → (s.mirror u).core m = u.core m) ∧ (s.mirror u).mem = u.mem
    ∧ (u.listed.Nodup → n ∈ u.listed → n % 2 = 0 → u.protected_ n = true → u.core n ≠ c →
        let d := (s.mirror u).core (n + 1)
        let b := (u.core (n + 1)).loc.abuf
        d.ctx = (u.core n).ctx ∧ d.trap = (u.core n).trap ∧ d.run = (u.core n).run ∧ d.engine = [] ∧ d.accs = []
        ∧ (b.wf = true → ∀ a, Memory.read d.loc.abuf a =
            if Memory.read c.loc.abuf a = Memory.read (u.core n).loc.abuf a then Memory.read b a
            else Memory.read (u.core n).loc.abuf a))
    ∧ (s.pkg.state = 0 ∨ s.pkg.state = 5 → t.moved_ = [])
    ∧ (s.pkg.state ≠ 0 → s.pkg.state ≠ 5 → n ∈ s.listed → s.leader n = n → t.gatedCore n = false →
        t.coreTurn n = some u → u ∈ t.moved_)
    ∧ (free → s.fetch n = .bundle w pa → s.decode n w = .ok v → s.weigh n v = .go v → c.commits v = false →
        v.idle = none → v.slots = [(k, raw, i)] → (opOf i).isSome = true →
        ∃ s1 x, exec i s1 = .next x ∧ s1.iss.cur = n ∧ s1.iss.slot = k ∧ s1.iss.raw = raw ∧ s1.iss.ov = none
          ∧ s1.mem = s.mem ∧ s1.me.ctx.pc = c.ctx.pc ∧ s1.me.ctx.regs = c.ctx.regs ∧ s1.me.ctx.seqr = c.ctx.seqr
          ∧ s1.me.ctx.pipe = c.ctx.pipe ∧ s1.me.loc = c.loc ∧ s1.me.accs = c.accs ∧ s1.me.arr = c.arr
          ∧ s1.me.held = c.held ∧ s1.me.trap = c.trap ∧ s1.me.sup = c.sup ∧ (∀ m, m ≠ n → s1.core m = s.core m)
          ∧ s.coreTurn n = some (s.gangBack (x.finish n v c) n))
    ∧ (s2.iss.cur = n → s2.iss.ended = false → s2.iss.advanced = false → (s2.core n).ctx.seqr.pend = 0 →
        (s2.core n).ctx.seqr.loop = false → (s2.core n).btw.mid = none → (s2.core n).btw.clear = none →
        ((s2.finish n v c).core n).ctx.pc = (s2.core n).ctx.pc + 32)
    ∧ (s.decode n w = .ok v → (0, raw, i) ∈ v.slots →
        raw = slotRaw w 0 ∧ decodeS (w.extractLsb' 192 48) = .op i ∧ i.wf = true)

/-- R62 to R80: decoding the words that the encoder makes of a well-formed instruction gives it back, and every
instruction of a slot, weight bundle or N bundle has such words. -/
def Obligations.decode_encode : Prop :=
  ∀ (i : Instr), i.wf = true →
    (∀ w, encode i = some w → (decodeBundle w).single? = some i) ∧ (isEvent i = false → (encode i).isSome = true)

/-- Every step keeps the memory in its canonical form, so that equal memories are equal data (log 2). -/
def Obligations.step_keeps_canonical : Prop := ∀ s t : State, s.Canonical → step s = .next t → t.Canonical

/-- The memory after reset has the canonical form. -/
def Obligations.reset_canonical : Prop := State.reset.Canonical
end

