-- ==== Sys2Proof/Laws/Map.lean ====
section
/-! SUPPORT. Laws of the keyed lists: what is listed for a key after an update. -/

namespace Sys2Proof

variable {α : Type}

@[simp] theorem Map.find_nil (k : Nat) : Map.find? ([] : Map α) k = none := rfl
@[simp] theorem Map.getD_nil (k : Nat) (d : α) : Map.getD ([] : Map α) k d = d := rfl

/-- A key reads what was put. -/
@[simp] theorem Map.find_put_same (m : Map α) (k : Nat) (v : α) : Map.find? (Map.put m k v) k = some v := by
  induction m with
  | nil => simp [Map.put, Map.find?]
  | cons e m ih =>
    obtain ⟨j, w⟩ := e
    by_cases h : k < j
    · simp [Map.put, Map.find?, h]
    · by_cases h' : k = j
      · subst h'; simp [Map.put, Map.find?]
      · simp [Map.put, Map.find?, h, h', Ne.symm h', ih]

/-- Another key reads what it read before. -/
@[simp] theorem Map.find_put_other (m : Map α) {k l : Nat} (v : α) (h : l ≠ k) :
    Map.find? (Map.put m k v) l = Map.find? m l := by
  induction m with
  | nil => simp [Map.put, Map.find?, Ne.symm h]
  | cons e m ih =>
    obtain ⟨j, w⟩ := e
    by_cases h1 : k < j
    · simp [Map.put, Map.find?, h1, Ne.symm h]
    · by_cases h2 : k = j
      · subst h2; simp [Map.put, Map.find?, Ne.symm h]
      · simp [Map.put, Map.find?, h1, h2, ih]

@[simp] theorem Map.getD_put_same (m : Map α) (k : Nat) (v d : α) : Map.getD (Map.put m k v) k d = v := by
  simp [Map.getD]

@[simp] theorem Map.getD_put_other (m : Map α) {k l : Nat} (v d : α) (h : l ≠ k) :
    Map.getD (Map.put m k v) l d = Map.getD m l d := by
  simp [Map.getD, h]


/-- A change of every value changes the value of a key. -/
theorem Map.find_map (m : Map α) (f : α → α) (k : Nat) :
    Map.find? (m.map fun e => (e.1, f e.2)) k = (Map.find? m k).map f := by
  induction m with
  | nil => rfl
  | cons e m ih =>
    obtain ⟨j, v⟩ := e
    simp only [List.map_cons, Map.find?]
    split
    · rfl
    · exact ih

end Sys2Proof
end

