-- ==== Sys2Proof/Laws/State.lean ====
section
/-! SUPPORT. One lemma for each field of the state and each of its named updates, and what a core reads after them. -/

namespace Sys2Proof.Machine

/-! ### Cores -/

@[simp] theorem State.core_setCore_same (s : State) (n : Nat) (c : Core) : (s.setCore n c).core n = c := by
  simp [State.core, State.setCore]
@[simp] theorem State.core_setCore_other (s : State) {n m : Nat} (c : Core) (h : m ≠ n) :
    (s.setCore n c).core m = s.core m := by
  simp [State.core, State.setCore, h]
@[simp] theorem State.me_setMe (s : State) (c : Core) : (s.setMe c).me = c := by simp [State.me, State.setMe, State.core, State.setCore]
@[simp] theorem State.me_onMe (s : State) (f : Core → Core) : (s.onMe f).me = f s.me := by simp [State.onMe]
theorem State.core_cur (s : State) : s.core s.iss.cur = s.me := rfl
@[simp] theorem State.core_setMe_other (s : State) {m : Nat} (c : Core) (h : m ≠ s.iss.cur) :
    (s.setMe c).core m = s.core m := by
  simp [State.setMe, h]
@[simp] theorem State.core_onMe_other (s : State) {m : Nat} (f : Core → Core) (h : m ≠ s.iss.cur) :
    (s.onMe f).core m = s.core m := by
  simp [State.onMe, h]
@[simp] theorem State.core_setDie (s : State) (d m : Nat) (x : Die) : (s.setDie d x).core m = s.core m := rfl
@[simp] theorem State.die_setDie_same (s : State) (d : Nat) (x : Die) : (s.setDie d x).die d = x := by
  simp [State.die, State.setDie]
@[simp] theorem State.die_setDie_other (s : State) {d e : Nat} (x : Die) (h : e ≠ d) : (s.setDie d x).die e = s.die e := by
  simp [State.die, State.setDie, h]
@[simp] theorem State.die_setCore (s : State) (n d : Nat) (c : Core) : (s.setCore n c).die d = s.die d := rfl
@[simp] theorem State.pair_setCore (s : State) (n p : Nat) (c : Core) : (s.setCore n c).pair p = s.pair p := rfl
@[simp] theorem State.protected_setCore (s : State) (n m : Nat) (c : Core) :
    (s.setCore n c).protected_ m = s.protected_ m := rfl

/-! ### Fields -/

@[simp] theorem State.pairs_setCore (s : State) (n : Nat) (c : Core) : (s.setCore n c).pairs = s.pairs := rfl
@[simp] theorem State.mem_setCore (s : State) (n : Nat) (c : Core) : (s.setCore n c).mem = s.mem := rfl
@[simp] theorem State.conj_setCore (s : State) (n : Nat) (c : Core) : (s.setCore n c).conj = s.conj := rfl
@[simp] theorem State.dies_setCore (s : State) (n : Nat) (c : Core) : (s.setCore n c).dies = s.dies := rfl
@[simp] theorem State.cool_setCore (s : State) (n : Nat) (c : Core) : (s.setCore n c).cool = s.cool := rfl
@[simp] theorem State.pkg_setCore (s : State) (n : Nat) (c : Core) : (s.setCore n c).pkg = s.pkg := rfl
@[simp] theorem State.fab_setCore (s : State) (n : Nat) (c : Core) : (s.setCore n c).fab = s.fab := rfl
@[simp] theorem State.saves_setCore (s : State) (n : Nat) (c : Core) : (s.setCore n c).saves = s.saves := rfl
@[simp] theorem State.absent_setCore (s : State) (n : Nat) (c : Core) : (s.setCore n c).absent = s.absent := rfl
@[simp] theorem State.nextCtx_setCore (s : State) (n : Nat) (c : Core) : (s.setCore n c).nextCtx = s.nextCtx := rfl
@[simp] theorem State.reports_setCore (s : State) (n : Nat) (c : Core) : (s.setCore n c).reports = s.reports := rfl
@[simp] theorem State.iss_setCore (s : State) (n : Nat) (c : Core) : (s.setCore n c).iss = s.iss := rfl
@[simp] theorem State.inbox_setCore (s : State) (n : Nat) (c : Core) : (s.setCore n c).inbox = s.inbox := rfl
@[simp] theorem State.time_setCore (s : State) (n : Nat) (c : Core) : (s.setCore n c).time = s.time := rfl
@[simp] theorem State.tick_setCore (s : State) (n : Nat) (c : Core) : (s.setCore n c).tick = s.tick := rfl

@[simp] theorem State.pairs_setMe (s : State) (c : Core) : (s.setMe c).pairs = s.pairs := rfl
@[simp] theorem State.mem_setMe (s : State) (c : Core) : (s.setMe c).mem = s.mem := rfl
@[simp] theorem State.conj_setMe (s : State) (c : Core) : (s.setMe c).conj = s.conj := rfl
@[simp] theorem State.dies_setMe (s : State) (c : Core) : (s.setMe c).dies = s.dies := rfl
@[simp] theorem State.cool_setMe (s : State) (c : Core) : (s.setMe c).cool = s.cool := rfl
@[simp] theorem State.pkg_setMe (s : State) (c : Core) : (s.setMe c).pkg = s.pkg := rfl
@[simp] theorem State.fab_setMe (s : State) (c : Core) : (s.setMe c).fab = s.fab := rfl
@[simp] theorem State.saves_setMe (s : State) (c : Core) : (s.setMe c).saves = s.saves := rfl
@[simp] theorem State.absent_setMe (s : State) (c : Core) : (s.setMe c).absent = s.absent := rfl
@[simp] theorem State.nextCtx_setMe (s : State) (c : Core) : (s.setMe c).nextCtx = s.nextCtx := rfl
@[simp] theorem State.reports_setMe (s : State) (c : Core) : (s.setMe c).reports = s.reports := rfl
@[simp] theorem State.iss_setMe (s : State) (c : Core) : (s.setMe c).iss = s.iss := rfl
@[simp] theorem State.inbox_setMe (s : State) (c : Core) : (s.setMe c).inbox = s.inbox := rfl
@[simp] theorem State.time_setMe (s : State) (c : Core) : (s.setMe c).time = s.time := rfl
@[simp] theorem State.tick_setMe (s : State) (c : Core) : (s.setMe c).tick = s.tick := rfl

@[simp] theorem State.pairs_onMe (s : State) (f : Core → Core) : (s.onMe f).pairs = s.pairs := rfl
@[simp] theorem State.mem_onMe (s : State) (f : Core → Core) : (s.onMe f).mem = s.mem := rfl
@[simp] theorem State.conj_onMe (s : State) (f : Core → Core) : (s.onMe f).conj = s.conj := rfl
@[simp] theorem State.dies_onMe (s : State) (f : Core → Core) : (s.onMe f).dies = s.dies := rfl
@[simp] theorem State.cool_onMe (s : State) (f : Core → Core) : (s.onMe f).cool = s.cool := rfl
@[simp] theorem State.pkg_onMe (s : State) (f : Core → Core) : (s.onMe f).pkg = s.pkg := rfl
@[simp] theorem State.fab_onMe (s : State) (f : Core → Core) : (s.onMe f).fab = s.fab := rfl
@[simp] theorem State.saves_onMe (s : State) (f : Core → Core) : (s.onMe f).saves = s.saves := rfl
@[simp] theorem State.absent_onMe (s : State) (f : Core → Core) : (s.onMe f).absent = s.absent := rfl
@[simp] theorem State.nextCtx_onMe (s : State) (f : Core → Core) : (s.onMe f).nextCtx = s.nextCtx := rfl
@[simp] theorem State.reports_onMe (s : State) (f : Core → Core) : (s.onMe f).reports = s.reports := rfl
@[simp] theorem State.iss_onMe (s : State) (f : Core → Core) : (s.onMe f).iss = s.iss := rfl
@[simp] theorem State.inbox_onMe (s : State) (f : Core → Core) : (s.onMe f).inbox = s.inbox := rfl
@[simp] theorem State.time_onMe (s : State) (f : Core → Core) : (s.onMe f).time = s.time := rfl
@[simp] theorem State.tick_onMe (s : State) (f : Core → Core) : (s.onMe f).tick = s.tick := rfl

@[simp] theorem State.pairs_send (s : State) (l : Nat) (d : Dst) (fl : BitVec 5) (o : Word) : (s.send l d fl o).pairs = s.pairs := rfl
@[simp] theorem State.mem_send (s : State) (l : Nat) (d : Dst) (fl : BitVec 5) (o : Word) : (s.send l d fl o).mem = s.mem := rfl
@[simp] theorem State.conj_send (s : State) (l : Nat) (d : Dst) (fl : BitVec 5) (o : Word) : (s.send l d fl o).conj = s.conj := rfl
@[simp] theorem State.dies_send (s : State) (l : Nat) (d : Dst) (fl : BitVec 5) (o : Word) : (s.send l d fl o).dies = s.dies := rfl
@[simp] theorem State.cool_send (s : State) (l : Nat) (d : Dst) (fl : BitVec 5) (o : Word) : (s.send l d fl o).cool = s.cool := rfl
@[simp] theorem State.pkg_send (s : State) (l : Nat) (d : Dst) (fl : BitVec 5) (o : Word) : (s.send l d fl o).pkg = s.pkg := rfl
@[simp] theorem State.fab_send (s : State) (l : Nat) (d : Dst) (fl : BitVec 5) (o : Word) : (s.send l d fl o).fab = s.fab := rfl
@[simp] theorem State.saves_send (s : State) (l : Nat) (d : Dst) (fl : BitVec 5) (o : Word) : (s.send l d fl o).saves = s.saves := rfl
@[simp] theorem State.absent_send (s : State) (l : Nat) (d : Dst) (fl : BitVec 5) (o : Word) : (s.send l d fl o).absent = s.absent := rfl
@[simp] theorem State.nextCtx_send (s : State) (l : Nat) (d : Dst) (fl : BitVec 5) (o : Word) : (s.send l d fl o).nextCtx = s.nextCtx := rfl
@[simp] theorem State.reports_send (s : State) (l : Nat) (d : Dst) (fl : BitVec 5) (o : Word) : (s.send l d fl o).reports = s.reports := rfl
@[simp] theorem State.iss_send (s : State) (l : Nat) (d : Dst) (fl : BitVec 5) (o : Word) : (s.send l d fl o).iss = s.iss := rfl
@[simp] theorem State.inbox_send (s : State) (l : Nat) (d : Dst) (fl : BitVec 5) (o : Word) : (s.send l d fl o).inbox = s.inbox := rfl
@[simp] theorem State.time_send (s : State) (l : Nat) (d : Dst) (fl : BitVec 5) (o : Word) : (s.send l d fl o).time = s.time := rfl
@[simp] theorem State.tick_send (s : State) (l : Nat) (d : Dst) (fl : BitVec 5) (o : Word) : (s.send l d fl o).tick = s.tick := rfl

@[simp] theorem State.cores_setDie (s : State) (d : Nat) (x : Die) : (s.setDie d x).cores = s.cores := rfl
@[simp] theorem State.pairs_setDie (s : State) (d : Nat) (x : Die) : (s.setDie d x).pairs = s.pairs := rfl
@[simp] theorem State.mem_setDie (s : State) (d : Nat) (x : Die) : (s.setDie d x).mem = s.mem := rfl
@[simp] theorem State.conj_setDie (s : State) (d : Nat) (x : Die) : (s.setDie d x).conj = s.conj := rfl
@[simp] theorem State.cool_setDie (s : State) (d : Nat) (x : Die) : (s.setDie d x).cool = s.cool := rfl
@[simp] theorem State.pkg_setDie (s : State) (d : Nat) (x : Die) : (s.setDie d x).pkg = s.pkg := rfl
@[simp] theorem State.fab_setDie (s : State) (d : Nat) (x : Die) : (s.setDie d x).fab = s.fab := rfl
@[simp] theorem State.saves_setDie (s : State) (d : Nat) (x : Die) : (s.setDie d x).saves = s.saves := rfl
@[simp] theorem State.absent_setDie (s : State) (d : Nat) (x : Die) : (s.setDie d x).absent = s.absent := rfl
@[simp] theorem State.nextCtx_setDie (s : State) (d : Nat) (x : Die) : (s.setDie d x).nextCtx = s.nextCtx := rfl
@[simp] theorem State.reports_setDie (s : State) (d : Nat) (x : Die) : (s.setDie d x).reports = s.reports := rfl
@[simp] theorem State.iss_setDie (s : State) (d : Nat) (x : Die) : (s.setDie d x).iss = s.iss := rfl
@[simp] theorem State.inbox_setDie (s : State) (d : Nat) (x : Die) : (s.setDie d x).inbox = s.inbox := rfl
@[simp] theorem State.time_setDie (s : State) (d : Nat) (x : Die) : (s.setDie d x).time = s.time := rfl
@[simp] theorem State.tick_setDie (s : State) (d : Nat) (x : Die) : (s.setDie d x).tick = s.tick := rfl

@[simp] theorem State.cores_atSlot (s : State) (k : Nat) : (s.atSlot k).cores = s.cores := rfl
@[simp] theorem State.pairs_atSlot (s : State) (k : Nat) : (s.atSlot k).pairs = s.pairs := rfl
@[simp] theorem State.mem_atSlot (s : State) (k : Nat) : (s.atSlot k).mem = s.mem := rfl
@[simp] theorem State.conj_atSlot (s : State) (k : Nat) : (s.atSlot k).conj = s.conj := rfl
@[simp] theorem State.dies_atSlot (s : State) (k : Nat) : (s.atSlot k).dies = s.dies := rfl
@[simp] theorem State.cool_atSlot (s : State) (k : Nat) : (s.atSlot k).cool = s.cool := rfl
@[simp] theorem State.pkg_atSlot (s : State) (k : Nat) : (s.atSlot k).pkg = s.pkg := rfl
@[simp] theorem State.fab_atSlot (s : State) (k : Nat) : (s.atSlot k).fab = s.fab := rfl
@[simp] theorem State.saves_atSlot (s : State) (k : Nat) : (s.atSlot k).saves = s.saves := rfl
@[simp] theorem State.absent_atSlot (s : State) (k : Nat) : (s.atSlot k).absent = s.absent := rfl
@[simp] theorem State.nextCtx_atSlot (s : State) (k : Nat) : (s.atSlot k).nextCtx = s.nextCtx := rfl
@[simp] theorem State.reports_atSlot (s : State) (k : Nat) : (s.atSlot k).reports = s.reports := rfl
@[simp] theorem State.inbox_atSlot (s : State) (k : Nat) : (s.atSlot k).inbox = s.inbox := rfl
@[simp] theorem State.time_atSlot (s : State) (k : Nat) : (s.atSlot k).time = s.time := rfl
@[simp] theorem State.tick_atSlot (s : State) (k : Nat) : (s.atSlot k).tick = s.tick := rfl

@[simp] theorem State.pairs_post (s : State) (n : Nat) (e : BEvent) : (s.post n e).pairs = s.pairs := rfl
@[simp] theorem State.mem_post (s : State) (n : Nat) (e : BEvent) : (s.post n e).mem = s.mem := rfl
@[simp] theorem State.conj_post (s : State) (n : Nat) (e : BEvent) : (s.post n e).conj = s.conj := rfl
@[simp] theorem State.dies_post (s : State) (n : Nat) (e : BEvent) : (s.post n e).dies = s.dies := rfl
@[simp] theorem State.cool_post (s : State) (n : Nat) (e : BEvent) : (s.post n e).cool = s.cool := rfl
@[simp] theorem State.pkg_post (s : State) (n : Nat) (e : BEvent) : (s.post n e).pkg = s.pkg := rfl
@[simp] theorem State.fab_post (s : State) (n : Nat) (e : BEvent) : (s.post n e).fab = s.fab := rfl
@[simp] theorem State.saves_post (s : State) (n : Nat) (e : BEvent) : (s.post n e).saves = s.saves := rfl
@[simp] theorem State.absent_post (s : State) (n : Nat) (e : BEvent) : (s.post n e).absent = s.absent := rfl
@[simp] theorem State.nextCtx_post (s : State) (n : Nat) (e : BEvent) : (s.post n e).nextCtx = s.nextCtx := rfl
@[simp] theorem State.reports_post (s : State) (n : Nat) (e : BEvent) : (s.post n e).reports = s.reports := rfl
@[simp] theorem State.iss_post (s : State) (n : Nat) (e : BEvent) : (s.post n e).iss = s.iss := rfl
@[simp] theorem State.inbox_post (s : State) (n : Nat) (e : BEvent) : (s.post n e).inbox = s.inbox := rfl
@[simp] theorem State.time_post (s : State) (n : Nat) (e : BEvent) : (s.post n e).time = s.time := rfl
@[simp] theorem State.tick_post (s : State) (n : Nat) (e : BEvent) : (s.post n e).tick = s.tick := rfl

@[simp] theorem State.cores_facing (s : State) (n : Nat) (tr ck : Bool) : (s.facing n tr ck).cores = s.cores := rfl
@[simp] theorem State.pairs_facing (s : State) (n : Nat) (tr ck : Bool) : (s.facing n tr ck).pairs = s.pairs := rfl
@[simp] theorem State.mem_facing (s : State) (n : Nat) (tr ck : Bool) : (s.facing n tr ck).mem = s.mem := rfl
@[simp] theorem State.conj_facing (s : State) (n : Nat) (tr ck : Bool) : (s.facing n tr ck).conj = s.conj := rfl
@[simp] theorem State.dies_facing (s : State) (n : Nat) (tr ck : Bool) : (s.facing n tr ck).dies = s.dies := rfl
@[simp] theorem State.cool_facing (s : State) (n : Nat) (tr ck : Bool) : (s.facing n tr ck).cool = s.cool := rfl
@[simp] theorem State.pkg_facing (s : State) (n : Nat) (tr ck : Bool) : (s.facing n tr ck).pkg = s.pkg := rfl
@[simp] theorem State.fab_facing (s : State) (n : Nat) (tr ck : Bool) : (s.facing n tr ck).fab = s.fab := rfl
@[simp] theorem State.saves_facing (s : State) (n : Nat) (tr ck : Bool) : (s.facing n tr ck).saves = s.saves := rfl
@[simp] theorem State.absent_facing (s : State) (n : Nat) (tr ck : Bool) : (s.facing n tr ck).absent = s.absent := rfl
@[simp] theorem State.nextCtx_facing (s : State) (n : Nat) (tr ck : Bool) : (s.facing n tr ck).nextCtx = s.nextCtx := rfl
@[simp] theorem State.reports_facing (s : State) (n : Nat) (tr ck : Bool) : (s.facing n tr ck).reports = s.reports := rfl
@[simp] theorem State.inbox_facing (s : State) (n : Nat) (tr ck : Bool) : (s.facing n tr ck).inbox = s.inbox := rfl
@[simp] theorem State.time_facing (s : State) (n : Nat) (tr ck : Bool) : (s.facing n tr ck).time = s.time := rfl
@[simp] theorem State.tick_facing (s : State) (n : Nat) (tr ck : Bool) : (s.facing n tr ck).tick = s.tick := rfl

@[simp] theorem State.cores_noteReq (s : State) (bs : Option (List Byte)) : (s.noteReq bs).cores = s.cores := by cases bs <;> rfl
@[simp] theorem State.pairs_noteReq (s : State) (bs : Option (List Byte)) : (s.noteReq bs).pairs = s.pairs := by cases bs <;> rfl
@[simp] theorem State.mem_noteReq (s : State) (bs : Option (List Byte)) : (s.noteReq bs).mem = s.mem := by cases bs <;> rfl
@[simp] theorem State.conj_noteReq (s : State) (bs : Option (List Byte)) : (s.noteReq bs).conj = s.conj := by cases bs <;> rfl
@[simp] theorem State.dies_noteReq (s : State) (bs : Option (List Byte)) : (s.noteReq bs).dies = s.dies := by cases bs <;> rfl
@[simp] theorem State.cool_noteReq (s : State) (bs : Option (List Byte)) : (s.noteReq bs).cool = s.cool := by cases bs <;> rfl
@[simp] theorem State.pkg_noteReq (s : State) (bs : Option (List Byte)) : (s.noteReq bs).pkg = s.pkg := by cases bs <;> rfl
@[simp] theorem State.fab_noteReq (s : State) (bs : Option (List Byte)) : (s.noteReq bs).fab = s.fab := by cases bs <;> rfl
@[simp] theorem State.saves_noteReq (s : State) (bs : Option (List Byte)) : (s.noteReq bs).saves = s.saves := by cases bs <;> rfl
@[simp] theorem State.absent_noteReq (s : State) (bs : Option (List Byte)) : (s.noteReq bs).absent = s.absent := by cases bs <;> rfl
@[simp] theorem State.nextCtx_noteReq (s : State) (bs : Option (List Byte)) : (s.noteReq bs).nextCtx = s.nextCtx := by cases bs <;> rfl
@[simp] theorem State.reports_noteReq (s : State) (bs : Option (List Byte)) : (s.noteReq bs).reports = s.reports := by cases bs <;> rfl
@[simp] theorem State.inbox_noteReq (s : State) (bs : Option (List Byte)) : (s.noteReq bs).inbox = s.inbox := by cases bs <;> rfl
@[simp] theorem State.time_noteReq (s : State) (bs : Option (List Byte)) : (s.noteReq bs).time = s.time := by cases bs <;> rfl
@[simp] theorem State.tick_noteReq (s : State) (bs : Option (List Byte)) : (s.noteReq bs).tick = s.tick := by cases bs <;> rfl

@[simp] theorem State.cores_push (s : State) (src : Nat) (a : Acc) : (s.push src a).cores = s.cores := rfl
@[simp] theorem State.pairs_push (s : State) (src : Nat) (a : Acc) : (s.push src a).pairs = s.pairs := rfl
@[simp] theorem State.conj_push (s : State) (src : Nat) (a : Acc) : (s.push src a).conj = s.conj := rfl
@[simp] theorem State.dies_push (s : State) (src : Nat) (a : Acc) : (s.push src a).dies = s.dies := rfl
@[simp] theorem State.cool_push (s : State) (src : Nat) (a : Acc) : (s.push src a).cool = s.cool := rfl
@[simp] theorem State.pkg_push (s : State) (src : Nat) (a : Acc) : (s.push src a).pkg = s.pkg := rfl
@[simp] theorem State.fab_push (s : State) (src : Nat) (a : Acc) : (s.push src a).fab = s.fab := rfl
@[simp] theorem State.saves_push (s : State) (src : Nat) (a : Acc) : (s.push src a).saves = s.saves := rfl
@[simp] theorem State.absent_push (s : State) (src : Nat) (a : Acc) : (s.push src a).absent = s.absent := rfl
@[simp] theorem State.nextCtx_push (s : State) (src : Nat) (a : Acc) : (s.push src a).nextCtx = s.nextCtx := rfl
@[simp] theorem State.reports_push (s : State) (src : Nat) (a : Acc) : (s.push src a).reports = s.reports := rfl
@[simp] theorem State.iss_push (s : State) (src : Nat) (a : Acc) : (s.push src a).iss = s.iss := rfl
@[simp] theorem State.inbox_push (s : State) (src : Nat) (a : Acc) : (s.push src a).inbox = s.inbox := rfl
@[simp] theorem State.time_push (s : State) (src : Nat) (a : Acc) : (s.push src a).time = s.time := rfl
@[simp] theorem State.tick_push (s : State) (src : Nat) (a : Acc) : (s.push src a).tick = s.tick := rfl
@[simp] theorem State.mem_push (s : State) (src : Nat) (a : Acc) : (s.push src a).mem = s.mem.push src a := rfl
@[simp] theorem State.core_push (s : State) (src n : Nat) (a : Acc) : (s.push src a).core n = s.core n := rfl
@[simp] theorem Mem.shape_push (m : Mem) (src : Nat) (a : Acc) : (m.push src a).shape = m.shape := rfl
@[simp] theorem Mem.bytes_push (m : Mem) (src : Nat) (a : Acc) : (m.push src a).bytes = m.bytes := rfl
@[simp] theorem Mem.keys_push (m : Mem) (src : Nat) (a : Acc) : (m.push src a).keys = m.keys := rfl
@[simp] theorem Mem.ecc_push (m : Mem) (src : Nat) (a : Acc) : (m.push src a).ecc = m.ecc := rfl
@[simp] theorem Mem.sealed_push (m : Mem) (src : Nat) (a : Acc) : (m.push src a).sealed = m.sealed := rfl
@[simp] theorem Mem.astes_push (m : Mem) (src : Nat) (a : Acc) : (m.push src a).astes = m.astes := rfl
@[simp] theorem Mem.ring0_push (m : Mem) (src : Nat) (a : Acc) : (m.push src a).ring0 = m.ring0 := rfl
@[simp] theorem Mem.ring1_push (m : Mem) (src : Nat) (a : Acc) : (m.push src a).ring1 = m.ring1 := rfl
@[simp] theorem Mem.tail_push (m : Mem) (src : Nat) (a : Acc) : (m.push src a).tail = m.tail := rfl
@[simp] theorem Mem.head_push (m : Mem) (src : Nat) (a : Acc) : (m.push src a).head = m.head := rfl
@[simp] theorem Mem.walkers_push (m : Mem) (src : Nat) (a : Acc) : (m.push src a).walkers = m.walkers := rfl
@[simp] theorem Mem.slices_push (m : Mem) (src : Nat) (a : Acc) : (m.push src a).slices = m.slices := rfl
@[simp] theorem Mem.log_push (m : Mem) (src : Nat) (a : Acc) : (m.push src a).log = m.log := rfl
@[simp] theorem Mem.refresh_push (m : Mem) (src : Nat) (a : Acc) : (m.push src a).refresh = m.refresh := rfl
@[simp] theorem Mem.ctlb_push (m : Mem) (src : Nat) (a : Acc) : (m.push src a).ctlb = m.ctlb := rfl
@[simp] theorem Mem.staged_push (m : Mem) (src : Nat) (a : Acc) : (m.push src a).staged = m.staged := rfl
@[simp] theorem Mem.areas_push (m : Mem) (src : Nat) (a : Acc) : (m.push src a).areas = m.areas := rfl
@[simp] theorem Mem.images_push (m : Mem) (src : Nat) (a : Acc) : (m.push src a).images = m.images := rfl
@[simp] theorem Mem.nextReq_push (m : Mem) (src : Nat) (a : Acc) : (m.push src a).nextReq = m.nextReq + 1 := rfl

@[simp] theorem State.iss_cur_noteReq (s : State) (bs : Option (List Byte)) : (s.noteReq bs).iss.cur = s.iss.cur := by
  cases bs <;> rfl
@[simp] theorem State.me_noteReq (s : State) (bs : Option (List Byte)) : (s.noteReq bs).me = s.me := by
  cases bs <;> rfl
@[simp] theorem State.core_noteReq (s : State) (bs : Option (List Byte)) (n : Nat) : (s.noteReq bs).core n = s.core n := by
  cases bs <;> rfl
@[simp] theorem State.noteReq_none (s : State) : s.noteReq none = s := rfl
@[simp] theorem State.me_atSlot (s : State) (k : Nat) : (s.atSlot k).me = s.me := rfl
@[simp] theorem State.iss_atSlot (s : State) : s.atSlot s.iss.slot = s := rfl
@[simp] theorem State.core_facing (s : State) (n m : Nat) (tr ck : Bool) : (s.facing n tr ck).core m = s.core m := rfl
@[simp] theorem State.me_facing (s : State) (n : Nat) (tr ck : Bool) : (s.facing n tr ck).me = s.core n := rfl

/-! ### Registers -/

/-- R99: G0 reads as zero whatever is written. -/
@[simp] theorem Regs.gv_zero (r : Regs) : r.gv 0 = 0 := rfl
/-- R99: P0 reads as 1. -/
@[simp] theorem Regs.pv_zero (r : Regs) : r.pv 0 = true := rfl
/-- R149: M0 reads as all ones. -/
@[simp] theorem Regs.mv_zero (r : Regs) : r.mv 0 = BitVec.allOnes 512 := rfl
/-- R99: a write to G0 is discarded. -/
@[simp] theorem Regs.writeG_zero (r : Regs) (x : GCell) : r.writeG 0 x = r := rfl
@[simp] theorem Regs.setP_zero (r : Regs) (b : Bool) : r.setP 0 b = r := rfl
@[simp] theorem Regs.setM_zero (r : Regs) (x k : Mask) : r.setM 0 x k = r := rfl

theorem Regs.gCell_setG_same (r : Regs) (d : GReg) (x : GCell) : (r.setG d x).gCell d = x := by
  simp [Regs.gCell, Regs.setG]
theorem Regs.gCell_setG_other (r : Regs) {d e : GReg} (x : GCell) (h : e ≠ d) : (r.setG d x).gCell e = r.gCell e := by
  have : d.toNat ≠ e.toNat := fun k => h (BitVec.eq_of_toNat_eq k.symm)
  simp [Regs.gCell, Regs.setG, this]
/-- The value of a register after a write to it. -/
theorem Regs.gv_writeG_same (r : Regs) {d : GReg} (x : GCell) (h : d ≠ 0) : (r.writeG d x).gv d = x.v := by
  unfold Regs.gv Regs.writeG
  rw [if_neg h, if_neg h, Regs.gCell_setG_same]
/-- Every other register keeps its value. -/
theorem Regs.gv_writeG_other (r : Regs) {d e : GReg} (x : GCell) (h : e ≠ d) : (r.writeG d x).gv e = r.gv e := by
  unfold Regs.gv Regs.writeG
  by_cases hd : d = 0
  · rw [if_pos hd]
  · rw [if_neg hd, Regs.gCell_setG_other r x h]
theorem Regs.vCell_setV_same (r : Regs) (d : VReg) (x : VCell) : (r.setV d x).vCell d = x := by
  simp [Regs.vCell, Regs.setV]
theorem Regs.vCell_setV_other (r : Regs) {d e : VReg} (x : VCell) (h : e ≠ d) : (r.setV d x).vCell e = r.vCell e := by
  have : d.toNat ≠ e.toNat := fun k => h (BitVec.eq_of_toNat_eq k.symm)
  simp [Regs.vCell, Regs.setV, this]

end Sys2Proof.Machine
end

