-- ==== Sys2Proof/Laws/Op.lean ====
section
/-! SUPPORT. The mould of a slot operation, once: an instruction's meaning is its operation's, and a ready
operation has its effect. -/

namespace Sys2Proof.Machine

open Host

/-- An instruction of a slot, or of a W bundle, means what its operation does. -/
theorem exec_of_op (i : Instr) (o : Op) (s : State) (h : opOf i = some o) : exec i s = .next (o.exec s) := by
  cases i <;> first
    | (simp only [opOf, Option.some.injEq] at h; subst h; rfl)
    | (exfalso; simp [opOf] at h)

/-- The first of a list of one. -/
theorem findSome_one {α β : Type} (f : α → Option β) (a : α) : [a].findSome? f = f a := by
  cases h : f a <;> simp [List.findSome?, h]

theorem findSome_none {α β : Type} (f : α → Option β) (xs : List α) (h : ∀ x ∈ xs, f x = none) :
    xs.findSome? f = none := by
  simpa [List.findSome?_eq_none_iff] using h

/-- The slot at hand is the slot at hand. -/
theorem State.atSlot_self (s : State) : s.atSlot s.iss.slot = s := rfl

/-- The parts of readiness. -/
theorem Op.ready_parts {o : Op} {s : State} (h : o.ready s = true) :
    s.iss.ov = none ∧ s.me.ctx.regs.guard o.guard = true ∧ o.legal s = true ∧ o.allowed s = true
      ∧ (∀ x ∈ o.srcs, s.me.srcEmpty x = false ∧ s.me.srcPoison x = false)
      ∧ (∀ x ∈ o.dests, s.me.srcEmpty x = false) ∧ o.wait s = none ∧ o.ask s = .go ∧ o.tag s = none ∧ o.bad s = none
      ∧ o.chk s = none ∧ o.fits s = true ∧ o.xlat s = .ok ∧ o.late s = .go := by
  simp only [Op.ready, Bool.and_eq_true, Option.isNone_iff_eq_none, List.all_eq_true, Bool.not_eq_true',
    beq_iff_eq] at h
  obtain ⟨⟨⟨⟨⟨⟨⟨⟨⟨⟨⟨⟨⟨h1, h2⟩, h3⟩, h4⟩, h5⟩, h6⟩, h7⟩, ha⟩, h8⟩, hb⟩, h9⟩, h10⟩, h11⟩, h12⟩ := h
  exact ⟨h1, h2, h3, h4, h5, h6, h7, ha, h8, hb, h9, h10, h11, h12⟩

/-- R221 has nothing against a ready operation. -/
theorem Op.ready_verdict {o : Op} {s : State} (h : o.ready s = true) :
    s.verdict false [(s.iss.slot, o)] = .go := by
  obtain ⟨h1, -, -, -, h5, h6, h7, ha, h8, hb, h9, h10, h11, h12⟩ := Op.ready_parts h
  have e1 : o.srcs.findSome? (s.me.emptyTrap false s.iss.slot) = none :=
    findSome_none _ _ fun x hx => by simp [Core.emptyTrap, (h5 x hx).1]
  have e2 : (o.srcs ++ o.dests).findSome? (s.me.emptyWait false) = none :=
    findSome_none _ _ fun x hx => by
      have : s.me.srcEmpty x = false := (List.mem_append.mp hx).elim (fun m => (h5 x m).1) (h6 x)
      simp [Core.emptyWait, this]
  have e3 : o.srcs.find? s.me.srcPoison = none := by
    rw [List.find?_eq_none]; intro x hx; simp [(h5 x hx).2]
  have e4 : checkSlots s (if s.me.inTrap then [] else s.me.heldUses) [(s.iss.slot, o)] = none := by
    have h9' : o.chk { s with iss := { s.iss with slot := s.iss.slot } } = none := h9
    simp only [checkSlots, h9']
    simp only [Op.fits, Bool.or_eq_true, Option.isNone_iff_eq_none] at h10
    rcases h10 with h10 | h10
    · have : (o.uses { s with iss := { s.iss with slot := s.iss.slot } }).isEmpty = true := h10
      simp [this]
    · have : overLimit (addUses (if s.me.inTrap then [] else s.me.heldUses)
          (o.uses { s with iss := { s.iss with slot := s.iss.slot } })) = none := h10
      split
      · split at * <;> simp_all
      · rfl
  simp only [State.verdict, findSome_one, h1, Option.isSome_none, Bool.false_eq_true, if_false,
    State.atSlot_self, e1, e2, h7, ha, h8, hb, e3, Option.none_or, Option.map_none, Bool.false_or, e4, Op.walk, h11,
    List.map_cons, List.map_nil, h12]
  simp

/-- A ready operation has its effect, from the state in which its request has been noted (R243). -/
theorem Op.exec_ready {o : Op} {s : State} (h : o.ready s = true) :
    o.exec s = o.run (s.noteReq (o.reqs s)) := by
  obtain ⟨h1, h2, h3, h4, -, -, -, -, -, -, -, -, h11, -⟩ := Op.ready_parts h
  simp [Op.exec, Op.decodeTrap, h3, h4, h1, h2, Op.ready_verdict h, Op.fire, h11]

/-- A ready instruction has its operation's effect. -/
theorem exec_ready {i : Instr} {o : Op} {s : State} (e : opOf i = some o) (h : ready i s = true) :
    exec i s = .next (o.run (s.noted i)) := by
  rw [exec_of_op i o s e, Op.exec_ready (by simpa [ready, e] using h)]
  simp [State.noted, e]

/-- An operation that asks nothing of others delivers what its effect puts in flight. -/
theorem delivers_of {i : Instr} {o : Op} {s : State} {l : Nat} {d : Dst} (e : opOf i = some o)
    (hr : o.reqs s = none) (h : s.iss.ov = none → o.run s = s.send l d) : delivers i s l d := fun hi => by
  have hp := (Op.ready_parts (s := s) (by simpa [ready, e] using hi)).1
  rw [exec_ready e hi, ← h hp]
  simp [State.noted, e, hr, State.noteReq]

/-- What a ready operation leads to, in terms of its effect. -/
theorem completes_of {i : Instr} {o : Op} {s : State} {f : State → State} (e : opOf i = some o)
    (h : s.iss.ov = none → o.run (s.noted i) = f (s.noted i)) : completes i s f := fun hi => by
  have hp := (Op.ready_parts (s := s) (by simpa [ready, e] using hi)).1
  rw [exec_ready e hi, h hp]

/-- Noting a request changes the list of requests only. -/
theorem State.noted_eq (s : State) (i : Instr) : ∃ rs, s.noted i = { s with iss := { s.iss with reqs := rs } } := by
  unfold State.noted
  split
  · unfold State.noteReq; split
    · exact ⟨s.iss.reqs, rfl⟩
    · exact ⟨_, rfl⟩
  · exact ⟨s.iss.reqs, rfl⟩

/-- Without a replay an operand is its register's value. -/
theorem State.opA_reg {s : State} (h : s.iss.ov = none) (a : GSrc) : s.opA a = s.gReg a := by simp [State.opA, h]
theorem State.opB_reg {s : State} (h : s.iss.ov = none) (a : GSrc) : s.opB a = s.gReg a := by simp [State.opB, h]
theorem State.opC_reg {s : State} (h : s.iss.ov = none) (a : GSrc) : s.opC a = s.gReg a := by simp [State.opC, h]

/-- A state in which the operations read what they read in `s`: it differs from `s` in the requests noted only, and
neither is a replay. -/
structure Like (u s : State) : Prop where
  same : ∃ rs, u = { s with iss := { s.iss with reqs := rs } }
  ov : s.iss.ov = none

theorem Like.me {u s : State} (h : Like u s) : u.me = s.me := by obtain ⟨⟨rs, rfl⟩, -⟩ := h; rfl
theorem Like.core {u s : State} (h : Like u s) (n : Nat) : u.core n = s.core n := by obtain ⟨⟨rs, rfl⟩, -⟩ := h; rfl
theorem Like.mem {u s : State} (h : Like u s) : u.mem = s.mem := by obtain ⟨⟨rs, rfl⟩, -⟩ := h; rfl
theorem Like.fab {u s : State} (h : Like u s) : u.fab = s.fab := by obtain ⟨⟨rs, rfl⟩, -⟩ := h; rfl
theorem Like.cur {u s : State} (h : Like u s) : u.iss.cur = s.iss.cur := by obtain ⟨⟨rs, rfl⟩, -⟩ := h; rfl
theorem Like.slot {u s : State} (h : Like u s) : u.iss.slot = s.iss.slot := by obtain ⟨⟨rs, rfl⟩, -⟩ := h; rfl
theorem Like.word {u s : State} (h : Like u s) : u.iss.word = s.iss.word := by obtain ⟨⟨rs, rfl⟩, -⟩ := h; rfl
theorem Like.noOv {u s : State} (h : Like u s) : u.iss.ov = none := by obtain ⟨⟨rs, rfl⟩, e⟩ := h; exact e
theorem Like.time {u s : State} (h : Like u s) : u.time = s.time := by obtain ⟨⟨rs, rfl⟩, -⟩ := h; rfl
theorem Like.opA {u s : State} (h : Like u s) (a : GSrc) : u.opA a = s.gReg a := by
  rw [State.opA_reg h.noOv, State.gReg, h.me]
theorem Like.opB {u s : State} (h : Like u s) (a : GSrc) : u.opB a = s.gReg a := by
  rw [State.opB_reg h.noOv, State.gReg, h.me]
theorem Like.opC {u s : State} (h : Like u s) (a : GSrc) : u.opC a = s.gReg a := by
  rw [State.opC_reg h.noOv, State.gReg, h.me]
theorem Like.gOf {u s : State} (h : Like u s) (a : GSrc) : u.gOf a = s.gReg a := by rw [State.gOf, h.me]
theorem Like.opP {u s : State} (h : Like u s) (p : PReg) : u.opP p = s.me.ctx.regs.pv p := by rw [State.opP, h.me]
theorem Like.opM {u s : State} (h : Like u s) (m : MReg) : u.opM m = s.me.ctx.regs.mv m := by rw [State.opM, h.me]
theorem Like.opV {u s : State} (h : Like u s) (a : VReg) : u.opV a = s.me.ctx.regs.vCell a := by rw [State.opV, h.me]
theorem Like.translate {u s : State} (h : Like u s) (c : Core) (k : AccessType) (va : Word) :
    u.translate c k va = s.translate c k va := by obtain ⟨⟨rs, rfl⟩, -⟩ := h; rfl
theorem Like.readDesc {u s : State} (h : Like u s) (x : Word) : u.readDesc x = s.readDesc x := by
  rw [State.readDesc, State.readDesc, h.me]

/-- What a ready instruction leads to, whatever requests are noted when its effect begins. -/
theorem completes_when {i : Instr} {o : Op} {s : State} {f : State → State} (e : opOf i = some o)
    (h : ∀ u, Like u s → o.run u = f u) : completes i s f :=
  completes_of e fun ho => h _ ⟨s.noted_eq i, ho⟩

/-- The same for a statement about the next state. -/
theorem leads_when {i : Instr} {o : Op} {s : State} {q : State → Prop} (e : opOf i = some o) (hi : ready i s = true)
    (h : ∀ u, Like u s → q (o.run u)) : leads i s q := by
  have hp := (Op.ready_parts (s := s) (by simpa [ready, e] using hi)).1
  exact ⟨_, exec_ready e hi, h _ ⟨s.noted_eq i, hp⟩⟩

/-- A false guard: the slot has no effect, once its decode checks have passed. -/
theorem Op.exec_skipped {o : Op} {s : State} (hov : s.iss.ov = none) (hl : o.legal s = true)
    (ha : o.allowed s = true) (hg : s.me.ctx.regs.guard o.guard = false) : o.exec s = s := by
  simp [Op.exec, Op.decodeTrap, hl, ha, hov, hg]

end Sys2Proof.Machine
end

