-- ==== Sys2Proof/Laws/Control.lean ====
section
/-! SUPPORT. What the shared operations of control flow do, once: the end of a cycle, taking a trap, returning
from one, and the moves of the program counter. -/

namespace Sys2Proof.Machine

/-! ### Marks of the bundle at hand -/

@[simp] theorem State.me_moved (s : State) : s.moved.me = s.me := rfl
@[simp] theorem State.core_moved (s : State) (n : Nat) : s.moved.core n = s.core n := rfl
@[simp] theorem State.mem_moved (s : State) : s.moved.mem = s.mem := rfl
@[simp] theorem State.advanced_moved (s : State) : s.moved.iss.advanced = true := rfl
@[simp] theorem State.me_over (s : State) : s.over.me = s.me := rfl
@[simp] theorem State.core_over (s : State) (n : Nat) : s.over.core n = s.core n := rfl
@[simp] theorem State.mem_over (s : State) : s.over.mem = s.mem := rfl
@[simp] theorem State.ended_over (s : State) : s.over.iss.ended = true := rfl

/-! ### Cores -/

@[simp] theorem State.me_send (s : State) (l : Nat) (d : Dst) (fl : BitVec 5) (o : Word) :
    (s.send l d fl o).me = { s.me with ctx := s.me.ctx.send l d fl o } := State.me_onMe _ _
theorem State.core_send_other (s : State) (l : Nat) (d : Dst) (fl : BitVec 5) (o : Word) {n : Nat}
    (h : n ≠ s.iss.cur) : (s.send l d fl o).core n = s.core n := State.core_onMe_other _ _ h

/-- The end of a freeze touches the run state and the trace only. -/
theorem Core.thaw_eq (c : Core) (time : Nat) :
    ∃ r t, c.thaw time = { c with run := r, trace := t } ∧ (c.run = .run → r = .run ∧ t = c.trace) := by
  unfold Core.thaw
  split
  · next h => exact ⟨.run, _, rfl, fun e => by rw [e] at h; exact absurd h (by simp)⟩
  · exact ⟨c.run, c.trace, rfl, fun e => ⟨e, rfl⟩⟩

/-- A commit's parts leave the context, the trap registers and the mode as they are. -/
theorem Core.commitParts_keeps (c : Core) (seg : Nat) :
    (c.commitParts seg).ctx = c.ctx ∧ (c.commitParts seg).trap = c.trap ∧ (c.commitParts seg).sup = c.sup
      ∧ (c.commitParts seg).run = c.run ∧ (c.commitParts seg).fetch = c.fetch
      ∧ (c.commitParts seg).btw = c.btw ∧ (c.commitParts seg).entry = c.entry := ⟨rfl, rfl, rfl, rfl, rfl, rfl, rfl⟩

/-- So does a list of them. -/
theorem Core.commitParts_foldl (xs : List (Nat × Nat × Ctx)) (c : Core) :
    let d := xs.foldl (fun c x => c.commitParts x.2.1) c
    d.ctx = c.ctx ∧ d.trap = c.trap ∧ d.sup = c.sup ∧ d.run = c.run ∧ d.fetch = c.fetch ∧ d.btw = c.btw
      ∧ d.entry = c.entry := by
  induction xs generalizing c with
  | nil => exact ⟨rfl, rfl, rfl, rfl, rfl, rfl, rfl⟩
  | cons x xs ih => exact ih (c.commitParts x.2.1)

/-- A protected pair's commits coming nearer leave the context, the trap registers and the mode as they are. -/
theorem Core.closeDue_keeps (c : Core) :
    c.closeDue.ctx = c.ctx ∧ c.closeDue.trap = c.trap ∧ c.closeDue.sup = c.sup ∧ c.closeDue.run = c.run
      ∧ c.closeDue.fetch = c.fetch ∧ c.closeDue.entry = c.entry
      ∧ c.closeDue.btw = { c.btw with closing := c.closeDue.btw.closing } := by
  have h := Core.commitParts_foldl (c.btw.closing.filter fun x => x.1 ≤ 1) c
  obtain ⟨h1, h2, h3, h4, h5, h6, h7⟩ := h
  refine ⟨h1, h2, h3, h4, h5, h7, ?_⟩
  simp only [Core.closeDue]
  rw [h6]

/-- A drain touches the buffers only. -/
theorem Core.drain_eq (c : Core) (tick : Nat) : ∃ l, c.drain tick = { c with loc := l } := ⟨_, rfl⟩

/-- The end of a bundle's cycle: the core at hand has its results landed; its program counter, sequencer state, mode
and trap registers are as before, and so is all but that core and the list of requests. -/
theorem State.closeCycleOf_keeps (s : State) (pc : Word) :
    let t := s.closeCycleOf pc
    t.me.trap = s.me.trap ∧ t.me.sup = s.me.sup ∧ t.me.run = s.me.run ∧ t.me.ctx.pc = s.me.ctx.pc
      ∧ t.me.ctx.seqr = s.me.ctx.seqr ∧ t.me.ctx.caph = s.me.ctx.caph ∧ t.me.ctx.parked = s.me.ctx.parked
      ∧ t.me.ctx.snap = s.me.ctx.snap ∧ t.me.fetch = s.me.fetch ∧ t.mem = s.mem ∧ t.iss.cur = s.iss.cur
      ∧ t.time = s.time ∧ t.reports = s.reports := by
  have h := Core.closeDue_keeps (((if s.iss.ov.isSome then s.me else s.me.count).endCycle (some pc) s.iss.sysw
    (s.iss.reqs ++ if s.iss.ov.isSome then s.me.ctx.owed else [])).drain s.tick)
  obtain ⟨h1, h2, h3, h4, h5, -, -⟩ := h
  have hm : (s.closeCycleOf pc).me = (((if s.iss.ov.isSome then s.me else s.me.count).endCycle (some pc) s.iss.sysw
    (s.iss.reqs ++ if s.iss.ov.isSome then s.me.ctx.owed else [])).drain s.tick).closeDue := by
    simp [State.closeCycleOf, State.me, State.core, State.setMe, State.setCore]
  have hf (xs : List Land) (y : Ctx) : (xs.foldl Ctx.land y).pc = y.pc ∧ (xs.foldl Ctx.land y).seqr = y.seqr
      ∧ (xs.foldl Ctx.land y).caph = y.caph ∧ (xs.foldl Ctx.land y).parked = y.parked
      ∧ (xs.foldl Ctx.land y).snap = y.snap := by
    induction xs generalizing y with
    | nil => exact ⟨rfl, rfl, rfl, rfl, rfl⟩
    | cons x xs ih => exact ih (y.land x)
  have hc : ∀ x : Core, (x.count).trap = x.trap ∧ x.count.sup = x.sup ∧ x.count.run = x.run
      ∧ x.count.ctx.pc = x.ctx.pc ∧ x.count.ctx.seqr = x.ctx.seqr ∧ x.count.ctx.caph = x.ctx.caph
      ∧ x.count.ctx.parked = x.ctx.parked ∧ x.count.ctx.snap = x.ctx.snap ∧ x.count.fetch = x.fetch := by
    intro x; unfold Core.count; split <;> exact ⟨rfl, rfl, rfl, rfl, rfl, rfl, rfl, rfl, rfl⟩
  obtain ⟨c1, c2, c3, c4, c5, c6, c7, c8, c9⟩ := hc s.me
  refine ⟨?_, ?_, ?_, ?_, ?_, ?_, ?_, ?_, ?_, rfl, rfl, rfl, rfl⟩ <;> rw [hm]
  · rw [h2]; show (if s.iss.ov.isSome then s.me else s.me.count).trap = _; split <;> [rfl; exact c1]
  · rw [h3]; show (if s.iss.ov.isSome then s.me else s.me.count).sup = _; split <;> [rfl; exact c2]
  · rw [h4]; show (if s.iss.ov.isSome then s.me else s.me.count).run = _; split <;> [rfl; exact c3]
  · rw [h1]; refine (hf _ _).1.trans ?_; split <;> [rfl; exact c4]
  · rw [h1]; refine (hf _ _).2.1.trans ?_; split <;> [rfl; exact c5]
  · rw [h1]; refine (hf _ _).2.2.1.trans ?_; split <;> [rfl; exact c6]
  · rw [h1]; refine (hf _ _).2.2.2.1.trans ?_; split <;> [rfl; exact c7]
  · rw [h1]; refine (hf _ _).2.2.2.2.trans ?_; split <;> [rfl; exact c8]
  · rw [h5]; show (if s.iss.ov.isSome then s.me else s.me.count).fetch = _; split <;> [rfl; exact c9]

/-! ### Taking a trap -/

/-- A trap outside a handler: the core enters (R222), its trace apart. -/
theorem State.trapWith_enter (s : State) (n : Nat) (i : TrapInfo) (w : TrapAt) (h : (s.core n).inTrap = false) :
    ∃ r t u, s.trapWith n i w
      = s.setCore n { ({ s.core n with run := r, trace := t }).enter i w with trace := u } := by
  obtain ⟨r, t, e, -⟩ := Core.thaw_eq (s.core n) s.time
  unfold State.trapWith
  simp only [e]
  rw [if_neg (by intro hc; rw [show ({ s.core n with run := r, trace := t } : Core).inTrap = (s.core n).inTrap from rfl, h] at hc; exact absurd hc (by simp))]
  exact ⟨r, t, _, rfl⟩

/-- A trap in a handler: the core stops, and the die controller is told (R222). -/
theorem State.trapWith_double (s : State) (n : Nat) (i : TrapInfo) (w : TrapAt) (h : (s.core n).inTrap = true) :
    ∃ t, s.trapWith n i w = { s.setCore n { s.core n with run := .stopped .doubleTrap, trace := t } with
      reports := s.reports ++ [.doubleTrap n (s.core n).trap.code i.code i.info] } := by
  obtain ⟨r, t, e, -⟩ := Core.thaw_eq (s.core n) s.time
  unfold State.trapWith
  simp only [e]
  rw [if_pos (by exact h)]
  exact ⟨t, rfl⟩

/-- A trap leaves global memory as it is. -/
@[simp] theorem State.mem_trapWith (s : State) (n : Nat) (i : TrapInfo) (w : TrapAt) :
    (s.trapWith n i w).mem = s.mem := by unfold State.trapWith; simp only; split <;> rfl

/-- A trap leaves every other core as it is. -/
theorem State.core_trapWith_other (s : State) {n m : Nat} (i : TrapInfo) (w : TrapAt) (h : m ≠ n) :
    (s.trapWith n i w).core m = s.core m := by
  unfold State.trapWith; simp only
  split
  · exact State.core_setCore_other s _ h
  · exact State.core_setCore_other s _ h

@[simp] theorem State.cur_trapWith (s : State) (n : Nat) (i : TrapInfo) (w : TrapAt) :
    (s.trapWith n i w).iss = s.iss := by unfold State.trapWith; simp only; split <;> rfl

/-! ### Where the program counter goes -/

@[simp] theorem Core.goto_pc (c : Core) (t : Word × Seqr) : (c.goto t).ctx.pc = t.1 := rfl
@[simp] theorem Core.goto_seqr (c : Core) (t : Word × Seqr) : (c.goto t).ctx.seqr = t.2 := rfl
@[simp] theorem Core.goto_regs (c : Core) (t : Word × Seqr) : (c.goto t).ctx.regs = c.ctx.regs := rfl
@[simp] theorem Core.goto_pipe (c : Core) (t : Word × Seqr) : (c.goto t).ctx.pipe = c.ctx.pipe := rfl
@[simp] theorem Core.goto_sup (c : Core) (t : Word × Seqr) : (c.goto t).sup = c.sup := rfl
@[simp] theorem Core.goto_trap (c : Core) (t : Word × Seqr) : (c.goto t).trap = c.trap := rfl
@[simp] theorem Core.goto_btw (c : Core) (t : Word × Seqr) : (c.goto t).btw = c.btw := rfl
@[simp] theorem Core.jump_pc (c : Core) (time : Nat) (x : Word) : (c.jump time x).ctx.pc = c.ctx.pc + 32 := rfl
@[simp] theorem Core.jump_regs (c : Core) (time : Nat) (x : Word) : (c.jump time x).ctx.regs = c.ctx.regs := rfl
@[simp] theorem Core.jump_pipe (c : Core) (time : Nat) (x : Word) : (c.jump time x).ctx.pipe = c.ctx.pipe := rfl
@[simp] theorem Core.jump_seqr (c : Core) (time : Nat) (x : Word) :
    (c.jump time x).ctx.seqr = { c.ctx.seqr with pend := 2, tgt := x, loop := false } := rfl

end Sys2Proof.Machine
end

