-- ==== Sys2Proof/Laws/Memory.lean ====
section
/-! SUPPORT. Laws of memory: reading after a write, and the canonical form that every memory operation keeps. -/

namespace Sys2Proof.Machine

/-- A canonical list reads as unlisted below its first address. -/
theorem Memory.read_below {m : Memory} {lo a : Nat} (h : m.wfFrom lo = true) (ha : a < lo) :
    m.read a = Memory.unlisted := by
  cases m with
  | nil => rfl
  | cons c m =>
    obtain ⟨b, x⟩ := c
    simp only [Memory.wfFrom, Bool.and_eq_true, decide_eq_true_eq] at h
    have : ¬ b = a := by omega
    have : a < b := by omega
    simp [Memory.read, *]

/-- The canonical form from an address on is the form from every lower address on. -/
theorem Memory.wfFrom_mono {m : Memory} {lo lo' : Nat} (h : m.wfFrom lo = true) (hl : lo' ≤ lo) :
    m.wfFrom lo' = true := by
  cases m with
  | nil => rfl
  | cons c m =>
    simp only [Memory.wfFrom, Bool.and_eq_true, decide_eq_true_eq] at h ⊢
    exact ⟨⟨by omega, h.1.2⟩, h.2⟩

/-- A write at or above `lo` keeps the canonical form from `lo` on. -/
theorem Memory.write_wfFrom {m : Memory} {lo a : Nat} (x : Byte) (h : m.wfFrom lo = true) (ha : lo ≤ a) :
    (m.write a x).wfFrom lo = true := by
  induction m generalizing lo with
  | nil => by_cases hx : x = Memory.unlisted <;> simp [Memory.write, Memory.wfFrom, hx, ha]
  | cons c m ih =>
    obtain ⟨b, y⟩ := c
    simp only [Memory.wfFrom, Bool.and_eq_true, decide_eq_true_eq, bne_iff_ne, ne_eq] at h
    obtain ⟨⟨hb, hy⟩, hm⟩ := h
    rcases Nat.lt_trichotomy a b with hab | hab | hab
    · by_cases hx : x = Memory.unlisted <;>
        simp [Memory.write, Memory.wfFrom, hab, hx, hy, hb, ha, hm, Nat.succ_le_of_lt hab]
    · subst hab
      by_cases hx : x = Memory.unlisted
      · simpa [Memory.write, hx] using Memory.wfFrom_mono hm (by omega)
      · simp [Memory.write, Memory.wfFrom, hx, ha, hm]
    · have h1 : ¬ a < b := by omega
      have h2 : ¬ a = b := by omega
      simp [Memory.write, Memory.wfFrom, h1, h2, hb, hy, ih hm (by omega)]

/-- R2: a write of one byte keeps the canonical form. -/
theorem Memory.write_wf {m : Memory} (a : Nat) (x : Byte) (h : m.wf = true) : (m.write a x).wf = true :=
  Memory.write_wfFrom x h (Nat.zero_le a)

theorem Memory.writeBytes_wf {m : Memory} (a : Nat) (xs : List Byte) (h : m.wf = true) :
    (m.writeBytes a xs).wf = true := by
  induction xs generalizing m a with
  | nil => exact h
  | cons x xs ih => exact ih (a + 1) (Memory.write_wf a x h)

theorem Memory.writeLe_wf {m : Memory} (a n x : Nat) (h : m.wf = true) : (m.writeLe a n x).wf = true :=
  Memory.writeBytes_wf a _ h

/-- A filter of a canonical list is canonical. -/
theorem Memory.filter_wfFrom {m : Memory} {lo : Nat} (p : Host.Cell → Bool) (h : m.wfFrom lo = true) :
    Memory.wfFrom (List.filter p m) lo = true := by
  induction m generalizing lo with
  | nil => rfl
  | cons c m ih =>
    obtain ⟨b, y⟩ := c
    simp only [Memory.wfFrom, Bool.and_eq_true, decide_eq_true_eq] at h
    by_cases hp : p (b, y) = true
    · simp only [List.filter_cons, hp, if_true]
      simp [Memory.wfFrom, h.1.1, h.1.2, ih h.2]
    · simp only [List.filter_cons, hp]
      exact Memory.wfFrom_mono (ih h.2) (by omega)

theorem Memory.empty_wf : Memory.wf [] = true := rfl

/-- Reading the byte that was written. -/
theorem Memory.read_write_same {m : Memory} {lo a : Nat} (x : Byte) (h : m.wfFrom lo = true) (ha : lo ≤ a) :
    (m.write a x).read a = x := by
  induction m generalizing lo with
  | nil => by_cases hx : x = Memory.unlisted <;> simp [Memory.write, Memory.read, hx]
  | cons c m ih =>
    obtain ⟨b, y⟩ := c
    simp only [Memory.wfFrom, Bool.and_eq_true, decide_eq_true_eq] at h
    rcases Nat.lt_trichotomy a b with hab | hab | hab
    · have hne : ¬ b = a := by omega
      by_cases hx : x = Memory.unlisted <;> simp [Memory.write, Memory.read, hab, hx, hne]
    · subst hab
      by_cases hx : x = Memory.unlisted
      · simpa [Memory.write, hx] using Memory.read_below h.2 (by omega)
      · simp [Memory.write, Memory.read, hx]
    · have h1 : ¬ a < b := by omega
      have h2 : ¬ a = b := by omega
      have h3 : ¬ b = a := by omega
      simp [Memory.write, Memory.read, h1, h2, h3, ih h.2 (by omega)]

/-- Every other byte reads as before. -/
theorem Memory.read_write_other {m : Memory} {lo a b : Nat} (x : Byte) (h : m.wfFrom lo = true) (hab : b ≠ a) :
    (m.write a x).read b = m.read b := by
  induction m generalizing lo with
  | nil =>
    by_cases hx : x = Memory.unlisted
    · simp [Memory.write, Memory.read, hx]
    · rcases Nat.lt_or_ge b a with h1 | h1 <;> simp [Memory.write, Memory.read, hx, Ne.symm hab, h1]
  | cons c m ih =>
    obtain ⟨d, y⟩ := c
    simp only [Memory.wfFrom, Bool.and_eq_true, decide_eq_true_eq] at h
    rcases Nat.lt_trichotomy a d with had | had | had
    · by_cases hx : x = Memory.unlisted
      · simp [Memory.write, had, hx]
      · by_cases hb : b < a
        · have h1 : ¬ d = b := by omega
          have h2 : b < d := by omega
          simp [Memory.write, Memory.read, had, hx, Ne.symm hab, hb, h1, h2]
        · simp [Memory.write, Memory.read, had, hx, Ne.symm hab, hb]
    · subst had
      by_cases hx : x = Memory.unlisted
      · by_cases hb : b < a
        · simp [Memory.write, Memory.read, hx, Ne.symm hab, hb,
            Memory.read_below (Memory.wfFrom_mono h.2 (Nat.le_refl _)) (show b < a + 1 by omega)]
        · simp [Memory.write, Memory.read, hx, Ne.symm hab, hb]
      · simp [Memory.write, Memory.read, hx, Ne.symm hab]
    · have h1 : ¬ a < d := by omega
      have h2 : ¬ a = d := by omega
      by_cases hd : d = b
      · subst hd; simp [Memory.write, Memory.read, h1, h2]
      · by_cases hb : b < d <;> simp [Memory.write, Memory.read, h1, h2, hd, hb, ih h.2]

end Sys2Proof.Machine
end

