-- ==== Sys2Proof/Laws/Pair.lean ====
section
/-! SUPPORT. What bringing the followers of protected pairs up to their leaders can do (R241): it changes followers, and nothing else. -/

namespace Sys2Proof.Machine

/-- Cores are set one after another, and nothing else changes: whatever is read of a state that no core bears on stays. -/
theorem foldl_setCore {α : Type} (get : State → α) (f : State → Nat → Nat × Core) (h : ∀ s n c, get (s.setCore n c) = get s)
    (ns : List Nat) (s : State) : get (ns.foldl (fun s n => s.setCore (f s n).1 (f s n).2) s) = get s := by
  induction ns generalizing s with
  | nil => rfl
  | cons n ns ih => rw [List.foldl_cons, ih, h]

theorem State.get_mirror {α : Type} (get : State → α) (h : ∀ s n c, get (State.setCore s n c) = get s) (old s : State) :
    get (old.mirror s) = get s :=
  foldl_setCore get (fun s n => (n + 1, Core.follow (old.core n) (s.core n) (s.core (n + 1)))) h _ s
@[simp] theorem State.mem_mirror (old s : State) : (old.mirror s).mem = s.mem :=
  State.get_mirror State.mem (fun _ _ _ => rfl) old s
@[simp] theorem State.pairs_mirror (old s : State) : (old.mirror s).pairs = s.pairs :=
  State.get_mirror State.pairs (fun _ _ _ => rfl) old s
@[simp] theorem State.conj_mirror (old s : State) : (old.mirror s).conj = s.conj :=
  State.get_mirror State.conj (fun _ _ _ => rfl) old s
@[simp] theorem State.dies_mirror (old s : State) : (old.mirror s).dies = s.dies :=
  State.get_mirror State.dies (fun _ _ _ => rfl) old s
@[simp] theorem State.pkg_mirror (old s : State) : (old.mirror s).pkg = s.pkg :=
  State.get_mirror State.pkg (fun _ _ _ => rfl) old s
@[simp] theorem State.fab_mirror (old s : State) : (old.mirror s).fab = s.fab :=
  State.get_mirror State.fab (fun _ _ _ => rfl) old s
@[simp] theorem State.inbox_mirror (old s : State) : (old.mirror s).inbox = s.inbox :=
  State.get_mirror State.inbox (fun _ _ _ => rfl) old s
@[simp] theorem State.time_mirror (old s : State) : (old.mirror s).time = s.time :=
  State.get_mirror State.time (fun _ _ _ => rfl) old s

end Sys2Proof.Machine
end

