-- ==== Sys2Proof/Laws/Row.lean ====
section
/-! SUPPORT. Rows and masks made from their lanes, read back lane by lane. -/

namespace Sys2Proof

/-- The bits of a row that has been made up to lane `n`. -/
theorem getLsbD_rowUpTo (n : Nat) (f : Nat → BitVec 32) (hn : n ≤ 512) (j : Nat) :
    (rowUpTo n f).getLsbD j = (decide (j < 32 * n) && (f (j / 32)).getLsbD (j % 32)) := by
  induction n with
  | zero => simp [rowUpTo]
  | succ k ih =>
    rw [rowUpTo, BitVec.getLsbD_or, ih (by omega), BitVec.getLsbD_shiftLeft, BitVec.getLsbD_setWidth]
    by_cases h1 : j < 32 * k
    · have : j < 32 * (k + 1) := by omega
      simp [h1, this]
    · by_cases h2 : j < 32 * (k + 1)
      · have e1 : j / 32 = k := by omega
        have e2 : j - 32 * k = j % 32 := by omega
        have e3 : j < 16384 := by omega
        have e4 : j % 32 < 16384 := by omega
        simp [h1, h2, e1, e2, e3, e4]
      · have : 32 ≤ j - 32 * k := by omega
        simp [h1, h2, BitVec.getLsbD_of_ge _ _ this]

/-- Lane `i` of the row of `f` is `f i`. -/
@[simp] theorem lane_rowOf (f : Nat → BitVec 32) {i : Nat} (h : i < 512) : lane (rowOf f) i = f i := by
  apply BitVec.eq_of_getLsbD_eq
  intro j hj
  have e1 : (32 * i + j) / 32 = i := by omega
  have e2 : (32 * i + j) % 32 = j := by omega
  have e3 : 32 * i + j < 16384 := by omega
  rw [lane, BitVec.getLsbD_extractLsb', rowOf, getLsbD_rowUpTo 512 f (by omega), e1, e2]
  simp [hj, e3]

/-- The bits of a mask that has been made up to bit `n`. -/
theorem getLsbD_maskUpTo (n : Nat) (f : Nat → Bool) (hn : n ≤ 512) (j : Nat) :
    (maskUpTo n f).getLsbD j = (decide (j < n) && f j) := by
  induction n with
  | zero => simp [maskUpTo]
  | succ k ih =>
    rw [maskUpTo, BitVec.getLsbD_or, ih (by omega), BitVec.getLsbD_shiftLeft, BitVec.getLsbD_setWidth]
    rcases Nat.lt_trichotomy j k with h | h | h
    · have : j < k + 1 := by omega
      simp [h, this]
    · subst h
      have : j < 512 := by omega
      simp [this]
    · have h1 : ¬ j < k := by omega
      have h2 : ¬ j < k + 1 := by omega
      have h3 : j - k ≠ 0 := by omega
      simp [h1, h2, h3, BitVec.getLsbD_ofBool]

/-- Bit `i` of the mask of `f` is `f i`. -/
@[simp] theorem getLsbD_maskOf (f : Nat → Bool) {i : Nat} (h : i < 512) : (maskOf f).getLsbD i = f i := by
  rw [maskOf, getLsbD_maskUpTo 512 f (by omega)]
  simp [h]

end Sys2Proof

namespace Sys2Proof.Machine

/-- The flags that a fold over lanes below `n` gathers. -/
theorem getLsbD_laneFlagsUpTo (mask : Mask) (f : Nat → FRes) (n k : Nat) :
    ((List.range n).foldl (fun acc i => if mask.getLsbD i then acc ||| (f i).flags else acc) 0).getLsbD k = true ↔
      ∃ j < n, mask.getLsbD j = true ∧ (f j).flags.getLsbD k = true := by
  induction n with
  | zero => simp
  | succ n ih =>
    rw [List.range_succ, List.foldl_append]
    simp only [List.foldl_cons, List.foldl_nil]
    split
    · rename_i h
      rw [BitVec.getLsbD_or, Bool.or_eq_true, ih]
      constructor
      · rintro (⟨j, hj, hm⟩ | hk)
        · exact ⟨j, by omega, hm⟩
        · exact ⟨n, by omega, h, hk⟩
      · rintro ⟨j, hj, hm, hk⟩
        rcases Nat.lt_succ_iff_lt_or_eq.mp hj with h' | rfl
        · exact .inl ⟨j, h', hm, hk⟩
        · exact .inr hk
    · rename_i h
      rw [ih]
      constructor
      · rintro ⟨j, hj, hm⟩; exact ⟨j, by omega, hm⟩
      · rintro ⟨j, hj, hm, hk⟩
        rcases Nat.lt_succ_iff_lt_or_eq.mp hj with h' | rfl
        · exact ⟨j, h', hm, hk⟩
        · exact absurd hm h

/-- A row operation that asks nothing of others yields the row of its lane results. -/
theorem yields_of {i : Instr} {o : Op} {s : State} {l : Nat} {d : VReg} {mask : Mask} {tag : Option Tag}
    {x : Nat → FRes} (y : Nat → FRes) (e : opOf i = some o) (hr : o.reqs s = none)
    (h : s.iss.ov = none → o.run s = s.send l (.v d (resRow y) mask tag false false) (laneFlags mask y))
    (hy : ready i s = true → ∀ j < 512, y j = x j) : yields i s l d mask tag x := fun hi => by
  have hp := (Op.ready_parts (s := s) (by simpa [ready, e] using hi)).1
  refine ⟨resRow y, laneFlags mask y, fun j hj => by rw [resRow, lane_rowOf _ hj, hy hi j hj], fun k _ => ?_, ?_⟩
  · rw [laneFlags, getLsbD_laneFlagsUpTo]
    constructor <;> rintro ⟨j, hj, hm, hk⟩ <;> exact ⟨j, hj, hm, by simpa [hy hi j hj] using hk⟩
  · rw [exec_ready e hi, ← h hp]
    simp [State.noted, e, hr, State.noteReq]

end Sys2Proof.Machine
end

