-- ==== Sys2Proof/Tests/Slice0.lean ====
section
/-! SUPPORT. Tests: well-formedness, words of the spec's encodings, values of the spec's tables, and for every
statement with hypotheses a state and operands that meet them. -/

namespace Sys2Proof.Tests

open Sys2Proof Sys2Proof.Machine

set_option Elab.async false

/-! ### Small states -/

def al : Guard := ⟨false, 0⟩
def g0 : GSrc := ⟨0, false⟩
def g1 : GSrc := ⟨1, false⟩
def g2 : GSrc := ⟨2, false⟩
def g3 : GSrc := ⟨3, false⟩
def g4 : GSrc := ⟨4, false⟩
def g5 : GSrc := ⟨5, false⟩
def g6 : GSrc := ⟨6, false⟩
def g7 : GSrc := ⟨7, false⟩
def v1 : VSrc := ⟨1, false⟩
def v2 : VSrc := ⟨2, false⟩
def v3 : VSrc := ⟨3, false⟩

/-- A page of 64 KiB at physical address 0 that may be read, written and executed. -/
def pageTlb : Tlb := ⟨0, 0, 0, 1, 0, 0x19F, 0⟩
/-- The module after reset with every feature, and core `n` as `f` makes it of a core in RUN. -/
def withCore (n : Nat) (f : Core → Core) : State :=
  let s := { State.reset with pkg := { Pkg.reset with featact := BitVec.allOnes 256 } }
  let c := Core.reset n
  { s.setCore n (f { c with run := .run, fetch := { c.fetch with tlb := [pageTlb] } }) with
    iss := { Issue.zero with cur := n } }
def setG (c : Core) (d : GReg) (x : Word) : Core :=
  { c with ctx := { c.ctx with regs := c.ctx.regs.setG d ⟨x, true, false⟩ } }
def setV (c : Core) (d : VReg) (x : Row) (t : Tag) : Core :=
  { c with ctx := { c.ctx with regs := c.ctx.regs.setV d ⟨x, t, true, false⟩ } }
def poke (c : Core) (a : Nat) (x : Nat) : Core :=
  { c with loc := { c.loc with tspad := Memory.writeLe c.loc.tspad a 8 x } }
/-- Descriptors in TSPAD: of a gather at 0x100, of UNF at 0x140, of a tag at 0x180; registers that name them. -/
def furnished (c : Core) : Core :=
  let c := poke (poke (poke (poke (poke c 0x108 1) 0x148 0x0001000100010101) 0x150 0x0001000100000000) 0x158
    0x0101010100000000) 0x180 0x0400000000000000
  let c := setG (setG (setG c 1 0x200) 2 5) 3 0x4000000000000000
  setG (setG (setG c 4 0x100) 5 0x140) 6 0x180
/-- Core 0 as supervisor, with rows 1 to 3 of the tag `t`. -/
def tagged (t : Tag) : State := withCore 0 fun c =>
  let c := furnished c
  setV (setV (setV c 1 1 t) 2 2 t) 3 3 t
def one : State := tagged .int32
/-- The same in user mode, in a handler, and in a transit bundle of a transit phase. -/
def user : State := withCore 0 fun c => { furnished c with sup := false }
def handler : State := withCore 0 fun c => { furnished c with trap := { c.trap with tcause := 0x20000 } }
def checked : State := { one with iss := { one.iss with ck := true } }
def transit : State :=
  let s := withCore 0 fun c => { furnished c with btw := { c.btw with phase := some 0 } }
  { s with iss := { s.iss with transit := true } }

/-! ### Well-formedness: each check refuses a term -/

theorem test_wf_good : (Instr.add al 3 g1 g2).wf = true ∧ (Instr.nop 0).wf = true
    ∧ (Instr.wacc 1 0 (List.replicate 10 ⟨false, 0, false, 0, false, 0, false⟩)).wf = true := by decide +kernel
theorem test_wf_guard : (Instr.add ⟨false, 21⟩ 3 g1 g2).wf = false := by decide +kernel
theorem test_wf_policy_on_g0 : (Instr.add al 3 ⟨0, true⟩ g2).wf = false := by decide +kernel
theorem test_wf_terms : (Instr.wacc 1 0 (List.replicate 9 ⟨false, 0, false, 0, false, 0, false⟩)).wf = false
    ∧ (Instr.wacc 1 0 (List.replicate 10 ⟨true, 64, false, 0, false, 0, false⟩)).wf = false
    ∧ (Instr.wacc 1 0 (List.replicate 10 ⟨false, 0, false, 0, true, 0, false⟩)).wf = false := by decide +kernel
theorem test_wf_scope : (Instr.ld al 3 g1 .w64 .abuf true .die 0).wf = false
    ∧ (Instr.st al g2 g1 .w64 .global false .die 0).wf = false := by decide +kernel
theorem test_wf_targets : (Instr.vcvt al 3 v1 0 .raw .rne false).wf = false
    ∧ (Instr.vcvt al 3 v1 0 .e8m0 .rdn false).wf = false ∧ (Instr.vcvts al 3 v1 0 .fp32 false).wf = false := by
  decide +kernel
theorem test_wf_pairs : (Instr.mma al 0 7 5 0).wf = false ∧ (Instr.mmas al 0 5 5 0).wf = false := by decide +kernel
theorem test_wf_units : (Instr.loadDeparture 1024).wf = false ∧ (Instr.lineFill 128 0).wf = false
    ∧ (Instr.dispatchPlacement 4).wf = false ∧ (Instr.portDown 144).wf = false
    ∧ (Instr.pairmodeWrite 512 1 0).wf = false ∧ (Instr.hqtail 64 ⟨0, []⟩).wf = false
    ∧ (Instr.releaseRingWrite 3 0).wf = false ∧ (Instr.dramRefresh 0 64 0).wf = false
    ∧ (Instr.sensorSample [] ⟨0, 0⟩ 0).wf = false
    ∧ (Instr.queueDescriptorWrite 0 256 0 0 0).wf = false ∧ (Instr.tagBlockRecordWrite 0 4096 0).wf = false
    ∧ (Instr.barrierPhaseComplete 0 0 1024).wf = false ∧ (Instr.routerProgramWrite 0 0 0 []).wf = false
    ∧ (Instr.flitReceive 0 []).wf = false ∧ (Instr.cxlMemAccess true 0 1 []).wf = false
    ∧ (Instr.registerWrite (.hostQueue 0 4) 0).wf = false ∧ (Instr.registerWrite (.slpart 0 4) 0).wf = false := by
  decide +kernel

/-! ### Words of the spec's encodings -/

/-- Tables CTL-6, CST, SCH-7 and the words of 05, 06, 13, 15, 17, 18, 19 and 21 for the S slot. -/
def sWords : List (BitVec 48 × Instr) :=
  [(0x08C908000001, .addi ⟨false, 2⟩ 4 g4 1), (0x038312345678, .movi al 3 0x12345678),
   (0x03B6FFC00000, .movhi al 22 0xFFC00000), (0x00F8C8280002, .cmp al 3 .lt g4 g5),
   (0x018987480010, .ld al 6 g7 .w32 .tsLinear false .core 16), (0x01930B600000, .st al ⟨12, false⟩ ⟨11, false⟩ .w64 .global false .core 0),
   (0x019BDC000C80, .aadd al 15 ⟨14, false⟩ g0 true .module .release), (0x01E800000400, .fence al .module),
   (0x010AD4000F03, .bfxz al 11 ⟨10, false⟩ 60 3), (0x02202C000113, .sysw al ⟨22, false⟩ 0x113),
   (0x02102E000001, .waitaCnt al ⟨23, false⟩ 1), (0x0231D0000000, .taga al 7 ⟨8, false⟩), (0x02380E000000, .tagf al g7),
   (0x02424E000000, .tagq al 9 g7), (0x024810000000, .pgref al ⟨8, false⟩), (0x025A50000000, .xlate al 9 ⟨8, false⟩ .read),
   (0x02614C000000, .pop al 5 g6), (0x02614C000001, .popNb al 5 g6), (0x02680E000000, .pushw al g7),
   (0x027010000000, .join al ⟨8, false⟩), (0x027812000000, .launch al ⟨9, false⟩),
   (0x028012500000, .launchi al ⟨9, false⟩ ⟨10, false⟩), (0x028800000005, .bar al 5), (0x029000000007, .bara al 7),
   (0x029800000007, .barw al 7), (0x02A14C000000, .talw al 5 g6), (0x02A9D0000000, .flowq al 7 ⟨8, false⟩),
   (0x02C03FFFFFFD, .br al (-3)), (0x06C03FFFFFF9, .br ⟨false, 1⟩ (-7)), (0x02E83E000000, .ret al ⟨31, false⟩),
   (0x02F008000002, .lbm al g4 2), (0x02F8C000000C, .pfi al 3 12), (0x030000000021, .trap al 0x21),
   (0x030800000000, .eret al), (0x031000000000, .halt al), (0x02D142406000, .brt al g5 1 2 0 3),
   (0x4F880000001E, .movi ⟨false, 19⟩ 8 30)]
theorem test_words_s : (sWords.all fun x => decodeS x.1 == .op x.2) = true := by decide +kernel
/-- The words of 03, 06, 07, 11 and 17 for the V slots. -/
def vWords : List (BitVec 40 × Instr) :=
  [(0x0010428600, .vadd al 1 ⟨2, true⟩ v3 0 .rne), (0x0071050C00, .vmax al 4 ⟨5, false⟩ ⟨6, false⟩ 0 .rne),
   (0x0291400004, .vtag al 5 .fp32), (0x0100860E02, .vcmp al 2 .lt ⟨6, false⟩ ⟨7, false⟩ 0),
   (0x0012051200, .vadd al 8 ⟨5, false⟩ ⟨9, false⟩ 0 .rne), (0x0122860040, .vmov al 10 ⟨6, false⟩ 2),
   (0x0163082804, .vrq al 12 ⟨8, false⟩ ⟨20, false⟩ 0 .rne true), (0x0140C20E01, .vcvt al 3 v2 0 .e4m3 .rne true),
   (0x0251820003, .vld al 6 g2 .abuf 3), (0x02C0010001, .txm al v1 .east), (0x02D0800004, .rxm al 2 .localBus),
   (0x5010410400, .vadd ⟨false, 20⟩ 1 v1 v2 0 .rne)]
theorem test_words_v : (vWords.all fun x => decodeV x.1 == .op x.2) = true := by decide +kernel
/-- Table PAR-5. -/
def mWords : List (BitVec 32 × Instr) :=
  [(0x0053B800, .mma al 2 7 7 0), (0x0053B820, .mma al 2 7 7 1), (0x01100000, .tclr al 2), (0x01494280, .trd al 9 2 5),
   (0x01843000, .twr al ⟨4, false⟩ 3 0), (0x01E007E0, .fqskip al .fb 63), (0x020E0000, .msig al 7)]
theorem test_words_m : (mWords.all fun x => decodeM x.1 == .op x.2) = true := by decide +kernel
/-- The words of 09, 12, 13, 14 and 18 for the C slots. -/
def cWords : List (BitVec 40 × Instr) :=
  [(0x0024146200, .cpy al g4 g5 g6 32 false), (0x0527200041, .feed ⟨false, 1⟩ g7 ⟨8, false⟩ 4 .fb),
   (0x01E60A1000, .cjs al ⟨12, false⟩ g5 1), (0x0206143000, .cjsl al g6 g5 3),
   (0x85E4281000, .cjs ⟨true, 1⟩ ⟨8, false⟩ ⟨20, false⟩ 1), (0x0034556010, .cpy al ⟨20, false⟩ ⟨21, false⟩ ⟨22, false⟩ 1 false)]
theorem test_words_c : (cWords.all fun x => decodeC x.1 == .op x.2) = true := by decide +kernel
/-- The bundles of 03: a G bundle with a checkpoint, a W bundle, `NOP 12` and `NOP 4096`, and form 3. -/
theorem test_word_general : (match decodeBundle 0x200008C90800000100104286000071050C000000000000000000000000000000 with
    | .general b => b.ckpt && !b.rdv && b.slots == [.op (.addi ⟨false, 2⟩ 4 g4 1),
        .op (.vadd al 1 ⟨2, true⟩ v3 0 .rne), .op (.vmax al 4 ⟨5, false⟩ ⟨6, false⟩ 0 .rne), .empty, .empty, .empty]
    | _ => false) = true := by decide +kernel
theorem test_word_weight :
    decodeBundle 0x41C0003388009B188027D8802200004648004208000088000088000088000088 =
      .weight (.wacc 7 0 ([⟨false, 3, false, 3, true, 0, true⟩, ⟨false, 9, true, 3, false, 1, true⟩,
        ⟨true, 2, false, 7, true, 5, true⟩, ⟨true, 2, false, 2, false, 0, false⟩, ⟨false, 4, false, 6, false, 4, true⟩,
        ⟨false, 4, false, 2, false, 0, true⟩] ++ List.replicate 4 ⟨false, 0, false, 0, true, 0, true⟩)) := by
  decide +kernel
theorem test_word_idle : decodeBundle (BitVec.ofNat 256 (0x802C * 2 ^ 240)) = .idle 11
    ∧ decodeBundle (BitVec.ofNat 256 (0xBFFC * 2 ^ 240)) = .idle 4095
    ∧ decodeBundle (BitVec.ofNat 256 (0xC000 * 2 ^ 240)) = .illegal := by decide +kernel

/-! ### Values of the spec's tables -/

/-- The G results that an instruction puts in flight. -/
def sent (i : Instr) (s : State) : List Word :=
  match exec i s with
  | .next t => t.me.ctx.pipe.filterMap fun l => match l.dst with | .g _ x _ => some x | _ => none
  | _ => []
/-- Table SCL-3's operands: G1 is A, G2 is B, G3 is 0xFF and G4 is 8. -/
def scl : State := withCore 0 fun c =>
  setG (setG (setG (setG c 1 0xFEDCBA9876543210) 2 0x0123456789ABCDEF) 3 0xFF) 4 8
theorem test_bfxz : sent (.bfxz al 5 g1 4 7) scl = [0x21] ∧ sent (.bfxz al 5 g1 28 7) scl = [0x87] := by decide +kernel
theorem test_bfx : sent (.bfx al 5 g1 28 7) scl = [0xFFFFFFFFFFFFFF87] ∧ sent (.bfx al 5 g1 60 7) scl = [0x0F] := by
  decide +kernel
theorem test_bfi : sent (.bfi al 5 g1 g3 60 7) scl = [0xFEDCBA9876543210] := by decide +kernel
theorem test_funnels : sent (.fshl al 5 g2 g1 g4) scl = [0x23456789ABCDEFFE]
    ∧ sent (.fshr al 5 g2 g1 g4) scl = [0xEFFEDCBA98765432] := by decide +kernel
theorem test_counts : sent (.clz al 5 g2) scl = [7] ∧ sent (.ctz al 5 g1) scl = [4] ∧ sent (.popc al 5 g1) scl = [32] := by
  decide +kernel
/-- R104: a zero divisor. -/
theorem test_div_by_zero : sent (.div al 6 g4 g0) scl = [0xFFFFFFFFFFFFFFFF] ∧ sent (.rem al 6 g4 g0) scl = [8] := by
  decide +kernel

/-! ### Hypotheses that are met: operations of the slots -/

/-- Are all these instructions ready? -/
def readyAll (s : State) (is : List Instr) : Bool := is.all fun i => i.wf && ready i s

theorem meets_register_forms : readyAll one [.add al 7 g1 g2, .sub al 7 g1 g2, .and al 7 g1 g2, .or al 7 g1 g2,
    .xor al 7 g1 g2, .andn al 7 g1 g2, .min al 7 g1 g2, .max al 7 g1 g2, .minu al 7 g1 g2, .maxu al 7 g1 g2,
    .abs al 7 g1, .sel al 7 3 g1 g2, .mov al 7 g1, .lea al 7 g1 g2 3] = true := by decide +kernel
theorem meets_shifts : readyAll one [.shlReg al 7 g1 g2, .shrReg al 7 g1 g2, .sarReg al 7 g1 g2, .rotReg al 7 g1 g2,
    .shlImm al 7 g1 63, .shrImm al 7 g1 63, .sarImm al 7 g1 63, .rotImm al 7 g1 63] = true := by decide +kernel
theorem meets_products_and_quotients : readyAll one [.mul al 7 g1 g2, .mulh al 7 g1 g2, .mulhu al 7 g1 g2,
    .div al 7 g1 g0, .divu al 7 g1 g2, .rem al 7 g1 g0, .remu al 7 g1 g2] = true := by decide +kernel
theorem meets_immediate_forms : readyAll one [.addi al 7 g1 0xFFFFFF, .movi al 7 5, .movhi al 7 5] = true := by
  decide +kernel
theorem meets_bit_fields_and_counts : readyAll one [.bfx al 7 g1 63 63, .bfxz al 7 g1 0 0, .bfi al 7 g1 g2 63 63,
    .bfxVar al 7 g1 g2 63, .bfxzVar al 7 g1 g2 0, .bfiVar al 7 g1 g2 g1 63, .fshl al 7 g1 g2 g1, .fshr al 7 g1 g2 g1,
    .clz al 7 g1, .ctz al 7 g1, .popc al 7 g1, .brev al 7 g1] = true
    ∧ (encodeS (.bfi al 7 g1 g2 63 63)).isSome = true ∧ (encodeS (.bfiVar al 7 g1 g2 g1 63)).isSome = true
    ∧ (encodeS (.fshl al 7 g1 g2 g1)).isSome = true ∧ (encodeS (.fshr al 7 g1 g2 g1)).isSome = true := by decide +kernel
theorem meets_compares_and_predicates :
    readyAll one ([Cond.eq, .ne, .lt, .le, .gt, .ge, .ltu, .leu, .gtu, .geu].map fun c => .cmp al 3 c g1 g2) = true
    ∧ readyAll one [.pand al 3 1 2, .por al 3 1 2, .pxor al 3 1 2, .pnot al 3 0, .pmov al 3 1, .vtst al 3 0] = true := by
  decide +kernel
/-- The page is there for every access; loads and stores of every space are ready, a global load also where the core's
own stores hold all its bytes. -/
def acc0 (k : AccKind) : Acc := ⟨0, k, true, false, false, false, 0, 0, false, 0, 0x200, 0, 0, true, false⟩
def forwarding : State :=
  withCore 0 fun c => { furnished c with accs := [acc0 (.store 0x200 (leBytes 8 7) false .core)] }
theorem meets_loads_and_stores :
    readyAll one [.ld al 7 g1 .w64 .abuf false .core 8, .st al g2 g1 .w64 .abuf false .core 8,
      .ld al 7 g1 .w8 .tsLinear false .core 1, .st al g2 g1 .w32 .tsSwizzled false .core 4,
      .ld al 7 g1 .w64 .global true .module 8, .st al g2 g1 .w64 .global true .module 8] = true
    ∧ spaceLoc .abuf = some .abuf ∧ one.translate one.me .load 0x208 = .hit 0x208 pageTlb
    ∧ one.translate one.me .store 0x208 = .hit 0x208 pageTlb ∧ (forwards one.me.accs 0 0x208 8).length ≠ 8 := by
  decide +kernel
theorem meets_forwarded_load : readyAll forwarding [.ld al 7 g1 .w64 .global false .core 0] = true
    ∧ forwarding.translate forwarding.me .load 0x200 = .hit 0x200 pageTlb
    ∧ (forwards forwarding.me.accs 0 0x200 8).length = 8 := by decide +kernel
theorem meets_atomics_at_issue : one.translate one.me .atomic (one.gReg g1) = .hit 0x200 pageTlb
    ∧ readyAll one [.aadd al 7 g1 g2 true .module .acqRel, .aand al 7 g1 g2 false .core .relaxed,
      .aor al 7 g1 g2 true .die .relaxed, .axor al 7 g1 g2 true .die .relaxed, .amin al 7 g1 g2 true .die .relaxed true,
      .amax al 7 g1 g2 true .die .relaxed false, .axchg al 7 g1 g2 true .die .relaxed,
      .acas al 7 g1 g2 g3 true .die .relaxed, .afadd al 7 g1 g2 .die .relaxed, .afmax al 7 g1 g2 .die .relaxed] = true := by
  decide +kernel
/-- The engine owns the tile at linear address 0x1000, and an arrival word with GEN 1 and COUNT 3 stands at 0x200. -/
def owned : State := withCore 0 fun c =>
  let c := poke (furnished c) 0x200 (2 ^ 48 + 3)
  { c with loc := { c.loc with owner := 2 } }
theorem meets_ordering_owners_and_arrivals : readyAll one [.fence al .module, .qmark al, .vjoin al, .ownCore al g0,
      .ownEngine al g0, .arma al g1 8, .waitaCnt al g1 0, .waitaGen al g1 0] = true
    ∧ readyAll owned [.waitaCnt al g1 3, .waitaGen al g1 1, .ownCore al g0] = true
    ∧ readyAll (withCore 0 fun c => setG { (furnished c) with loc := { c.loc with owner := 2 } } 7 0x1000)
        [.ownEngine al g7] = true
    ∧ one.me.loc.owner.getLsbD ((one.gReg g0).toNat % 262144 / 4096) = false ∧ one.me.inTrap = false := by decide +kernel
theorem meets_system_registers : readyAll one (([0x000, 0x001, 0x002, 0x003, 0x004, 0x100, 0x101, 0x102, 0x103, 0x104,
      0x105, 0x110, 0x111, 0x112, 0x113, 0x114, 0x115, 0x118, 0x119, 0x11A, 0x11B, 0x120, 0x121, 0x122, 0x123, 0x139,
      0x140, 0x141, 0x200, 0x201, 0x202, 0x300, 0x301, 0x302, 0x303, 0x304, 0x3E0, 0x3E1, 0x3E4, 0x3E5, 0x401, 0x411] :
      List (BitVec 12)).map fun q => .sysr al 7 q) = true
    ∧ readyAll one (([0x000, 0x001, 0x002, 0x003, 0x004, 0x101, 0x102, 0x103, 0x104, 0x105, 0x111, 0x113, 0x114, 0x115,
      0x118, 0x119, 0x11A, 0x11B, 0x139, 0x202, 0x301, 0x302, 0x411, 0x3E0, 0x3E4, 0x3E5] :
      List (BitVec 12)).map fun q => .sysw al g1 q) = true
    ∧ readyAll one [.rngs al g0 g0] = true := by decide +kernel
theorem meets_requests_to_other_units : readyAll one [.taga al 7 g6, .tagf al g1, .tagq al 7 g1, .pgref al g1,
    .xlate al 7 g1 .read, .flowq al 7 g1, .pop al 7 g1, .popNb al 7 g1, .talw al 7 g1] = true := by decide +kernel
theorem meets_work_instructions : readyAll one [.pushw al g0, .launch al g0, .launchi al g0 g1, .join al g1] = true
    ∧ one.translate one.me .load (one.gReg g1 &&& 0x00FFFFFFFFFFFFFF) = .hit 0x200 pageTlb
    ∧ one.translate one.me .atomic (one.gReg g1) = .hit 0x200 pageTlb := by decide +kernel
theorem meets_translations_removed : readyAll one [.tlbi al g1 g2 .page, .tlbi al g1 g2 .space, .tlbi al g1 g2 .all] = true
    := by decide +kernel
theorem meets_barriers_at_issue : readyAll checked [.bara al 1019, .bar al 0, .barw al 0] = true
    ∧ checked.me.inTrap = false ∧ readyAll handler [.bar al 0] = true ∧ handler.me.inTrap = true := by decide +kernel
/-- The entry of the branch tree has arrived. -/
def branching : State := withCore 0 fun c => { furnished c with btw := { c.btw with brt := some (0x40, false) } }
theorem meets_transfers : readyAll one [.br al (-3), .bri al g1, .ret al g1, .call al 7 5, .calli al 7 g1] = true
    ∧ branching.me.btw.brt = some (0x40, false) ∧ readyAll branching [.brt al g1 1 2 3 4] = true := by decide +kernel
theorem meets_loops_and_prefetch : readyAll one [.lbm al g0 63, .lbm al g2 0, .pfi al 31 5] = true := by decide +kernel
theorem meets_loop_runs_count_times : 1 ≤ 64 ∧ (3 : BitVec 32) ≠ 0 ∧ (Core.reset 0).ctx.seqr.pend = 0 := by decide +kernel
theorem meets_traps : readyAll user [.trap al 5, .brk al 5] = true ∧ user.me.inTrap = false
    ∧ readyAll one [.halt al] = true ∧ handler.me.inTrap = true ∧ readyAll handler [.eret al] = true := by decide +kernel
/-- A core in a loop of three bundles, at its second, with a transfer pending. -/
def looping : Core :=
  let c := Core.reset 0
  { c with ctx := { c.ctx with pc := 0x120, seqr := ⟨1, 0x400, true, 0x100, 2, 7⟩ } }
theorem meets_trap_and_return : looping.ctx.pc &&& 31 = 0 ∧ looping.ctx.seqr.tgt &&& 31 = 0
    ∧ looping.ctx.pc = looping.ctx.seqr.lstart + BitVec.ofNat 64 (32 * 1) ∧ 1 ≤ looping.ctx.seqr.llen.toNat
    ∧ looping.ctx.seqr.loop = true ∧ looping.ctx.parked = [] := by decide +kernel
theorem meets_decode_traps : ((opOf (.vexpd al 7 v1 0)).all fun o => o.needs.any fun k => !State.reset.pkg.featact.getLsbD k) = true
    ∧ ((opOf (.sysr al 7 0x7FF)).all fun o => !o.assigned one) = true
    ∧ ((opOf (.eret al)).all fun o => o.legal user && o.sup && !user.me.sup) = true ∧ user.me.inTrap = false := by
  decide +kernel
theorem meets_weight_bundles : readyAll one [.wset 1 0 (List.replicate 10 ⟨true, 2, false, 7, true, 5, true⟩),
    .wacc 1 0 (List.replicate 10 ⟨true, 2, false, 7, true, 5, true⟩),
    .wneg 1 0 (List.replicate 10 ⟨false, 2, false, 7, true, 5, true⟩)] = true := by decide +kernel

def lanes : List Instr := [.vadd al 7 v1 v2 0 .rne, .vsub al 7 v1 v2 0 .rtz, .vmul al 7 v1 v2 0 .rup, .vfma al v3 v1 v2 0 .rdn,
  .vmin al 7 v1 v2 0 .rne, .vmax al 7 v1 v2 0 .rne, .vabs al 7 v1 0, .vneg al 7 v1 0]
theorem meets_lane_arithmetic_int : readyAll (tagged .int8) lanes = true ∧ readyAll (tagged .int32) lanes = true
    ∧ readyAll (tagged .int16) [.vmulh al 7 v1 v2 0 .rne] = true ∧ isInt Tag.int8 = true := by decide +kernel
/-- Row 1 is FP32, row 2 holds scales. -/
def scaled : State := withCore 0 fun c => setV (setV (furnished c) 1 0 .fp32) 2 0 .e8m0
theorem meets_lane_arithmetic_flt : readyAll (tagged .fp32) lanes = true ∧ readyAll (tagged .bf16) lanes = true
    ∧ isFlt Tag.fp32 = true ∧ readyAll scaled [.vmul al 7 v1 v2 0 .rne] = true
    ∧ (scaled.vReg v1).tag = .fp32 ∧ (scaled.vReg v2).tag = .e8m0 := by decide +kernel
theorem meets_lane_bits : readyAll one [.vand al 7 v1 v2 0 .rne, .vor al 7 v1 v2 0 .rne, .vxor al 7 v1 v2 0 .rne,
    .vshl al 7 v1 v2 0 .rne, .vshr al 7 v1 v2 0 .rne, .vsar al 7 v1 v2 0 .rne, .vmov al 7 v1 0, .vpopc al 7 v1 0,
    .vclz al 7 v1 0, .vbfx al 7 v1 v2 0 31, .vfsh al 7 v1 v2 0 31] = true := by decide +kernel
theorem meets_lane_choices : readyAll one [.vcmp al 3 .lt v1 v2 0, .vsel al 7 v1 v2 0, .vbcast al 7 g1 0, .vperm al 7 v1 v2 0,
      .vtag al 7 .e2m1, .vmsk al 3 v1] = true
    ∧ readyAll (tagged .int8) [.vcomp al 7 v1 0, .vexpd al 7 v1 0] = true
    ∧ readyAll (tagged .raw) [.vcmp al 3 .ge v1 v2 0] = true ∧ readyAll (tagged .fp16) [.vcmp al 3 .ne v1 v2 0] = true
    ∧ isFlt Tag.fp16 = true ∧ (encodeV (.vperm al 7 v1 v2 0)).isSome = true := by decide +kernel
theorem meets_conversions : readyAll (tagged .fp32) [.vcvt al 7 v1 0 .bf16 .rne false, .vcvt al 7 v1 0 .e8m0 .rup false,
      .vcvts al 7 v1 0 .e4m3 true, .vexp2 al 7 v1 0 .rne, .vrcp al 7 v1 0 .rne, .vrsq al 7 v1 0 .rne,
      .vlog2 al 7 v1 0 .rne] = true
    ∧ readyAll one [.vrq al 7 v1 g2 0 .rdn true, .vcvt al 7 v1 0 .int8 .rne false] = true
    ∧ readyAll (tagged .e8m0) [.vrcp al 7 v1 0 .rne] = true := by decide +kernel
theorem meets_reductions : readyAll one ([RedOp.add, .max, .min, .or].flatMap fun o =>
      [.vred al 7 v1 0 o, .vscan al 7 v1 0 o]) = true
    ∧ readyAll (tagged .fp32) [.vred al 7 v1 0 .add, .vscan al 7 v1 0 .max] = true
    ∧ readyAll (tagged .raw) [.vred al 7 v1 0 .or, .vscan al 7 v1 0 .or] = true := by decide +kernel
theorem meets_rows_and_buffers : readyAll (tagged .int8) [.vld al 1 g1 .abuf 0x1FFF, .vst al v1 g1 .tsLinear 0,
      .vlut al 7 v1 g1 0 .w8] = true
    ∧ readyAll (withCore 0 fun c => setV (setV (furnished c) 1 0 .int8) 2 0 .int32)
      [.vldx al 1 g1 .abuf v2 0, .vstx al v1 g1 .tsLinear v2 0] = true
    ∧ readyAll transit [.txm al v1 .north, .rxm al 7 .localBus] = true := by decide +kernel
theorem meets_matrix_slot : readyAll one [.mma al 0 7 8 0, .mmas al 0 9 9 29, .mmai al 7 15, .fqskip al .fb 0x7FFF,
      .tclr al 0, .twr al v1 0 63, .trd al 7 0 63, .msig al 7] = true
    ∧ one.me.arr.ecc = [] := by decide +kernel
theorem meets_copies_and_sends_at_issue : readyAll one [.cpy al g3 g1 g2 32 false, .cpy2 al g3 g1 g0 0 false,
      .cpy3 al g3 g1 g0 0 false, .cpyx al g3 g1 g2 0, .unf al g3 g1 g5 0, .gth al g3 g1 g4 0, .sct al g3 g1 g4 0,
      .fill al g3 g2 0, .feed al g1 g2 0 .fb, .xfmT al g3 g0 g0 0, .xfmPack al g3 g0 g0 0, .pfd al g1 g2,
      .pfc al g1 g2 .stream, .sred al g0 g3 g0 0 .addF32, .stg al g3 g1 g2 0 false, .cjs al v1 g2 15,
      .cjsl al g1 g2 0] = true
    ∧ readyAll (withCore 0 fun c => setG (furnished c) 7 0x110) [.xfmCvt al g3 g7 g0 0] = true := by decide +kernel

/-! ### Hypotheses that are met: memory -/

def rst : State := State.reset
theorem meets_slcfg_write : (0x808 : Word).toNat % 2 ^ 5 + (0x808 : Word).toNat / 2 ^ 8 % 2 ^ 4 = 16
    ∧ (0x808 : Word).toNat / 2 ^ 8 % 2 ^ 4 ≤ 8 ∧ rst.entries 127 true = 0 ∧ rst.stgFlies 127 = false := by decide +kernel
/-- A valid space of 2^17 roots at physical address 0, and a page of its generation at root 2^17 - 1. -/
def spaceDw : Word := 0xC400000000000000
def spaced : State := { rst with mem := { rst.mem with astes := [(4095, ⟨spaceDw, 0, 0x0050000000000000⟩)] } }
theorem meets_aste_write : spaceDw.toNat / 2 ^ 52 % 2 ^ 6 = 0 ∧ spaceDw.toNat / 2 ^ 58 % 2 ^ 5 = 17
    ∧ spaceDw.toNat % 2 ^ 52 % (16 * 2 ^ 17) = 0
    ∧ (0x800000000001FFFF : Word).toNat / 2 ^ 17 % 2 ^ 46 = 0 ∧ (0x800000000001FFFF : Word).getLsbD 63 = true
    ∧ (0x800000000001FFFF : Word).toNat % 2 ^ 17 < 2 ^ ((spaced.mem.aste 4095).dw0.toNat / 2 ^ 58 % 32) := by decide +kernel
theorem meets_generation_release : (∀ e ∈ spaced.dies, Map.getD e.2.tasks (4095 * 4096 + 4) 0 = 0)
    ∧ (spaced.mem.aste 4095).dw2.toNat / 2 ^ 52 ≠ 4 ∧ (4095, 4) ∉ spaced.pkg.released := by decide +kernel
/-- A release ring of 16 records, enabled, of which one waits. -/
def ringing : State :=
  { rst with mem := { rst.mem with ring0 := 0x9000000000000000, ring1 := 0x0010000000000000, tail := 0, head := 0xFFFFFFFF } }
theorem meets_ring_write : ¬ (rst.mem.ring0.getLsbD 63 = true ∧ rst.mem.tail ≠ rst.mem.head)
    ∧ 4 ≤ (0xD000000001000000 : Word).toNat / 2 ^ 58 % 2 ^ 5 ∧ (0xD000000001000000 : Word).toNat / 2 ^ 58 % 2 ^ 5 ≤ 20
    ∧ (0xD000000001000000 : Word).toNat / 2 ^ 4 % 2 ^ 52 * 16 % (16 * 2 ^ 20) = 0
    ∧ (ringing.mem.ring0.getLsbD 63 = true ∧ ringing.mem.tail ≠ ringing.mem.head)
    ∧ (0x1000000000000000 : Word) &&& 0x7CFFFFFFFFFFFFF0 = ringing.mem.ring0 &&& 0x7CFFFFFFFFFFFFF0
    ∧ (0x0010000000000000 : Word).extractLsb' 52 12 = ringing.mem.ring1.extractLsb' 52 12
    ∧ ((0 : Word).setWidth 32 - ringing.mem.head).toNat ≤ (ringing.mem.tail - ringing.mem.head).toNat := by decide +kernel
theorem meets_refresh_and_staging : (Map.getD rst.mem.refresh (dramKey 3 63 7) (0, false)).1 = 0
    ∧ ((rst.mem.staged.filter fun y => y.die == 3).filter fun y => y.cls == .pinned).length ≤ 0
    ∧ 2 ^ 36 - 1 < 2 ^ 36 ∧ ((rst.mem.staged.filter fun y => y.die == 3).filter fun y => y.page != 7).length
      < Map.getD rst.mem.areas 3 1024 := by decide +kernel
theorem meets_keyed_memory : Mem.reset.bytes.wf = true := by decide +kernel

/-! ### Hypotheses that are met: queues, order points, replies -/

def gone (a : Acc) : Acc := { a with held := false, departed := true }
def free (a : Acc) : Acc := { a with held := false }
def loadAcc : Acc := free (acc0 (.load (.g 7 0 false) 0x200 8 false .core []))
def storeAcc : Acc := free (acc0 (.store 0x200 (leBytes 8 7) true .module))
def atomAcc : Acc := free (acc0 (.atomic .add 7 0x200 8 5 0 .module .acqRel))
/-- Core 0 with one access. -/
def withAcc (a : Acc) : State := withCore 0 fun c => { furnished c with accs := [a] }
theorem meets_departures :
    (withAcc loadAcc).me.lqHead = some loadAcc ∧ (withAcc loadAcc).me.loadMayGo (withAcc loadAcc).mem loadAcc = true
    ∧ (withAcc storeAcc).me.sqHead = some storeAcc ∧ (withAcc storeAcc).storeMayGo (withAcc storeAcc).me storeAcc = true
    ∧ (withAcc loadAcc).remote loadAcc.home = false := by decide +kernel
def fenceAcc : Acc := free (acc0 (.fence .module))
def markAcc : Acc := free (acc0 .qmark)
theorem meets_markers : fenceAcc.kind.isMark = true ∧ (withAcc fenceAcc).me.lqHead = some fenceAcc
    ∧ (withAcc fenceAcc).markerFree [fenceAcc] fenceAcc false = true ∧ (withAcc fenceAcc).me.sqHead = some fenceAcc
    ∧ (withAcc fenceAcc).markerFree [fenceAcc] fenceAcc true = true := by decide +kernel
/-- A gang of one context, on core 0, with number 1 in die 0. -/
def gang0 : Gang := { record := 0, grid := 0, inst := 0, pairs := [0], cores := [0], launched := true, bars := [], transit := none
                      slot := 0, holds := false, preempt := none, saved := [], gen := 0, time := 0, left := [], done := [] }
def withGang (g : Gang) (f : Core → Core) : State :=
  let s := withCore 0 fun c => f { furnished c with regs := { c.regs with gang := 0x0001000000000200 } }
  s.setGang 0 1 g
def barAcc : Acc := free (acc0 (.barrier 5 0))
def barring : State := withGang gang0 fun c => { c with accs := [barAcc] }
theorem meets_barrier_marker : barring.me.sqHead = some barAcc ∧ barring.markerFree [barAcc] barAcc true = true
    ∧ barring.gangOf 0 = some gang0 := by decide +kernel
/-- Core 0's access has departed, its request stands in the channel of the line's home slice, and `f` is the slice. -/
def served (a : Acc) (f : Slice → Slice) : State :=
  let s := withAcc (gone a)
  let sl := Shape.full.homeSlice 0x200
  { s with mem := { s.mem with
    channels := [(inbound 0 sl, [0])], slices := [(sl, f Slice.reset)], bytes := Memory.writeLe [] 0x200 8 0x11 } }
def sl0 : Nat := Shape.full.homeSlice 0x200
def present (y : Slice) : Slice := { y with present := [(lineOf 0x200, 0)] }
def firstOf (s : State) (a : Acc) : Bool :=
  let y := s.slice sl0
  (s.requests sl0)[0]? == some (0, 0, false) && s.acc 0 0 == some a && !s.waitsBefore y.ingress (lineOf 0x200)
    && (y.mshr.all fun e => e.1 != lineOf 0x200) && !s.updating sl0 0 0 (a.span s.mem) && a.cached && !inControl 0x200
    && !a.kind.coversLine && (match a.kind with | .ask _ => false | _ => true)
theorem meets_order_point_present : firstOf (served loadAcc present) (gone loadAcc) = true
    ∧ firstOf (served storeAcc present) (gone storeAcc) = true ∧ firstOf (served atomAcc present) (gone atomAcc) = true
    ∧ (((served loadAcc present).slice sl0).present.any fun e => e.1 == lineOf 0x200) = true := by decide +kernel
theorem meets_order_point_absent : firstOf (served loadAcc id) (gone loadAcc) = true
    ∧ (((served loadAcc id).slice sl0).present.any fun e => e.1 == lineOf 0x200) = false
    ∧ ((served loadAcc id).slice sl0).mshr.length < 64 := by decide +kernel
def filling : State := { served loadAcc (fun y => { y with mshr := [(lineOf 0x200, [(0, 0)])] }) with time := 1 }
theorem meets_line_fill : (filling.slice sl0).mshr.find? (fun e => e.1 == lineOf 0x200) = some (lineOf 0x200, [(0, 0)])
    ∧ filling.blocked (lineOf 0x200 * 128) = false ∧ filling.acc 0 0 = some (gone loadAcc)
    ∧ filling.updating sl0 0 0 ((gone loadAcc).span filling.mem) = false ∧ inControl 0x200 = false := by decide +kernel
def updating : State := served atomAcc fun y => { y with updates := [(0, 0)] }
theorem meets_atomic_update : (updating.slice sl0).updates[0]? = some (0, 0) ∧ updating.acc 0 0 = some (gone atomAcc)
    ∧ inControl 0x200 = false ∧ updating.mem.bad 0x200 8 = false := by decide +kernel

/-- What has departed to the die. -/
def asking (k : AccKind) : State := withAcc (gone (acc0 k))
def dieAsks (k : AccKind) : Bool :=
  (((asking k).me.accs.filter fun b => b.departed && b.kind.asksDie)[0 - (asking k).me.replies.length]?) == some (gone (acc0 k))
theorem meets_replies :
    (withCore 0 fun c => { c with replies := [⟨0, .g 7 5 false, false⟩] }).me.replies[0]? = some ⟨0, .g 7 5 false, false⟩
    ∧ dieAsks (.xlate 7 0x200 .read ⟨0, 0, 0⟩ true) = true ∧ dieAsks (.tagq 7 3) = true ∧ dieAsks (.flowq 7 3) = true
    ∧ dieAsks (.taga 7 [] 0) = true ∧ dieAsks (.pop 7 255 0 true 0 0) = true
    ∧ ((asking (.pop 7 255 0 true 0 0)).popServe 0 (gone (acc0 (.pop 7 255 0 true 0 0))) 255 0 true 0).isSome = true := by
  decide +kernel
/-- An XLATE of an address whose page is held, of one outside the space, and of one that has to be walked. -/
theorem meets_xlate : (asking (.tagq 7 3)).me.fetch.tlbis = [] ∧ one.pageOf 0 0 0 0 0x200 = .page pageTlb
    ∧ one.pageOf 0 0 0 0 (2 ^ 56) = .fault 1 ∧ one.pageOf 0 0 0 0 0x10000 = .walk ⟨0, 0, 0x10000⟩ ∧ one.me.fetch.asks = [] := by
  decide +kernel
/-- A pop queue with number 3, open for address space 0, which is empty. -/
def popQueue : Queue := { Queue.reset with dw0 := 0xC000000000000000 }
def popping : State :=
  let s := asking (.pop 7 3 0 false 0 0)
  { s.setQueue 0 3 popQueue with time := 2000 }
theorem meets_pop_timeout :
    popping.me.accs.find? (fun b => match b.kind with | .pop .. => true | _ => false) = some (gone (acc0 (.pop 7 3 0 false 0 0)))
    ∧ popping.popServe 0 (gone (acc0 (.pop 7 3 0 false 0 0))) 3 0 false 0 = none
    ∧ 0 + (popping.queue 0 3).poplim.toNat ≤ popping.time ∧ (popping.settled (popping.queue 0 3)).recs = []
    ∧ (popping.queue 0 3).closed = false := by decide +kernel
/-- A tag of two operands, in state `st`, with what it holds. -/
def tag0 (st : TagState) (pres : BitVec 16) (held : List HeldVal) : TagRec :=
  { scope := 0, arity := 2, op := .addI32, forward := false, inc := 1, dcore := 0, aw := 0, dest := 0x1000, fpos := 0,
    ftag := 0, orph := 0, owner := 0, asid := 0, state := st, round := 0, disc := 0, pres := pres, next := 0, held := held,
    since := 0 }
def withTag (r : TagRec) (s : State) : State :=
  { s with conj := { s.conj with blocks := [(0, 0x8000000000000064)], tags := [(0, r)] } }
def freeing : State := withTag (tag0 .opened 1 [⟨0, 1, 0, false, false⟩]) (asking (.tagf 0))
theorem meets_tag_free :
    freeing.listed.find? (fun m => (freeing.core m).accs.any fun b => b.departed && decide (b.kind = .tagf 0)) = some 0
    ∧ (freeing.core 0).accs.find? (fun b => b.departed && decide (b.kind = .tagf 0)) = some (gone (acc0 (.tagf 0)))
    ∧ freeing.tag 0 = some (tag0 .opened 1 [⟨0, 1, 0, false, false⟩]) ∧ freeing.me.regs.ctxId = 0 := by decide +kernel

/-! ### Hypotheses that are met: walks, segments, freezes, saves -/

def w0 : Walk := ⟨0, 0, 0⟩
def walking : State := withCore 0 fun c => { c with fetch := { c.fetch with walks := [w0] } }
theorem meets_walk_starts : (walking.walksOf 0)[0]? = some w0 ∧ walking.mem.walkers = []
    ∧ walking.mem.walkStart 0 0 0 = .absent ∧ walking.me.demands w0 = false
    ∧ dieOf 0 = 0 ∧ dieOf 1023 ≠ 0 ∧ w0 ∈ (walking.core 0).fetch.walks := by decide +kernel
/-- The walk starts over a valid root; the entry of its second level is a leaf, and its line is present. -/
def rooted : Mem := { Mem.reset with
  astes := [(0, ⟨0x8000000000010000, 0, 0⟩)], bytes := [(0x10000, 1), (0x10002, 2), (0x20000, 0x8F)] }
def leafLine : Nat := lineOf 0x20000
def leafSlice : Nat := Shape.full.homeSlice 0x20000
def descending : State := { walking with mem := { rooted with
  walkers := [⟨0, 0, w0, 2, 0x20000, false⟩], channels := [(inbound (srcWalker 0 0) leafSlice, [5])]
  reqs := [(5, { agentReq (.pte 0 0) 0x20000 0 true false 0 with id := 5 })], nextReq := 6
  slices := [(leafSlice, { Slice.reset with present := [(leafLine, 0)] })] } }
theorem meets_walk_levels : rooted.walkStart 0 0 0 = .read 3 0x10000 false
    ∧ (descending.requests leafSlice)[0]? = some (srcWalker 0 0, 5, false) ∧ 1024 ≤ srcWalker 0 0
    ∧ descending.acc (srcWalker 0 0) 5 = some { agentReq (.pte 0 0) 0x20000 0 true false 0 with id := 5 }
    ∧ descending.waitsBefore (descending.slice leafSlice).ingress leafLine = false
    ∧ (descending.slice leafSlice).mshr = [] ∧ descending.updating leafSlice (srcWalker 0 0) 5 (0x20000, 16) = false
    ∧ ((descending.slice leafSlice).present.any fun e => e.1 == leafLine) = true
    ∧ descending.mem.pte 0x20000 = some (0x8F, 0)
    ∧ descending.mem.shape.walkNext 2 0x20000 0 false 0x8F 0 = .leaf 3 0x20000 0x8F 0 := by decide +kernel
/-- Core 0 waits for the first line of a page that is staged; its block buffer holds the block, or does not. -/
def staged0 (c : Option (List Bits256)) : Staged := ⟨0, 0, true, .warm, 0, [], [], c, 0⟩
def missing (b : Option (Nat × List Byte)) (c : Option (List Bits256)) : State :=
  let s := withCore 0 fun c => { c with run := .frozen ⟨4, 0, 0⟩, fetch := { c.fetch with block := b } }
  { s with mem := { s.mem with staged := [staged0 c] } }
theorem meets_code_fetch_miss : ([missing none none, missing none (some [0]), missing (some (0, [])) none].all fun s =>
      s.me.frozenFor 4 && s.translate s.me .fetch s.me.ctx.pc == .hit 0 pageTlb
        && (s.me.fetch.line (s.codePa pageTlb 0)).isNone && s.codePa pageTlb 0 == 0 && !s.me.fetch.failed.contains 0) = true
    ∧ (missing (some (0, [])) none).me.fetch.heldBlock 0 = some [] ∧ (missing none none).me.fetch.heldBlock 0 = none
    ∧ (missing none none).stagedPage 0 0 = some (staged0 none)
    ∧ (missing none (some [0])).stagedPage 0 0 = some (staged0 (some [0]))
    ∧ (staged0 none).block Mem.reset 0 0 = none ∧ ((staged0 (some [0])).block Mem.reset 0 0).isSome = true := by
  decide +kernel
/-- Core 0 (or the core `n`) is about to issue the bundle `b`, which stands in its code cache. -/
def aboutTo (n : Nat) (b : Bits256) (f : Core → Core) : State :=
  withCore n fun c => f { c with fetch := { c.fetch with lines := [⟨0, 0, b, b, b, b⟩] } }
/-- A checkpoint bundle without slots. -/
def ckptBundle : Bits256 := BitVec.ofNat 256 (0x2000 * 2 ^ 240)
def ckptView : View := ⟨ckptBundle, true, false, false, none, []⟩
theorem meets_segment_commit : (aboutTo 0 ckptBundle id).me.run = .run ∧ (aboutTo 0 ckptBundle id).me.recov.phase = 0
    ∧ (aboutTo 0 ckptBundle id).me.btw.halting = false ∧ (aboutTo 0 ckptBundle id).me.midway = false
    ∧ (aboutTo 0 ckptBundle id).meets 0 = .go ckptView ∧ (aboutTo 0 ckptBundle id).me.commits ckptView = true := by
  decide +kernel
theorem meets_halt_commit :
    let c := (withCore 0 fun c => { c with btw := { c.btw with halting := true, haltCommit := true } }).me
    c.run = .run ∧ c.recov.phase = 0 ∧ c.btw.halting = true ∧ c.btw.haltCommit = true ∧ c.roomToCommit = true
    ∧ handler.me.inTrap = true := by decide +kernel
theorem meets_halt_in_handler :
    let c := (withCore 0 fun c => { c with
      trap := { c.trap with tcause := 0x20000 }, btw := { c.btw with halting := true, haltCommit := true } }).me
    c.run = .run ∧ c.inTrap = true ∧ c.btw.halting = true ∧ c.btw.haltCommit = true ∧ c.roomToCommit = true := by decide +kernel
/-- Core 0 is frozen, and waits for nothing any more: the bundle at its program counter may issue. -/
def thawing (r t : Nat) : State := aboutTo 0 0 fun c => { c with run := .frozen ⟨r, 0, t⟩ }
theorem meets_thaw : (thawing 7 0).me.expired = false ∧ (thawing 7 0).awaits 0 = .go ∧ (thawing 7 0).me.run = .frozen ⟨7, 0, 0⟩
    ∧ (thawing 7 5001).me.expired = true := by decide +kernel
theorem meets_freezes : (thawing 7 5001).me.run = .frozen ⟨7, 0, 5001⟩ ∧ (thawing 7 5001).awaits 0 = .go
    ∧ 0 < (thawing 7 5001).me.trap.fwdog.toNat ∧ (thawing 7 5001).me.trap.fwdog.toNat < 5001
    ∧ (thawing 7 5001).me.inTrap = false := by decide +kernel
/-- The bundle at the program counter reads a poisoned register. -/
def failing : State := aboutTo 0 ((encode (.add al 7 g1 g2)).getD 0) fun c =>
  { c with ctx := { c.ctx with regs := (c.ctx.regs.setG 1 ⟨5, true, true⟩).setG 2 ⟨5, true, false⟩ } }
theorem meets_recovery : failing.me.run = .run ∧ failing.me.recov.phase = 0 ∧ failing.me.btw.closing = []
    ∧ failing.me.transitBars = [] ∧ (match failing.meets 0 with | .stop (.recover _) => true | _ => false) = true := by
  decide +kernel
theorem meets_mismatch : (aboutTo 0 0 id).protected_ 0 = true
    ∧ (match (aboutTo 0 0 id).meets 0 with | .stop (.recover _) => true | _ => false) = false := by decide +kernel
/-- Address space 0 maps the first GiB to itself: pages of an area are found (shown once, without 80 walks). -/
def mappedMem : Mem := { Mem.reset with
  astes := [(0, ⟨0x8000000000010000, 0, 0⟩)], bytes := [(0x10000, 1), (0x10002, 2), (0x20000, 0x8F), (0x40006, 5)] }
def mapped (f : Core → Core) : State := { withCore 0 f with mem := mappedMem }
/-- Core 0 is in a handler of a user context. -/
def saving : State := mapped fun c => { c with trap := { c.trap with tcause := 0x20000 } }
/-- A walk there. -/
def mappedTlb : Tlb := ⟨0, 0, 0, 3, 0x20000, 0x8F, 0⟩
theorem mapped_walk (va : Nat) (h : va < 2 ^ 30) : mappedMem.walk 0 0 va = some mappedTlb := by
  have h1 : bitsAt va 39 17 = 0 := by unfold bitsAt; omega
  have h2 : bitsAt va 30 9 = 0 := by unfold bitsAt; omega
  have h3 : alignDown va (pageBytes 3) = 0 := by show va / 2 ^ 30 * 2 ^ 30 = 0; omega
  have e0 : mappedMem.pte 0x10000 = some (0x20001, 0) := by decide +kernel
  have e1 : mappedMem.pte 0x20000 = some (0x8F, 0) := by decide +kernel
  have e2 : (mappedMem.aste 0).dw0.getLsbD 63 = true ∧ bitsAt (mappedMem.aste 0).dw0.toNat 58 5 = 0
      ∧ bitsAt (mappedMem.aste 0).dw0.toNat 0 52 = 0x10000 := by decide +kernel
  have e3 : pteLeaf 0x8F = true ∧ mappedMem.shape.leafOk 0x8F 0 3 false = true ∧ ptePointer 0x20001 0 = true
      ∧ ptePa 0x20001 = 0x20000 := by decide +kernel
  have e4 : (0 : Word).getLsbD 0 = false := rfl
  have s0 : mappedMem.walkStart 0 0 va = .read 3 0x10000 false := by
    simp only [Mem.walkStart, h1, e2, e4, Bool.not_true, Bool.false_and, Bool.false_eq_true, ↓reduceIte]
    rfl
  have s1 : mappedMem.shape.walkNext 3 0x10000 va false 0x20001 0 = .read 2 0x20000 false := by
    simp only [Shape.walkNext, h2, e3, ↓reduceIte]
  have s2 : mappedMem.shape.walkNext 2 0x20000 va false 0x8F 0 = .leaf 3 0x20000 0x8F 0 := by
    simp only [Shape.walkNext, e3, ↓reduceIte]
  unfold Mem.walk
  simp only [s0, Mem.walkFrom, e0, e1, s1, s2, h3]
  rfl
/-- The 80 pages of the area at 0x30000. -/
def area80 : List (Nat × BitVec 8) := (List.range 80).map fun k => (0x30000 + 4096 * k, 0)
theorem mapM_ok {α β ε : Type} (f : α → Except ε β) (g : α → β) :
    ∀ l : List α, (∀ k ∈ l, f k = .ok (g k)) → l.mapM f = .ok (l.map g)
  | [], _ => rfl
  | a :: l, h => by
    have := mapM_ok f g l fun k hk => h k (List.mem_cons_of_mem _ hk)
    simp [List.mapM_cons, h a, this, bind, Except.bind, pure, Except.pure]
theorem mapped_area (f : Core → Core) (h : ((mapped f).core 0).regs.sasid = 0) (hr : (mapped f).remote (pteHome 0) = false) :
    (mapped f).areaPages 0 0x30000 saveLen = .ok area80 := by
  refine mapM_ok _ _ _ fun k hk => ?_
  have hk : k < 80 := List.mem_range.1 hk
  have hw : (mapped f).mem.walk ((mapped f).core 0).regs.sasid 0 (0x30000 + 4096 * k) = some mappedTlb := by
    rw [h]; exact mapped_walk _ (by omega)
  have hp : mappedTlb.pa (0x30000 + 4096 * k) = 0x30000 + 4096 * k := by
    have : ptePa 0x8F = 0 := by decide +kernel
    show ptePa 0x8F + _ % 2 ^ 30 = _
    omega
  have hf : pteW mappedTlb.lo = true ∧ pteR mappedTlb.lo = true ∧ (mapped f).remote (pteHome mappedTlb.hi) = false
      ∧ pteKey mappedTlb.hi = 0 := ⟨by decide, by decide, hr, by decide⟩
  have hs : (mapped f).mem.isSealed (0x30000 + 4096 * k) = false := rfl
  have hi : (mapped f).mem.shape.inStack (0x30000 + 4096 * k) = true := by
    show Shape.full.inStack _ = true
    unfold Shape.inStack
    have : Shape.full.nd = 4 := by decide
    simp [this]; omega
  have hd : ((mapped f).mem.shape.homeDie (0x30000 + 4096 * k) != dieOf 0) = false := by
    have : dieOf 0 = 0 := by decide
    have hi' : Shape.full.inStack (0x30000 + 4096 * k) = true := hi
    show (Shape.full.homeDie _ != _) = false
    simp [Shape.homeDie, hi', this]; omega
  unfold State.areaPage
  simp only [hw, hp, hf, hs, hi, hd, show ¬ 2 ^ 56 ≤ 0x30000 + 4096 * k by omega, Bool.not_true, Bool.or_false, Bool.true_or,
    Bool.false_eq_true, ↓reduceIte]
theorem saving_area : saving.areaPages 0 0x30000 saveLen = .ok area80 :=
  mapped_area _ (by decide +kernel) (by decide +kernel)
theorem meets_csreq_save : saving.me.saving = none ∧ saving.me.inTrap = true ∧ saving.me.trap.tcause.getLsbD 16 = false
    ∧ saving.me.arr = Arr.zero ∧ saving.me.accs = [] ∧ saving.me.replies = []
    ∧ saving.me.btw.closing = [] ∧ saving.me.engine = [] ∧ saving.areaPages 0 0x30000 saveLen = .ok area80 :=
  ⟨by decide +kernel, by decide +kernel, by decide +kernel, by decide +kernel, rfl, rfl, rfl, rfl, saving_area⟩
/-- A saved context of a split pair stands in the area, and core 0 is IDLE. -/
def restoring : State :=
  let s := mapped fun c => { c with run := .idle }
  { s with pairs := [(0, { Pair.reset with mode := 2 })], saves := [(0x30000, (Core.reset 5).saved 2 none)] }
theorem restoring_area : restoring.areaPages 0 0x30000 saveLen = .ok area80 :=
  mapped_area (fun c => { c with run := .idle }) (by decide +kernel) (by decide +kernel)
theorem meets_csreq_restore : restoring.me.run = .idle ∧ restoring.protected_ 0 = false
    ∧ restoring.areaPages 0 0x30000 saveLen = .ok area80
    ∧ ((Map.find? restoring.saves 0x30000).any fun r => !r.restored && r.mode == (restoring.pair (pairOf 0)).mode
        && r.arrAt.isNone) = true
    ∧ restoring.mem.badPages area80 = false :=
  ⟨by decide +kernel, by decide +kernel, restoring_area, by decide +kernel, rfl⟩
def clearing (a t : Bool) : Core :=
  let c := Core.reset 0
  { c with run := .frozen ⟨9, 0, 0⟩, btw := { c.btw with clear := some (a, t) } }
theorem meets_clears : (clearing true true).btw.clear = some (true, true) ∧ (clearing true false).engine.any EngItem.midAbuf = false
    ∧ (clearing true true).expired = false ∧ (clearing false true).btw.clear = some (false, true)
    ∧ (∀ l ∈ (clearing false true).loc.lines, l.2.count = 0) := by decide +kernel
theorem meets_trace_trigger :
    let x : Trace := { trctl := 0x8000000000000000, entries := [], idx := 0, sel := 0, left := none, due := true }
    x.trctl.getLsbD 63 = true ∧ x.trctl.getLsbD 62 = false ∧ x.left = none := by decide +kernel

/-! ### Hypotheses that are met: the package, the weights, the coolant -/

def running : State := { withGang gang0 id with pkg := { Pkg.reset with state := 2 } }
theorem meets_power : running.pkg.state ≠ 0 ∧ running.pkg.state ≠ 3 ∧ running.pkg.state ≠ 5
    ∧ running.gang 0 1 = some gang0 := by decide +kernel
/-- An image whose length field is wrong, pair 511 of a full module, and a module that may start. -/
theorem meets_bring_up : (⟨0, 0, 5, 0, [], []⟩ : FwImage).length ≠ (⟨0, 0, 5, 0, [], []⟩ : FwImage).body.length
    ∧ 511 / 128 < Shape.full.nd ∧ 511 / 4 % 32 < Shape.full.ncl (511 / 128)
    ∧ ({ rst.pkg with state := 1 } : Pkg).safe = none := by decide +kernel
/-- A safe region that holds a byte of die 3's stack. -/
def safe0 : Safe :=
  { bytes := [(0x3000000007, 9)], keys := [], abufs := [], tspads := [], dies := [], hqs := [], roots := [], saves := [], lost := [] }
/-- Ports 2 and 3 lead to a peer, module 5, that stores; port 4 to one that does not. -/
def storing : State := { rst with
  pkg := { rst.pkg with state := 3, safe := some safe0 }
  fab := { rst.fab with fpstat := [(2, 0x4805000000000000), (3, 0x4805000000000000), (4, 0x4006000000000000)] } }
theorem meets_storage_and_restore : storing.pkg.state = 3 ∧ storing.pkg.safe = some safe0 ∧ storing.fab.storePorts = [2, 3]
    ∧ rst.mem.bytes.wf = true ∧ safe0.bytes.wf = true ∧ (∀ c ∈ safe0.bytes, rst.mem.shape.inStack c.1 = true)
    ∧ storing.pkg.warned = none ∧ storing.pkg.storage = none := by decide +kernel
theorem meets_checkpoint_restore : ([1, 4].all fun k => ({ storing.pkg with state := k } : Pkg).state == k
    && ({ storing.pkg with state := k } : Pkg).safe == some safe0) = true ∧ storing.Canonical := by
  constructor
  · decide +kernel
  · unfold State.Canonical; decide +kernel
/-- Host queue 5 is enabled and holds one entry; host queue 63 has a finished root word. -/
def hosted : State := { rst with pkg := { rst.pkg with
  state := 2, hqs := [(5, { HostQ.reset with cfg := 0x8000000000000006, tail := 1 })]
  roots := [⟨7, 0x1000, 0, 0, 63, 0, some false⟩], window := (0, 1) } }
theorem meets_host_queues : hosted.pkg.state = 2 ∧ (hosted.pkg.hq 5).en = true ∧ (hosted.pkg.hq 5).head ≠ (hosted.pkg.hq 5).tail
    ∧ hosted.pkg.open_ < 4096
    ∧ (hosted.pkg.roots.filter fun o => o.finished.isSome)[0]? = some ⟨7, 0x1000, 0, 0, 63, 0, some false⟩
    ∧ ((hosted.pkg.hq 63).cqtail - (hosted.pkg.hq 63).cqhead).toNat ≠ 2 ^ (hosted.pkg.hq 63).log2
    ∧ one.pkg.featact.getLsbD 11 = true ∧ 127 + 1 ≤ hosted.pkg.window.2 * 2 ^ 28
    ∧ (0x100000000000 + hosted.pkg.window.1 * 2 ^ 28 + 127) % 128 + 1 ≤ 128
    ∧ ¬ (128 ≤ rst.pkg.window.2 * 2 ^ 28) := by decide +kernel
/-- The header and the table of an object of one data section (Table PKG-6). -/
def object0 : List Byte :=
  leBytes 4 0x4C53564F ++ [1, 0, 1, 0] ++ leBytes 4 0 ++ leBytes 4 64 ++ leBytes 4 96 ++ List.replicate 44 0
    ++ ([3, 0] ++ leBytes 2 7 ++ leBytes 8 0x10000 ++ leBytes 8 0x400 ++ leBytes 8 3405 ++ leBytes 4 17)
theorem meets_object : objectOf object0 = some ⟨object0, 0, 64, 96, [⟨.data, 0, 7, 0x10000, 0x400, 3405, 17⟩]⟩
    ∧ objectOf (object0.set 4 2) = none := by decide +kernel
/-- A block of one row and one column, with weight 1. -/
def record1 : List Byte := [2, 1, 1, 0, 0, 0, 0, 0, 0, 1, 1, 0, 0, 0, 0, 0, 1, 0, 0, 0, 0, 0, 0, 0]
/-- Its weight, changed to 1, with a fresh page, and the tables of the generation that map address 0 to the page. -/
def update1 : BlockUpdate :=
  ⟨record1, [(0, 1)], 0, [7], [(0x40000, 0x44001), (0x44000, 0x48001), (0x48000, 0x701B7)]⟩
def gen1 : Word := 0x0010000000040000
def code1 : List Bits256 := ((Block.ofRecord record1).map (owcCode 0 record1)).getD []
/-- Address space 0 has a space of one root, which its generations map. -/
def generations : Mem := { Mem.reset with astes := [(0, ⟨0x8000000000010000, 0x8000000000000000, 0⟩)] }
/-- An OWC service that knows of no errata. -/
def owc0 : Pkg := { one.pkg with errata := 0 }
theorem meets_weight_request : (owc0.requests [update1]).1 = some [code1] ∧ code1.length = 3
    ∧ (Block.ofRecord update1.record).any (fun b => b.fmt == 2 && decide (0 < b.rows * b.cols)) = true
    ∧ updateRequest update1 = some record1 := by
  refine ⟨?_, by decide +kernel, by decide +kernel, by decide +kernel⟩
  have hb : ∃ b, Block.ofRecord record1 = some b ∧ owcCode owc0.errata record1 b = code1
      ∧ ¬ b.span * pageBundles < code1.length := ⟨(Block.ofRecord record1).getD ⟨0, 0, 0, 0, 0, 0, 0, 0, 0, []⟩, by decide +kernel⟩
  obtain ⟨b, h1, h2, h3⟩ := hb
  have h4 : owc0.featact.getLsbD 1 = true := by decide +kernel
  have h5 : ∀ d, owc0.loaded d = none := fun d => by
    unfold Pkg.loaded
    rw [show owc0.owc = [] by decide +kernel]
    rfl
  have h6 : updateRequest update1 = some record1 := by decide +kernel
  have h7 : (owc0.request record1).1 = .code code1 := by
    unfold Pkg.request
    simp only [h4, h1, h2, h3, h5, Bool.not_true, Bool.false_eq_true, ↓reduceIte]
  simp only [Pkg.requests, h6, h7]
theorem meets_weight_updates : (rst.pkg.requests [update1]).1 = none ∧ [update1].filter (fun u => !u.changes.isEmpty) = [update1]
    ∧ generations.updates (generations.install code1 update1) 0 gen1 [update1] = true
    ∧ Mem.reset.updates (Mem.reset.install code1 update1) 0 gen1 [update1] = false := by decide +kernel

theorem mapM_some {α β : Type} (f : α → Option β) (g : α → β) :
    ∀ l : List α, (∀ k ∈ l, f k = some (g k)) → l.mapM f = some (l.map g)
  | [], _ => rfl
  | a :: l, h => by
    have := mapM_some f g l fun k hk => h k (List.mem_cons_of_mem _ hk)
    simp [List.mapM_cons, h a, this]
/-- Two ephemeris commits of one slot stand in the mapped GiB: of slot 5 at 0x40000, of the slot of the time at 0x50000. -/
def commits : State := { mapped id with cool := { Cool.reset with reqs := [.commit 0 0x40000] } }
def commit1 (k : Nat) : Commit := { die := 0, first := k, mask := 0, wd := false, words := [0] }
theorem meets_commits : commits.cool.reqs = [.commit 0 0x40000] ∧ commits.readCommit 0 0x40000 = some (commit1 5)
    ∧ commits.checkCommit (commit1 5) = (0, 0) ∧ commits.readCommit 0 0x50000 = some (commit1 0)
    ∧ commits.checkCommit (commit1 0) = (3, 0) ∧ rst.readCommit 0 0x40000 = none
    ∧ commits.commitHeld 0 0x40000 = false ∧ rst.commitHeld 0 0x40000 = false := by decide +kernel
/-- Zone 15 of die 3 stands as `x` says; every zone is calm unless it says otherwise. -/
def zoned (x : Zone) : State := { rst with cool := { Cool.reset with zones := [(3 * 16 + 15, x)] }, time := 651000 }
theorem meets_dry_channel : ((zoned { Zone.reset with state := .dry 0 }).cool.zone 3 15).state = .dry 0 ∧ 0 + 50500 ≤ 651000
    ∧ ((zoned { Zone.reset with state := .gatedDry 0, good := 100 }).cool.zone 3 15).state = .gatedDry 0
    ∧ ((zoned { Zone.reset with state := .gatedDry 0, good := 99 }).cool.zone 3 15).good < 100 := by decide +kernel
/-- Core 0's zone is gated where its slot reserves nothing, and the core is resident; zone 0 has been low twice. -/
def gatedState (r : RunState) : State :=
  let s := withCore 0 fun c => { c with run := r }
  { s with cool := { s.cool with eph := [(0, 0)] } }
theorem meets_gates : (gatedState .run).gated (dieOf 0) ((gatedState .run).zoneOf 0) = true ∧ one.gated (dieOf 0) (one.zoneOf 0) = false
    ∧ 0 ∈ one.residents 0 0 ∧ (one.cool.zone 0 0).state = .normal ∧ (one.cool.zone 0 0).throtJ = false := by decide +kernel
/-- A sample with a hot zone 0 and a calm zone 1 of die 0. -/
def sample0 : List ZoneSample := [⟨421, [381, 300, 341], 0⟩, ⟨400, [368], 0⟩]
theorem meets_samples : rst.cool.sampled ≤ rst.time / 1000 ∧ rst.time / 1000 < ({ rst.cool with sampled := 1 } : Cool).sampled
    ∧ 0 < rst.mem.shape.nd ∧ sample0[0 * 16 + 1]? = some ⟨400, [368], 0⟩ ∧ highestLayer ⟨400, [368], 0⟩ ≤ 368
    ∧ 420 < (421 : Nat) ∧ sample0[0 * 16 + 0]? = some ⟨421, [381, 300, 341], 0⟩
    ∧ ({ one.me.regs with thctl := 0x30 } : CoreRegs).thctl.getLsbD 4 = true
    ∧ ({ one.me.regs with thctl := 0x30 } : CoreRegs).thctl.getLsbD 5 = true := by decide +kernel
theorem meets_modflow : one.expert 10 = true ∧ (∀ k < 256, one.sum k ≤ 240) ∧ ¬ rst.expert 10 = true
    ∧ ({ one.cool with reqs := [.flow 240] } : Cool).reqs = [.flow 240] := by decide +kernel

/-! ### Hypotheses that are met: control registers, dies, gangs -/

theorem meets_run_states : one.me.run = .run ∧ one.me.run ≠ .idle ∧ one.me.run ≠ .stopped .halted
    ∧ (gatedState (.frozen ⟨7, 0, 0⟩)).me.run = .frozen ⟨7, 0, 0⟩
    ∧ (gatedState (.stopped (.debugger none))).me.run = .stopped (.debugger none)
    ∧ (gatedState (.stopped (.debugger (some ⟨7, 0, 0⟩)))).me.run = .stopped (.debugger (some ⟨7, 0, 0⟩)) := by decide +kernel
/-- A PAIRMODE write of the last pair, a program with entries at the largest input, a descriptor, a block and FABCFG. -/
theorem meets_control_writes :
    (∀ i ∈ [2 * 511, 2 * 511 + 1], (rst.core i).run = .idle ∧ (rst.core i).arr.queue = [])
    ∧ (2 : BitVec 2) ≠ 3 ∧ (rst.pair 511).q0 = false ∧ (rst.pair 511).q1 = false
    ∧ (∀ i < 5, (0x9248 : BitVec 16).toNat / 2 ^ (1 + 3 * i) % 8 ≤ 4)
    ∧ (∀ e ∈ (rst.die 3).gangs, e.2.transit.isSome = true → 31 ∉ e.2.clusters)
    ∧ (¬ (((rst.queue 3 255).en = true ∧ (rst.queue 3 255).recs ≠ []) ∨ (20 : Word).toNat % 32 < 6
        ∨ 20 < (20 : Word).toNat % 32))
    ∧ (∀ e ∈ (withTag (tag0 .retired 0 []) rst).conj.tags, 0 * 2 ^ 20 + 0 * 256 ≤ e.1 → e.1 < 0 * 2 ^ 20 + 0 * 256 + 256 →
        e.2.state = .retired ∨ e.2.state = .free)
    ∧ (∀ i < 144, rst.fab.width i = 0) ∧ storing.fab.width 2 ≠ 0 ∧ rst.leader 1023 = 1022 := by decide +kernel

/-- A record for queue 255 of die 0 with the doublewords 3, 6 and 7. -/
def record (d3 d6 d7 : Nat) : BitVec 512 :=
  BitVec.ofNat 512 (255 * 2 ^ 56 + d3 * 2 ^ 192 + d6 * 2 ^ 384 + d7 * 2 ^ 448)
def queue255 (dw0 : Word) (xs : List QRec) : State :=
  { (mapped id) with dies := [(0, { Die.reset with queues := [(255, { Queue.reset with dw0 := dw0, recs := xs, next := 1 })] })] }
def dispatchQ : State := queue255 0x8000000000000000 []
def popQ : State := queue255 0xC000000000000000 []
theorem meets_enqueue :
    let lets (s : State) (r : BitVec 512) : Bool :=
      (s.queue 0 (recQueue r)).en && (s.queue 0 (recQueue r)).asid == recAsid r && !(s.queue 0 (recQueue r)).closed
    lets rst (record 0 1 0) = false ∧ lets dispatchQ (record 0x2000000000 1 0) = true ∧ recClose (record 0x2000000000 1 0) = true
    ∧ lets popQ (record 0 1 0) = true ∧ (popQ.queue 0 255).isPop = true ∧ recClose (record 0 1 0) = false
    ∧ lets dispatchQ (record 0 1 0) = true ∧ (dispatchQ.queue 0 255).isPop = false ∧ recOk (record 0 1 1) .launch = false
    ∧ recOk (record 0 0 0) .pushw = true ∧ recOk (record 0 (2 ^ 24) 0) .launchi = true ∧ recAddr (record 0 (2 ^ 24) 0) 7 = 0
    ∧ recOk (record 0 1 0x10000) .launch = true ∧ recAddr (record 0 1 0x10000) 7 = 0x10000
    ∧ dispatchQ.dieLeaf 0 0x10000 = some mappedTlb ∧ dispatchQ.dieRead 0 0x10000 4 = some [1, 0, 2, 0]
    ∧ leNat [1, 0, 2, 0] ≠ 0
    ∧ recOk (record 0 1 0x80000000) .launch = true ∧ dispatchQ.dieRead 0 0x80000000 4 = none := by decide +kernel
/-- A record whose grid waits and has been released, and the first record of its queue. -/
def grid0 (r : BitVec 512) : Grid := ⟨r, 255, 0, 1, 0, 0, none, none, true, 0⟩
def withGrid (y : Grid) (s : State) : State := s.setGrid 0 4 y
def waitingGrid : Grid := { grid0 (record 0 1 0) with waiting := some 0x10000 }
def qrec (r : BitVec 512) (prio : Nat) : QRec := ⟨r, 0, 0, prio, some 4, none, false⟩
def placing (r : BitVec 512) : State := withGrid (grid0 r) (queue255 0x8000000000000000 [qrec r 0])
/-- With one pair, and with a partition that no pair has. -/
def wide : BitVec 512 := record (2 ^ 54) 1 0
def bestIs (s : State) (c : Cand) : Bool :=
  (s.die 0).aside == [] && lowest ((s.die 0).order s.time) (s.die 0).cands == some c
theorem meets_placement : (withGrid waitingGrid rst).grid 0 4 = some waitingGrid ∧ waitingGrid.waiting.isSome = true
    ∧ waitingGrid.released = true ∧ waitingGrid.idx = none
    ∧ ({ waitingGrid with idx := some (0x10000, 0) } : Grid).idx = some (0x10000, 0) ∧ rst.runHeld (0x10000, 4) = false
    ∧ bestIs (placing (record 0 1 0)) (.record 255 (qrec (record 0 1 0) 0)) = true
    ∧ (placing (record 0 1 0)).grid 0 4 = some (grid0 (record 0 1 0))
    ∧ (placing (record 0 1 0)).placement 0 (record 0 1 0) [] [] = some [1] := by decide +kernel
theorem meets_no_placement : (placing wide).placement 0 wide [] [] = none := by decide +kernel
/-- A gang that has been saved whole, and holds no pair, before anything else that waits. -/
def savedGang : Gang := { gang0 with record := record 0 1 0, pairs := [], cores := [], saved := [0] }
theorem meets_saved_placement : bestIs (rst.setGang 0 9 savedGang) (.saved 9 savedGang) = true
    ∧ (rst.setGang 0 9 savedGang).placement 0 (record 0 1 0) [] [] = some [0] := by decide +kernel

theorem meets_gang_launch :
    let g : Gang := { gang0 with launched := false, pairs := [511], cores := [1022, 1023] }
    g.launched = false ∧ (∀ p ∈ g.pairs, ∀ j ∈ [2 * p, 2 * p + 1], (rst.core j).run = .idle ∧ (rst.core j).arr.queue = [])
    ∧ g.cores.Nodup ∧ g.cores[1]? = some 1023 ∧ (rst.setGang 0 1 g).gang 0 1 = some g := by decide +kernel
/-- The gang's context has halted; a grid whose only instance has completed, with its join word at 0x50000. -/
def halted : State := withGang gang0 fun c => { c with run := .stopped .halted }
def finishedGrid (join : Nat) : Grid :=
  { grid0 (BitVec.ofNat 512 (join * 2 ^ 128)) with placed := 1, finished := 1 }
def joining (join : Nat) : State := withGrid (finishedGrid join) (mapped id)
theorem meets_completions : halted.gang 0 1 = some gang0 ∧ gang0.saved = [] ∧ gang0.launched = true
    ∧ (∀ n ∈ gang0.cores, (halted.core n).run = .stopped .halted
        ∧ ∀ a ∈ (halted.core n).accs, a.kind.isWrite = true → halted.accDone a .module = true)
    ∧ (joining 0).grid 0 4 = some (finishedGrid 0) ∧ (finishedGrid 0).total ≤ (finishedGrid 0).finished
    ∧ recAddr (finishedGrid 0).record 2 = 0 := by decide +kernel
/-- The join word counts zero at 0x50000, one at 0x20000 (where the leaf's own entry stands): it lies in the mapped GiB. -/
theorem meets_grid_join : recAddr (finishedGrid 0x50000).record 2 = 0x50000
    ∧ (joining 0x50000).dieLeaf (recAsid (finishedGrid 0x50000).record) 0x50000 = some mappedTlb
    ∧ (joining 0x50000).remote (leafHome mappedTlb) = false
    ∧ mappedMem.checkLeaf .atomic true 0 0x8F 0 (mappedTlb.pa 0x50000) = none
    ∧ (joining 0x50000).dieHeld 0 0x50000 16 = false ∧ (joining 0x50000).joinHeld 0x50000 0 0 = false
    ∧ mappedMem.bad 0x50000 16 = false
    ∧ (∀ at_ ∈ [0x50000, 0x60000], leNat (mappedMem.load 0 at_ 8) / 2 ^ 32 % 2 ^ 31 = 0 ∧ leNat (mappedMem.load 0 (at_ + 8) 8) % 64 = 0)
    := by decide +kernel
/-- A gang that was asked to save, one whose contexts have arrived, and one whose transit phase has run its length. -/
def asked0 : Gang := { gang0 with preempt := some (0, 0) }
def arrived0 (b : Nat) : Gang := { gang0 with bars := [(b, ⟨0xFFFF, [(0, 1)]⟩)] }
def crossing : Gang := { gang0 with transit := some (3, 0) }
theorem meets_phases : asked0.preempt = some (0, 0) ∧ 0 + 4096 ≤ 4096 ∧ asked0.saved.length ≠ asked0.cores.length
    ∧ 0 ∈ asked0.standing.map (·.1) ∧ ((withGang asked0 id).core 0).declined = true
    ∧ (∀ i < (arrived0 1019).cores.length,
        (Map.getD ((arrived0 1019).bar 1019).at_ i 0 - 1 - (((arrived0 1019).bar 1019).done + 1)).toNat < 2 ^ 15)
    ∧ (arrived0 1023).transit = none ∧ (arrived0 1023).phaseDone (1020 + 3) = true
    ∧ (∀ u < 3, (arrived0 1023).phaseDone (1020 + u) = false) ∧ crossing.transit = some (3, 0)
    ∧ (∀ x ∈ crossing.clusters, (((withGang crossing id).die 0).program x 3).xlen ≤ 0) := by decide +kernel
/-- A set-aside record of the highest priority, of which the gang that holds every other pair is a victim. -/
def pressing : BitVec 512 := record (63 * 2 ^ 58 + 127) 1 0
def wanted : State :=
  let g : Gang := { gang0 with pairs := List.range 512 }
  let s := withGang g id
  let x := s.die 0
  s.setDie 0 { x with
    queues := [(255, { Queue.reset with dw0 := 0x8000000000000000, recs := [qrec pressing 63] })]
    aside := [⟨4, none, []⟩] }
theorem meets_preemption : Cand.record 255 (qrec pressing 63) ∈ (wanted.die 0).cands
    ∧ (wanted.die 0).isAside (.record 255 (qrec pressing 63)) = true ∧ (Cand.record 255 (qrec pressing 63)).level 0 = (63 : BitVec 6).toNat
    ∧ 1 ∈ wanted.victims 0 (.record 255 (qrec pressing 63)) := by decide +kernel

/-! ### Hypotheses that are met: the copy engine and the array -/

def copy0 (op : CopyOp) (a b c : Word) : Copy :=
  { id := 0, op := op, a := a, b := b, c := c, desc := [], inc := 1, chk := false, slot := 4, bundle := 0, asid := 0
    gen := 0, seg := 0, mark := 0, commits := 0, acc := 0, writes := [], done := [], sent := [], aux := [], got := []
    asked := [], tries := 0, spos := 0, idx := [], idxBad := none, base := 0, ctx := 0, own := false, stop := none }
/-- The engine owns tile 1 of TSPAD. -/
def engaged (x : Copy) : State := withCore 0 fun c =>
  let c := furnished c
  { c with engine := [.copy x], loc := { c.loc with owner := 2 } }
def tsA : Word := 0x4000000000002000
/-- Five bytes from virtual address 0x200 to line 32 of TSPAD, and from TSPAD to that address. -/
def inward : Copy := copy0 .cpy 0x4000000000001000 0x200 5
def outward : Copy := copy0 .cpy 0x200 tsA 5
/-- The page may not be written. -/
def readOnly (s : State) : State := s.setCore 0 { s.me with fetch := { s.me.fetch with tlb := [{ pageTlb with lo := 0x197 }] } }
def pieceOk (s : State) (x : Copy) (dp : Option Page) (hi : Nat) : Bool :=
  let window := (s.slice (stgSlice x.b)).windowBytes
  let dt := Page.tlb dp
  let s0 := x.firstSrc (pageSpan dt (x.dst x.acc)) window
  let sp := s0.bind (s.placeOf 0 x .load)
  s.me.copyAt 0 == some x && x.stop.isNone && decide (x.acc < x.len) && !x.unlatched x.acc
    && s.placeOf 0 x .store (x.dst x.acc) == dp && (match sp with | none | some (.page _) => true | _ => false)
    && x.nextEnd s0 (Page.tlb sp) dt window == hi && !(decide (hi < x.len) && x.unlatched hi)
    && (x.lines x.acc hi).all s.me.loc.takes && !s.me.acceptsLater 0 x hi && !s.me.clearsT
theorem meets_write_accept : pieceOk (engaged inward) inward none 5 = true
    ∧ inward.dst 0 = .bank .tsLinear 0x1000 ∧ inward.lines 0 5 = [32]
    ∧ inward.firstSrc (pageSpan none (inward.dst 0)) 0 = some (.va 0x200)
    ∧ pieceOk (engaged outward) outward (some (.page pageTlb)) 5 = true
    ∧ pieceOk (readOnly (engaged outward)) outward (some (.fault 2)) 5 = true := by decide +kernel
theorem meets_copy_end : ({ inward with acc := 5 } : Copy).len ≤ 5 ∧ inward.whole = true
    ∧ ({ inward with acc := 5 } : Copy).writes = []
    ∧ (engaged (copy0 .pfd 0x200 0 0)).me.copyAt 0 = some (copy0 .pfd 0x200 0 0) ∧ ctlLen 0 ≤ 0 := by decide +kernel
theorem meets_prefetches : (engaged (copy0 .pfd 0x200 0 5)).me.copyAt 0 = some (copy0 .pfd 0x200 0 5) ∧ 0 < ctlLen 5
    ∧ (engaged (copy0 .pfd 0x200 0 5)).resolve 0 0 0 0 .load 0x200 = .page pageTlb
    ∧ (engaged (copy0 (.pfc .cold) 0x200 0 5)).resolve 0 0 0 0 .fetch 0x200 = .page pageTlb
    ∧ one.remote (leafHome pageTlb) = false ∧ inControl 0x200 = false := by decide +kernel
/-- A copy whose bytes are accepted: they have not been read, or have not landed. -/
def accepted (x : Copy) (src dst : Option Tlb) (got : Map Byte) : Copy :=
  { x with acc := x.len, writes := [⟨0, x.len, src, dst⟩], got := got }
def readOk (x : Copy) (w : Piece) : Bool :=
  let s := engaged x
  decide (s.me.toMove[0]? = some (.read 0 w 0)) && s.me.copyAt 0 == some x && !x.has 0 && x.asked.isEmpty && s.me.markServed x
def reading : Copy := accepted outward none (some pageTlb) []
def fetching : Copy := accepted inward (some pageTlb) none []
theorem meets_piece_read : readOk reading ⟨0, 5, none, some pageTlb⟩ = true ∧ readOk fetching ⟨0, 5, some pageTlb, none⟩ = true
    ∧ reading.srcAt 0 = some (.bank .tsLinear 0x2000) ∧ fetching.srcAt 0 = some (.va 0x200)
    ∧ (∀ k < reading.readEnd ⟨0, 5, none, some pageTlb⟩ 0, ∃ q, reading.srcAt k = some q
        ∧ (engaged reading).nearByte 0 0 reading q = .ok 0) := by
  refine ⟨by decide +kernel, by decide +kernel, by decide +kernel, by decide +kernel, fun k hk => ?_⟩
  have h5 : reading.readEnd ⟨0, 5, none, some pageTlb⟩ 0 = 5 := by decide +kernel
  have : ∀ k < 5, ((reading.srcAt k).any fun q => (engaged reading).nearByte 0 0 reading q == .ok 0) = true := by decide +kernel
  have := this k (h5 ▸ hk)
  cases hs : reading.srcAt k with
  | none => rw [hs] at this; cases this
  | some q => rw [hs] at this; exact ⟨q, rfl, by simpa using this⟩
def partOk (x : Copy) (w : Piece) : Bool :=
  let s := engaged x
  let c := s.me
  let u := min (x.unitEnd w 0) (0 + c.feedRoom 0 x 0)
  decide (c.toMove[0]? = some (.land 0 w 0)) && c.copyAt 0 == some x && c.feedRoom 0 x 0 != 0 && !x.isDone 0 && x.sent.isEmpty
    && x.mayWrite w && !c.mustWait 0 x 0 u && !c.awaitsClear x w 0 && !x.op.isXfm && c.markServed x
/-- To global memory, to a bank, to a stream, to a slice, and a combining one. -/
def bytes5 : Map Byte := [(0, 1), (1, 2), (2, 3), (3, 4), (4, 5)]
def landing0 : Copy := accepted outward none (some pageTlb) bytes5
def landings : List (Copy × Piece) :=
  [(landing0, ⟨0, 5, none, some pageTlb⟩),
   (accepted inward (some pageTlb) none bytes5, ⟨0, 5, some pageTlb, none⟩),
   (accepted (copy0 (.feed .fa) 0 tsA 5) none none bytes5, ⟨0, 5, none, none⟩),
   (accepted (copy0 .stg tsA 0x8000000000000000 5) none none bytes5, ⟨0, 5, none, none⟩),
   (accepted (copy0 (.sred .addI32) 0x200 tsA 4) none (some pageTlb) bytes5, ⟨0, 4, none, some pageTlb⟩)]
theorem meets_piece_land : (landings.all fun x => partOk x.1 x.2) = true
    ∧ landings.map (fun x => x.1.dst 0)
      = [.va 0x200, .bank .tsLinear 0x1000, .fifo .fa, .slice 0 0, .va 0x200]
    ∧ one.remote (leafHome pageTlb) = false := by decide +kernel
/-- The last part of a checked block of 4096 bytes has landed, and its checksum word, `v`, has been read. -/
def checking (tries : Nat) (v : BitVec 32) : Copy :=
  { copy0 .cpy tsA 0x200 4096 with
    chk := true, acc := 4096, writes := [⟨4095, 4096, some pageTlb, none⟩], done := [(4095, 4096)], tries := tries
    got := [(4095, 0), (crcKey, v.extractLsb' 0 8), (crcKey + 1, v.extractLsb' 8 8), (crcKey + 2, v.extractLsb' 16 8),
      (crcKey + 3, v.extractLsb' 24 8)] }
/-- The block's own checksum. -/
def crc0 : BitVec 32 := crc32c ((checking 0 0).bytes 0 4096)
theorem checking_bytes (n : Nat) (v : BitVec 32) : (checking n v).bytes 0 4096 = (checking 0 0).bytes 0 4096 := by
  have key (n : Nat) (v : BitVec 32) (j : Nat) (hj : j < 4096) : Map.find? (checking n v).got j = if j = 4095 then some 0 else none := by
    have hc : ∀ i, ¬ (crcKey + i = j) := fun i => by have : crcKey = 2 ^ 51 := rfl; omega
    have hc0 : ¬ (crcKey = j) := hc 0
    by_cases h : j = 4095
    · subst h; rfl
    · simp [Map.find?, checking, hc, hc0, h, Ne.symm h]
  refine List.map_congr_left fun k hk => ?_
  obtain ⟨j, hj, rfl⟩ := List.mem_map.1 hk
  have hj : 0 + j < 4096 := by have := List.mem_range.1 hj; omega
  have hp : (checking n v).place (0 + j) = (checking 0 0).place (0 + j) := rfl
  unfold Copy.byte Map.getD
  rw [hp, key n v _ hj, key 0 0 _ hj]
theorem meets_verify (n : Nat) (v : BitVec 32) : crc32c ((checking n v).bytes 0 4096) = crc0 ∧ crc0 ≠ crc0 + 1 := by
  refine ⟨by rw [checking_bytes]; rfl, ?_⟩
  generalize crc0 = x
  bv_omega
theorem meets_verify_block : ([checking 0 crc0, checking 0 (crc0 + 1), checking 2 (crc0 + 1)].all fun x =>
      x.blockReady && x.blockAt == 0 && x.hasAll (crcKey + 4 * 0) (crcKey + 4 * 0 + 4) && x.stop.isNone
        && decide ((engaged x).me.toMove[0]? = some (.verify 0))) = true := by
  decide +kernel
theorem checking_at (n : Nat) (v : BitVec 32) : (engaged (checking n v)).me.copyAt 0 = some (checking n v) := rfl
theorem checking_word (n : Nat) (v : BitVec 32) :
    BitVec.ofNat 32 (leNat ((checking n v).bytes (crcKey + 4 * 0) 4)) = v := by
  have h : (checking n v).bytes (crcKey + 4 * 0) 4
      = [v.extractLsb' 0 8, v.extractLsb' 8 8, v.extractLsb' 16 8, v.extractLsb' 24 8] := rfl
  have hv := v.isLt
  rw [h]
  refine BitVec.eq_of_toNat_eq ?_
  simp only [leNat, BitVec.toNat_ofNat, BitVec.extractLsb'_toNat]
  omega
def stopped0 : Copy := { inward with stop := some (7, 0, 0x200) }
theorem meets_copy_fault : (engaged stopped0).me.copyAt 0 = some stopped0 ∧ stopped0.writes = []
    ∧ (engaged stopped0).homeOf 0 = some 0 ∧ (engaged stopped0).me.trap.cfr0.getLsbD 63 = false := by decide +kernel
theorem meets_arrival_increment : (withCore 0 fun c => { c with incs := [(0x1000, 0), (0x3FFF8, 127)] }).me.incs[1]?
    = some (0x3FFF8, 127) := by decide +kernel
/-- An operation of one K-group with its bytes in both streams. -/
def streaming (k : ArrKind) : Core :=
  let c := Core.reset 0
  let f (n : Nat) : Fifo := ⟨List.replicate n (0, none), []⟩
  let o : ArrOp := { kind := k, t := 7, groups := 1, seg := 0, own := false, idx := 0 }
  { c with arr := { c.arr with fa := f k.unit.1, fb := f k.unit.2, queue := [o] } }
theorem meets_array_operation : (([.mma false 7 7, .mma true 0 0, .mmai, .skip .fb] : List ArrKind).all fun k =>
    (streaming k).arr.queue.all fun o => (streaming k).arr.stepsReady o == 1 && (streaming k).arr.ecc.isEmpty && !(streaming k).arr.residue) = true
    ∧ ((streaming .mmai).arr.queue.all fun o => o.names o.t.toNat) = true
    ∧ ({ (streaming .mmai).arr with residue := true } : Arr).residue = true ∧ restoring.protected_ 0 = false := by decide +kernel

/-! ### Hypotheses that are met: conjunctions -/

/-- A send of core 0 to tag `t`, position 1. -/
def send0 (t : BitVec 32) (pos : BitVec 4) (f : Tag) : Send :=
  { id := 0, tag := t, pos := pos, src := none, fmt := some f, row := some 7, ctx := 0, asid := 0, seg := 0, sent := false
    refused := 15, due := 0, waiting := false, stop := none }
/-- Core 0 with the send, and the tag's record; it owns the second tile of TSPAD for the engine. -/
def sending (x : Send) (r : TagRec) : State :=
  let s := withCore 0 fun c => { c with engine := [.send x], loc := { c.loc with owner := 2 } }
  { s with
    conj := { s.conj with blocks := [(0, 0x8000000000000064), (1, 0x8000000000000064)], tags := [(tagKey x.tag, r)] }
    time := 100 }
def base (x : Send) (r : TagRec) : Bool :=
  let s := sending x r
  s.arrivals[0]? == some (.inl (0, 0)) && s.me.sendAt 0 == some x && s.sendFirst 0 0 x
    && (match s.me.sendRow 0 x with | .ok w => w == 7 | .error _ => false) && !s.tagRemote x.tag && s.tag x.tag == some r
def lives (x : Send) (r : TagRec) : Bool := r.state != .free && blockEn ((sending x r).tagBlock x.tag)
def inside (x : Send) : Bool := Shape.full.inScope x.tag (some (sliceOf 0)) && tagScope x.tag != 3
def held0 : HeldVal := ⟨0, 1, 3, false, false⟩
def send1 : Send := send0 0 1 .int32
/-- A tag of another cluster's unit. -/
def far : BitVec 32 := 1
theorem meets_refused_operands : base send1 (tag0 .free 0 []) = true ∧ lives send1 (tag0 .free 0 []) = false
    ∧ base (send0 far 1 .int32) (tag0 .idle 0 []) = true ∧ inside (send0 far 1 .int32) = false
    ∧ base (send0 0 2 .int32) (tag0 .idle 0 []) = true ∧ inside (send0 0 2 .int32) = true
    ∧ lives (send0 0 2 .int32) (tag0 .idle 0 []) = true ∧ (tag0 .idle 0 []).arity ≤ (2 : BitVec 4).toNat
    ∧ base (send0 0 1 .fp32) (tag0 .idle 0 []) = true ∧ fmtFits (tag0 .idle 0 []).op (some .fp32) = false := by
  decide +kernel
/-- A full operand memory. -/
def full256 : TagRec := tag0 .opened 1 (List.replicate 256 held0)
theorem meets_operands : ([tag0 .broken 0 [], tag0 .retired 0 [], tag0 .idle 0 [], tag0 .opened 1 [held0], tag0 .opened 2 [],
      { tag0 .opened 2 [] with next := 2 }].all fun r => base send1 r && lives send1 r && inside send1
        && decide (1 < r.arity) && fmtFits r.op send1.fmt) = true
    ∧ (sending send1 (tag0 .idle 0 [])).freeEntry (Shape.full.tagUnit 0) = some false
    ∧ (sending send1 (tag0 .opened 2 [])).freeEntry (Shape.full.tagUnit 0) = some false
    ∧ (tag0 .idle 0 []).pres.getLsbD 1 = false ∧ (tag0 .opened 2 []).pres.getLsbD 1 = true
    ∧ (sending send1 { tag0 .opened 2 [] with next := 2 }).homeOf 0 = some 0 := by decide +kernel
/-- Another tag of the unit holds all its entries. -/
def crowded : State :=
  let s := sending send1 (tag0 .idle 0 [])
  { s with conj := { s.conj with tags := [(0, tag0 .idle 0 []), (33, full256)] } }
theorem meets_no_entry : crowded.freeEntry (Shape.full.tagUnit 0) = none ∧ crowded.tag 0 = some (tag0 .idle 0 [])
    ∧ crowded.arrivals[0]? = some (.inl (0, 0)) ∧ crowded.me.sendAt 0 = some send1 := by decide +kernel
/-- A forwarded result of tag 0x108 is on its way to tag 0, and tag 0x108's own record. -/
def forward0 (pos : BitVec 4) (refused : Nat) : Operand := ⟨.tag 0x108, 0, pos, some .int32, 7, refused, 0⟩
def forwarded (o : Operand) (r : TagRec) (x : List (Nat × TagRec)) : State :=
  let s := withCore 0 id
  { s with conj := { s.conj with
    blocks := [(0, 0x8000000000000064), (1, 0x8000000000000064)], flying := [o]
    tags := [(0, r)] ++ x ++ [(0x108, tag0 .idle 0 [])] } }
def metAs (o : Operand) (r : TagRec) (x : List (Nat × TagRec)) (m : Met) : Bool :=
  let s := forwarded o r x
  s.arrivals[0]? == some (.inr 0) && s.conj.flying[0]? == some o && decide (o.due ≤ s.time)
    && (s.meet o.tag o.pos o.fmt o.row (some (Shape.full.tagUnit 0x108))).2 == m
theorem meets_forwarded : metAs (forward0 1 0) (tag0 .idle 0 []) [] .placed = true
    ∧ metAs (forward0 1 14) (tag0 .idle 0 []) [(33, full256)] .full = true
    ∧ metAs (forward0 2 0) (tag0 .idle 0 []) [] (.refused 3) = true
    ∧ (forwarded (forward0 2 0) (tag0 .idle 0 []) []).tag 0x108 = some (tag0 .idle 0 [])
    ∧ (forwarded (forward0 2 0) (tag0 .idle 0 []) []).homeOf 0 = some 0 := by decide +kernel
def result0 (f : Bool) : Result := ⟨0, 7, { tag0 .idle 0 [] with forward := f }⟩
def resulting (f : Bool) : State :=
  let s := sending send1 (tag0 .idle 0 [])
  { s with conj := { s.conj with results := [result0 f] } }
theorem meets_results : (resulting false).resultOf 0 = some (result0 false) ∧ (result0 false).tr.forward = false ∧ ((resulting false).core 0).clearsT = false
    ∧ (∀ j < 16, ((resulting false).core 0).loc.takes ((0x1080 + 128 * j) % 262144 / 128) = true)
    ∧ (resulting true).resultOf 0 = some (result0 true) ∧ (∀ q ∈ (resulting true).conj.flying, q.src ≠ .tag 0) := by
  decide +kernel
def retrying : Send := { send1 with waiting := true, due := 100 }
def refused0 : Send := { send1 with stop := some 6 }
theorem meets_retry_and_refusal : (sending retrying (tag0 .idle 0 [])).me.sendAt 0 = some retrying
    ∧ (((List.range (sending retrying (tag0 .idle 0 [])).me.engine.length).filter fun j =>
        match (sending retrying (tag0 .idle 0 [])).me.sendAt j with
        | some x => x.waiting && decide (x.due ≤ 100) | none => false)[0]?) = some 0
    ∧ (sending refused0 (tag0 .idle 0 [])).me.sendAt 0 = some refused0
    ∧ (sending refused0 (tag0 .idle 0 [])).homeOf 0 = some 0
    ∧ (sending send1 (tag0 .opened 1 [held0])).tag 0 = some (tag0 .opened 1 [held0])
    ∧ 0 + blockOlim ((sending send1 (tag0 .opened 1 [held0])).tagBlock 0) ≤ 100 := by decide +kernel

/-! ### Hypotheses that are met: the fabric -/

/-! The folds of the parity code and of the CRC are evaluated with each value forced, so that the kernel builds no tower. -/

/-- `k` of a number, after the number has been evaluated. -/
def force {α : Type} {w : Nat} (n : BitVec w) (k : BitVec w → α) : α :=
  Nat.rec (motive := fun _ => α) (k 0) (fun m _ => k (BitVec.ofNat w (m + 1))) n.toNat
theorem force_eq {α : Type} {w : Nat} (n : BitVec w) (k : BitVec w → α) : force n k = k n := by
  have h : BitVec.ofNat w n.toNat = n := by simp
  unfold force
  cases hn : n.toNat with
  | zero => rw [hn] at h; show k 0 = k n; rw [← h]; rfl
  | succ m => rw [hn] at h; show k _ = _; rw [h]
def foldF {α : Type} {w : Nat} (f : BitVec w → α → BitVec w) : List α → BitVec w → BitVec w
  | [], y => y
  | a :: l, y => force (f y a) (foldF f l)
theorem foldF_eq {α : Type} {w : Nat} (f : BitVec w → α → BitVec w) (l : List α) : ∀ y, foldF f l y = l.foldl f y := by
  induction l with
  | nil => intro y; rfl
  | cons a l ih => intro y; rw [foldF, force_eq, ih]; rfl
/-- Is every syndrome of a word zero? -/
def clean (w : List Byte) : Bool :=
  (List.range rsParity).all fun j => force (gfPow j) (fun x => foldF (fun y a => a ^^^ gfMul y x) w 0) == 0
theorem rsCorrect_clean (w : List Byte) (h : clean w = true) : rsCorrect w = some (w, 0) := by
  have : (rsSyndromes w).all (· == 0) = true := by
    rw [rsSyndromes, List.all_map]
    refine List.all_eq_true.2 fun j hj => ?_
    have := List.all_eq_true.1 h j hj
    rw [force_eq, foldF_eq] at this
    simpa [gfEval, List.foldr_reverse] using this
  unfold rsCorrect
  simp only [this, ↓reduceIte]
/-- A received flit whose words are clean and whose CRC agrees. -/
def passes (bs : List Byte) : Bool :=
  let word (i : Nat) : List Byte := (List.range 128).map fun j => bs.getD (2 * j + i) 0
  clean (word 0) && clean (word 1) && ((word 0).zip (word 1)).flatMap (fun x => [x.1, x.2]) == bs
    && leNat ((bs.drop 200).take 4) == (~~~(foldF crc32Byte (bs.take 200) 0xFFFFFFFF)).toNat
theorem flitCheck_passes (bs : List Byte) (h : passes bs = true) : flitCheck bs = some (bs, 0) := by
  simp only [passes, Bool.and_eq_true, beq_iff_eq] at h
  obtain ⟨⟨⟨h0, h1⟩, h2⟩, h3⟩ := h
  rw [foldF_eq] at h3
  unfold flitCheck
  simp only [rsCorrect_clean _ h0, rsCorrect_clean _ h1, h2]
  exact if_pos h3
/-- A received flit whose words are clean, and whose CRC does not agree. -/
def fails (bs : List Byte) : Bool :=
  let word (i : Nat) : List Byte := (List.range 128).map fun j => bs.getD (2 * j + i) 0
  let out := ((word 0).zip (word 1)).flatMap fun x => [x.1, x.2]
  clean (word 0) && clean (word 1) && leNat ((out.drop 200).take 4) != (~~~(foldF crc32Byte (out.take 200) 0xFFFFFFFF)).toNat
theorem flitCheck_fails (bs : List Byte) (h : fails bs = true) : flitCheck bs = none := by
  simp only [fails, Bool.and_eq_true, bne_iff_ne] at h
  obtain ⟨⟨h0, h1⟩, h2⟩ := h
  rw [foldF_eq] at h2
  unfold flitCheck
  simp only [rsCorrect_clean _ h0, rsCorrect_clean _ h1]
  exact if_neg h2
/-- A flit of KIND 1 and SEQ 0 that brings a unit of zeros in channel 2, and a retry request, as they stand on the lane:
header, slots, CRC-32C and parity (worked out by hand from Table FAB-1). -/
def flit1 : List Byte := [0, 0, 32, 36] ++ List.replicate 196 0 ++
  [173, 169, 218, 239, 103, 197, 159, 8, 132, 55, 204, 105, 142, 30, 138, 127, 230, 150, 20, 235, 140, 115, 61, 101, 239, 240,
   166, 67, 158, 36, 100, 168, 47, 218, 111, 14, 7, 134, 214, 49, 135, 168, 151, 78, 108, 2, 107, 220, 201, 208, 3, 216, 100,
   166, 59, 49]
def flit2 : List Byte := [0, 0, 0, 64] ++ List.replicate 196 0 ++
  [86, 242, 163, 86, 123, 107, 175, 40, 25, 68, 54, 136, 132, 123, 161, 129, 104, 239, 84, 129, 86, 220, 254, 79, 232, 225,
   21, 106, 185, 38, 53, 146, 246, 110, 148, 64, 31, 173, 139, 139, 57, 35, 194, 216, 52, 223, 241, 71, 219, 134, 165, 130,
   15, 195, 119, 255]
theorem test_flit1 : passes flit1 = true := by decide +kernel
theorem test_flit2 : passes flit2 = true := by decide +kernel
theorem test_flit0 : fails (List.replicate 256 0) = true := by decide +kernel
/-- Port 143 is up, in full width. -/
def linked : State := { rst with pkg := { rst.pkg with record := { rst.pkg.record with portMap := BitVec.allOnes 144 } }, fab := { rst.fab with cfg := 0x8000000000000000, fpstat := [(143, 0x8000000000000000)] } }
theorem meets_flits : linked.fab.width 143 ≠ 0 ∧ (linked.fab.link 143).training = false
    ∧ flitCheck flit1 = some (flit1, 0) ∧ flitCheck flit2 = some (flit2, 0) ∧ flitCheck (List.replicate 256 0) = none
    ∧ (flitOf flit1).kind = 1 ∧ (flitOf flit1).seq = (linked.fab.link 143).expect
    ∧ (flitOf flit1).slots = [some (2, List.replicate 64 0), none, none] ∧ (flitOf flit2).kind = 2
    ∧ leNat ((List.replicate 64 (0 : Byte)).take 8) / 2 ^ 27 % 2 ^ 6 = 0 ∧ Map.find? (linked.fab.link 143).rx 2 = none :=
  ⟨by decide +kernel, by decide +kernel, flitCheck_passes _ test_flit1, flitCheck_passes _ test_flit2, flitCheck_fails _ test_flit0,
    by decide +kernel, by decide +kernel, by decide +kernel, by decide +kernel, by decide +kernel, by decide +kernel⟩
/-- Retries have run out, half width, training, and a flit out of sequence. -/
def linkAs (w : Word) (l : Link) : State := { linked with fab := { linked.fab with fpstat := [(143, w)], links := [(143, l)] } }
theorem meets_links : (Link.reset.retries < 15)
    ∧ ((linkAs 0x8000000000000000 { Link.reset with retries := 15, retry := [(1, [])] }).fab.link 143).retries = 15
    ∧ ((1 - (0 : BitVec 16)).toNat < 2 ^ 15)
    ∧ linked.fab.width 143 = 2 ∧ (linkAs 0x4000000000000000 Link.reset).fab.width 143 = 1 ∧ linked.fab.en = true
    ∧ linked.pkg.record.portMap.getLsbD 143 = true ∧ ({ rst.pkg.record with portMap := 0 } : ConfigRecord).portMap.getLsbD 143 = false
    ∧ ((linkAs 0 { Link.reset with training := true }).fab.link 143).training = true
    ∧ (linkAs 0 Link.reset).fab.width 143 = 0
    ∧ (flitOf flit1).seq ≠ ((linkAs 0x8000000000000000 { Link.reset with expect := 5 }).fab.link 143).expect := by
  decide +kernel


/-! ### Hypotheses that are met: messages (what a request word asks is a free value: every one of its kinds is a case) -/

/-- A message from module 5, and one for it, over port 143. -/
def msg0 (dst src cseq : Nat) : Msg := ⟨dst, src, 0, 0, 0, cseq, List.replicate 56 0⟩
def routedTo5 (p : Word) : State := { linked with fab := { linked.fab with
  routes := [(5, 0x8000000000000000 ||| p)], arrived := [msg0 0 5 0, msg0 0 5 (2 ^ 24 - 1)] } }
theorem meets_messages : (msg0 5 9 0).dst ≠ linked.fab.modnum
    ∧ ¬ ((Map.getD linked.fab.routes 5 0).getLsbD 63 = true) ∧ (Map.getD (routedTo5 7).fab.routes 5 0).getLsbD 63 = true
    ∧ (routedTo5 7).fab.livePorts 5 = [] ∧ (routedTo5 143).fab.livePorts 5 = [143] ∧ (143 : Nat) ≠ noPort
    ∧ (routedTo5 143).fab.arrived[0]? = some (msg0 0 5 0) ∧ (msg0 0 5 0).dst = (routedTo5 143).fab.modnum
    ∧ (msg0 0 5 0).cseq = (Map.getD (routedTo5 143).fab.inn (chanKey 0 5 0) Chan.reset).expect
    ∧ (routedTo5 143).fab.arrived[1]? = some (msg0 0 5 (2 ^ 24 - 1))
    ∧ 2 ^ 23 > (0 + 2 ^ 24 - (2 ^ 24 - 1)) % 2 ^ 24 ∧ (2 : Nat) ^ 23 ≤ (0 + 2 ^ 24 - 2 ^ 23) % 2 ^ 24 := by decide +kernel
def strandedState : State := { rst with
  fab := { rst.fab with out := [(7, { Chan.reset with unacked := [(msg0 5 0 0, noPort, 0)] })] }, time := 0x186A0 }
theorem meets_route_timeout : strandedState.fab.stranded[0]? = some (7, msg0 5 0 0, 0)
    ∧ 0 + strandedState.fab.tmo ≤ strandedState.time := by decide +kernel
/-- A completion of module 5 has come for an access of core 0, or for a piece of its copy. -/
def remote0 (copy write : Bool) : Remote := ⟨0, copy, 0, 0, 5, write, 5, 3, 1, 9⟩
def answered (s : State) (r : Remote) (st : Nat) : State :=
  { s with fab := { s.fab with waiting := [r], replies := [(5, replyKey 3 1 9, st, leBytes 8 7)] } }
def comesTo (s : State) (r : Remote) (st : Nat) : Bool :=
  let t := answered s r st
  (t.fab.waiting.filter fun r => r.core == 0)[0]? == some r
    && t.fab.replies.find? (fun y => y.1 == r.module_ && y.2.1 == replyKey r.agent r.vc r.cseq)
      == some (5, replyKey 3 1 9, st, leBytes 8 7)
theorem meets_remote_access : ([loadAcc, storeAcc, atomAcc].all fun a =>
    comesTo (withAcc (gone a)) (remote0 false false) 2 && (withAcc (gone a)).acc 0 0 == some (gone a)) = true := by
  decide +kernel
theorem meets_remote_entry : (acc0 (.brtEntry 0x200 [])).kind = .brtEntry 0x200 []
    ∧ comesTo (withAcc (gone (acc0 (.brtEntry 0x200 [])))) (remote0 false false) 0 = true := by decide +kernel
/-- A part of the copy has set out; a part has been asked for. -/
def sentOut : Copy := { landing0 with sent := [(0, 5)] }
def askedFor : Copy := { fetching with asked := [(0, 5)] }
theorem meets_remote_copy : comesTo (engaged sentOut) (remote0 true true) 0 = true
    ∧ comesTo (engaged sentOut) (remote0 true true) 2 = true ∧ comesTo (engaged askedFor) (remote0 true false) 0 = true
    ∧ comesTo (engaged askedFor) (remote0 true false) 2 = true
    ∧ (engaged sentOut).me.itemAt 0 = some (0, .copy sentOut) ∧ sentOut.pieceOf 0 = some ⟨0, 5, none, some pageTlb⟩
    ∧ (engaged askedFor).me.itemAt 0 = some (0, .copy askedFor) ∧ askedFor.pieceOf 0 = some ⟨0, 5, some pageTlb, none⟩
    ∧ sentOut.stop = none ∧ askedFor.stop = none ∧ 0 < idxKey ∧ (0, 5) ∈ askedFor.asked := by decide +kernel

/-! ### Hypotheses that are met: decoding, steps, invariants -/

/-- A guard that is false stops every effect; results in flight land in order. -/
theorem meets_guards : (opOf (.add ⟨false, 1⟩ 7 g1 g2)).all (fun o =>
      o.legal one && o.allowed one && !one.me.ctx.regs.guard o.guard) = true
    ∧ one.iss.ov = none := by decide +kernel
theorem meets_landings : ({ (Ctx.reset 0) with pipe := [⟨2, .g 7 5 false, 0, 0⟩] } : Ctx).pipe.map (·.rem) = [2] := by decide +kernel
/-- Bundles of each form. -/
theorem meets_forms : ((BitVec.ofNat 256 (3 * 2 ^ 254)).extractLsb' 254 2 = 3) ∧ ((BitVec.ofNat 256 (2 * 2 ^ 254)).extractLsb' 254 2 = 2)
    ∧ ((BitVec.ofNat 256 (2 ^ 254)).extractLsb' 254 2 = 1) ∧ (BitVec.ofNat 256 (2 ^ 240)).extractLsb' 240 11 ≠ 0
    ∧ 20 < ((BitVec.ofNat 48 (21 * 2 ^ 42)).extractLsb' 42 5).toNat := by decide +kernel
/-- The bundle of one TRD at physical address 0, about to issue. -/
def trdAt5 : State := State.reset.withFetchWord 32 0x01494280
def trdBundle : Bits256 := gWord 0 0 0 0x01494280 0 0
def trd : Instr := .trd al 9 2 5
/-- The view of the bundle, and where it stands. -/
theorem meets_step : let c := trdAt5.core 0
    c.run = .run ∧ c.saving = none ∧ c.btw.halting = false ∧ c.btw.vjoin = 0 ∧ c.btw.nulLeft = 0 ∧ trdAt5.interrupt 0 = none
    ∧ trdAt5.gatedCore 0 = false
    ∧ c.btw.idle = 0 ∧ c.btw.replay = false ∧ c.barPending = none ∧ c.btw.phase = none
    ∧ (match trdAt5.fetch 0 with | .bundle w _ => w == trdBundle | _ => false) = true
    ∧ (match trdAt5.decode 0 trdBundle with
      | .ok v => v.slots == [(3, 0x01494280, trd)] && v.idle.isNone && !c.commits v
          && (match trdAt5.weigh 0 v with | .go x => x == v | _ => false)
      | _ => false) = true ∧ (opOf trd).isSome = true := by decide +kernel
/-- What is executed first after reset: that TRD. -/
theorem test_first : (match trdAt5.coreTurn 0 with
    | some t => (t.core 0).ctx.pc == 32 && (t.core 0).ctx.pipe.any fun l => match l.dst with | .v d .. => d == 9 | _ => false
    | none => false) = true := by decide +kernel
theorem meets_moves (e : Nat) : (trdAt5.pass e).inbox = [] ∧ 0 ∈ trdAt5.listed ∧ trdAt5.pkg.state = 2 ∧ trdAt5.leader 0 = 0
    ∧ (trdAt5.pass e).gatedCore 0 = false := by
  refine ⟨rfl, by decide +kernel, by decide +kernel, by decide +kernel, ?_⟩
  have h : ∀ k, posIn (Map.getD ([] : Map Word) k 0x3333333333333333) 0 = 3 := fun k => by
    show posIn 0x3333333333333333 0 = 3
    decide +kernel
  have hz : (trdAt5.pass e).zoneOf 0 = 0 := show trdAt5.zoneOf 0 = 0 by decide +kernel
  unfold State.gatedCore
  rw [hz]
  show (posIn (Map.getD ([] : Map Word) _ 0x3333333333333333) 0 == 0 || _) = false
  rw [h]
  rfl
/-- Core 0 has stored to ABUF; its pair is protected. -/
def stored : State := one.setCore 0 { one.me with loc := { one.me.loc with abuf := [(5, 7)] } }
theorem meets_follower : stored.listed.Nodup ∧ 0 ∈ stored.listed ∧ stored.protected_ 0 = true ∧ stored.core 0 ≠ one.core 0
    ∧ (stored.core 1).loc.abuf.wf = true ∧ ((one.mirror stored).core 1).loc.abuf = [(5, 7)] := by
  decide +kernel
theorem meets_no_change : (∀ m ∈ one.listed, m % 2 = 0 → one.protected_ m = true → one.core m = one.core m) ∧ one.listed = one.listed :=
  ⟨fun _ _ _ _ => rfl, rfl⟩
theorem meets_events (e : Nat) : ({ rst with inbox := [.moduleReset] }.pass e).inbox = [.moduleReset]
    ∧ isEvent .moduleReset = true ∧ (Instr.moduleReset).wf = true := ⟨rfl, by decide, by decide⟩
/-- A module whose only move is to refuse a flow that is too large. -/
def refusing : State := { rst with cool := { Cool.reset with reqs := [.flow 255] }, pkg := { rst.pkg with state := 2 } }
theorem meets_one_move (e : Nat) : ∃ u, (refusing.pass e).moved_ = [u] := ⟨_, rfl⟩
theorem meets_no_move : rst.pkg.state = 0 ∧ ({ rst.pkg with state := 5 } : Pkg).state = 5 := ⟨rfl, rfl⟩
/-- A state whose step goes on, with memory in its canonical form. -/
theorem meets_invariant : trdAt5.Canonical ∧ ∃ t, step { rst with inbox := [.moduleReset] } = .next t :=
  ⟨by unfold State.Canonical; decide +kernel, _, rfl⟩
/-- Well-formed instructions of each form have words; events have none. -/
theorem meets_encode : ([Instr.add al 7 g1 g2, .vadd al 7 v1 v2 0 .rne, trd, .cpy al g3 g1 g2 32 false, .nop 4095,
    .wacc 1 0 (List.replicate 10 ⟨true, 2, false, 7, true, 5, true⟩)].all fun i => i.wf && !isEvent i && (encode i).isSome)
    = true := by decide +kernel

end Sys2Proof.Tests
end

section
/-! Row images, gather and scatter addresses, and the row instructions that reach a buffer or the mesh. -/

namespace Sys2Proof

@[simp] theorem length_leBytes (n x : Nat) : (leBytes n x).length = n := by
  induction n generalizing x with
  | zero => rfl
  | succ n ih => simp [leBytes, ih]

/-- R2: a number's `n` little-endian bytes give back the number modulo 256^n. -/
theorem leNat_leBytes (n x : Nat) : leNat (leBytes n x) = x % 256 ^ n := by
  induction n generalizing x with
  | zero => simp [leBytes, leNat, Nat.mod_one]
  | succ n ih =>
    have head : (BitVec.ofNat 8 x).toNat = x % 256 := BitVec.toNat_ofNat x 8
    rw [leBytes, leNat, ih, head, Nat.pow_succ', Nat.mod_mul]

end Sys2Proof

namespace Sys2Proof.Machine

/-! ### Row images (R19, R168) -/

theorem VCell.bits_lt (v : VCell) (i : Nat) : v.bits i < 2 ^ tagWidth v.tag :=
  Nat.mod_lt _ (Nat.two_pow_pos _)

/-- The elements of the lanes below `k` fill no more than their own bits of the image. -/
theorem packFrom_lt (v : VCell) (k : Nat) : packFrom v k < 2 ^ (tagWidth v.tag * k) := by
  induction k with
  | zero => simp [packFrom]
  | succ k ih =>
    have element : (v.bits k + 1) * 2 ^ (tagWidth v.tag * k) ≤ 2 ^ tagWidth v.tag * 2 ^ (tagWidth v.tag * k) :=
      Nat.mul_le_mul_right _ (v.bits_lt k)
    rw [packFrom, Nat.mul_succ, Nat.pow_add, Nat.mul_comm (2 ^ (tagWidth v.tag * k))]
    rw [Nat.add_mul] at element
    omega

/-- R19: the image packs the elements in rising lanes, each in as many bits as its tag is wide. -/
theorem packFrom_element (v : VCell) {j k : Nat} (h : j < k) :
    packFrom v k / 2 ^ (tagWidth v.tag * j) % 2 ^ tagWidth v.tag = v.bits j := by
  induction k with
  | zero => omega
  | succ k ih =>
    rw [packFrom]
    rcases Nat.lt_succ_iff_lt_or_eq.mp h with below | rfl
    · obtain ⟨m, rfl⟩ : ∃ m, k = j + 1 + m := ⟨k - (j + 1), by omega⟩
      have above : v.bits (j + 1 + m) * 2 ^ (tagWidth v.tag * (j + 1 + m))
          = 2 ^ (tagWidth v.tag * j) * (2 ^ tagWidth v.tag * (v.bits (j + 1 + m) * 2 ^ (tagWidth v.tag * m))) := by
        rw [Nat.mul_add, Nat.mul_succ, Nat.pow_add, Nat.pow_add]; ring
      rw [above, Nat.add_mul_div_left _ _ (Nat.two_pow_pos _), Nat.add_mul_mod_self_left, ih below]
    · rw [Nat.add_mul_div_right _ _ (Nat.two_pow_pos _), Nat.div_eq_of_lt (packFrom_lt v j), Nat.zero_add,
        Nat.mod_eq_of_lt (v.bits_lt j)]

theorem length_packRow (v : VCell) : (packRow v).length = imageBytes v.tag := length_leBytes _ _

/-- The bytes of a stored row are its packed elements: none is cut off. -/
theorem leNat_packRow (v : VCell) : leNat (packRow v) = packFrom v 512 := by
  have size : 256 ^ imageBytes v.tag = 2 ^ (tagWidth v.tag * 512) := by
    rw [imageBytes, show 256 = 2 ^ 8 from rfl, ← Nat.pow_mul]
    congr 1; omega
  rw [packRow, leNat_leBytes, size, Nat.mod_eq_of_lt (packFrom_lt v 512)]

/-- A loaded row takes lane `j` from its place in the image, with zeros above the tag's width (R174). -/
theorem lane_unpackRow (t : Tag) (bs : List Byte) {j : Nat} (h : j < 512) :
    lane (unpackRow t bs) j = BitVec.ofNat 32 (leNat bs / 2 ^ (tagWidth t * j) % 2 ^ tagWidth t) := by
  rw [unpackRow, lane_rowOf _ h, bitsAt, Nat.shiftRight_eq_div_pow]

/-! ### What each instruction puts in flight or stores -/

/-- The address of a row access in terms of the register's value. -/
theorem Like.rowEa {u s : State} (h : Like u s) (a : GSrc) (sp : LSpace) (off : BitVec 13) :
    u.rowEa a sp off = (s.gReg a + BitVec.ofInt 64 ((rowUnit sp : Int) * off.toInt)).toNat % LSpace.size sp := by
  rw [State.rowEa, h.opA]

variable (g : Guard) (d : VReg) (a b : VSrc) (ga : GSrc) (sp : LSpace) (off : BitVec 13) (mk : MReg) (e : EntW) (p : Port)
    (s : State)

/-- R168: VLD. -/
theorem vld_completes :
    let t := (s.me.ctx.regs.vCell d).tag
    let ea := (s.gReg ga + BitVec.ofInt 64 ((rowUnit sp : Int) * off.toInt)).toNat % LSpace.size sp
    completes (.vld g d ga sp off) s fun u => u.send 4
      (.v d (unpackRow t (s.me.loc.load sp s.me.btw.seqno ea (imageBytes t))) (BitVec.allOnes 512) none
        (s.me.loc.bad sp ea (imageBytes t)) false) :=
  completes_when rfl fun u h => by simp only [opVld, h.me, h.opV, h.rowEa]

/-- R168: VST. -/
theorem vst_completes :
    let ea := (s.gReg ga + BitVec.ofInt 64 ((rowUnit sp : Int) * off.toInt)).toNat % LSpace.size sp
    completes (.vst g a ga sp off) s fun u =>
      u.onMe fun c => c.localStore sp s.iss.slot ea (packRow (s.vReg a)) :=
  completes_when rfl fun u h => by simp only [opVst, State.onMe, h.me, h.slot, h.rowEa]

/-- R169: VLDX. -/
theorem vldx_completes :
    let t := (s.me.ctx.regs.vCell d).tag
    let ea := laneEa (s.gReg ga) sp t (s.vReg b)
    completes (.vldx g d ga sp b mk) s fun u => u.send 6
      (.v d (rowOf fun j => BitVec.ofNat 32 (leNat (s.me.loc.load sp s.me.btw.seqno (ea j) (elemBytes t))))
        (s.me.ctx.regs.mv mk) none
        ((enabled (s.me.ctx.regs.mv mk)).any fun j => s.me.loc.bad sp (ea j) (elemBytes t)) false) :=
  completes_when rfl fun u h => by simp only [opVldx, h.me, h.opA, h.opV, h.opM]

/-- R169: VSTX, enabled lanes in rising order. -/
theorem vstx_completes :
    let A := s.vReg a
    completes (.vstx g a ga sp b mk) s fun u =>
      (enabled (s.me.ctx.regs.mv mk)).foldl (fun u j => u.onMe fun c =>
        c.localStore sp s.iss.slot (laneEa (s.gReg ga) sp A.tag (s.vReg b) j)
          (leBytes (elemBytes A.tag) (A.bits j))) u :=
  completes_when rfl fun u h => by simp only [opVstx, h.slot, h.opA, h.opV, h.opM]

/-- R166: VLUT. -/
theorem vlut_completes :
    let ea (j : Nat) := (lutBase (s.gReg ga) + entBytes e * (s.vReg a).bits j) % 262144
    completes (.vlut g d a ga mk e) s fun u => u.send 4
      (.v d (rowOf fun j => BitVec.ofNat 32 (leNat (s.me.loc.load .tsLinear s.me.btw.seqno (ea j) (entBytes e))))
        (s.me.ctx.regs.mv mk) (some (entTag e))
        ((enabled (s.me.ctx.regs.mv mk)).any fun j => s.me.loc.bad .tsLinear (ea j) (entBytes e)) false) :=
  completes_when rfl fun u h => by simp only [opVlut, h.me, h.opB, h.opV, h.opM]

/-- R331, R332: TXM sends the register's row. -/
theorem txm_delivers : delivers (.txm g a p) s 5 (.tx p (s.vReg a).row) := delivers_of rfl rfl fun _ => rfl

/-- R331, R332: RXM receives from its first beat on. -/
theorem rxm_delivers : delivers (.rxm g d p) s 5 (.rx d p 0) := delivers_of rfl rfl fun _ => rfl

end Sys2Proof.Machine
end

section
open Sys2Proof Sys2Proof.Machine

/-- Settles O32: each row instruction completes as its own rule says, and a row is read lane by lane. -/
theorem rowsAndBuffers : Obligations.rows_and_buffers := by
  intro g d a b ga sp off mk e p s
  refine ⟨⟨_, fun j hj => lane_unpackRow _ _ hj, vld_completes g d ga sp off s⟩,
    ⟨packRow (s.vReg a), length_packRow _, fun j hj => ?_, vst_completes g a ga sp off s⟩,
    ⟨_, fun j hj => lane_rowOf _ hj, vldx_completes g d b ga sp mk s⟩, vstx_completes g a b ga sp mk s,
    ⟨_, fun j hj => lane_rowOf _ hj, vlut_completes g d a ga mk e s⟩, txm_delivers g a p s, rxm_delivers g d p s⟩
  rw [leNat_packRow, packFrom_element _ hj]

end

section
/-! System registers written by SYSW (R128). -/

namespace Sys2Proof.Machine

/-- The registers whose write does more than to set a register of the core: SEGCTL, CSREQ, TRCTL, TRRD, LSCLR, EPHREQ
and MODFLOW. -/
def sysSpecial : List Nat := [0x130, 0x138, 0x140, 0x142, 0x3E2, 0x410, 0x418]

/-- A core whose register `k` has been written. -/
def Core.sysWritten (c : Core) (k : Nat) (x : Word) : Core :=
  { c with trap := c.trap.write k x, regs := c.regs.write k x, ctx := c.ctx.write k x }

/-- The registers that the statement lists. -/
def sysListed : List (BitVec 12) :=
  [0x000, 0x001, 0x002, 0x003, 0x004, 0x101, 0x102, 0x103, 0x104, 0x105, 0x111, 0x113, 0x114, 0x115, 0x118, 0x119,
    0x11A, 0x11B, 0x139, 0x202, 0x301, 0x302, 0x411, 0x3E0, 0x3E4, 0x3E5]

theorem sysListed_ordinary : ∀ q ∈ sysListed, q.toNat ∉ sysSpecial := by
  simp [sysListed, sysSpecial]

/-- R128: a write of an ordinary register changes the registers of its core and nothing else. -/
theorem State.sysWrite_ordinary (s : State) (n : Nat) {q : BitVec 12} (x : Word) (h : q.toNat ∉ sysSpecial) :
    s.sysWrite n q x = s.setCore n ((s.core n).sysWritten q.toNat x) := by
  simp only [sysSpecial, List.mem_cons, List.not_mem_nil, or_false, not_or] at h
  obtain ⟨h1, h2, h3, h4, -, h6, h7⟩ := h
  unfold State.sysWrite
  split
  case h_7 => rfl
  all_goals contradiction

/-- R128: SYSW of an ordinary register. -/
theorem sysw_completes (g : Guard) (a : GSrc) {q : BitVec 12} (s : State) (h : q.toNat ∉ sysSpecial) :
    completes (.sysw g a q) s fun u =>
      State.onMe { u with iss := { u.iss with sysw := u.iss.sysw ++ [(q, s.gReg a)] } }
        fun c => c.sysWritten q.toNat (s.gReg a) :=
  completes_when rfl fun u hu => by
    have notClear : q ≠ 0x3E2 := by rintro rfl; exact h (by decide)
    simp only [opSysw, hu.opA, if_neg notClear]
    exact State.sysWrite_ordinary _ _ _ h

/-- R129, R54: RNGS. -/
theorem rngs_completes (g : Guard) (a b : GSrc) (s : State) :
    completes (.rngs g a b) s fun u => u.onMe fun c =>
      { c with ctx := { c.ctx with
        s0 := s.gReg a, s1 := if s.gReg a = 0 ∧ s.gReg b = 0 then 1 else s.gReg b, queue := [] } } :=
  completes_when rfl fun u hu => by simp [opRngs, hu.opA, hu.opB]

end Sys2Proof.Machine
end

section
open Sys2Proof Sys2Proof.Machine

/-- Settles O11: each listed register is an ordinary one, and what its write leaves is what the list says. -/
theorem systemRegistersWrittenAndSeed : Obligations.system_registers_written_and_seed := by
  refine ⟨?_, rngs_completes⟩
  intro g a s X x hx
  change x ∈ sysListed.map fun q => (q, fun c => c.sysWritten q.toNat X) at hx
  obtain ⟨q, listed, rfl⟩ := List.mem_map.mp hx
  exact sysw_completes g a s (sysListed_ordinary q listed)

end

section
/-! The W bundles: exact sums modulo 2^32 with the sticky overflow flag (R58, R82 to R87). -/

namespace Sys2Proof.Machine

/-- Where an enabled lane leaves the INT32 range. -/
theorem any_outside32 (mask : Mask) (x : Nat → Int) :
    (enabled mask).any (fun i => outside32 (x i)) = true
      ↔ ∃ j < 512, mask.getLsbD j = true ∧ (x j < -2 ^ 31 ∨ 2 ^ 31 ≤ x j) := by
  simp only [List.any_eq_true, enabled, List.mem_filter, List.mem_range, outside32, decide_eq_true_eq, and_assoc]
  refine exists_congr fun j => and_congr_right fun _ => and_congr_right fun _ => ?_
  omega

/-- R58, R86: a W bundle puts its exact lanes, modulo 2^32, in flight, with its bit of WOVF where an enabled lane
leaves the range. -/
theorem w_completes {i : Instr} {m : WMode} {vd : VReg} {mk : MReg} {ts : List WTerm} {s : State}
    (e : opOf i = some (opW m vd mk ts)) {x : Nat → Int} {poison : Bool}
    (sums : ∀ j, wExact m (lane (s.me.ctx.oldRow vd) j) (s.me.termSum ts j) = x j)
    (poisoned : (ts.any s.me.termBad || (m != .set && s.me.ctx.oldPoison vd)) = poison) :
    let mask := s.me.ctx.regs.mv mk
    ∃ row : Row, (∀ j < 512, (lane row j).toInt = (x j).bmod (2 ^ 32))
      ∧ completes i s fun u => u.send 3 (.v vd row mask (some .int32) poison true) 0
        (if ∃ j < 512, mask.getLsbD j = true ∧ (x j < -2 ^ 31 ∨ 2 ^ 31 ≤ x j) then 1#64 <<< vd.toNat else 0) := by
  refine ⟨rowOf fun j => BitVec.ofInt 32 (x j), fun j hj => by rw [lane_rowOf _ hj, BitVec.toInt_ofInt], ?_⟩
  refine completes_when e fun u h => ?_
  simp only [opW, h.me, h.opM, sums, poisoned, any_outside32]

/-- R82: a term's value, with its powers of two written as integers. -/
theorem wTerm_value (t : WTerm) :
    WTerm.value t = (if t.s1 then -(2 ^ t.k1.toNat) else 2 ^ t.k1.toNat : Int)
      + if t.e2 then (if t.s2 then -(2 ^ t.k2.toNat) else 2 ^ t.k2.toNat) else 0 := by
  simp [WTerm.value]

end Sys2Proof.Machine
end

section
open Sys2Proof Sys2Proof.Machine

/-- Settles O26: the three W bundles are one operation in three modes, and its lanes are the exact sums. -/
theorem weightBundles : Obligations.weight_bundles := by
  intro vd mk ts s c mask source power value sum old gives
  have summed (j : Nat) : c.termSum ts j = sum j :=
    congrArg List.sum (List.map_congr_left fun t _ => congrArg (· * source t j) (wTerm_value t))
  refine ⟨fun us h j => (h.map _).sum_eq, w_completes rfl (fun j => ?_) (Bool.or_false _),
    w_completes rfl (fun j => ?_) rfl,    w_completes rfl (fun j => ?_) rfl⟩
  case refine_1 => exact summed j
  case refine_2 => exact congrArg (old j + ·) (summed j)
  case refine_3 => exact congrArg (old j - ·) (summed j)

end

section
/-! Lane arithmetic (R42, R50, R51, R152 to R155): what each lane of a row operation is. -/

namespace Sys2Proof.Machine

/-! ### Elements as integers (R148) -/

/-- A pattern's integer is the pattern again modulo 2^w. -/
theorem signedOf_mod {w x : Nat} (h : x < 2 ^ w) : (signedOf w x % 2 ^ w).toNat = x := by
  have size : ((2 : Int) ^ w) = ((2 ^ w : Nat) : Int) := by norm_cast
  rw [signedOf, BitVec.toInt_eq_toNat_bmod, BitVec.toNat_ofNat, Nat.mod_eq_of_lt h, size, Int.bmod_emod,
    Int.emod_eq_of_lt (by omega) (by omega), Int.toNat_natCast]

theorem VCell.int_mod (v : VCell) (i : Nat) : (v.int i % 2 ^ tagWidth v.tag).toNat = v.bits i :=
  signedOf_mod (v.bits_lt i)

theorem wrapInt_eq (w : Nat) (x : Int) : wrapInt w x = (x % 2 ^ w).toNat := by
  rw [wrapInt]; norm_cast

/-! ### What the tag checks of a ready operation say (R150) -/

theorem badTag_none {xs : List (Tag × Bool × Nat)} : badTag xs = none ↔ ∀ x ∈ xs, x.2.1 = true := by
  simp [badTag]

theorem tagEq_none {s : State} {a b : VSrc} {p : Tag → Bool} (h : tagEq s a b p = none) :
    p (s.vReg a).tag = true ∧ (s.vReg b).tag = (s.vReg a).tag := by
  simpa [tagEq, badTag_none, State.opV] using h

theorem tag1_none {s : State} {a : VSrc} {p : Tag → Bool} (h : tag1 s a p = none) : p (s.vReg a).tag = true := by
  simpa [tag1, badTag_none, State.opV] using h

/-- A ready operation has passed its tag check. -/
theorem ready_tag {i : Instr} {o : Op} {s : State} (e : opOf i = some o) (h : ready i s = true) : o.tag s = none := by
  obtain ⟨-, -, -, -, -, -, -, -, tag, -⟩ := Op.ready_parts (o := o) (s := s) (by simpa [ready, e] using h)
  exact tag

/-! ### Elementwise operations -/

/-- A binary elementwise operation yields its lane function's results, which have only to be known where the tag check
has passed. -/
theorem bin_yields {i : Instr} {g : Guard} {d : VReg} {a b : VSrc} {mk : MReg} {tag : State → Option Word}
    {lat : Tag → Nat} {f : VCell → VCell → Nat → FRes} {s : State} {l : Nat} {x : Nat → FRes}
    (e : opOf i = some (bin g d a b mk tag lat f)) (latency : lat (s.vReg a).tag = l)
    (lanes : tag s = none → ∀ j < 512, f (s.vReg a) (s.vReg b) j = x j) :
    yields i s l d (s.me.ctx.regs.mv mk) (some (s.vReg a).tag) x :=
  yields_of (f (s.vReg a) (s.vReg b)) e rfl (fun _ => by subst latency; rfl) fun h => lanes (ready_tag e h)

/-- The same for a unary one. -/
theorem una_yields {i : Instr} {g : Guard} {d : VReg} {a : VSrc} {mk : MReg} {p : Tag → Bool} {l : Nat}
    {f : VCell → Nat → FRes} {s : State} {x : Nat → FRes} (e : opOf i = some (una g d a mk p l f))
    (lanes : p (s.vReg a).tag = true → ∀ j < 512, f (s.vReg a) j = x j) :
    yields i s l d (s.me.ctx.regs.mv mk) (some (s.vReg a).tag) x :=
  yields_of (f (s.vReg a)) e rfl (fun _ => rfl) fun h => lanes (tag1_none (ready_tag e h))

/-! ### Integer lanes: exact modulo 2^w (R152, R153) -/

section
variable {a b d : VCell} (h : isInt a.tag = true) (rm : RMode) (j : Nat)
include h

theorem addLane_int : addLane false rm a b j = ⟨((a.int j + b.int j) % 2 ^ tagWidth a.tag).toNat, 0⟩ := by
  simp [addLane, h, exact, wrapInt_eq]
theorem subLane_int : addLane true rm a b j = ⟨((a.int j - b.int j) % 2 ^ tagWidth a.tag).toNat, 0⟩ := by
  simp [addLane, h, exact, wrapInt_eq]
theorem mulLane_int : mulLane rm a b j = ⟨(a.int j * b.int j % 2 ^ tagWidth a.tag).toNat, 0⟩ := by
  simp [mulLane, h, exact, wrapInt_eq]
theorem fmaLane_int :
    fmaLane rm a b d j = ⟨((a.int j * b.int j + d.int j) % 2 ^ tagWidth a.tag).toNat, 0⟩ := by
  simp [fmaLane, h, exact, wrapInt_eq]
theorem absLane_int : absLane false a j = ⟨(|a.int j| % 2 ^ tagWidth a.tag).toNat, 0⟩ := by
  simp [absLane, h, exact, wrapInt_eq]
theorem negLane_int : absLane true a j = ⟨(-a.int j % 2 ^ tagWidth a.tag).toNat, 0⟩ := by
  simp [absLane, h, exact, wrapInt_eq]

/-- The lesser of two integer elements is one of them, so its pattern is that one's. -/
theorem minLane_int (same : b.tag = a.tag) :
    minLane false a b j = ⟨(min (a.int j) (b.int j) % 2 ^ tagWidth a.tag).toNat, 0⟩ := by
  simp only [minLane, h, if_true, exact, Bool.false_eq_true, if_false]
  by_cases lt : b.int j < a.int j
  · rw [if_pos lt, min_eq_right lt.le, ← same, b.int_mod]
  · rw [if_neg lt, min_eq_left (not_lt.mp lt), a.int_mod]
theorem maxLane_int (same : b.tag = a.tag) :
    minLane true a b j = ⟨(max (a.int j) (b.int j) % 2 ^ tagWidth a.tag).toNat, 0⟩ := by
  simp only [minLane, h, if_true, exact]
  by_cases lt : a.int j < b.int j
  · rw [if_pos lt, max_eq_right lt.le, ← same, b.int_mod]
  · rw [if_neg lt, max_eq_left (not_lt.mp lt), a.int_mod]

end

theorem mulhLane_eq (a b : VCell) (j : Nat) :
    mulhLane a b j = ⟨(a.int j * b.int j / 2 ^ tagWidth a.tag % 2 ^ tagWidth a.tag).toNat, 0⟩ := by
  simp [mulhLane, exact, wrapInt_eq]

/-! ### Floating-point lanes: the rounded exact value (R42, R50, R51) -/

theorem isInt_of_isFlt {t : Tag} (h : isFlt t = true) : isInt t = false := by
  revert h; cases t <;> decide

/-- NV of an invalid product (R50), where it is due. -/
def FRes.nvWhere (p : Bool) (r : FRes) : FRes := if p then ⟨r.bits, r.flags ||| flNV⟩ else r

/-- A block scale that is no NaN scales by 2^(E - 127) (R43, R44). -/
theorem scaled_e8m0 (x : FVal) {e : Nat} (h : e < 256) :
    x.scaled e = if e = 255 then .nan else x.scale ((e : Int) - 127) := by
  unfold FVal.scaled scaleExp
  rw [Nat.mod_eq_of_lt h]
  split_ifs <;> rfl

section
variable {a b d : VCell} (h : isFlt a.tag = true) (rm : RMode) (j : Nat)
include h

theorem addLane_flt : addLane false rm a b j = exactSum [a.elem j, b.elem j] (fltFmt a.tag) rm := by
  simp [addLane, isInt_of_isFlt h]
theorem subLane_flt : addLane true rm a b j = exactSum [a.elem j, (b.elem j).negate] (fltFmt a.tag) rm := by
  simp [addLane, isInt_of_isFlt h]
theorem mulLane_flt (same : b.tag = a.tag) :
    mulLane rm a b j = FRes.nvWhere ((a.elem j).zeroTimesInf (b.elem j))
      ((fltFmt a.tag).round ((a.elem j).mul (b.elem j)) (.mode rm) false) := by
  have notScale : b.tag ≠ .e8m0 := fun e => by rw [← same, e] at h; exact absurd h (by decide)
  simp [mulLane, isInt_of_isFlt h, notScale, mulVal, FRes.nvWhere]
theorem mulLane_scale (scale : b.tag = .e8m0) :
    mulLane rm a b j = fmtFp32.round
      (if b.bits j = 255 then .nan else (a.elem j).scale ((b.bits j : Int) - 127)) (.mode rm) false := by
  have byte : b.bits j < 256 := by simpa [scale, tagWidth] using b.bits_lt j
  simp [mulLane, isInt_of_isFlt h, scale, scaled_e8m0 _ byte]
theorem fmaLane_flt :
    fmaLane rm a b d j = FRes.nvWhere ((a.elem j).zeroTimesInf (b.elem j) && (!(d.elem j).isNan || Config.fmaNanNv))
      (exactSum [(a.elem j).mul (b.elem j), d.elem j] (fltFmt a.tag) rm) := by
  simp [fmaLane, isInt_of_isFlt h, FRes.nvWhere]
theorem minLane_flt : minLane false a b j = ⟨(fltFmt a.tag).fmin (a.bits j) (b.bits j), 0⟩ := by
  simp [minLane, isInt_of_isFlt h, exact]
theorem maxLane_flt : minLane true a b j = ⟨(fltFmt a.tag).fmax (a.bits j) (b.bits j), 0⟩ := by
  simp [minLane, isInt_of_isFlt h, exact]
theorem absLane_flt :
    absLane false a j
      = ⟨if (a.elem j).isNan then (fltFmt a.tag).nan.getD 0 else a.bits j % 2 ^ (tagWidth a.tag - 1), 0⟩ := by
  simp only [absLane, isInt_of_isFlt h, exact]
  split_ifs <;> simp_all
theorem negLane_flt :
    absLane true a j
      = ⟨if (a.elem j).isNan then (fltFmt a.tag).nan.getD 0 else a.bits j ^^^ 2 ^ (tagWidth a.tag - 1), 0⟩ := by
  simp only [absLane, isInt_of_isFlt h, exact]
  split_ifs <;> simp_all

end

/-- VFMA yields its lane function's results. -/
theorem vfma_yields {g : Guard} {a b c : VSrc} {mk : MReg} {rm : RMode} {s : State} {x : Nat → FRes}
    (lanes : ∀ j < 512, fmaLane rm (s.vReg a) (s.vReg b) (s.vReg c) j = x j) :
    yields (.vfma g c a b mk rm) s 4 c.reg (s.me.ctx.regs.mv mk) (some (s.vReg a).tag) x :=
  yields_of (fmaLane rm (s.vReg a) (s.vReg b) (s.vReg c)) rfl rfl (fun _ => rfl) fun _ => lanes

theorem lat24_int {t : Tag} (h : isInt t = true) : lat24 t = 2 := by simp [lat24, h]
theorem lat24_flt {t : Tag} (h : isFlt t = true) : lat24 t = 4 := by simp [lat24, isInt_of_isFlt h]

end Sys2Proof.Machine
end

section
open Sys2Proof Sys2Proof.Machine

/-- Settles O27: integer lanes are exact modulo 2^w, floating-point lanes the rounded exact value, instruction by
instruction. -/
theorem laneArithmetic : Obligations.lane_arithmetic := by
  intro g d a b c mk rm s A B C w f gives int nvWhere
  refine ⟨fun hi => ⟨?_, ?_, ?_, ?_, ?_, ?_, ?_, ?_, ?_⟩, fun hf => ⟨?_, ?_, ?_, ?_, ?_, ?_, ?_, ?_, ?_⟩⟩
  · exact bin_yields rfl (lat24_int hi) fun _ j _ => addLane_int hi rm j
  · exact bin_yields rfl (lat24_int hi) fun _ j _ => subLane_int hi rm j
  · exact bin_yields rfl rfl fun _ j _ => mulLane_int hi rm j
  · exact bin_yields rfl rfl fun _ j _ => mulhLane_eq A B j
  · exact vfma_yields fun j _ => fmaLane_int hi rm j
  · exact bin_yields rfl rfl fun ht j _ => minLane_int hi j (tagEq_none ht).2
  · exact bin_yields rfl rfl fun ht j _ => maxLane_int hi j (tagEq_none ht).2
  · exact una_yields rfl fun _ j _ => absLane_int hi j
  · exact una_yields rfl fun _ j _ => negLane_int hi j
  · exact bin_yields rfl (lat24_flt hf) fun _ j _ => addLane_flt hf rm j
  · exact bin_yields rfl (lat24_flt hf) fun _ j _ => subLane_flt hf rm j
  · exact fun same => bin_yields rfl rfl fun _ j _ => mulLane_flt hf rm j same
  · exact fun _ scale => bin_yields rfl rfl fun _ j _ => mulLane_scale hf rm j scale
  · exact vfma_yields fun j _ => fmaLane_flt hf rm j
  · exact bin_yields rfl rfl fun _ j _ => minLane_flt hf j
  · exact bin_yields rfl rfl fun _ j _ => maxLane_flt hf j
  · exact una_yields rfl fun _ j _ => absLane_flt hf j
  · exact una_yields rfl fun _ j _ => negLane_flt hf j

end

section
/-! VCVTS.SAT of an infinity to its own format: RoundSR gives the largest finite value (R53, R159), where the clause of
R158 on a conversion to the source's own format, which is VCVT's, would return the infinity. -/

namespace Sys2Proof.Machine

/-- What one result in flight says of its row. -/
theorem State.send_row_inj {s : State} {l : Nat} {d : VReg} {x y : Row} {mask : Mask} {tag : Option Tag}
    {fx fy : BitVec 5} (h : s.send l (.v d x mask tag false false) fx = s.send l (.v d y mask tag false false) fy) :
    x = y := by
  have pipes := congrArg (fun t : State => t.me.ctx.pipe) h
  simp only [State.me_send, Ctx.send, List.append_cancel_left_eq, List.cons.injEq, Land.mk.injEq, Dst.v.injEq,
    true_and, and_true] at pipes
  exact pipes.1

/-- R159: VCVTS puts RoundSR of each lane in flight. -/
theorem vcvts_exec {g : Guard} {d : VReg} {a : VSrc} {mk : MReg} {t : Tag} {sat : Bool} {s : State}
    (h : ready (.vcvts g d a mk t sat) s = true) :
    let f (j : Nat) : FRes :=
      convertSr (s.vReg a).tag t ((s.vReg a).bits j) (laneRandom s.iss.word j (s.iss.slot - 1)) sat
    exec (.vcvts g d a mk t sat) s = .next
      (s.send 3 (.v d (resRow f) (s.me.ctx.regs.mv mk) (some t) false false) (laneFlags (s.me.ctx.regs.mv mk) f)) :=
  exec_ready rfl h

/-- R53, Table NUM-5: a saturating stochastic rounding of BF16 infinity. -/
theorem convertSr_inf_sat (u : Nat) : convertSr .bf16 .bf16 0x7F80 u true = ⟨0x7F7F, flSAT⟩ := rfl
/-- R158: a conversion to the source's own format returns the infinity unchanged. -/
theorem convert_inf_own (u : Nat) : convert .bf16 .bf16 0x7F80 (.sr u) true = ⟨0x7F80, 0⟩ := rfl

/-- A core whose lane 0 of V1 is BF16 infinity. -/
def infiniteCore : Core :=
  let c := Core.reset 0
  { c with run := .run, ctx := { c.ctx with regs := c.ctx.regs.setV 1 ⟨0x7F80, .bf16, true, false⟩ } }
/-- The module with every feature, in whose V0 slot that core issues. -/
def infiniteLane : State :=
  { State.reset with
    cores := [(0, infiniteCore)], pkg := { Pkg.reset with featact := BitVec.allOnes 256 }, iss := { Issue.zero with slot := 1 } }
/-- VCVTS.BF16.SAT V7, V1. -/
def saturates : Instr := .vcvts ⟨false, 0⟩ 7 ⟨1, false⟩ 0 .bf16 true

theorem infiniteLane_v1 : infiniteLane.vReg ⟨1, false⟩ = ⟨0x7F80, .bf16, true, false⟩ := Regs.vCell_setV_same _ _ _
/-- The instruction is one that has an encoding, and the checks of R221 let it go. -/
theorem infiniteLane_ready : saturates.wf = true ∧ ready saturates infiniteLane = true := by decide +kernel

end Sys2Proof.Machine
end

section
open Sys2Proof Sys2Proof.Machine

/-- Refutes O30: its VCVTS clause takes `convert`, whose result for a source of the target's own format is the source
unchanged. VCVTS.BF16.SAT of a lane that holds BF16 infinity delivers the largest finite BF16 value, 0x7F7F. -/
theorem not_conversions : ¬ Obligations.conversions := by
  intro h
  obtain ⟨-, -, vcvts, -⟩ := h ⟨false, 0⟩ 7 ⟨1, false⟩ ⟨0, false⟩ 0 .bf16 .rne true infiniteLane
  obtain ⟨-, isReady⟩ := infiniteLane_ready
  obtain ⟨row, fl, lanes, -, claimed⟩ := vcvts isReady
  have made := Host.Outcome.next.inj ((vcvts_exec isReady).symm.trans claimed)
  have infinite := lanes 0 (by decide)
  rw [← State.send_row_inj made, resRow, lane_rowOf _ (by decide)] at infinite
  have lane0 : VCell.bits ⟨0x7F80, .bf16, true, false⟩ 0 = 0x7F80 := by decide +kernel
  simp only [infiniteLane_v1, lane0, convertSr_inf_sat, convert_inf_own] at infinite
  exact absurd infinite (by decide)

end

section
/-! Reductions and scans over the fixed trees of R57 and R59. -/

namespace Sys2Proof.Machine

/-! ### The tree and its blocks, for whatever a node joins -/

/-- R57: a tree's left half is a power of two, it is not the whole, and the right half is no larger. -/
theorem treeSplit_bounds {n k : Nat} (two : 2 ≤ n) (h : n ≤ 2 ^ (k + 1)) :
    treeSplit n < n ∧ n - treeSplit n ≤ treeSplit n ∧ treeSplit n ≤ 2 ^ k := by
  have low : 2 ^ Nat.log2 (n - 1) ≤ n - 1 := Nat.log2_self_le (by omega)
  have high : n - 1 < 2 ^ (Nat.log2 (n - 1) + 1) := Nat.lt_log2_self
  have depth : Nat.log2 (n - 1) < k + 1 := (Nat.log2_lt (by omega)).mpr (by omega)
  have fits : 2 ^ Nat.log2 (n - 1) ≤ 2 ^ k := Nat.pow_le_pow_right (by decide) (by omega)
  rw [Nat.pow_succ] at high
  unfold treeSplit
  omega

section
variable {α β : Type} {op : α → α → α} (d : α) {f : β → α} {P : List β → α → Prop}
  (one : ∀ i, P [i] (f i)) (join : ∀ {xs ys a b}, P xs a → P ys b → P (xs ++ ys) (op a b))
include one join

/-- R57: what is true of each leaf, and is kept where a node joins two neighbours, is true of the tree. -/
theorem treeFuel_joins {fuel : Nat} {xs : List β} (nonempty : xs ≠ []) (h : xs.length ≤ 2 ^ fuel) :
    P xs (treeFuel fuel op d (xs.map f)) := by
  induction fuel generalizing xs with
  | zero =>
    match xs with
    | [] => exact absurd rfl nonempty
    | [x] => exact one x
    | x :: y :: rest => simp at h
  | succ k ih =>
    match xs with
    | [] => exact absurd rfl nonempty
    | [x] => exact one x
    | x :: y :: rest =>
      obtain ⟨proper, half, fits⟩ := treeSplit_bounds (n := rest.length + 2) (by omega) h
      have positive : 0 < treeSplit (rest.length + 2) := Nat.two_pow_pos _
      have left := ih (xs := (x :: y :: rest).take (treeSplit (rest.length + 2)))
        (by simp; omega) (by simp; omega)
      have right := ih (xs := (x :: y :: rest).drop (treeSplit (rest.length + 2)))
        (by simp; omega) (by simp; omega)
      have both := join left right
      rw [List.take_append_drop, List.map_take, List.map_drop] at both
      simpa [treeFuel] using both

theorem tree_joins {xs : List β} (nonempty : xs ≠ []) : P xs (tree op d (xs.map f)) := by
  refine treeFuel_joins d one join nonempty ?_
  rw [List.length_map]
  calc xs.length ≤ 2 ^ (Nat.log2 xs.length + 1) := Nat.lt_log2_self.le
    _ ≤ 2 ^ (Nat.log2 xs.length + 2) := Nat.pow_le_pow_right (by decide) (by omega)

/-- R59: the blocks looked at so far make up the lanes below `lo`, the bits of `j + 1` above its lowest `b`. -/
theorem scanFrom_joins {xs : List β} {j b lo : Nat} {acc : Option α} (short : j < xs.length)
    (bits : lo = (j + 1) / 2 ^ b * 2 ^ b)
    (h : match acc with | none => lo = 0 | some a => P (xs.take lo) a) :
    P (xs.take (j + 1)) (scanFrom op d (xs.map f) j b lo acc) := by
  induction b generalizing lo acc with
  | zero =>
    obtain rfl : lo = j + 1 := by simpa using bits
    match acc, h with
    | some a, h => exact h
  | succ k ih =>
    have halved : (j + 1) / 2 ^ (k + 1) = (j + 1) / 2 ^ k / 2 := by rw [Nat.pow_succ, Nat.div_div_eq_div_mul]
    have below : (j + 1) / 2 ^ k * 2 ^ k ≤ j + 1 := Nat.div_mul_le_self _ _
    have size : 0 < 2 ^ k := Nat.two_pow_pos k
    rw [halved, Nat.pow_succ', ← Nat.mul_assoc] at bits
    rw [scanFrom]
    by_cases bit : bitsAt (j + 1) k 1 = 1
    · have odd : (j + 1) / 2 ^ k / 2 * 2 + 1 = (j + 1) / 2 ^ k := by
        rw [bitsAt, Nat.shiftRight_eq_div_pow] at bit; omega
      have next : lo + 2 ^ k = (j + 1) / 2 ^ k * 2 ^ k := by rw [← odd, bits, Nat.succ_mul]
      have block : P ((xs.drop lo).take (2 ^ k)) (tree op d (((xs.map f).drop lo).take (2 ^ k))) := by
        rw [← List.map_drop, ← List.map_take]
        exact tree_joins d one join (List.ne_nil_of_length_pos (by simp; omega))
      rw [if_pos (by simpa using bit)]
      refine ih next ?_
      rw [List.take_add]
      match acc, h with
      | none, h => rw [h, List.take_zero, List.nil_append]; rw [h] at block; exact block
      | some a, h => exact join h block
    · have even : (j + 1) / 2 ^ k / 2 * 2 = (j + 1) / 2 ^ k := by
        rw [bitsAt, Nat.shiftRight_eq_div_pow] at bit; omega
      rw [if_neg (by simpa using bit)]
      exact ih (by rw [bits, even]) h

theorem scanLane_joins {xs : List β} {j : Nat} (short : j < xs.length) (small : j + 1 < 2 ^ 10) :
    P (xs.take (j + 1)) (scanLane op d (xs.map f) j) :=
  scanFrom_joins d one join short (by rw [Nat.div_eq_of_lt small, Nat.zero_mul]) rfl

end

/-! ### Integers and raw patterns (R162) -/

/-- R162: the sum, the extremum or the union of 32-bit patterns. -/
def redResult (op : RedOp) (xs : List Nat) : Nat :=
  match op with
  | .add => xs.sum % 2 ^ 32
  | .max => (((xs.map (signedOf 32)).foldl max (-2 ^ 31)) % 2 ^ 32).toNat
  | .min => (((xs.map (signedOf 32)).foldl min (2 ^ 31 - 1)) % 2 ^ 32).toNat
  | .or => xs.foldl (· ||| ·) 0

theorem signedOf_bounds (x : Nat) : -2 ^ 31 ≤ signedOf 32 x ∧ signedOf 32 x ≤ 2 ^ 31 - 1 :=
  ⟨BitVec.le_toInt _, Int.le_sub_one_of_lt (BitVec.toInt_lt)⟩

/-- A number in the INT32 range is the integer of its pattern. -/
theorem signedOf_wrap {x : Int} (low : -2 ^ 31 ≤ x) (high : x ≤ 2 ^ 31 - 1) :
    signedOf 32 (x % 2 ^ 32).toNat = x := by
  have nonneg : ((x % 2 ^ 32).toNat : Int) = x % 2 ^ 32 := Int.toNat_of_nonneg (by omega)
  rw [signedOf, BitVec.toInt_eq_toNat_bmod, BitVec.toNat_ofNat, Nat.mod_eq_of_lt (by omega), nonneg]
  exact (Int.emod_bmod (x := x) (n := 2 ^ 32)).trans (Int.bmod_eq_of_le (by omega) (by omega))

/-- A fold over two lists is the operation of the two folds, where starting twice is starting once. -/
theorem foldl_append_op {α : Type} (op : α → α → α) [Std.Associative op] [Std.Commutative op] {e : α}
    (once : op e e = e) (xs ys : List α) : (xs ++ ys).foldl op e = op (xs.foldl op e) (ys.foldl op e) := by
  have absorbs : op (xs.foldl op e) e = xs.foldl op e := by
    rw [Std.Commutative.comm (op := op), ← List.foldl_assoc (op := op), once]
  rw [List.foldl_append, ← List.foldl_assoc (op := op), absorbs]

theorem foldl_max_bounds (xs : List Nat) :
    -2 ^ 31 ≤ (xs.map (signedOf 32)).foldl max (-2 ^ 31) ∧ (xs.map (signedOf 32)).foldl max (-2 ^ 31) ≤ 2 ^ 31 - 1 := by
  refine List.foldlRecOn _ _ (motive := fun x : Int => -2 ^ 31 ≤ x ∧ x ≤ 2 ^ 31 - 1) (by decide) fun x hx y hy => ?_
  obtain ⟨n, -, rfl⟩ := List.mem_map.mp hy
  have := signedOf_bounds n
  omega

theorem foldl_min_bounds (xs : List Nat) :
    -2 ^ 31 ≤ (xs.map (signedOf 32)).foldl min (2 ^ 31 - 1)
      ∧ (xs.map (signedOf 32)).foldl min (2 ^ 31 - 1) ≤ 2 ^ 31 - 1 := by
  refine List.foldlRecOn _ _ (motive := fun x : Int => -2 ^ 31 ≤ x ∧ x ≤ 2 ^ 31 - 1) (by decide) fun x hx y hy => ?_
  obtain ⟨n, -, rfl⟩ := List.mem_map.mp hy
  have := signedOf_bounds n
  omega

/-- R57, R162: a node of an integer or raw reduction joins the results of its halves. -/
theorem redNode_joins (op : RedOp) {t : Tag} (h : t ≠ .fp32) (xs ys : List Nat) :
    redNode op t ⟨redResult op xs, 0⟩ ⟨redResult op ys, 0⟩ = ⟨redResult op (xs ++ ys), 0⟩ := by
  have notFlt : (t == Tag.fp32) = false := by simpa using h
  cases op with
  | add => simp [redNode, notFlt, exact, redResult, Nat.add_mod]
  | or => simp [redNode, notFlt, exact, redResult, foldl_append_op (· ||| · : Nat → Nat → Nat)]
  | max =>
    obtain ⟨low, high⟩ := foldl_max_bounds xs
    obtain ⟨low', high'⟩ := foldl_max_bounds ys
    simp only [redNode, notFlt, Bool.false_eq_true, if_false, exact, redResult, signedOf_wrap low high, signedOf_wrap low' high',
      List.map_append, foldl_append_op max (max_self _)]
    split_ifs with lt
    · rw [max_eq_right lt.le]; rfl
    · rw [max_eq_left (not_lt.mp lt)]; rfl
  | min =>
    obtain ⟨low, high⟩ := foldl_min_bounds xs
    obtain ⟨low', high'⟩ := foldl_min_bounds ys
    simp only [redNode, notFlt, Bool.false_eq_true, if_false, exact, redResult, signedOf_wrap low high, signedOf_wrap low' high',
      List.map_append, foldl_append_op min (min_self _)]
    split_ifs with lt
    · rw [min_eq_right lt.le]; rfl
    · rw [min_eq_left (not_lt.mp lt)]; rfl

/-- The enabled lanes' patterns among some lanes. -/
def enabledBits (m : Mask) (a : VCell) (lanes : List Nat) : List Nat := (lanes.filter m.getLsbD).map a.bits

/-- R59: the input of lane `i`: its pattern, or the identity where it is disabled. -/
def redInput (op : RedOp) (m : Mask) (a : VCell) (i : Nat) : FRes :=
  ⟨if m.getLsbD i then a.bits i else identity op a.tag, 0⟩

/-- R59, R162: a single lane's input is the result over that lane. -/
theorem redInput_one (op : RedOp) (m : Mask) {a : VCell} (h : tagWidth a.tag = 32) (notFlt : a.tag ≠ .fp32) (i : Nat) :
    redInput op m a i = ⟨redResult op (enabledBits m a [i]), 0⟩ := by
  have word : a.bits i < 2 ^ 32 := h ▸ a.bits_lt i
  have bounds := signedOf_bounds (a.bits i)
  have back := signedOf_mod word
  have other : (a.tag == Tag.fp32) = false := by simpa using notFlt
  by_cases on : m.getLsbD i = true
  · have lane : enabledBits m a [i] = [a.bits i] := by simp [enabledBits, on]
    rw [redInput, if_pos on, lane]
    refine congrArg (FRes.mk · 0) ?_
    cases op with
    | add => simp only [redResult, List.sum_singleton, Nat.mod_eq_of_lt word]
    | or => simp only [redResult, List.foldl_cons, List.foldl_nil, Nat.zero_or]
    | max => simp only [redResult, List.map_cons, List.map_nil, List.foldl_cons, List.foldl_nil,
        max_eq_right bounds.1, back]
    | min => simp only [redResult, List.map_cons, List.map_nil, List.foldl_cons, List.foldl_nil,
        min_eq_right bounds.2, back]
  · have lane : enabledBits m a [i] = [] := by simp [enabledBits, on]
    rw [redInput, if_neg on, lane]
    cases op <;> simp [redResult, identity, other]

/-- R57, R162: a node's result over the lanes of both its sides. -/
theorem redNode_enabledBits (op : RedOp) (m : Mask) {a : VCell} (notFlt : a.tag ≠ .fp32) {xs ys : List Nat} {x y : FRes}
    (hx : x = ⟨redResult op (enabledBits m a xs), 0⟩) (hy : y = ⟨redResult op (enabledBits m a ys), 0⟩) :
    redNode op a.tag x y = ⟨redResult op (enabledBits m a (xs ++ ys)), 0⟩ := by
  rw [hx, hy, redNode_joins op notFlt]
  simp [enabledBits]

section
variable {op : RedOp} {m : Mask} {a : VCell} (width : tagWidth a.tag = 32) (notFlt : a.tag ≠ .fp32)
include width notFlt

/-- R57, R162: on integers and raw patterns the order of the tree cannot be seen. -/
theorem tree_redResult :
    tree (redNode op a.tag) ⟨0, 0⟩ (redInputs op m a) = ⟨redResult op (enabledBits m a (List.range 512)), 0⟩ := by
  refine tree_joins (f := redInput op m a) (P := fun lanes r => r = ⟨redResult op (enabledBits m a lanes), 0⟩) _
    (redInput_one op m width notFlt) (redNode_enabledBits op m notFlt) (by simp)

/-- R59, R162: nor can that of a scan's blocks. -/
theorem scanLane_redResult {j : Nat} (h : j < 512) :
    scanLane (redNode op a.tag) ⟨0, 0⟩ (redInputs op m a) j
      = ⟨redResult op (enabledBits m a (List.range (j + 1))), 0⟩ := by
  have taken : (List.range 512).take (j + 1) = List.range (j + 1) := by rw [List.take_range, min_eq_left (by omega)]
  rw [← taken]
  refine scanLane_joins (f := redInput op m a) (P := fun lanes r => r = ⟨redResult op (enabledBits m a lanes), 0⟩) _
    (redInput_one op m width notFlt) (redNode_enabledBits op m notFlt) (by simpa using h) (by omega)

end

theorem canonical_of_ne {t : Tag} (h : t ≠ .fp32) (r : FRes) : r.canonical t = r := by simp [FRes.canonical, h]

/-! ### The instructions -/

section
variable {g : Guard} {d : VReg} {a : VSrc} {mk : MReg} {op : RedOp} {s : State}

theorem vred_yields {x : FRes}
    (h : tree (redNode op (s.vReg a).tag) ⟨0, 0⟩ (redInputs op (s.me.ctx.regs.mv mk) (s.vReg a)) = x) :
    yields (.vred g d a mk op) s 6 d (BitVec.allOnes 512) (some (s.vReg a).tag) fun _ => x :=
  yields_of (fun _ => tree (redNode op (s.vReg a).tag) ⟨0, 0⟩ (redInputs op (s.me.ctx.regs.mv mk) (s.vReg a))) rfl rfl
    (fun _ => rfl) fun _ _ _ => h

theorem vscan_yields {x : Nat → FRes}
    (h : ∀ j < 512, (scanLane (redNode op (s.vReg a).tag) ⟨0, 0⟩ (redInputs op (s.me.ctx.regs.mv mk) (s.vReg a))
      j).canonical (s.vReg a).tag = x j) :
    yields (.vscan g d a mk op) s 6 d (BitVec.allOnes 512) (some (s.vReg a).tag) x :=
  yields_of (fun j => (scanLane (redNode op (s.vReg a).tag) ⟨0, 0⟩ (redInputs op (s.me.ctx.regs.mv mk) (s.vReg a))
    j).canonical (s.vReg a).tag) rfl rfl (fun _ => rfl) fun _ => h

end

end Sys2Proof.Machine
end

section
open Sys2Proof Sys2Proof.Machine

/-- Settles O31: the trees of R57 and R59 join the enabled lanes' results, whatever their shape; on FP32 they are the
model's own. -/
theorem reductions : Obligations.reductions := by
  intro g d a mk op s A M of ints result gives
  have results (n : Nat) : redResult op (enabledBits M A (List.range n)) = result n := by cases op <;> rfl
  refine ⟨fun h => ?_, fun h => ⟨vred_yields (by rw [h]), vscan_yields fun j _ => by rw [h]⟩⟩
  have width : tagWidth A.tag = 32 := by rcases h with h | h <;> rw [h] <;> rfl
  have notFlt : A.tag ≠ .fp32 := by rcases h with h | h <;> rw [h] <;> decide
  refine ⟨vred_yields ?_, vscan_yields fun j hj => ?_⟩
  · rw [← results, tree_redResult width notFlt]
  · rw [← results, canonical_of_ne notFlt, scanLane_redResult width notFlt hj]

end

section
/-! Writes of registers and control records from outside the cores. -/

namespace Sys2Proof.Machine

/-! ### One core at a time -/

/-- To set a core changes that core alone. -/
theorem State.setCore_only (s : State) (n : Nat) (c : Core) :
    (s.setCore n c).core n = c ∧ (s.setCore n c).mem = s.mem ∧ ∀ i, i ≠ n → (s.setCore n c).core i = s.core i :=
  ⟨s.core_setCore_same n c, rfl, fun _ h => s.core_setCore_other c h⟩

/-! ### REGISTER_WRITE (R128, R228, R282, R342 to R348, R377) -/

/-- R128, R241: of a protected pair the leader's ordinary registers are written. -/
theorem State.registerWrite_core (s : State) (n : Nat) {q : BitVec 12} (x : Word) (assigned : sysAssigned q = true)
    (outer : ownSteps.contains q.toNat = false) (ordinary : q.toNat ∉ sysSpecial) (shared : q.toNat ≠ 0x303) :
    s.registerWrite (.core n q) x = s.setCore (s.leader n) ((s.core (s.leader n)).sysWritten q.toNat x) := by
  simp only [State.registerWrite, assigned, outer, Bool.not_true, Bool.or_self, Bool.false_eq_true, if_false,
    if_neg shared]
  exact s.sysWrite_ordinary _ x ordinary

/-- The core registers that the statement lists. -/
def outerListed : List (BitVec 12) :=
  [0x000, 0x001, 0x101, 0x103, 0x104, 0x105, 0x111, 0x118, 0x3E0, 0x3E1, 0x401]

theorem outerListed_ordinary : ∀ q ∈ outerListed, sysAssigned q = true ∧ ownSteps.contains q.toNat = false
    ∧ q.toNat ∉ sysSpecial ∧ q.toNat ≠ 0x303 := by
  simp [outerListed, sysAssigned, userRegs, supRegs, ownSteps, sysSpecial]

theorem State.registerWrite_listed (s : State) (n : Nat) {q : BitVec 12} (x : Word) (h : q ∈ outerListed) :
    s.registerWrite (.core n q) x = s.setCore (s.leader n) ((s.core (s.leader n)).sysWritten q.toNat x) := by
  obtain ⟨assigned, outer, ordinary, shared⟩ := outerListed_ordinary q h
  exact s.registerWrite_core n x assigned outer ordinary shared

theorem State.slice_setSlice (s : State) (k : Nat) (x : Slice) : (s.setSlice k x).slice k = x := by
  simp [State.slice, State.setSlice]

/-- R282: SLPART. -/
theorem State.registerWrite_slpart (s : State) (sl : Nat) {j : Nat} (x : Word) (h : j < 4) :
    ((s.registerWrite (.slpart sl j) x).slice sl).slpart[j]? = some x := by
  simp [State.registerWrite, State.slice_setSlice, Nat.mod_eq_of_lt h, h]

/-- R342: a doubleword written to the lowest word of a long register, whose writable bits are `k`. -/
theorem writeLow_low {f m k : BitVec 256} (x : Word) (h : ∀ i < 64, m.getLsbD i = true) :
    (((f &&& ~~~m) ||| x.setWidth 256) &&& k).extractLsb' 0 64 = x &&& k.extractLsb' 0 64 := by
  apply BitVec.eq_of_getLsbD_eq
  intro i hi
  have wide : i < 256 := by omega
  simp only [BitVec.getLsbD_extractLsb', BitVec.getLsbD_and, BitVec.getLsbD_or, BitVec.getLsbD_not,
    BitVec.getLsbD_setWidth, Nat.zero_add, h i hi, hi, wide]
  simp
theorem writeLow_high {f m k : BitVec 256} (x : Word) (h : ∀ i, 64 ≤ i → m.getLsbD i = false) :
    (((f &&& ~~~m) ||| x.setWidth 256) &&& k).extractLsb' 64 192 = (f &&& k).extractLsb' 64 192 := by
  apply BitVec.eq_of_getLsbD_eq
  intro i hi
  have wide : 64 + i < 256 := by omega
  have beyond : x.getLsbD (64 + i) = false := BitVec.getLsbD_of_ge _ _ (by omega)
  simp only [BitVec.getLsbD_extractLsb', BitVec.getLsbD_and, BitVec.getLsbD_or, BitVec.getLsbD_not,
    BitVec.getLsbD_setWidth, h (64 + i) (by omega), beyond, hi, wide]
  simp

/-- The bits of FEATSEL's lowest word. -/
def featWord0 : BitVec 256 := BitVec.ofNat 256 (2 ^ 64 - 1)
theorem featWord0_getLsbD (i : Nat) : featWord0.getLsbD i = decide (i < 64) := by
  rw [featWord0, BitVec.getLsbD_ofNat, Nat.testBit_two_pow_sub_one]
  simp; omega
theorem featMask_word0 : featMask.extractLsb' 0 64 = 0x1FFF := by decide

/-- R342: a write of FEATSEL's lowest word, until START closes it. -/
theorem Pkg.writeFeatsel_word0 {p : Pkg} (x : Word) (h : p.started = false) :
    (p.writeFeatsel 0 x).featsel = ((p.featsel &&& ~~~featWord0) ||| x.setWidth 256) &&& featMask := by
  rw [Pkg.writeFeatsel, if_neg (by simp [h])]
  simp only [Nat.mul_zero, BitVec.shiftLeft_zero, featWord0]
theorem Pkg.writeFeatsel_started {p : Pkg} (j : Nat) (x : Word) (h : p.started = true) : p.writeFeatsel j x = p :=
  if_pos h

theorem Pkg.writeFeatsel_low (p : Pkg) (x : Word) : (p.writeFeatsel 0 x).featsel.extractLsb' 0 64
    = if p.started then p.featsel.extractLsb' 0 64 else x &&& 0x1FFF := by
  cases h : p.started
  · rw [Pkg.writeFeatsel_word0 x h, writeLow_low x fun i hi => by simpa [featWord0_getLsbD] using hi, featMask_word0]
    rfl
  · rw [Pkg.writeFeatsel_started 0 x h]; rfl
theorem Pkg.writeFeatsel_high (p : Pkg) (x : Word) : (p.writeFeatsel 0 x).featsel.extractLsb' 64 192
    = (if p.started then p.featsel else p.featsel &&& featMask).extractLsb' 64 192 := by
  cases h : p.started
  · rw [Pkg.writeFeatsel_word0 x h, writeLow_high x fun i hi => by simpa [featWord0_getLsbD] using hi]
    rfl
  · rw [Pkg.writeFeatsel_started 0 x h]; rfl
theorem Pkg.featact_writeFeatsel (p : Pkg) (j : Nat) (x : Word) : (p.writeFeatsel j x).featact = p.featact := by
  unfold Pkg.writeFeatsel; split <;> rfl

theorem Pkg.hq_setHq (p : Pkg) (q : Nat) (x : HostQ) : (p.setHq q x).hq q = x := by simp [Pkg.hq, Pkg.setHq]

/-- R348: a window beyond the tier leaves the window as it is. -/
theorem State.registerWrite_hdm (s : State) (x : Word) :
    let t := s.registerWrite .hdm x
    t.cores = s.cores ∧ t.mem = s.mem ∧ t.pkg.window =
      let w := (x.toNat % 2 ^ 32, x.toNat / 2 ^ 32)
      if s.mem.shape.tierBytes < (w.1 + w.2) * 2 ^ 28 then s.pkg.window else w := by
  have low : bitsAt x.toNat 0 32 = x.toNat % 2 ^ 32 := by rw [bitsAt, Nat.shiftRight_zero]
  have high : bitsAt x.toNat 32 32 = x.toNat / 2 ^ 32 := by
    have := x.isLt
    rw [bitsAt, Nat.shiftRight_eq_div_pow, Nat.mod_eq_of_lt (by omega)]
  simp only [State.registerWrite, State.writeWindow, low, high]
  split <;> exact ⟨rfl, rfl, rfl⟩

/-- R344: SLOTBASE is written while its expert set is on; otherwise the write is logged. -/
theorem State.registerWrite_slotbase (s : State) (x : Word) :
    let t := s.registerWrite .slotbase x
    t.cores = s.cores ∧ t.mem = s.mem ∧ t.pkg.slotbase = if s.expert 12 then x else s.pkg.slotbase := by
  dsimp only [State.registerWrite]
  split <;> exact ⟨rfl, rfl, rfl⟩

/-! ### The debugger -/

section
variable {s : State} {n : Nat}

/-- The debug trap of a core that has a context, or has stopped otherwise than by HALT. -/
theorem exec_debugTrap (busy : (s.core (s.leader n)).run ≠ .idle)
    (on : (s.core (s.leader n)).run ≠ .stopped .halted) :
    exec (.debugRequest n false) s = .next (s.post (s.leader n) ⟨16, 0, 0⟩) := by
  show execDebugRequest n false s = _
  unfold execDebugRequest
  dsimp only
  split
  case h_3 => rfl
  all_goals contradiction

theorem exec_debugHold_run (h : (s.core (s.leader n)).run = .run) : exec (.debugRequest n true) s =
    .next (s.setCore (s.leader n) { s.core (s.leader n) with run := .stopped (.debugger none) }) := by
  show execDebugRequest n true s = _
  simp [execDebugRequest, h]
theorem exec_debugHold_frozen {f : Freeze} (h : (s.core (s.leader n)).run = .frozen f) : exec (.debugRequest n true) s =
    .next (s.setCore (s.leader n) { s.core (s.leader n) with run := .stopped (.debugger (some f)) }) := by
  show execDebugRequest n true s = _
  simp [execDebugRequest, h]
theorem exec_debugRelease_run (h : (s.core (s.leader n)).run = .stopped (.debugger none)) :
    exec (.debuggerRelease n) s = .next (s.setCore (s.leader n) { s.core (s.leader n) with run := .run }) := by
  show execDebuggerRelease n s = _
  simp [execDebuggerRelease, h]
theorem exec_debugRelease_frozen {f : Freeze} (h : (s.core (s.leader n)).run = .stopped (.debugger (some f))) :
    exec (.debuggerRelease n) s = .next (s.setCore (s.leader n) { s.core (s.leader n) with run := .frozen f }) := by
  show execDebuggerRelease n s = _
  simp [execDebuggerRelease, h]

end

/-! ### PAIRMODE (R240) -/

/-- A core whose share of the array is as at reset. -/
def Core.arrayCleared (c : Core) : Core := { c with arr := Arr.zero, backs := [] }

theorem Core.quiet_iff (c : Core) : c.quiet = true ↔ c.run = .idle ∧ c.arr.queue = [] := by
  simp [Core.quiet]

/-- R240: what an accepted write of PAIRMODE needs. -/
theorem State.pairRefuses_false {s : State} {p : Nat} {mode win : BitVec 2}
    (quiet : ∀ i ∈ [2 * p, 2 * p + 1], (s.core i).run = .idle ∧ (s.core i).arr.queue = []) (hm : mode ≠ 3)
    (hw : win ≠ 3) (hs : mode = 2 → (s.pair p).q0 = false ∧ (s.pair p).q1 = false)
    (ha : mode ≠ 0 → ¬((s.pair p).q0 = true ∧ (s.pair p).q1 = true)) : s.pairRefuses p mode win = false := by
  have quiet0 := (Core.quiet_iff _).mpr (quiet (2 * p) (by simp))
  have quiet1 := (Core.quiet_iff _).mpr (quiet (2 * p + 1) (by simp))
  simpa [State.pairRefuses, quiet0, quiet1] using ⟨⟨⟨hm, hw⟩, hs⟩, fun h h0 => by simpa [h0] using ha h⟩

/-- R240: an accepted write of PAIRMODE sets the mode and clears the arrays of both cores. -/
theorem pairmodeWrite_leads {s : State} {p : Nat} {mode win : BitVec 2} (h : s.pairRefuses p mode win = false) :
    leads (.pairmodeWrite p mode win) s fun t => t.pair p = { s.pair p with mode := mode, win := win } ∧ t.mem = s.mem
      ∧ ∀ i ∈ [2 * p, 2 * p + 1], t.core i = { s.core i with arr := Arr.zero, backs := [] } := by
  have cleared : exec (.pairmodeWrite p mode win) s =
      .next { (s.setCore (2 * p) (s.core (2 * p)).arrayCleared).setCore (2 * p + 1) (s.core (2 * p + 1)).arrayCleared with
        pairs := Map.put s.pairs p { s.pair p with mode := mode, win := win } } := by
    show execPairmodeWrite p mode win s = _
    rw [execPairmodeWrite, if_neg (by simp [h])]
    simp only [State.core_setCore_other s _ (show 2 * p + 1 ≠ 2 * p by omega)]
    rfl
  refine ⟨_, cleared, Map.getD_put_same _ _ _ _, rfl, ?_⟩
  simp only [List.forall_mem_cons, List.not_mem_nil, false_implies, implies_true, and_true]
  constructor
  · exact (State.core_setCore_other _ _ (by omega)).trans (State.core_setCore_same _ _ _)
  · exact State.core_setCore_same _ _ _

/-! ### Routers, queues and tag blocks (R262, R320, R333) -/

theorem bitsAt_eq (w lo n : Nat) : bitsAt w lo n = w / 2 ^ lo % 2 ^ n := by rw [bitsAt, Nat.shiftRight_eq_div_pow]

/-- R333: an accepted router program. -/
theorem routerProgramWrite_leads {s : State} {d cl k : Nat} {es : List (BitVec 16)} (nonempty : es ≠ [])
    (short : es.length ≤ 4096) (named : ∀ e ∈ es, ∀ i < 5, e.toNat / 2 ^ (1 + 3 * i) % 8 ≤ 4)
    (unused : ∀ e ∈ (s.die d).gangs, e.2.transit.isSome = true → cl ∉ e.2.clusters) :
    leads (.routerProgramWrite d cl k es) s fun t =>
      (t.die d).program cl k = ⟨es.length, es.map fun e => e &&& 0xFFFE⟩ ∧ t.mem = s.mem ∧ t.cores = s.cores := by
  have good : es.any badEntry = false := by
    simpa [badEntry, bitsAt_eq] using named
  refine ⟨_, (show execRouterProgramWrite d cl k es s = _ from if_neg ?_), ?_, rfl, rfl⟩
  · simpa [good, nonempty, short] using unused
  · simp [Die.program]

theorem State.queue_setQueue (s : State) (d q : Nat) (x : Queue) : (s.setQueue d q x).queue d q = x := by
  simp [State.queue, State.setQueue]

/-- R320: POPLIM lies across two doublewords. -/
theorem queueLimit (w1 w2 : Word) : w2.extractLsb' 0 16 ++ w1.extractLsb' 56 8
    = BitVec.ofNat 24 (w2.toNat % 2 ^ 16 * 256 + w1.toNat / 2 ^ 56) := by
  have top : w1.toNat / 2 ^ 56 < 2 ^ 8 := by have := w1.isLt; omega
  have whole : w2.toNat % 2 ^ 16 * 2 ^ 8 + w1.toNat / 2 ^ 56 < 2 ^ (16 + 8) := by omega
  apply BitVec.eq_of_toNat_eq
  rw [BitVec.toNat_append, BitVec.extractLsb'_toNat, BitVec.extractLsb'_toNat, Nat.shiftRight_zero,
    Nat.shiftRight_eq_div_pow, Nat.mod_eq_of_lt top, ← Nat.shiftLeft_add_eq_or_of_lt top, Nat.shiftLeft_eq,
    BitVec.toNat_ofNat]
  exact (Nat.mod_eq_of_lt whole).symm

/-- R320: QUEUE_DESCRIPTOR_WRITE. -/
theorem queueDescriptorWrite_leads (s : State) (d q : Nat) (x w1 w2 : Word) :
    let a := s.queue d q
    let log2 := w1.toNat % 32
    leads (.queueDescriptorWrite d q x w1 w2) s fun t =>
      t.mem = s.mem ∧ t.queue d q =
        if (a.en = true ∧ a.recs ≠ []) ∨ log2 < 6 ∨ 20 < log2 then a
        else { a with
          dw0 := x &&& 0xE000000000000FFF, base := w1 &&& 0x00FFFFFFFFFFFFC0, log2 := BitVec.ofNat 5 log2
          poplim := BitVec.ofNat 24 (w2.toNat % 2 ^ 16 * 256 + w1.toNat / 2 ^ 56)
          drop := a.drop &&& ~~~(w2.extractLsb' 16 16) } := by
  intro a log2
  have field : w1.extractLsb' 0 5 = BitVec.ofNat 5 log2 := by
    apply BitVec.eq_of_toNat_eq; simp [log2]
  have value : (w1.extractLsb' 0 5).toNat = log2 := by simp [log2]
  have refuses : ((a.en && !a.recs.isEmpty) || (w1.extractLsb' 0 5).toNat < 6 || 20 < (w1.extractLsb' 0 5).toNat) = true
      ↔ (a.en = true ∧ a.recs ≠ []) ∨ log2 < 6 ∨ 20 < log2 := by
    rw [value]; simp [or_assoc]
  unfold leads
  simp only [show exec (.queueDescriptorWrite d q x w1 w2) s = execQueueDescriptorWrite d q x w1 w2 s from rfl,
    execQueueDescriptorWrite]
  by_cases refused : (a.en = true ∧ a.recs ≠ []) ∨ log2 < 6 ∨ 20 < log2
  · exact ⟨s, if_pos (refuses.mpr refused), rfl, (if_pos refused).symm⟩
  · refine ⟨_, if_neg (mt refuses.mp refused), rfl, ?_⟩
    rw [State.queue_setQueue, if_neg refused, field, queueLimit]

/-- R262: a block whose tags are all retired or free takes a new record. -/
theorem tagBlockRecordWrite_leads {s : State} {d blk : Nat} (x : Word)
    (free : ∀ e ∈ s.conj.tags, d * 2 ^ 20 + blk * 256 ≤ e.1 → e.1 < d * 2 ^ 20 + blk * 256 + 256 →
      e.2.state = .retired ∨ e.2.state = .free) :
    leads (.tagBlockRecordWrite d blk x) s fun t =>
      t.block d blk = (x &&& 0xFFF8000007FFFFFF) ∧ t.conj.tags = s.conj.tags ∧ t.mem = s.mem := by
  refine ⟨_, (show execTagBlockRecordWrite d blk x s = _ from if_neg ?_), ?_, rfl, rfl⟩
  · rw [Bool.not_eq_true, List.any_eq_false]
    intro e he
    have := free e he
    simp; tauto
  · simp [State.block]

/-! ### FABCFG (R377) -/

theorem Fabric.anyUp_false {f : Fabric} (h : ∀ i < 144, f.width i = 0) : f.anyUp = false := by
  simpa [Fabric.anyUp] using h
theorem Fabric.anyUp_true {f : Fabric} {p : Nat} (h : p < 144) (up : f.width p ≠ 0) : f.anyUp = true := by
  simpa [Fabric.anyUp] using ⟨p, h, up⟩

/-- Some ports are to advertise anew. -/
def Fabric.advertise (f : Fabric) (ps : List Nat) : Fabric :=
  ps.foldl (fun (f : Fabric) p => f.setLink p { f.link p with cap := true }) f

theorem Fabric.link_setLink_same (f : Fabric) (p : Nat) (l : Link) : (f.setLink p l).link p = l := by
  simp [Fabric.link, Fabric.setLink]
theorem Fabric.link_setLink_other (f : Fabric) {p q : Nat} (l : Link) (h : q ≠ p) :
    (f.setLink p l).link q = f.link q := by
  simp [Fabric.link, Fabric.setLink, h]

/-- What a link reads is not borne upon by another port's advertisement, and CAP stays set. -/
theorem Fabric.advertise_spec (f : Fabric) (ps : List Nat) : (f.advertise ps).cfg = f.cfg
    ∧ (f.advertise ps).fpstat = f.fpstat
    ∧ ∀ p, p ∈ ps ∨ (f.link p).cap = true → ((f.advertise ps).link p).cap = true := by
  induction ps generalizing f with
  | nil => exact ⟨rfl, rfl, fun p h => h.elim (fun m => absurd m (List.not_mem_nil)) id⟩
  | cons q ps ih =>
    obtain ⟨cfg, stat, cap⟩ := ih (f.setLink q { f.link q with cap := true })
    refine ⟨cfg, stat, fun p h => cap p ?_⟩
    by_cases same : p = q
    · subst same; right; rw [Fabric.link_setLink_same]
    · rw [Fabric.link_setLink_other _ _ same]
      simpa [same] using h

/-- The ports that are up. -/
def Fabric.upPorts (f : Fabric) : List Nat := (List.range 144).filter fun p => f.width p != 0

theorem Fabric.writeCfg_eq (f : Fabric) (x : Word) : f.writeCfg x =
    Fabric.advertise { f with cfg :=
      if f.anyUp then (x &&& 0xC0FF0000FFFFFFFF &&& 0xC0000000FFFFFFFF) ||| (f.cfg &&& 0x00FF000000000000)
      else x &&& 0xC0FF0000FFFFFFFF } f.upPorts := rfl

/-- R377: with no port up FABCFG takes all its writable bits. -/
theorem Fabric.writeCfg_down {f : Fabric} (x : Word) (h : ∀ i < 144, f.width i = 0) :
    f.writeCfg x = { f with cfg := x &&& 0xC0FF0000FFFFFFFF } := by
  have none_ : f.upPorts = [] := by simpa [Fabric.upPorts] using h
  rw [Fabric.writeCfg_eq, none_, Fabric.anyUp_false h]
  rfl

/-- R377: what FABCFG takes while a port is up. -/
theorem upCfg_modnum (x old : Word) :
    (x &&& 0xC0FF0000FFFFFFFF &&& 0xC0000000FFFFFFFF ||| old &&& 0x00FF000000000000).extractLsb' 48 8
      = old.extractLsb' 48 8 := by
  have closed : (0xC0000000FFFFFFFF : Word).extractLsb' 48 8 = 0#8 := by decide
  have kept : (0x00FF000000000000 : Word).extractLsb' 48 8 = BitVec.allOnes 8 := by decide
  simp only [BitVec.extractLsb'_or, BitVec.extractLsb'_and, closed, kept, BitVec.and_allOnes, BitVec.and_zero,
    BitVec.zero_or]
theorem upCfg_low (x old : Word) :
    (x &&& 0xC0FF0000FFFFFFFF &&& 0xC0000000FFFFFFFF ||| old &&& 0x00FF000000000000).extractLsb' 0 32
      = x.extractLsb' 0 32 := by
  have writable : (0xC0FF0000FFFFFFFF : Word).extractLsb' 0 32 = BitVec.allOnes 32 := by decide
  have open_ : (0xC0000000FFFFFFFF : Word).extractLsb' 0 32 = BitVec.allOnes 32 := by decide
  have kept : (0x00FF000000000000 : Word).extractLsb' 0 32 = 0#32 := by decide
  simp only [BitVec.extractLsb'_or, BitVec.extractLsb'_and, writable, open_, kept, BitVec.and_allOnes,
    BitVec.and_zero, BitVec.or_zero]

/-- R377: MODNUM stays while a port is up, and the ports that are up advertise anew. -/
theorem Fabric.writeCfg_up {f : Fabric} {p : Nat} (x : Word) (h : p < 144) (up : f.width p ≠ 0) :
    (f.writeCfg x).cfg.extractLsb' 48 8 = f.cfg.extractLsb' 48 8
      ∧ (f.writeCfg x).cfg.extractLsb' 0 32 = x.extractLsb' 0 32
      ∧ ((f.writeCfg x).link p).cap = true ∧ (f.writeCfg x).fpstat = f.fpstat := by
  rw [Fabric.writeCfg_eq, Fabric.anyUp_true h up, if_pos rfl]
  obtain ⟨cfg, stat, cap⟩ := Fabric.advertise_spec { f with cfg :=
    (x &&& 0xC0FF0000FFFFFFFF &&& 0xC0000000FFFFFFFF) ||| (f.cfg &&& 0x00FF000000000000) } f.upPorts
  refine ⟨?_, ?_, cap p (.inl (by simp [Fabric.upPorts, h, up])), stat⟩
  · rw [cfg]; exact upCfg_modnum x f.cfg
  · rw [cfg]; exact upCfg_low x f.cfg

end Sys2Proof.Machine
end

section
open Sys2Proof Sys2Proof.Machine

/-- Settles O47: each write changes its own record, and a core's registers are written at the leader of its pair. -/
theorem controlWrites : Obligations.control_writes := by
  intro n sl j d q k p m blk cycles x w1 w2 mode win es f s l y u a puts runs
  refine ⟨?_, ⟨_, rfl, s.setCore_only n _⟩, fun hj => ⟨_, rfl, rfl, rfl, s.registerWrite_slpart sl x hj⟩,
    ⟨_, rfl, rfl, rfl, s.die_setDie_same d _⟩,
    ⟨_, rfl, rfl, rfl, s.pkg.featact_writeFeatsel 0 x, s.pkg.writeFeatsel_high x, s.pkg.writeFeatsel_low x⟩,
    ⟨_, rfl, rfl, rfl, s.pkg.hq_setHq q _⟩, ⟨_, rfl, rfl, rfl, rfl⟩, ⟨_, rfl, rfl, rfl, rfl⟩, ?_, ?_,
    fun busy on => ⟨_, exec_debugTrap busy on, (s.setCore_only l _).1, rfl⟩,
    fun h => ⟨_, exec_debugHold_run h, s.setCore_only l _⟩, fun h => ⟨_, exec_debugHold_frozen h, s.setCore_only l _⟩,
    fun h => ⟨_, exec_debugRelease_run h, s.setCore_only l _⟩, fun h => ⟨_, exec_debugRelease_frozen h, s.setCore_only l _⟩,
    fun quiet hm hw hs ha => pairmodeWrite_leads (State.pairRefuses_false quiet hm hw hs ha),
    routerProgramWrite_leads, queueDescriptorWrite_leads s d q x w1 w2, tagBlockRecordWrite_leads x,
    fun down => ⟨_, rfl, s.fab.writeCfg_down x down, rfl⟩, fun hp up => ⟨_, rfl, s.fab.writeCfg_up x hp up⟩,
    ⟨_, rfl, s.die_setDie_same d _, rfl, rfl⟩⟩
  · intro r hr
    change r ∈ outerListed.map fun q => (q, y.sysWritten q.toNat x) at hr
    obtain ⟨q, listed, rfl⟩ := List.mem_map.mp hr
    refine ⟨_, rfl, ?_⟩
    rw [s.registerWrite_listed n x listed]
    exact s.setCore_only l _
  · obtain ⟨cores, mem, window⟩ := s.registerWrite_hdm x
    exact ⟨_, rfl, cores, congrArg Mem.bytes mem, window⟩
  · obtain ⟨cores, mem, slotbase⟩ := s.registerWrite_slotbase x
    exact ⟨_, rfl, cores, congrArg Mem.bytes mem, slotbase⟩

end

section
/-! SEND_REFUSAL in a state whose cores are not listed in rising order. `Map` says that its keys rise, but a state is
plain data and the statement about the conjunction units is of every state; to put a core's entry in place can list it
before another core that holds the same context, and then the report goes to that core. -/

namespace Sys2Proof.Machine

/-- A send that has stopped with status 5. -/
def stoppedSend : Send :=
  { id := 0, tag := 0, pos := 0, src := none, fmt := none, row := some 0, ctx := 3, asid := 0, seg := 0, sent := false
    refused := 0, due := 0, waiting := false, stop := some 5 }
/-- Core 5 holds context 3. -/
def holder : Core := { Core.reset 5 with run := .run, regs := CoreRegs.reset 3 }
/-- So does core 3, whose engine holds the stopped send. -/
def sender : Core := { Core.reset 3 with run := .run, engine := [.send stoppedSend] }
/-- Core 5 is listed before core 3. -/
def unordered : State := { State.reset with cores := [(5, holder), (3, sender)] }

/-- The context's home is core 5, the first that is listed. -/
theorem unordered_homeOf : unordered.homeOf stoppedSend.ctx = some 5 := by decide +kernel
/-- Once the send has been dropped core 3 is listed first, and core 5 hears nothing. -/
theorem unordered_untold :
    exec (.sendRefusal 3) unordered = .next ((unordered.sendRefused 3).getD unordered)
      ∧ (((unordered.sendRefused 3).getD unordered).core 5).pending = [] := ⟨rfl, by decide +kernel⟩

/-- A tag, a result and an operand, of which the clause on SEND_REFUSAL says nothing. -/
def anyTagRec : TagRec :=
  { scope := 0, arity := 2, op := .addI32, forward := false, inc := 0, dcore := 0, aw := 0, dest := 0, fpos := 0
    ftag := 0, orph := 0, owner := 0, asid := 0, state := .idle, round := 0, disc := 0, pres := 0, next := 0, held := []
    since := 0 }
def anyResult : Result := ⟨0, 0, anyTagRec⟩
def anyOperand : Operand := ⟨.tag 0, 0, 0, none, 0, 0, 0⟩

end Sys2Proof.Machine
end

section
open Sys2Proof Sys2Proof.Machine

/-- Refutes O51: its clause on SEND_REFUSAL has the core that is the context's home before the step be told. Where the
cores are not listed in rising order, the step can make another core the first that is listed with that context, and
that one is told: with cores 5 and 3 listed in this order, both with context 3, the stopped send of core 3 leaves core 5
without its report. -/
theorem not_conjunctionSteps : ¬ Obligations.conjunction_steps := by
  intro h
  obtain ⟨-, -, -, -, -, -, -, -, -, -, -, -, -, -, refusal, -, -⟩ :=
    h 3 0 0 5 0 stoppedSend anyTagRec anyResult anyOperand 0 0 false false 5 unordered unordered
  obtain ⟨t, step, -, -, told⟩ := refusal rfl rfl (fun j hj => absurd hj (Nat.not_lt_zero j)) unordered_homeOf
  obtain ⟨taken, untold⟩ := unordered_untold
  obtain rfl : _ = t := Host.Outcome.next.inj (taken.symm.trans step)
  rw [untold] at told
  exact absurd told (by simp)

end

section
/-! Encodings: what each format's fields read back as, and what each slot's decoder makes of the encoder's words
(R62 to R79). -/

namespace Sys2Proof

open BitVec (extractLsb'_append_eq_left extractLsb'_append_eq_right extractLsb'_append_eq_of_le
  extractLsb'_append_eq_of_add_le)

/-! ### Bits of joined fields -/

@[simp] theorem bitOf_append_low {v w n : Nat} {hi : BitVec v} {lo : BitVec w} (h : n < w) :
    bitOf (hi ++ lo) n = bitOf lo n := by
  simp [bitOf, BitVec.getLsbD_append, h]
@[simp] theorem bitOf_append_high {v w n : Nat} {hi : BitVec v} {lo : BitVec w} (h : w ≤ n) :
    bitOf (hi ++ lo) n = bitOf hi (n - w) := by
  simp [bitOf, BitVec.getLsbD_append, Nat.not_lt.mpr h]
@[simp] theorem bitOf_zero {k : Nat} (n : Nat) : bitOf 0#k n = false := by simp [bitOf]
@[simp] theorem bitOf_bit1 (b : Bool) : bitOf (bit1 b) 0 = b := by simp [bitOf, bit1]

/-! ### Guards, register fields and policies (R64, R68, R69) -/

@[simp] theorem Guard.ofBits_bits (g : Guard) : Guard.ofBits g.bits = g := by
  simp (disch := decide) [-Nat.reduceAdd, Guard.ofBits, Guard.bits, extractLsb'_append_eq_of_add_le]
theorem gOk_wf {a : GSrc} (wf : a.wf = true) : gOk a.reg a.trap = true := wf
@[simp] theorem gOk_zero : gOk 0 false = true := rfl
@[simp] theorem predOk_pf (p : PReg) : predOk (pf p) = true := by
  simp (disch := decide) only [predOk, pf, bitOf_append_high]; rfl
@[simp] theorem predOf_pf (p : PReg) : predOf (pf p) = p := by
  simp (disch := decide) [-Nat.reduceAdd, predOf, pf, extractLsb'_append_eq_of_add_le]
@[simp] theorem gOk6_gv (a : GSrc) : gOk6 (gv a).reg (gv a).trap = gOk a.reg a.trap := by
  have high : bitOf (gv a).reg 5 = false := by simp (disch := decide) only [gv, bitOf_append_high]; rfl
  have low : (gv a).reg.extractLsb' 0 5 = a.reg := extractLsb'_append_eq_right
  rw [gOk6, high, low]; rfl
@[simp] theorem gOf6_gv (a : GSrc) : gOf6 (gv a).reg (gv a).trap = a := by
  rw [gOf6, gv, extractLsb'_append_eq_right]

/-! ### Qualifiers (R74, R76, R77) -/

@[simp] theorem Scope.ofCode_code (x : Scope) : Scope.ofCode x.code = some x := by cases x <;> rfl
@[simp] theorem AOrd.ofCode_code (x : AOrd) : AOrd.ofCode x.code = x := by cases x <;> rfl
@[simp] theorem Width.ofCode_code (x : Width) : Width.ofCode x.code = x := by cases x <;> rfl
@[simp] theorem Space.ofCode_code (x : Space) : Space.ofCode x.code = x := by cases x <;> rfl
@[simp] theorem LSpace.ofCode_code (x : LSpace) : LSpace.ofCode x.code = some x := by cases x <;> rfl
@[simp] theorem Cond.ofCode_code (x : Cond) : Cond.ofCode x.code = some x := by cases x <;> rfl
@[simp] theorem VCond.ofCode_code (x : VCond) : VCond.ofCode x.code = some x := by cases x <;> rfl
@[simp] theorem RMode.ofCode_code (x : RMode) : RMode.ofCode x.code = x := by cases x <;> rfl
@[simp] theorem RedOp.ofCode_code (x : RedOp) : RedOp.ofCode x.code = some x := by cases x <;> rfl
@[simp] theorem CombOp.ofCode_code (x : CombOp) : CombOp.ofCode x.code = some x := by cases x <;> rfl
@[simp] theorem EntW.ofCode_code (x : EntW) : EntW.ofCode x.code = some x := by cases x <;> rfl
@[simp] theorem Port.ofCode_code (x : Port) : Port.ofCode x.code = some x := by cases x <;> rfl
@[simp] theorem TlbiKind.ofCode_code (x : TlbiKind) : TlbiKind.ofCode x.code = some x := by cases x <;> rfl
@[simp] theorem Access.ofCode_code (x : Access) : Access.ofCode x.code = some x := by cases x <;> rfl
@[simp] theorem Residency.ofCode_code (x : Residency) : Residency.ofCode x.code = x := by cases x <;> rfl
@[simp] theorem Tag.ofCode_code (x : Tag) : Tag.ofCode x.code = some x := by cases x <;> rfl
@[simp] theorem Stream.ofCode_code (x : Stream) : Stream.ofCode x.code = x := by cases x <;> rfl
@[simp] theorem ordOf_bit1 (o : Bool) : ordOf ((0 : BitVec 1) ++ bit1 o) = some o := by cases o <;> rfl

section
variable (w64 : Bool) (sc : Scope) (o : AOrd) (u : Bool)

@[simp] theorem atomicQ_zeros : (atomicQ w64 sc o u).extractLsb' 0 5 = 0 := by
  simp (disch := decide) [-Nat.reduceAdd, atomicQ, extractLsb'_append_eq_of_add_le]
@[simp] theorem atomicQ_w64 : bitOf (atomicQ w64 sc o u) 11 = w64 := by
  simp (disch := decide) [-Nat.reduceAdd, atomicQ]
@[simp] theorem atomicQ_scope : (atomicQ w64 sc o u).extractLsb' 8 3 = sc.code := by
  simp (disch := decide) [-Nat.reduceAdd, atomicQ, extractLsb'_append_eq_of_le, extractLsb'_append_eq_of_add_le]
@[simp] theorem atomicQ_ord : (atomicQ w64 sc o u).extractLsb' 6 2 = o.code := by
  simp (disch := decide) [-Nat.reduceAdd, atomicQ, extractLsb'_append_eq_of_le, extractLsb'_append_eq_of_add_le]
@[simp] theorem atomicQ_unsigned : bitOf (atomicQ w64 sc o u) 5 = u := by
  simp (disch := decide) [-Nat.reduceAdd, atomicQ]
/-- Where U is unused, so are the six low bits. -/
@[simp] theorem atomicQ_low : (atomicQ w64 sc o false).extractLsb' 0 6 = 0 := by
  cases w64 <;> cases sc <;> cases o <;> rfl

end

@[simp] theorem fieldQ_pos (pos len : BitVec 6) : (fieldQ pos len).extractLsb' 6 6 = pos :=
  extractLsb'_append_eq_left
@[simp] theorem fieldQ_len (pos len : BitVec 6) : (fieldQ pos len).extractLsb' 0 6 = len :=
  extractLsb'_append_eq_right
@[simp] theorem rmQ_mode (rm : RMode) : (rmQ rm).extractLsb' 0 2 = rm.code := extractLsb'_append_eq_right
@[simp] theorem rmQ_zeros (rm : RMode) : (rmQ rm).extractLsb' 2 3 = 0 := extractLsb'_append_eq_left

/-! ### The formats of the S slot (Table BND-7) -/

section
variable (g : Guard) (op : BitVec 7)

@[simp] theorem SR.of_word (x : SR) : SR.of (SR.word g op x) = x := by
  simp (disch := decide) [-Nat.reduceAdd, SR.of, SR.word, extractLsb'_append_eq_of_le, extractLsb'_append_eq_of_add_le]
@[simp] theorem SR.op_word (x : SR) : (SR.word g op x).extractLsb' 35 7 = op := by
  simp (disch := decide) [-Nat.reduceAdd, SR.word, extractLsb'_append_eq_of_le, extractLsb'_append_eq_of_add_le]
theorem SR.guard_word (x : SR) : (SR.word g op x).extractLsb' 42 6 = g.bits := by
  simp (disch := decide) [-Nat.reduceAdd, SR.word, extractLsb'_append_eq_of_le]
@[simp] theorem SI.of_word (x : SI) : SI.of (SI.word g op x) = x := by
  simp (disch := decide) [-Nat.reduceAdd, SI.of, SI.word, extractLsb'_append_eq_of_le, extractLsb'_append_eq_of_add_le]
@[simp] theorem SI.op_word (x : SI) : (SI.word g op x).extractLsb' 35 7 = op := by
  simp (disch := decide) [-Nat.reduceAdd, SI.word, extractLsb'_append_eq_of_le, extractLsb'_append_eq_of_add_le]
theorem SI.guard_word (x : SI) : (SI.word g op x).extractLsb' 42 6 = g.bits := by
  simp (disch := decide) [-Nat.reduceAdd, SI.word, extractLsb'_append_eq_of_le]
@[simp] theorem SM.of_word (x : SM) : SM.of (SM.word g op x) = x := by
  simp (disch := decide) [-Nat.reduceAdd, SM.of, SM.word, extractLsb'_append_eq_of_le, extractLsb'_append_eq_of_add_le]
@[simp] theorem SM.op_word (x : SM) : (SM.word g op x).extractLsb' 35 7 = op := by
  simp (disch := decide) [-Nat.reduceAdd, SM.word, extractLsb'_append_eq_of_le, extractLsb'_append_eq_of_add_le]
theorem SM.guard_word (x : SM) : (SM.word g op x).extractLsb' 42 6 = g.bits := by
  simp (disch := decide) [-Nat.reduceAdd, SM.word, extractLsb'_append_eq_of_le]

end

/-! ### What precedes an opcode (R64, R72) -/

theorem slotOf_wf {g : Guard} (wf : g.wf = true) (r : SlotRes) : slotOf false g r = r := by simp [slotOf, wf]

/-- A slot with an opcode and a guard that is no reserved one is decoded by its opcode. -/
theorem decodeS_opcode {w : BitVec 48} {g : Guard} (wf : g.wf = true) (used : w.extractLsb' 35 7 ≠ 0)
    (hg : w.extractLsb' 42 6 = g.bits) : decodeS w = decodeSOp w g := by
  have nonzero : (w == 0) = false := beq_false_of_ne (by rintro rfl; exact used (by decide))
  rw [decodeS, nonzero, hg, Guard.ofBits_bits, slotOf_wf wf]

section
variable {g : Guard} {op : BitVec 7} (wf : g.wf = true) (used : op ≠ 0)
include wf used

theorem decodeS_sr (x : SR) : decodeS (SR.word g op x) = decodeSOp (SR.word g op x) g :=
  decodeS_opcode wf (by rwa [SR.op_word]) (SR.guard_word ..)
theorem decodeS_si (x : SI) : decodeS (SI.word g op x) = decodeSOp (SI.word g op x) g :=
  decodeS_opcode wf (by rwa [SI.op_word]) (SI.guard_word ..)
theorem decodeS_sm (x : SM) : decodeS (SM.word g op x) = decodeSOp (SM.word g op x) g :=
  decodeS_opcode wf (by rwa [SM.op_word]) (SM.guard_word ..)

end

/-! ### Operand forms of the S slot -/

section
variable {g : Guard} {op : BitVec 7} {d : GReg} {a b c : GSrc}

theorem srThree_word {k} (ha : a.wf = true) (hb : b.wf = true) :
    srThree (SR.word g op (srMk d a b)) k = .op (k d a b) := by
  simp [srThree, srMk, SR.onlyAB, gOk_wf ha, gOk_wf hb, slotIf, SR.ga, SR.gb]
theorem srTwo_word {k} (ha : a.wf = true) : srTwo (SR.word g op (srMk d a)) k = .op (k d a) := by
  simp [srTwo, srMk, SR.onlyA, gOk_wf ha, slotIf, SR.ga]
theorem srSrc_word {k} (ha : a.wf = true) : srSrc (SR.word g op (srMk 0 a)) k = .op (k a) := by
  simp [srSrc, srMk, SR.onlyA, gOk_wf ha, slotIf, SR.ga]
theorem srSrc2_word {k} (ha : a.wf = true) (hb : b.wf = true) :
    srSrc2 (SR.word g op (srMk 0 a b)) k = .op (k a b) := by
  simp [srSrc2, srMk, SR.onlyAB, gOk_wf ha, gOk_wf hb, slotIf, SR.ga, SR.gb]
theorem srNone_word {i} : srNone (SR.word g op (srMk 0)) i = .op i := by
  simp [srNone, srMk, SR.noSrc, slotIf]
theorem siShift_word {k n} (ha : a.wf = true) :
    siShift (SI.word g op ⟨d, a.reg, a.trap, (0 : BitVec 18) ++ n⟩) k = .op (k d a n) := by
  simp only [siShift, SI.of_word, SI.ga]
  rw [extractLsb'_append_eq_left, extractLsb'_append_eq_right]
  simp [slotIf, gOk_wf ha]
theorem srField_word {k pos len} (ha : a.wf = true) :
    srField (SR.word g op (srMk d a (q := fieldQ pos len))) k = .op (k d a pos len) := by
  simp [srField, srMk, SR.onlyA, gOk_wf ha, slotIf, SR.ga]
theorem srFieldVar_word {k len} (ha : a.wf = true) (hb : b.wf = true) :
    srFieldVar (SR.word g op (srMk d a b (q := fieldQ 0 len))) k = .op (k d a b len) := by
  simp [srFieldVar, srMk, SR.onlyAB, gOk_wf ha, gOk_wf hb, slotIf, SR.ga, SR.gb]
theorem srFour_word {k} (ha : a.wf = true) (hb : b.wf = true) (hc : c.wf = true) :
    srFour (SR.word g op (srMk d a b c)) k = .op (k d a b c) := by
  simp [srFour, srMk, gOk_wf ha, gOk_wf hb, gOk_wf hc, slotIf, SR.ga, SR.gb, SR.gc]
theorem srPred3_word {k} {pd pa pb : PReg} :
    srPred3 (SR.word g op (srMk (pf pd) (ps pa) (ps pb))) k = .op (k pd pa pb) := by
  simp [srPred3, srMk, ps, slotIf]
theorem srPred2_word {k} {pd pa : PReg} : srPred2 (SR.word g op (srMk (pf pd) (ps pa))) k = .op (k pd pa) := by
  simp [srPred2, srMk, ps, slotIf]
theorem srAtomic_word {k w64 sc o u used} (ha : a.wf = true) (hb : b.wf = true) (hu : used = true ∨ u = false) :
    srAtomic (atomicWord g op d a b w64 sc o u) used k = .op (k d a b w64 sc o u) := by
  rcases hu with rfl | rfl <;>
    simp [srAtomic, atomicWord, srMk, SR.onlyAB, gOk_wf ha, gOk_wf hb, slotOpt, SR.ga, SR.gb]
theorem srAtomicF_word {k sc o} (ha : a.wf = true) (hb : b.wf = true) :
    srAtomicF (atomicWord g op d a b false sc o false) k = .op (k d a b sc o) := by
  simp [srAtomicF, atomicWord, srMk, SR.onlyAB, gOk_wf ha, gOk_wf hb, slotOpt, SR.ga, SR.gb]
theorem srBar_word {k n} : srBar (SR.word g op (srMk 0 (q := (0 : BitVec 2) ++ n))) k = .op (k n) := by
  simp only [srBar, SR.of_word, srMk]
  rw [extractLsb'_append_eq_left, extractLsb'_append_eq_right]
  simp [slotIf, SR.noSrc]
theorem siCode_word {k n} : siCode (SI.word g op ⟨0, 0, false, (0 : BitVec 8) ++ n⟩) k = .op (k n) := by
  simp only [siCode, SI.of_word]
  rw [extractLsb'_append_eq_left, extractLsb'_append_eq_right]
  simp [slotIf]

end

end Sys2Proof
end

section
/-! The S slot: decoding what the encoder writes (Tables BND-9 and BND-10). -/

namespace Sys2Proof

open BitVec (extractLsb'_append_eq_left extractLsb'_append_eq_right extractLsb'_append_eq_of_le
  extractLsb'_append_eq_of_add_le)

/-! ### The parts of well-formedness -/

theorem true_of_and2 {x y : Bool} (h : (x && y) = true) : x = true ∧ y = true := by simpa using h
theorem true_of_and3 {x y z : Bool} (h : (x && y && z) = true) : x = true ∧ y = true ∧ z = true := by
  simpa [and_assoc] using h
theorem true_of_and4 {x y z u : Bool} (h : (x && y && z && u) = true) :
    x = true ∧ y = true ∧ z = true ∧ u = true := by
  simpa [and_assoc] using h

/-! ### Operations whose operand form is their own -/

section
variable {g : Guard} {d : GReg} {a b c t : GSrc}

theorem sel_word {p : PReg} (ha : a.wf = true) (hb : b.wf = true) :
    decodeSOp (SR.word g 0x17 (srMk d a b (ps p))) g = .op (.sel g d p a b) := by
  rw [decodeSOp, SR.op_word]
  show slotIf _ _ = _
  simp [srMk, ps, slotIf, gOk_wf ha, gOk_wf hb, SR.ga, SR.gb]
theorem addi_word {imm : BitVec 24} (ha : a.wf = true) :
    decodeSOp (SI.word g 0x19 ⟨d, a.reg, a.trap, imm⟩) g = .op (.addi g d a imm) := by
  rw [decodeSOp, SI.op_word]
  show slotIf _ _ = _
  simp [slotIf, gOk_wf ha, SI.ga]
theorem lea_word {sh : BitVec 3} (ha : a.wf = true) (hb : b.wf = true) :
    decodeSOp (SR.word g 0x1E (srMk d a b (q := (0 : BitVec 9) ++ sh))) g = .op (.lea g d a b sh) := by
  rw [decodeSOp, SR.op_word]
  show slotIf _ _ = _
  simp only [SR.of_word, srMk, SR.ga, SR.gb]
  rw [extractLsb'_append_eq_left, extractLsb'_append_eq_right]
  simp [slotIf, SR.onlyAB, gOk_wf ha, gOk_wf hb]
theorem cmp_word {pd : PReg} {k : Cond} (ha : a.wf = true) (hb : b.wf = true) :
    decodeSOp (SR.word g 0x1F (srMk (pf pd) a b (q := (0 : BitVec 8) ++ k.code))) g = .op (.cmp g pd k a b) := by
  rw [decodeSOp, SR.op_word]
  show slotOpt _ _ = _
  simp only [SR.of_word, srMk, SR.ga, SR.gb]
  rw [extractLsb'_append_eq_left, extractLsb'_append_eq_right]
  simp [slotOpt, SR.onlyAB, gOk_wf ha, gOk_wf hb]
theorem bfi_word {pos len : BitVec 6} (ha : a.wf = true) (hb : b.wf = true) :
    decodeSOp (SR.word g 0x22 (srMk d a b (q := fieldQ pos len))) g = .op (.bfi g d a b pos len) := by
  rw [decodeSOp, SR.op_word]
  show slotIf _ _ = _
  simp [srMk, SR.onlyAB, slotIf, gOk_wf ha, gOk_wf hb, SR.ga, SR.gb]
theorem bfiVar_word {len : BitVec 6} (ha : a.wf = true) (hb : b.wf = true) (hc : c.wf = true) :
    decodeSOp (SR.word g 0x25 (srMk d a b c (fieldQ 0 len))) g = .op (.bfiVar g d a b c len) := by
  rw [decodeSOp, SR.op_word]
  show slotIf _ _ = _
  simp [srMk, slotIf, gOk_wf ha, gOk_wf hb, gOk_wf hc, SR.ga, SR.gb, SR.gc]
theorem ld_word {wid : Width} {sp : Space} {o : Bool} {sc : Scope} {off : BitVec 14} (ha : a.wf = true) :
    decodeSOp (SM.word g 0x31 ⟨d, false, a.reg, a.trap, wid.code, sp.code, (0 : BitVec 1) ++ bit1 o, sc.code, off⟩) g
      = .op (.ld g d a wid sp o sc off) := by
  rw [decodeSOp, SM.op_word]
  show slotOpt _ _ = _
  simp only [SM.of_word, ordOf_bit1]
  simp [slotOpt, gOk_wf ha]
theorem st_word {wid : Width} {sp : Space} {o : Bool} {sc : Scope} {off : BitVec 14} (ht : t.wf = true)
    (ha : a.wf = true) :
    decodeSOp (SM.word g 0x32 ⟨t.reg, t.trap, a.reg, a.trap, wid.code, sp.code, (0 : BitVec 1) ++ bit1 o, sc.code, off⟩) g
      = .op (.st g t a wid sp o sc off) := by
  rw [decodeSOp, SM.op_word]
  show slotOpt _ _ = _
  simp only [SM.of_word, ordOf_bit1]
  simp [slotOpt, gOk_wf ha, gOk_wf ht]
theorem acas_word {w64 : Bool} {sc : Scope} {o : AOrd} (ha : a.wf = true) (hb : b.wf = true) (hc : c.wf = true) :
    decodeSOp (SR.word g 0x3A (srMk d a b c (atomicQ w64 sc o false))) g = .op (.acas g d a b c w64 sc o) := by
  rw [decodeSOp, SR.op_word]
  show slotOpt _ _ = _
  simp [srMk, slotOpt, gOk_wf ha, gOk_wf hb, gOk_wf hc, SR.ga, SR.gb, SR.gc]
theorem fence_word {sc : Scope} :
    decodeSOp (SR.word g 0x3D (srMk 0 (q := (0 : BitVec 1) ++ sc.code ++ (0 : BitVec 8)))) g = .op (.fence g sc) := by
  rw [decodeSOp, SR.op_word]
  show slotOpt _ _ = _
  rw [SR.of_word]
  cases sc <;> rfl
theorem ownCore_word (ha : a.wf = true) : decodeSOp (SR.word g 0x40 (srMk 0 a)) g = .op (.ownCore g a) := by
  rw [decodeSOp, SR.op_word]
  show slotIf _ _ = _
  simp [srMk, slotIf, SR.onlyA, gOk_wf ha, SR.ga, bitOf]
theorem ownEngine_word (ha : a.wf = true) :
    decodeSOp (SR.word g 0x40 (srMk 0 a (q := 1))) g = .op (.ownEngine g a) := by
  rw [decodeSOp, SR.op_word]
  show slotIf _ _ = _
  simp [srMk, slotIf, SR.onlyA, gOk_wf ha, SR.ga, bitOf]
theorem arma_word {n : BitVec 24} (ha : a.wf = true) :
    decodeSOp (SI.word g 0x41 ⟨0, a.reg, a.trap, n⟩) g = .op (.arma g a n) := by
  rw [decodeSOp, SI.op_word]
  show slotIf _ _ = _
  simp [slotIf, gOk_wf ha, SI.ga]
theorem waitaCnt_word {n : BitVec 24} (ha : a.wf = true) :
    decodeSOp (SI.word g 0x42 ⟨0, a.reg, a.trap, n⟩) g = .op (.waitaCnt g a n) := by
  rw [decodeSOp, SI.op_word]
  show (if _ then slotIf _ _ else slotIf _ _) = _
  simp [slotIf, gOk_wf ha, SI.ga, bitOf]
theorem waitaGen_word {n : BitVec 16} (ha : a.wf = true) :
    decodeSOp (SI.word g 0x42 ⟨1, a.reg, a.trap, (0 : BitVec 8) ++ n⟩) g = .op (.waitaGen g a n) := by
  rw [decodeSOp, SI.op_word]
  show (if _ then slotIf _ _ else slotIf _ _) = _
  simp only [SI.of_word, SI.ga]
  rw [extractLsb'_append_eq_left, extractLsb'_append_eq_right]
  simp [slotIf, gOk_wf ha, bitOf]
theorem sysr_word {q : BitVec 12} : decodeSOp (SR.word g 0x43 (srMk d (q := q))) g = .op (.sysr g d q) := by
  rw [decodeSOp, SR.op_word]
  show slotIf _ _ = _
  simp [srMk, slotIf, SR.noSrc]
theorem sysw_word {q : BitVec 12} (ha : a.wf = true) :
    decodeSOp (SR.word g 0x44 (srMk 0 a (q := q))) g = .op (.sysw g a q) := by
  rw [decodeSOp, SR.op_word]
  show slotIf _ _ = _
  simp [srMk, slotIf, SR.onlyA, gOk_wf ha, SR.ga]
theorem tlbi_word {k : TlbiKind} (ha : a.wf = true) (hb : b.wf = true) :
    decodeSOp (SR.word g 0x4A (srMk 0 a b (q := (0 : BitVec 10) ++ k.code))) g = .op (.tlbi g a b k) := by
  rw [decodeSOp, SR.op_word]
  show slotOpt _ _ = _
  simp only [SR.of_word, srMk, SR.ga, SR.gb]
  rw [extractLsb'_append_eq_left, extractLsb'_append_eq_right]
  simp [slotOpt, SR.onlyAB, gOk_wf ha, gOk_wf hb]
theorem xlate_word {k : Access} (ha : a.wf = true) :
    decodeSOp (SR.word g 0x4B (srMk d a (q := (0 : BitVec 10) ++ k.code))) g = .op (.xlate g d a k) := by
  rw [decodeSOp, SR.op_word]
  show slotOpt _ _ = _
  simp only [SR.of_word, srMk, SR.ga]
  rw [extractLsb'_append_eq_left, extractLsb'_append_eq_right]
  simp [slotOpt, SR.onlyA, gOk_wf ha]
theorem pop_word (ha : a.wf = true) : decodeSOp (SR.word g 0x4C (srMk d a)) g = .op (.pop g d a) := by
  rw [decodeSOp, SR.op_word]
  show slotIf _ _ = _
  simp [srMk, slotIf, SR.onlyA, gOk_wf ha, SR.ga, bitOf]
theorem popNb_word (ha : a.wf = true) : decodeSOp (SR.word g 0x4C (srMk d a (q := 1))) g = .op (.popNb g d a) := by
  rw [decodeSOp, SR.op_word]
  show slotIf _ _ = _
  simp [srMk, slotIf, SR.onlyA, gOk_wf ha, SR.ga, bitOf]
theorem lbm_word {n : BitVec 6} (ha : a.wf = true) :
    decodeSOp (SI.word g 0x5E ⟨0, a.reg, a.trap, (0 : BitVec 18) ++ n⟩) g = .op (.lbm g a n) := by
  rw [decodeSOp, SI.op_word]
  show slotIf _ _ = _
  simp only [SI.of_word, SI.ga]
  rw [extractLsb'_append_eq_left, extractLsb'_append_eq_right]
  simp [slotIf, gOk_wf ha]

end

/-! ### BR, CALL and PFI: five bits and a displacement -/

section
variable (g : Guard) (op : BitVec 7) (d : BitVec 5) (x : BitVec 30)

theorem dispFormat_op : (g.bits ++ op ++ d ++ x : BitVec 48).extractLsb' 35 7 = op := by
  simp (disch := decide) [-Nat.reduceAdd, extractLsb'_append_eq_of_le, extractLsb'_append_eq_of_add_le]
theorem dispFormat_field : (g.bits ++ op ++ d ++ x : BitVec 48).extractLsb' 30 5 = d := by
  simp (disch := decide) [-Nat.reduceAdd, extractLsb'_append_eq_of_le, extractLsb'_append_eq_of_add_le]
theorem dispFormat_disp : (g.bits ++ op ++ d ++ x : BitVec 48).extractLsb' 0 30 = x := extractLsb'_append_eq_right

variable {g op}

theorem decodeS_dispFormat (wf : g.wf = true) (used : op ≠ 0) :
    decodeS (g.bits ++ op ++ d ++ x) = decodeSOp (g.bits ++ op ++ d ++ x) g :=
  decodeS_opcode wf (by rwa [dispFormat_op])
    (by simp (disch := decide) [-Nat.reduceAdd, extractLsb'_append_eq_of_le])

theorem br_word : decodeSOp (g.bits ++ 0x58#7 ++ (0 : BitVec 5) ++ x) g = .op (.br g x) := by
  rw [decodeSOp, dispFormat_op]
  show slotIf _ _ = _
  rw [dispFormat_field, dispFormat_disp]
  rfl
theorem call_word : decodeSOp (g.bits ++ 0x5B#7 ++ d ++ x) g = .op (.call g d x) := by
  rw [decodeSOp, dispFormat_op]
  show SlotRes.op _ = _
  rw [dispFormat_field, dispFormat_disp]
theorem pfi_word : decodeSOp (g.bits ++ 0x5F#7 ++ d ++ x) g = .op (.pfi g d x) := by
  rw [decodeSOp, dispFormat_op]
  show SlotRes.op _ = _
  rw [dispFormat_field, dispFormat_disp]

end

/-! ### BRT -/

theorem decodeS_brt {g : Guard} {a : GSrc} {pw px py pz : PReg} {w : BitVec 48} (wf : g.wf = true) (ha : a.wf = true)
    (h : encodeS (.brt g a pw px py pz) = some w) : decodeS w = .op (.brt g a pw px py pz) := by
  obtain rfl := Option.some.inj h
  have op : (g.bits ++ 0x5A#7 ++ a.reg ++ bit1 a.trap ++ pw ++ px ++ py ++ pz ++ (0 : BitVec 13) : BitVec 48).extractLsb' 35 7
      = 0x5A := by
    simp (disch := decide) [-Nat.reduceAdd, extractLsb'_append_eq_of_le, extractLsb'_append_eq_of_add_le]
  rw [decodeS_opcode wf (by rw [op]; decide), decodeSOp, op]
  · show slotIf _ _ = _
    simp (disch := decide) [-Nat.reduceAdd, slotIf, gOk_wf ha, extractLsb'_append_eq_of_le, extractLsb'_append_eq_of_add_le]
  · simp (disch := decide) [-Nat.reduceAdd, extractLsb'_append_eq_of_le]

/-! ### MOVI and MOVHI: the destination's high bits stand in the opcode -/

/-- Bits that take in all of a middle part and the high bits of the one below it. -/
theorem extractLsb'_across {u v w k : Nat} (a : BitVec u) (b : BitVec v) (c : BitVec w) (h : k ≤ w) :
    (a ++ b ++ c).extractLsb' k (v + (w - k)) = b ++ c.extractLsb' k (w - k) := by
  apply BitVec.eq_of_getLsbD_eq
  intro j hj
  simp only [BitVec.getLsbD_extractLsb', BitVec.getLsbD_append]
  by_cases low : j < w - k
  · simp [low, hj, show k + j < w by omega]
  · simp [low, hj, show ¬ k + j < w by omega, show k + j - w = j - (w - k) by omega, show j - (w - k) < v by omega]

section
variable {g : Guard} {d : GReg} {imm : BitVec 32}

/-- MOVI has 0 in `x`, MOVHI 1. -/
theorem movFormat_op (x : BitVec 2) :
    (g.bits ++ 0b111#3 ++ x ++ d ++ imm : BitVec 48).extractLsb' 35 7 = 0b111#3 ++ x ++ d.extractLsb' 3 2 := by
  rw [extractLsb'_append_eq_of_le (by decide), BitVec.append_assoc (x₁ := g.bits)]
  exact extractLsb'_across g.bits (0b111#3 ++ x) d (by decide)
theorem movFormat_dest (x : BitVec 2) : (g.bits ++ 0b111#3 ++ x ++ d ++ imm : BitVec 48).extractLsb' 32 5 = d := by
  simp (disch := decide) [-Nat.reduceAdd, extractLsb'_append_eq_of_le, extractLsb'_append_eq_of_add_le]
theorem movFormat_imm (x : BitVec 2) : (g.bits ++ 0b111#3 ++ x ++ d ++ imm : BitVec 48).extractLsb' 0 32 = imm :=
  extractLsb'_append_eq_right
theorem decodeS_movFormat (wf : g.wf = true) (x : BitVec 2) :
    decodeS (g.bits ++ 0b111#3 ++ x ++ d ++ imm) = decodeSOp (g.bits ++ 0b111#3 ++ x ++ d ++ imm) g := by
  have used : ∀ x y : BitVec 2, (0b111#3 ++ x ++ y : BitVec 7) ≠ 0 := by decide
  exact decodeS_opcode wf (by rw [movFormat_op]; exact used _ _)
    (by simp (disch := decide) [-Nat.reduceAdd, extractLsb'_append_eq_of_le])

theorem movi_word : decodeSOp (g.bits ++ 0b111#3 ++ 0b00#2 ++ d ++ imm) g = .op (.movi g d imm) := by
  rw [decodeSOp, movFormat_op]
  match d.extractLsb' 3 2 with
  | 0#2 | 1#2 | 2#2 | 3#2 =>
    show SlotRes.op _ = _
    rw [movFormat_dest, movFormat_imm]
theorem movhi_word : decodeSOp (g.bits ++ 0b111#3 ++ 0b01#2 ++ d ++ imm) g = .op (.movhi g d imm) := by
  rw [decodeSOp, movFormat_op]
  match d.extractLsb' 3 2 with
  | 0#2 | 1#2 | 2#2 | 3#2 =>
    show SlotRes.op _ = _
    rw [movFormat_dest, movFormat_imm]

end

/-! ### The slot -/

/-- R63, R64, R68 to R75: the S slot. -/
theorem decodeS_encodeS {i : Instr} {w : BitVec 48} (h : encodeS i = some w) (wf : i.wf = true) :
    decodeS w = .op i := by
  cases i with
  | add g d a b | sub g d a b | mul g d a b | mulh g d a b | mulhu g d a b | div g d a b | divu g d a b
  | rem g d a b | remu g d a b | and g d a b | or g d a b | xor g d a b | andn g d a b | shlReg g d a b
  | shrReg g d a b | sarReg g d a b | rotReg g d a b | min g d a b | max g d a b | minu g d a b | maxu g d a b =>
    cases h
    obtain ⟨hg, ha, hb⟩ := true_of_and3 wf
    rw [decodeS_sr hg (by decide), decodeSOp, SR.op_word]
    exact srThree_word ha hb
  | abs g d a | mov g d a | clz g d a | ctz g d a | popc g d a | brev g d a | taga g d a | tagq g d a | talw g d a
  | flowq g d a | calli g d a =>
    cases h
    obtain ⟨hg, ha⟩ := true_of_and2 wf
    rw [decodeS_sr hg (by decide), decodeSOp, SR.op_word]
    exact srTwo_word ha
  | tagf g a | pgref g a | pushw g a | join g a | launch g a | bri g a | ret g a =>
    cases h
    obtain ⟨hg, ha⟩ := true_of_and2 wf
    rw [decodeS_sr hg (by decide), decodeSOp, SR.op_word]
    exact srSrc_word ha
  | rngs g a b | launchi g a b =>
    cases h
    obtain ⟨hg, ha, hb⟩ := true_of_and3 wf
    rw [decodeS_sr hg (by decide), decodeSOp, SR.op_word]
    exact srSrc2_word ha hb
  | qmark g | vjoin g | eret g | halt g =>
    cases h
    rw [decodeS_sr wf (by decide), decodeSOp, SR.op_word]
    exact srNone_word
  | shlImm g d a n | shrImm g d a n | sarImm g d a n | rotImm g d a n =>
    cases h
    obtain ⟨hg, ha⟩ := true_of_and2 wf
    rw [decodeS_si hg (by decide), decodeSOp, SI.op_word]
    exact siShift_word ha
  | bfx g d a pos len | bfxz g d a pos len =>
    cases h
    obtain ⟨hg, ha⟩ := true_of_and2 wf
    rw [decodeS_sr hg (by decide), decodeSOp, SR.op_word]
    exact srField_word ha
  | bfxVar g d a b len | bfxzVar g d a b len =>
    cases h
    obtain ⟨hg, ha, hb⟩ := true_of_and3 wf
    rw [decodeS_sr hg (by decide), decodeSOp, SR.op_word]
    exact srFieldVar_word ha hb
  | fshl g d a b c | fshr g d a b c =>
    cases h
    obtain ⟨hg, ha, hb, hc⟩ := true_of_and4 wf
    rw [decodeS_sr hg (by decide), decodeSOp, SR.op_word]
    exact srFour_word ha hb hc
  | pand g pd pa pb | por g pd pa pb | pxor g pd pa pb =>
    cases h
    rw [decodeS_sr wf (by decide), decodeSOp, SR.op_word]
    exact srPred3_word
  | pnot g pd pa | pmov g pd pa =>
    cases h
    rw [decodeS_sr wf (by decide), decodeSOp, SR.op_word]
    exact srPred2_word
  | aadd g d a b w64 sc o | aand g d a b w64 sc o | aor g d a b w64 sc o | axor g d a b w64 sc o
  | axchg g d a b w64 sc o =>
    cases h
    obtain ⟨hg, ha, hb⟩ := true_of_and3 wf
    rw [atomicWord, decodeS_sr hg (by decide), decodeSOp, SR.op_word]
    exact srAtomic_word ha hb (.inr rfl)
  | amin g d a b w64 sc o u | amax g d a b w64 sc o u =>
    cases h
    obtain ⟨hg, ha, hb⟩ := true_of_and3 wf
    rw [atomicWord, decodeS_sr hg (by decide), decodeSOp, SR.op_word]
    exact srAtomic_word ha hb (.inl rfl)
  | afadd g d a b sc o | afmax g d a b sc o =>
    cases h
    obtain ⟨hg, ha, hb⟩ := true_of_and3 wf
    rw [atomicWord, decodeS_sr hg (by decide), decodeSOp, SR.op_word]
    exact srAtomicF_word ha hb
  | bar g n | bara g n | barw g n =>
    cases h
    rw [decodeS_sr wf (by decide), decodeSOp, SR.op_word]
    exact srBar_word
  | trap g n | brk g n =>
    cases h
    rw [decodeS_si wf (by decide), decodeSOp, SI.op_word]
    exact siCode_word
  | sel g d p a b =>
    cases h
    obtain ⟨hg, ha, hb⟩ := true_of_and3 wf
    exact (decodeS_sr hg (by decide) _).trans (sel_word ha hb)
  | addi g d a imm =>
    cases h
    obtain ⟨hg, ha⟩ := true_of_and2 wf
    exact (decodeS_si hg (by decide) _).trans (addi_word ha)
  | lea g d a b sh =>
    cases h
    obtain ⟨hg, ha, hb⟩ := true_of_and3 wf
    exact (decodeS_sr hg (by decide) _).trans (lea_word ha hb)
  | cmp g pd c a b =>
    cases h
    obtain ⟨hg, ha, hb⟩ := true_of_and3 wf
    exact (decodeS_sr hg (by decide) _).trans (cmp_word ha hb)
  | bfi g d a b pos len =>
    cases h
    obtain ⟨hg, ha, hb⟩ := true_of_and3 wf
    exact (decodeS_sr hg (by decide) _).trans (bfi_word ha hb)
  | bfiVar g d a b c len =>
    cases h
    obtain ⟨hg, ha, hb, hc⟩ := true_of_and4 wf
    exact (decodeS_sr hg (by decide) _).trans (bfiVar_word ha hb hc)
  | ld g t a wid sp o sc off =>
    cases h
    obtain ⟨hg, ha, -⟩ := true_of_and3 wf
    exact (decodeS_sm hg (by decide) _).trans (ld_word ha)
  | st g t a wid sp o sc off =>
    cases h
    obtain ⟨hg, hs, ha, -⟩ := true_of_and4 wf
    exact (decodeS_sm hg (by decide) _).trans (st_word hs ha)
  | acas g d a b c w64 sc o =>
    cases h
    obtain ⟨hg, ha, hb, hc⟩ := true_of_and4 wf
    exact (decodeS_sr hg (by decide) _).trans (acas_word ha hb hc)
  | fence g sc =>
    cases h
    exact (decodeS_sr wf (by decide) _).trans fence_word
  | ownCore g a =>
    cases h
    obtain ⟨hg, ha⟩ := true_of_and2 wf
    exact (decodeS_sr hg (by decide) _).trans (ownCore_word ha)
  | ownEngine g a =>
    cases h
    obtain ⟨hg, ha⟩ := true_of_and2 wf
    exact (decodeS_sr hg (by decide) _).trans (ownEngine_word ha)
  | arma g a n =>
    cases h
    obtain ⟨hg, ha⟩ := true_of_and2 wf
    exact (decodeS_si hg (by decide) _).trans (arma_word ha)
  | waitaCnt g a n =>
    cases h
    obtain ⟨hg, ha⟩ := true_of_and2 wf
    exact (decodeS_si hg (by decide) _).trans (waitaCnt_word ha)
  | waitaGen g a n =>
    cases h
    obtain ⟨hg, ha⟩ := true_of_and2 wf
    exact (decodeS_si hg (by decide) _).trans (waitaGen_word ha)
  | sysr g d q =>
    cases h
    exact (decodeS_sr wf (by decide) _).trans sysr_word
  | sysw g a q =>
    cases h
    obtain ⟨hg, ha⟩ := true_of_and2 wf
    exact (decodeS_sr hg (by decide) _).trans (sysw_word ha)
  | tlbi g a b k =>
    cases h
    obtain ⟨hg, ha, hb⟩ := true_of_and3 wf
    exact (decodeS_sr hg (by decide) _).trans (tlbi_word ha hb)
  | xlate g d a k =>
    cases h
    obtain ⟨hg, ha⟩ := true_of_and2 wf
    exact (decodeS_sr hg (by decide) _).trans (xlate_word ha)
  | pop g d a =>
    cases h
    obtain ⟨hg, ha⟩ := true_of_and2 wf
    exact (decodeS_sr hg (by decide) _).trans (pop_word ha)
  | popNb g d a =>
    cases h
    obtain ⟨hg, ha⟩ := true_of_and2 wf
    exact (decodeS_sr hg (by decide) _).trans (popNb_word ha)
  | lbm g a n =>
    cases h
    obtain ⟨hg, ha⟩ := true_of_and2 wf
    exact (decodeS_si hg (by decide) _).trans (lbm_word ha)
  | br g x =>
    cases h
    exact (decodeS_dispFormat _ _ wf (by decide)).trans (br_word x)
  | call g d x =>
    cases h
    exact (decodeS_dispFormat _ _ wf (by decide)).trans (call_word d x)
  | pfi g d x =>
    cases h
    exact (decodeS_dispFormat _ _ wf (by decide)).trans (pfi_word d x)
  | brt g a pw px py pz => exact decodeS_brt (true_of_and2 wf).1 (true_of_and2 wf).2 h
  | movi g d imm =>
    cases h
    exact (decodeS_movFormat wf 0).trans movi_word
  | movhi g d imm =>
    cases h
    exact (decodeS_movFormat wf 1).trans movhi_word
  | _ => cases h

end Sys2Proof
end

section
/-! The V slots: decoding what the encoder writes (Tables BND-8, BND-11 and BND-12). -/

namespace Sys2Proof

open BitVec (extractLsb'_append_eq_left extractLsb'_append_eq_right extractLsb'_append_eq_of_le
  extractLsb'_append_eq_of_add_le)

/-! ### Formats -/

section
variable (g : Guard) (op : BitVec 6)

@[simp] theorem VR.of_word (x : VR) : VR.of (VR.word g op x) = x := by
  simp (disch := decide) [-Nat.reduceAdd, VR.of, VR.word, extractLsb'_append_eq_of_le, extractLsb'_append_eq_of_add_le]
@[simp] theorem VR.op_word (x : VR) : (VR.word g op x).extractLsb' 28 6 = op := by
  simp (disch := decide) [-Nat.reduceAdd, VR.word, extractLsb'_append_eq_of_le, extractLsb'_append_eq_of_add_le]
theorem VR.guard_word (x : VR) : (VR.word g op x).extractLsb' 34 6 = g.bits := by
  simp (disch := decide) [-Nat.reduceAdd, VR.word, extractLsb'_append_eq_of_le]

variable (d : BitVec 6) (ed : Bool) (a : GSrc) (sp : LSpace) (off : BitVec 13) (b : VSrc) (mk : MReg)

theorem VM.op_word : (VM.word g op d ed a sp off).extractLsb' 28 6 = op := by
  simp (disch := decide) [-Nat.reduceAdd, VM.word, extractLsb'_append_eq_of_le, extractLsb'_append_eq_of_add_le]
theorem VM.guard_word : (VM.word g op d ed a sp off).extractLsb' 34 6 = g.bits := by
  simp (disch := decide) [-Nat.reduceAdd, VM.word, extractLsb'_append_eq_of_le]
theorem VX.op_word : (VX.word g op d ed a sp b mk).extractLsb' 28 6 = op := by
  simp (disch := decide) [-Nat.reduceAdd, VX.word, extractLsb'_append_eq_of_le, extractLsb'_append_eq_of_add_le]
theorem VX.guard_word : (VX.word g op d ed a sp b mk).extractLsb' 34 6 = g.bits := by
  simp (disch := decide) [-Nat.reduceAdd, VX.word, extractLsb'_append_eq_of_le]

end

/-- A slot with an opcode and a guard that is no reserved one is decoded by its opcode. -/
theorem decodeV_opcode {w : BitVec 40} {g : Guard} (wf : g.wf = true) (used : w.extractLsb' 28 6 ≠ 0)
    (hg : w.extractLsb' 34 6 = g.bits) : decodeV w = decodeVOp w g := by
  have nonzero : (w == 0) = false := beq_false_of_ne (by rintro rfl; exact used (by decide))
  rw [decodeV, nonzero, hg, Guard.ofBits_bits, slotOf_wf wf]

section
variable {g : Guard} {op : BitVec 6} (wf : g.wf = true) (used : op ≠ 0)
include wf used

theorem decodeV_vr (x : VR) : decodeV (VR.word g op x) = decodeVOp (VR.word g op x) g :=
  decodeV_opcode wf (by rwa [VR.op_word]) (VR.guard_word ..)
theorem decodeV_vm (d ed a sp off) : decodeV (VM.word g op d ed a sp off) = decodeVOp (VM.word g op d ed a sp off) g :=
  decodeV_opcode wf (by rwa [VM.op_word]) (VM.guard_word ..)
theorem decodeV_vx (d ed a sp b mk) :
    decodeV (VX.word g op d ed a sp b mk) = decodeVOp (VX.word g op d ed a sp b mk) g :=
  decodeV_opcode wf (by rwa [VX.op_word]) (VX.guard_word ..)

end

/-! ### Operand forms -/

section
variable {g : Guard} {op : BitVec 6} {d : VReg} {a b : VSrc} {mk : MReg}

theorem vrThree_word {k rm} : vrThree (VR.word g op (vrMk d a b mk (rmQ rm))) k = .op (k d a b mk rm) := by
  simp [vrThree, vrMk, slotIf, VR.va, VR.vb]
theorem vrTwo_word {k} : vrTwo (VR.word g op (vrMk d a (mk := mk))) k = .op (k d a mk) := by
  simp [vrTwo, vrMk, slotIf, VR.va]
theorem vrTwoRm_word {k rm} : vrTwoRm (VR.word g op (vrMk d a (mk := mk) (q := rmQ rm))) k = .op (k d a mk rm) := by
  simp [vrTwoRm, vrMk, slotIf, VR.va]
theorem vrRed_word {k} {o : RedOp} :
    vrRed (VR.word g op (vrMk d a (mk := mk) (q := (0 : BitVec 2) ++ o.code))) k = .op (k d a mk o) := by
  simp only [vrRed, VR.of_word, vrMk, VR.va]
  rw [extractLsb'_append_eq_left, extractLsb'_append_eq_right]
  simp [slotOpt]

end

/-! ### Operations whose operand form is their own -/

section
variable {g : Guard} {d : VReg} {a b : VSrc} {mk : MReg}

theorem vfmaQ_zeros (t : Bool) (rm : RMode) : (bit1 t ++ (0 : BitVec 2) ++ rm.code : BitVec 5).extractLsb' 2 2 = 0 := by
  rw [extractLsb'_append_eq_of_le (by decide)]
  exact extractLsb'_append_eq_right
theorem vfmaQ_policy (t : Bool) (rm : RMode) : bitOf (bit1 t ++ (0 : BitVec 2) ++ rm.code : BitVec 5) 4 = t := by
  cases t <;> cases rm <;> decide
theorem vrqQ_zeros (sat : Bool) (rm : RMode) : ((0 : BitVec 2) ++ bit1 sat ++ rm.code : BitVec 5).extractLsb' 3 2 = 0 := by
  rw [extractLsb'_append_eq_of_le (by decide)]
  exact extractLsb'_append_eq_left
theorem vrqQ_sat (sat : Bool) (rm : RMode) : bitOf ((0 : BitVec 2) ++ bit1 sat ++ rm.code : BitVec 5) 2 = sat := by
  cases sat <;> cases rm <;> decide

theorem vfma_word {c : VSrc} {rm : RMode} :
    decodeVOp (VR.word g 0x05 (vrMk c.reg a b mk (bit1 c.trap ++ (0 : BitVec 2) ++ rm.code))) g
      = .op (.vfma g c a b mk rm) := by
  rw [decodeVOp, VR.op_word]
  show slotIf _ _ = _
  simp only [VR.of_word, vrMk, VR.va, VR.vb]
  rw [vfmaQ_zeros, vfmaQ_policy, extractLsb'_append_eq_right]
  simp [slotIf]
theorem vcmp_word {md : MReg} {k : VCond} :
    decodeVOp (VR.word g 0x10 (vrMk ((0 : BitVec 3) ++ md) a b mk ((0 : BitVec 2) ++ k.code))) g
      = .op (.vcmp g md k a b mk) := by
  rw [decodeVOp, VR.op_word]
  show slotOpt _ _ = _
  simp only [VR.of_word, vrMk, VR.va, VR.vb]
  rw [extractLsb'_append_eq_left, extractLsb'_append_eq_right, extractLsb'_append_eq_left, extractLsb'_append_eq_right]
  simp [slotOpt]
theorem vsel_word : decodeVOp (VR.word g 0x11 (vrMk d a b mk)) g = .op (.vsel g d a b mk) := by
  rw [decodeVOp, VR.op_word]
  show slotIf _ _ = _
  simp [slotIf, vrMk, VR.va, VR.vb]
theorem vperm_word : decodeVOp (VR.word g 0x1D (vrMk d a b mk)) g = .op (.vperm g d a b mk) := by
  rw [decodeVOp, VR.op_word]
  show slotIf _ _ = _
  simp [slotIf, vrMk, VR.va, VR.vb]
theorem vbcast_word {r : GSrc} (hr : r.wf = true) :
    decodeVOp (VR.word g 0x13 (vrMk d (gv r) (mk := mk))) g = .op (.vbcast g d r mk) := by
  rw [decodeVOp, VR.op_word]
  show slotIf _ _ = _
  simp [slotIf, vrMk, gOk_wf hr]
theorem vcvt_word {t : Tag} {rm : RMode} {sat : Bool} :
    decodeVOp (VR.word g 0x14 (vrMk d a ⟨rm.code ++ t.code, false⟩ mk ((0 : BitVec 4) ++ bit1 sat))) g
      = .op (.vcvt g d a mk t rm sat) := by
  rw [decodeVOp, VR.op_word]
  show slotOpt _ _ = _
  simp only [VR.of_word, vrMk, VR.va]
  rw [extractLsb'_append_eq_left, extractLsb'_append_eq_left, extractLsb'_append_eq_right]
  cases sat <;> simp [slotOpt, bitOf, bit1]
theorem vcvts_word {t : Tag} {sat : Bool} :
    decodeVOp (VR.word g 0x15 (vrMk d a ⟨(0 : BitVec 2) ++ t.code, false⟩ mk ((0 : BitVec 4) ++ bit1 sat))) g
      = .op (.vcvts g d a mk t sat) := by
  rw [decodeVOp, VR.op_word]
  show slotOpt _ _ = _
  simp only [VR.of_word, vrMk, VR.va]
  rw [extractLsb'_append_eq_left, extractLsb'_append_eq_left, extractLsb'_append_eq_right]
  cases sat <;> simp [slotOpt, bitOf, bit1]
theorem vrq_word {r : GSrc} {rm : RMode} {sat : Bool} (hr : r.wf = true) :
    decodeVOp (VR.word g 0x16 (vrMk d a (gv r) mk ((0 : BitVec 2) ++ bit1 sat ++ rm.code))) g
      = .op (.vrq g d a r mk rm sat) := by
  rw [decodeVOp, VR.op_word]
  show slotIf _ _ = _
  simp only [VR.of_word, vrMk, VR.va, gOk6_gv, gOf6_gv, gOk_wf hr]
  rw [vrqQ_zeros, vrqQ_sat, extractLsb'_append_eq_right]
  simp [slotIf]
theorem vlut_word {r : GSrc} {e : EntW} (hr : r.wf = true) :
    decodeVOp (VR.word g 0x20 (vrMk d a (gv r) mk ((0 : BitVec 3) ++ e.code))) g = .op (.vlut g d a r mk e) := by
  rw [decodeVOp, VR.op_word]
  show slotOpt _ _ = _
  simp only [VR.of_word, vrMk, VR.va, gOk6_gv, gOf6_gv, gOk_wf hr]
  rw [extractLsb'_append_eq_left, extractLsb'_append_eq_right]
  simp [slotOpt]
theorem vbfx_word {n : BitVec 5} : decodeVOp (VR.word g 0x21 (vrMk d a b mk n)) g = .op (.vbfx g d a b mk n) := by
  rw [decodeVOp, VR.op_word]
  show SlotRes.op _ = _
  simp [vrMk, VR.va, VR.vb]
theorem vfsh_word {n : BitVec 5} : decodeVOp (VR.word g 0x22 (vrMk d a b mk n)) g = .op (.vfsh g d a b mk n) := by
  rw [decodeVOp, VR.op_word]
  show SlotRes.op _ = _
  simp [vrMk, VR.va, VR.vb]
theorem vtag_word {t : Tag} : decodeVOp (VR.word g 0x29 (vrMk d (q := (0 : BitVec 1) ++ t.code))) g = .op (.vtag g d t) := by
  rw [decodeVOp, VR.op_word]
  show slotOpt _ _ = _
  have high : bitOf ((0 : BitVec 1) ++ t.code : BitVec 5) 4 = false := bitOf_append_high (by decide)
  simp only [VR.of_word, vrMk]
  rw [high, extractLsb'_append_eq_right]
  simp [slotOpt]
theorem vmsk_word {md : MReg} : decodeVOp (VR.word g 0x2A (vrMk ((0 : BitVec 3) ++ md) a)) g = .op (.vmsk g md a) := by
  rw [decodeVOp, VR.op_word]
  show slotIf _ _ = _
  simp only [VR.of_word, vrMk, VR.va]
  rw [extractLsb'_append_eq_left, extractLsb'_append_eq_right]
  simp [slotIf]
theorem vtst_word {pd : PReg} {ma : MReg} :
    decodeVOp (VR.word g 0x2B (vrMk ((0 : BitVec 2) ++ pd) ⟨(0 : BitVec 3) ++ ma, false⟩)) g = .op (.vtst g pd ma) := by
  rw [decodeVOp, VR.op_word]
  show slotIf _ _ = _
  simp only [VR.of_word, vrMk]
  rw [extractLsb'_append_eq_left, extractLsb'_append_eq_left, extractLsb'_append_eq_right, extractLsb'_append_eq_right]
  simp [slotIf]
theorem txm_word {p : Port} :
    decodeVOp (VR.word g 0x2C (vrMk 0 a (q := (0 : BitVec 2) ++ p.code))) g = .op (.txm g a p) := by
  rw [decodeVOp, VR.op_word]
  show slotOpt _ _ = _
  simp only [VR.of_word, vrMk, VR.va]
  rw [extractLsb'_append_eq_left, extractLsb'_append_eq_right]
  simp [slotOpt]
theorem rxm_word {p : Port} : decodeVOp (VR.word g 0x2D (vrMk d (q := (0 : BitVec 2) ++ p.code))) g = .op (.rxm g d p) := by
  rw [decodeVOp, VR.op_word]
  show slotOpt _ _ = _
  simp only [VR.of_word, vrMk]
  rw [extractLsb'_append_eq_left, extractLsb'_append_eq_right]
  simp [slotOpt]

end

section
variable {g : Guard} {d : VReg} {t b : VSrc} {a : GSrc} {sp : LSpace} {off : BitVec 13} {mk : MReg} (ha : a.wf = true)
include ha

theorem vld_word : decodeVOp (VM.word g 0x25 d false a sp off) g = .op (.vld g d a sp off) := by
  rw [decodeVOp, VM.op_word]
  show slotOpt _ _ = _
  simp (disch := decide) [-Nat.reduceAdd, slotOpt, VM.word, gOk_wf ha, extractLsb'_append_eq_of_le,
    extractLsb'_append_eq_of_add_le]
theorem vst_word : decodeVOp (VM.word g 0x26 t.reg t.trap a sp off) g = .op (.vst g t a sp off) := by
  rw [decodeVOp, VM.op_word]
  show slotOpt _ _ = _
  simp (disch := decide) [-Nat.reduceAdd, slotOpt, VM.word, gOk_wf ha, extractLsb'_append_eq_of_le,
    extractLsb'_append_eq_of_add_le]
theorem vldx_word : decodeVOp (VX.word g 0x27 d false a sp b mk) g = .op (.vldx g d a sp b mk) := by
  rw [decodeVOp, VX.op_word]
  show slotOpt _ _ = _
  simp (disch := decide) [-Nat.reduceAdd, slotOpt, VX.word, gOk_wf ha, extractLsb'_append_eq_of_le,
    extractLsb'_append_eq_of_add_le]
theorem vstx_word : decodeVOp (VX.word g 0x28 t.reg t.trap a sp b mk) g = .op (.vstx g t a sp b mk) := by
  rw [decodeVOp, VX.op_word]
  show slotOpt _ _ = _
  simp (disch := decide) [-Nat.reduceAdd, slotOpt, VX.word, gOk_wf ha, extractLsb'_append_eq_of_le,
    extractLsb'_append_eq_of_add_le]

end

/-! ### The slot -/

/-- R63, R64, R68, R76: a V slot. -/
theorem decodeV_encodeV {i : Instr} {w : BitVec 40} (h : encodeV i = some w) (wf : i.wf = true) :
    decodeV w = .op i := by
  cases i with
  | vadd g d a b mk rm | vsub g d a b mk rm | vmul g d a b mk rm | vmulh g d a b mk rm | vmin g d a b mk rm
  | vmax g d a b mk rm | vand g d a b mk rm | vor g d a b mk rm | vxor g d a b mk rm | vshl g d a b mk rm
  | vshr g d a b mk rm | vsar g d a b mk rm =>
    cases h
    rw [decodeV_vr wf (by decide), decodeVOp, VR.op_word]
    exact vrThree_word
  | vabs g d a mk | vneg g d a mk | vmov g d a mk | vcomp g d a mk | vexpd g d a mk | vpopc g d a mk
  | vclz g d a mk =>
    cases h
    rw [decodeV_vr wf (by decide), decodeVOp, VR.op_word]
    exact vrTwo_word
  | vexp2 g d a mk rm | vrcp g d a mk rm | vrsq g d a mk rm | vlog2 g d a mk rm =>
    cases h
    rw [decodeV_vr wf (by decide), decodeVOp, VR.op_word]
    exact vrTwoRm_word
  | vred g d a mk o | vscan g d a mk o =>
    cases h
    rw [decodeV_vr wf (by decide), decodeVOp, VR.op_word]
    exact vrRed_word
  | vfma g c a b mk rm =>
    cases h
    exact (decodeV_vr wf (by decide) _).trans vfma_word
  | vcmp g md k a b mk =>
    cases h
    exact (decodeV_vr wf (by decide) _).trans vcmp_word
  | vsel g d a b mk =>
    cases h
    exact (decodeV_vr wf (by decide) _).trans vsel_word
  | vperm g d a b mk =>
    cases h
    exact (decodeV_vr wf (by decide) _).trans vperm_word
  | vbcast g d r mk =>
    cases h
    obtain ⟨hg, hr⟩ := true_of_and2 wf
    exact (decodeV_vr hg (by decide) _).trans (vbcast_word hr)
  | vcvt g d a mk t rm sat =>
    cases h
    exact (decodeV_vr (true_of_and2 wf).1 (by decide) _).trans vcvt_word
  | vcvts g d a mk t sat =>
    cases h
    exact (decodeV_vr (true_of_and2 wf).1 (by decide) _).trans vcvts_word
  | vrq g d a r mk rm sat =>
    cases h
    obtain ⟨hg, hr⟩ := true_of_and2 wf
    exact (decodeV_vr hg (by decide) _).trans (vrq_word hr)
  | vlut g d a r mk e =>
    cases h
    obtain ⟨hg, hr⟩ := true_of_and2 wf
    exact (decodeV_vr hg (by decide) _).trans (vlut_word hr)
  | vbfx g d a b mk n =>
    cases h
    exact (decodeV_vr wf (by decide) _).trans vbfx_word
  | vfsh g d a b mk n =>
    cases h
    exact (decodeV_vr wf (by decide) _).trans vfsh_word
  | vld g d a sp off =>
    cases h
    obtain ⟨hg, ha⟩ := true_of_and2 wf
    exact (decodeV_vm hg (by decide) ..).trans (vld_word ha)
  | vst g t a sp off =>
    cases h
    obtain ⟨hg, ha⟩ := true_of_and2 wf
    exact (decodeV_vm hg (by decide) ..).trans (vst_word ha)
  | vldx g d a sp b mk =>
    cases h
    obtain ⟨hg, ha⟩ := true_of_and2 wf
    exact (decodeV_vx hg (by decide) ..).trans (vldx_word ha)
  | vstx g t a sp b mk =>
    cases h
    obtain ⟨hg, ha⟩ := true_of_and2 wf
    exact (decodeV_vx hg (by decide) ..).trans (vstx_word ha)
  | vtag g d t =>
    cases h
    exact (decodeV_vr wf (by decide) _).trans vtag_word
  | vmsk g md a =>
    cases h
    exact (decodeV_vr wf (by decide) _).trans vmsk_word
  | vtst g pd ma =>
    cases h
    exact (decodeV_vr wf (by decide) _).trans vtst_word
  | txm g a p =>
    cases h
    exact (decodeV_vr wf (by decide) _).trans txm_word
  | rxm g d p =>
    cases h
    exact (decodeV_vr wf (by decide) _).trans rxm_word
  | _ => cases h

end Sys2Proof
end

section
/-! The M and C slots: decoding what the encoder writes (Tables BND-13 and BND-14). -/

namespace Sys2Proof

open BitVec (extractLsb'_append_eq_left extractLsb'_append_eq_right extractLsb'_append_eq_of_le
  extractLsb'_append_eq_of_add_le)

/-! ### The M slot -/

/-- A slot with an opcode and a guard that is no reserved one is decoded by its opcode. -/
theorem decodeM_opcode {w : BitVec 32} {g : Guard} (wf : g.wf = true) (used : w.extractLsb' 22 4 ≠ 0)
    (hg : w.extractLsb' 26 6 = g.bits) : decodeM w = decodeMOp w g := by
  have nonzero : (w == 0) = false := beq_false_of_ne (by rintro rfl; exact used (by decide))
  rw [decodeM, nonzero, hg, Guard.ofBits_bits, slotOf_wf wf]

/-- R251: MMAI names INT8 twice. -/
theorem mmai_formats (g : Guard) (t : TReg) : (g.bits ++ 3#4 ++ t ++ 1#4 ++ 1#4).extractLsb' 0 8 = 0x11#8 := by
  rw [BitVec.append_assoc]
  exact extractLsb'_append_eq_right (b := (1#4 ++ 1#4))

/-- R77: the M slot. -/
theorem decodeM_encodeM {i : Instr} {w : BitVec 32} (h : encodeM i = some w) (wf : i.wf = true) :
    decodeM w = .op i := by
  cases i with
  | mma g t fa fb kg | mmas g t fa fb kg =>
    cases h
    rw [decodeM_opcode (g := g) (true_of_and2 wf).1]
    all_goals
      simp (disch := decide) [-Nat.reduceAdd, decodeMOp, slotIf, extractLsb'_append_eq_of_le,
        extractLsb'_append_eq_of_add_le]
  | tclr g t | trd g d t row | twr g a t row | fqskip g f n | msig g d =>
    cases h
    rw [decodeM_opcode (g := g) wf]
    all_goals
      simp (disch := decide) [-Nat.reduceAdd, decodeMOp, slotIf, extractLsb'_append_eq_of_le,
        extractLsb'_append_eq_of_add_le]
  | mmai g t kg =>
    cases h
    rw [decodeM_opcode (g := g) wf]
    all_goals
      simp (disch := decide) [-Nat.reduceAdd, decodeMOp, mmai_formats, slotOpt, extractLsb'_append_eq_of_le,
        extractLsb'_append_eq_of_add_le]
  | _ => cases h

/-! ### The C slots -/

section
variable (g : Guard) (op : BitVec 5)

@[simp] theorem CC.of_word (x : CC) : CC.of (CC.word g op x) = x := by
  simp (disch := decide) [-Nat.reduceAdd, CC.of, CC.word, extractLsb'_append_eq_of_le, extractLsb'_append_eq_of_add_le]
@[simp] theorem CC.op_word (x : CC) : (CC.word g op x).extractLsb' 29 5 = op := by
  simp (disch := decide) [-Nat.reduceAdd, CC.word, extractLsb'_append_eq_of_le, extractLsb'_append_eq_of_add_le]
theorem CC.guard_word (x : CC) : (CC.word g op x).extractLsb' 34 6 = g.bits := by
  simp (disch := decide) [-Nat.reduceAdd, CC.word, extractLsb'_append_eq_of_le]

end

/-- A slot with an opcode and a guard that is no reserved one is decoded by its opcode. -/
theorem decodeC_opcode {w : BitVec 40} {g : Guard} (wf : g.wf = true) (used : w.extractLsb' 29 5 ≠ 0)
    (hg : w.extractLsb' 34 6 = g.bits) : decodeC w = decodeCOp w g := by
  have nonzero : (w == 0) = false := beq_false_of_ne (by rintro rfl; exact used (by decide))
  rw [decodeC, nonzero, hg, Guard.ofBits_bits, slotOf_wf wf]
theorem decodeC_cc {g : Guard} {op : BitVec 5} (wf : g.wf = true) (used : op ≠ 0) (x : CC) :
    decodeC (CC.word g op x) = decodeCOp (CC.word g op x) g :=
  decodeC_opcode wf (by rwa [CC.op_word]) (CC.guard_word ..)

section
variable {g : Guard} {op : BitVec 5} {a b c : GSrc} {inc : BitVec 7} (ha : a.wf = true) (hb : b.wf = true)
include ha hb

theorem ccMk_abOk {chk : Bool} {sub : BitVec 3} : (ccMk a b c inc chk sub).abOk = true := by
  simp [CC.abOk, ccMk, gOk_wf ha, gOk_wf hb]
theorem ccMk_abOnly {chk : Bool} {sub : BitVec 3} : (ccMk a b (inc := inc) (chk := chk) (sub := sub)).abOnly = true := by
  rw [CC.abOnly, ccMk_abOk ha hb]
  rfl
theorem fill_word : decodeCOp (CC.word g 0x08 (ccMk a b (inc := inc))) g = .op (.fill g a b inc) := by
  rw [decodeCOp, CC.op_word]
  show slotOpt _ _ = _
  rw [CC.of_word, ccMk_abOnly ha hb]
  rfl
theorem feed_word {f : Stream} :
    decodeCOp (CC.word g 0x09 (ccMk a b (inc := inc) (sub := (0 : BitVec 2) ++ bit1 f.code))) g = .op (.feed g a b inc f) := by
  rw [decodeCOp, CC.op_word]
  show slotOpt _ _ = _
  have stream : bitOf ((0 : BitVec 2) ++ bit1 f.code : BitVec 3) 0 = f.code := by cases f <;> decide
  rw [CC.of_word, ccMk_abOnly ha hb]
  simp only [ccMk, CC.ga, CC.gb]
  rw [extractLsb'_append_eq_left, stream]
  simp [slotOpt]
theorem pfd_word : decodeCOp (CC.word g 0x0B (ccMk a b)) g = .op (.pfd g a b) := by
  rw [decodeCOp, CC.op_word]
  show slotOpt _ _ = _
  rw [CC.of_word, ccMk_abOnly ha hb]
  rfl
theorem pfc_word {r : Residency} :
    decodeCOp (CC.word g 0x0C (ccMk a b (sub := (0 : BitVec 1) ++ r.code))) g = .op (.pfc g a b r) := by
  rw [decodeCOp, CC.op_word]
  show slotOpt _ _ = _
  have high : bitOf ((0 : BitVec 1) ++ r.code : BitVec 3) 2 = false := bitOf_append_high (by decide)
  rw [CC.of_word, ccMk_abOnly ha hb]
  simp only [ccMk, CC.ga, CC.gb]
  rw [high, extractLsb'_append_eq_right]
  simp [slotOpt]

variable (hc : c.wf = true)
include hc

theorem ccMk_abcOk {chk : Bool} {sub : BitVec 3} : (ccMk a b c inc chk sub).abcOk = true := by
  rw [CC.abcOk, ccMk_abOk ha hb]
  exact gOk_wf hc
theorem ccChk_word {k} {chk : Bool} : ccChk (CC.word g op (ccMk a b c inc chk)) k = .op (k a b c inc chk) := by
  simp only [ccChk, CC.of_word, ccMk_abcOk ha hb hc]
  rfl
theorem ccPlain_word {k} : ccPlain (CC.word g op (ccMk a b c inc)) k = .op (k a b c inc) := by
  simp only [ccPlain, CC.of_word, ccMk_abcOk ha hb hc]
  rfl
theorem xfmT_word : decodeCOp (CC.word g 0x0A (ccMk a b c inc)) g = .op (.xfmT g a b c inc) := by
  rw [decodeCOp, CC.op_word]
  show slotOpt _ _ = _
  rw [CC.of_word, ccMk_abcOk ha hb hc]
  rfl
theorem xfmCvt_word : decodeCOp (CC.word g 0x0A (ccMk a b c inc (sub := 1))) g = .op (.xfmCvt g a b c inc) := by
  rw [decodeCOp, CC.op_word]
  show slotOpt _ _ = _
  rw [CC.of_word, ccMk_abcOk ha hb hc]
  rfl
theorem xfmPack_word : decodeCOp (CC.word g 0x0A (ccMk a b c inc (sub := 2))) g = .op (.xfmPack g a b c inc) := by
  rw [decodeCOp, CC.op_word]
  show slotOpt _ _ = _
  rw [CC.of_word, ccMk_abcOk ha hb hc]
  rfl
theorem sred_word {o : CombOp} :
    decodeCOp (CC.word g 0x0D (ccMk a b c inc (sub := o.code))) g = .op (.sred g a b c inc o) := by
  rw [decodeCOp, CC.op_word]
  show slotOpt _ _ = _
  rw [CC.of_word, ccMk_abcOk ha hb hc]
  cases o <;> rfl

end

section
variable {g : Guard} {s : VSrc} {a b : GSrc} {pos : BitVec 4} {w : BitVec 40} (wf : g.wf = true)
include wf

theorem decodeC_cjs (hb : b.wf = true) (h : encodeC (.cjs g s b pos) = some w) : decodeC w = .op (.cjs g s b pos) := by
  cases h
  rw [decodeC_opcode (g := g) wf]
  all_goals
    simp (disch := decide) [-Nat.reduceAdd, decodeCOp, slotIf, gOk_wf hb, extractLsb'_append_eq_of_le,
      extractLsb'_append_eq_of_add_le]
theorem decodeC_cjsl (ha : a.wf = true) (hb : b.wf = true) (h : encodeC (.cjsl g a b pos) = some w) :
    decodeC w = .op (.cjsl g a b pos) := by
  cases h
  rw [decodeC_opcode (g := g) wf]
  all_goals
    simp (disch := decide) [-Nat.reduceAdd, decodeCOp, slotIf, CC.of, CC.abOk, CC.ga, CC.gb, gOk_wf ha, gOk_wf hb,
      extractLsb'_append_eq_of_le, extractLsb'_append_eq_of_add_le]

end

/-- R78, R79: a C slot. -/
theorem decodeC_encodeC {i : Instr} {w : BitVec 40} (h : encodeC i = some w) (wf : i.wf = true) :
    decodeC w = .op i := by
  cases i with
  | cpy g a b c inc chk | cpy2 g a b c inc chk | cpy3 g a b c inc chk | stg g a b c inc chk =>
    cases h
    obtain ⟨hg, ha, hb, hc⟩ := true_of_and4 wf
    rw [decodeC_cc hg (by decide), decodeCOp, CC.op_word]
    exact ccChk_word ha hb hc
  | cpyx g a b c inc | unf g a b c inc | gth g a b c inc | sct g a b c inc =>
    cases h
    obtain ⟨hg, ha, hb, hc⟩ := true_of_and4 wf
    rw [decodeC_cc hg (by decide), decodeCOp, CC.op_word]
    exact ccPlain_word ha hb hc
  | xfmT g a b c inc =>
    cases h
    obtain ⟨hg, ha, hb, hc⟩ := true_of_and4 wf
    exact (decodeC_cc hg (by decide) _).trans (xfmT_word ha hb hc)
  | xfmCvt g a b c inc =>
    cases h
    obtain ⟨hg, ha, hb, hc⟩ := true_of_and4 wf
    exact (decodeC_cc hg (by decide) _).trans (xfmCvt_word ha hb hc)
  | xfmPack g a b c inc =>
    cases h
    obtain ⟨hg, ha, hb, hc⟩ := true_of_and4 wf
    exact (decodeC_cc hg (by decide) _).trans (xfmPack_word ha hb hc)
  | sred g a b c inc o =>
    cases h
    obtain ⟨hg, ha, hb, hc⟩ := true_of_and4 wf
    exact (decodeC_cc hg (by decide) _).trans (sred_word ha hb hc)
  | fill g a b inc =>
    cases h
    obtain ⟨hg, ha, hb⟩ := true_of_and3 wf
    exact (decodeC_cc hg (by decide) _).trans (fill_word ha hb)
  | feed g a b inc f =>
    cases h
    obtain ⟨hg, ha, hb⟩ := true_of_and3 wf
    exact (decodeC_cc hg (by decide) _).trans (feed_word ha hb)
  | pfd g a b =>
    cases h
    obtain ⟨hg, ha, hb⟩ := true_of_and3 wf
    exact (decodeC_cc hg (by decide) _).trans (pfd_word ha hb)
  | pfc g a b r =>
    cases h
    obtain ⟨hg, ha, hb⟩ := true_of_and3 wf
    exact (decodeC_cc hg (by decide) _).trans (pfc_word ha hb)
  | cjs g s b pos => exact decodeC_cjs (true_of_and2 wf).1 (true_of_and2 wf).2 h
  | cjsl g a b pos =>
    obtain ⟨hg, ha, hb⟩ := true_of_and3 wf
    exact decodeC_cjsl hg ha hb h
  | _ => cases h

end Sys2Proof
end

section
/-! Bundles: decoding what the encoder writes (R62 to R67). -/

namespace Sys2Proof

open BitVec (extractLsb'_append_eq_left extractLsb'_append_eq_right extractLsb'_append_eq_of_le
  extractLsb'_append_eq_of_add_le)

/-! ### W bundles -/

@[simp] theorem decodeTerm_word {t : WTerm} (wf : t.wf = true) : decodeTerm t.word = some t := by
  simp (disch := decide) [-Nat.reduceAdd, decodeTerm, WTerm.word, wf, extractLsb'_append_eq_of_le,
    extractLsb'_append_eq_of_add_le]

theorem decodeTerms_forall {w : Bits256} {js : List Nat} {ts : List WTerm}
    (h : List.Forall₂ (fun j t => decodeTerm (w.extractLsb' (216 - 24 * j) 24) = some t) js ts) :
    decodeTerms w js = some ts := by
  induction h with
  | nil => rfl
  | cons one _ rest => rw [decodeTerms, one, rest]

/-- R65: term `j` stands in 24 bits from bit `216 - 24 j` on. -/
theorem termsWord_term {n : Nat} (hi : BitVec n) {ts : List WTerm} (ten : ts.length = 10) {j : Nat} (hj : j < 10) :
    (hi ++ termsWord ts).extractLsb' (216 - 24 * j) 24 = (ts[j]).word := by
  rw [extractLsb'_append_eq_of_add_le (by omega)]
  match ts, ten with
  | [t0, t1, t2, t3, t4, t5, t6, t7, t8, t9], _ =>
    interval_cases j <;>
      simp (disch := decide) [-Nat.reduceAdd, termsWord, extractLsb'_append_eq_of_le, extractLsb'_append_eq_of_add_le]

theorem decodeTerms_termsWord {ts : List WTerm} (wf : termsWf ts = true) (hi : BitVec 16) :
    decodeTerms (hi ++ termsWord ts) (List.range 10) = some ts := by
  obtain ⟨ten, each⟩ := true_of_and2 wf
  have ten : ts.length = 10 := by simpa using ten
  refine decodeTerms_forall (List.forall₂_iff_get.mpr ⟨by simp [ten], fun j hj hj' => ?_⟩)
  have hj : j < 10 := by simpa using hj
  simp only [List.get_eq_getElem, List.getElem_range]
  rw [termsWord_term hi ten hj]
  exact decodeTerm_word (List.all_eq_true.mp each _ (List.getElem_mem _))

/-- R65: a W bundle, its form and mode together in `m`. -/
theorem decodeBundle_w {m : BitVec 4} {vd : VReg} {mk : MReg} {ts : List WTerm} {i : Instr} (wf : termsWf ts = true)
    (form : m.extractLsb' 2 2 = 1) (mode : weightOf (m.extractLsb' 0 2).toNat vd mk ts = some i) :
    decodeBundle (m ++ vd ++ mk ++ (0 : BitVec 3) ++ termsWord ts) = .weight i := by
  have terms := decodeTerms_termsWord wf (m ++ vd ++ mk ++ (0 : BitVec 3))
  have formBits : (m ++ vd ++ mk ++ (0 : BitVec 3) ++ termsWord ts : Bits256).extractLsb' 254 2 = 1 := by
    simp (disch := decide) [-Nat.reduceAdd, form, extractLsb'_append_eq_of_le]
  have modeBits : (m ++ vd ++ mk ++ (0 : BitVec 3) ++ termsWord ts : Bits256).extractLsb' 252 2 = m.extractLsb' 0 2 := by
    simp (disch := decide) [-Nat.reduceAdd, extractLsb'_append_eq_of_le]
  have fields : (m ++ vd ++ mk ++ (0 : BitVec 3) ++ termsWord ts : Bits256).extractLsb' 240 3 = 0
      ∧ (m ++ vd ++ mk ++ (0 : BitVec 3) ++ termsWord ts : Bits256).extractLsb' 246 6 = vd
      ∧ (m ++ vd ++ mk ++ (0 : BitVec 3) ++ termsWord ts : Bits256).extractLsb' 243 3 = mk := by
    simp (disch := decide) [-Nat.reduceAdd, extractLsb'_append_eq_of_le, extractLsb'_append_eq_of_add_le]
  obtain ⟨zeros, dest, mask⟩ := fields
  rw [decodeBundle, formBits]
  show (if _ then _ else _) = _
  rw [zeros, if_pos (by decide), terms, modeBits, dest, mask]
  simp only [mode]

/-! ### N bundles -/

theorem decodeBundle_n (n : BitVec 12) : decodeBundle (0b10#2 ++ n ++ (0 : BitVec 242)) = .idle n := by
  have form : (0b10#2 ++ n ++ (0 : BitVec 242) : Bits256).extractLsb' 254 2 = 2 := by
    simp (disch := decide) [-Nat.reduceAdd, extractLsb'_append_eq_of_le]
  have fields : (0b10#2 ++ n ++ (0 : BitVec 242) : Bits256).extractLsb' 0 242 = 0
      ∧ (0b10#2 ++ n ++ (0 : BitVec 242) : Bits256).extractLsb' 242 12 = n := by
    simp (disch := decide) [-Nat.reduceAdd, extractLsb'_append_eq_of_le, extractLsb'_append_eq_of_add_le]
  rw [decodeBundle, form]
  show (if _ then _ else _) = _
  rw [fields.1, fields.2]
  rfl

/-! ### G bundles -/

/-- R63: the slots of a G bundle without header marks. -/
theorem decodeBundle_g (s : BitVec 48) (v0 v1 : BitVec 40) (m : BitVec 32) (c0 c1 : BitVec 40) :
    decodeBundle (gWord s v0 v1 m c0 c1)
      = .general ⟨false, false, false, decodeS s, decodeV v0, decodeV v1, decodeM m, decodeC c0, decodeC c1⟩ := by
  have form : (gWord s v0 v1 m c0 c1).extractLsb' 254 2 = 0 := by
    simp (disch := decide) [-Nat.reduceAdd, gWord, extractLsb'_append_eq_of_le]
  have zeros : (gWord s v0 v1 m c0 c1).extractLsb' 240 11 = 0 := by
    simp (disch := decide) [-Nat.reduceAdd, gWord, extractLsb'_append_eq_of_le]
  rw [decodeBundle, form]
  show (if _ then _ else _) = _
  rw [zeros, if_pos (by decide)]
  simp (disch := decide) [-Nat.reduceAdd, decodeG, gWord, extractLsb'_append_eq_of_le, extractLsb'_append_eq_of_add_le]

theorem decodeS_zero : decodeS 0 = .empty := rfl
theorem decodeV_zero : decodeV 0 = .empty := rfl
theorem decodeM_zero : decodeM 0 = .empty := rfl
theorem decodeC_zero : decodeC 0 = .empty := rfl

section
variable {i : Instr}

/-- A G bundle with one slot in use holds that slot's instruction. -/
theorem single_s {w : BitVec 48} (h : decodeS w = .op i) : (decodeBundle (gWord w 0 0 0 0 0)).single? = some i := by
  rw [decodeBundle_g, h, decodeV_zero, decodeM_zero, decodeC_zero]; rfl
theorem single_v {w : BitVec 40} (h : decodeV w = .op i) : (decodeBundle (gWord 0 w 0 0 0 0)).single? = some i := by
  rw [decodeBundle_g, h, decodeS_zero, decodeV_zero, decodeM_zero, decodeC_zero]; rfl
theorem single_m {w : BitVec 32} (h : decodeM w = .op i) : (decodeBundle (gWord 0 0 0 w 0 0)).single? = some i := by
  rw [decodeBundle_g, h, decodeS_zero, decodeV_zero, decodeC_zero]; rfl
theorem single_c {w : BitVec 40} (h : decodeC w = .op i) : (decodeBundle (gWord 0 0 0 0 w 0)).single? = some i := by
  rw [decodeBundle_g, h, decodeS_zero, decodeV_zero, decodeM_zero, decodeC_zero]; rfl

/-- What has words has them in its own form. -/
theorem encode_cases {w : Bits256} (h : encode i = some w) :
    (∃ n, i = .nop n ∧ w = 0b10#2 ++ n ++ (0 : BitVec 242))
    ∨ (∃ m vd mk ts, m.extractLsb' 2 2 = 1#2 ∧ weightOf (m.extractLsb' 0 2).toNat vd mk ts = some i
        ∧ (i.wf = true → termsWf ts = true) ∧ w = (m : BitVec 4) ++ vd ++ mk ++ (0 : BitVec 3) ++ termsWord ts)
    ∨ (∃ s, encodeS i = some s ∧ w = gWord s 0 0 0 0 0) ∨ (∃ v, encodeV i = some v ∧ w = gWord 0 v 0 0 0 0)
    ∨ (∃ m, encodeM i = some m ∧ w = gWord 0 0 0 m 0 0) ∨ (∃ c, encodeC i = some c ∧ w = gWord 0 0 0 0 c 0) := by
  unfold encode at h
  split at h
  · next n => cases h; exact .inl ⟨n, rfl, rfl⟩
  · next vd mk ts => cases h; exact .inr (.inl ⟨0b0100, vd, mk, ts, rfl, rfl, id, rfl⟩)
  · next vd mk ts => cases h; exact .inr (.inl ⟨0b0101, vd, mk, ts, rfl, rfl, id, rfl⟩)
  · next vd mk ts => cases h; exact .inr (.inl ⟨0b0110, vd, mk, ts, rfl, rfl, id, rfl⟩)
  · split at h
    · next s hs => cases h; exact .inr (.inr (.inl ⟨s, hs, rfl⟩))
    · next v hv _ => cases h; exact .inr (.inr (.inr (.inl ⟨v, hv, rfl⟩)))
    · next m hm _ _ => cases h; exact .inr (.inr (.inr (.inr (.inl ⟨m, hm, rfl⟩))))
    · next c hc _ _ _ => cases h; exact .inr (.inr (.inr (.inr (.inr ⟨c, hc, rfl⟩))))
    · cases h

/-- R62 to R80: the decoder gives back what the encoder wrote. -/
theorem single_encode {w : Bits256} (wf : i.wf = true) (h : encode i = some w) : (decodeBundle w).single? = some i := by
  rcases encode_cases h with ⟨n, rfl, rfl⟩ | ⟨m, vd, mk, ts, form, mode, terms, rfl⟩ | ⟨s, hs, rfl⟩ | ⟨v, hv, rfl⟩
    | ⟨m, hm, rfl⟩ | ⟨c, hc, rfl⟩
  · rw [decodeBundle_n]; rfl
  · rw [decodeBundle_w (terms wf) form mode]; rfl
  · exact single_s (decodeS_encodeS hs wf)
  · exact single_v (decodeV_encodeV hv wf)
  · exact single_m (decodeM_encodeM hm wf)
  · exact single_c (decodeC_encodeC hc wf)

end

/-- What has no words is an event. -/
theorem isEvent_eq_isNone_encode (i : Instr) : Machine.isEvent i = (encode i).isNone := by
  cases i <;> rfl

end Sys2Proof
end

section
open Sys2Proof Sys2Proof.Machine

/-- Settles O58: form by form and slot by slot, the fields that the encoder joins are those that the decoder takes
apart. -/
theorem decodeEncode : Obligations.decode_encode := by
  intro i wf
  refine ⟨fun w => single_encode wf, fun operation => ?_⟩
  rw [isEvent_eq_isNone_encode] at operation
  simpa [Option.isSome_iff_ne_none] using operation

end

section
/-! A slot that fails its decode checks: the trap and what it records (R81, R222). -/

namespace Sys2Proof.Machine

/-- Table CTL-4: bit 12 of TSEQ is DONE. -/
theorem tseqDone_tseqWord (q : Seqr) (pc : Word) (xfer done : Bool) (idle : Nat) :
    tseqDone (tseqWord q pc xfer done idle) = done := by
  rw [tseqDone, tseqWord, BitVec.getLsbD_ofNat, Nat.testBit_eq_decide_div_mod_eq]
  generalize (if q.loop then lposOf pc q.lstart % 64 else 0) = lpos
  have bit : (q.lrem.toNat * 2 ^ 32 + q.loop.toNat * 2 ^ 31 + q.llen.toNat * 2 ^ 25 + lpos * 2 ^ 19 + q.pend.toNat * 2 ^ 17
      + xfer.toNat * 2 ^ 13 + done.toNat * 2 ^ 12 + idle % 4096) / 2 ^ 12 % 2 = done.toNat := by
    have := done.toNat_lt
    omega
  rw [bit]
  cases done <;> rfl

/-- R222: outside a handler, the core whose bundle is refused enters its handler; its run state and trace apart. -/
theorem State.me_refuse (s : State) (t : TrapInfo) (h : s.me.inTrap = false) :
    ∃ r u v, (s.refuse t).me = { ({ s.me with run := r, trace := u }).enter t s.me.at with trace := v } := by
  obtain ⟨r, u, v, e⟩ := State.trapWith_enter s s.iss.cur t s.me.at h
  refine ⟨r, u, v, ?_⟩
  show (s.trapWith s.iss.cur t s.me.at).core (s.trapWith s.iss.cur t s.me.at).iss.cur = _
  rw [State.cur_trapWith, e, State.core_setCore_same]
  rfl

/-- Check 5 fails where the values are unassigned or a feature is not selected. -/
theorem Op.legal_false {o : Op} {s : State}
    (h : o.assigned s = false ∨ ∃ k ∈ o.needs, s.pkg.featact.getLsbD k = false) : o.legal s = false := by
  rcases h with unassigned | ⟨k, needed, inactive⟩
  · simp [Op.legal, unassigned]
  · have : s.active o.needs = false := List.all_eq_false.mpr ⟨k, needed, by simp [inactive]⟩
    simp [Op.legal, this]

end Sys2Proof.Machine
end

section
open Sys2Proof Sys2Proof.Machine

/-- Settles O24: a slot that fails check 5 or 6 is refused, and the handler is entered with the slot's raw bits. -/
theorem decodeTraps : Obligations.decode_traps := by
  intro i o s op outside traps
  have trapped (code : Nat) (h : o.decodeTrap s = some ⟨code, 0, s.iss.slot, BitVec.ofNat 64 s.iss.raw⟩) : traps code := by
    obtain ⟨r, u, v, entered⟩ := State.me_refuse s ⟨code, 0, s.iss.slot, BitVec.ofNat 64 s.iss.raw⟩ outside
    refine ⟨s.refuse ⟨code, 0, s.iss.slot, BitVec.ofNat 64 s.iss.raw⟩, by rw [exec_of_op i o s op, Op.exec, h], ?_⟩
    beta_reduce
    rw [entered]
    exact ⟨rfl, rfl, rfl, rfl, tseqDone_tseqWord .., rfl, rfl, rfl, State.mem_trapWith ..⟩
  refine ⟨fun h => trapped 2 ?_, fun legal sup user => trapped 3 ?_⟩
  · simp [Op.decodeTrap, Op.legal_false h]
  · simp [Op.decodeTrap, legal, Op.allowed, sup, user]

end

section
/-! The forms of a bundle (Table BND-1). -/

namespace Sys2Proof

section
variable {w : Bits256}

theorem decodeBundle_form3 (form : w.extractLsb' 254 2 = 3) : decodeBundle w = .illegal := by
  rw [decodeBundle, form]
  rfl

/-- R67: form 2 is an N bundle, whose other bits are reserved. -/
theorem decodeBundle_form2 (form : w.extractLsb' 254 2 = 2) :
    decodeBundle w = if w.extractLsb' 0 242 = 0 then .idle (w.extractLsb' 242 12) else .illegal := by
  rw [decodeBundle, form]
  show (if (_ == _) = true then _ else _) = _
  simp only [beq_iff_eq]

/-- R65: form 1 is a W bundle where it is a legal one. -/
theorem decodeBundle_form1 (form : w.extractLsb' 254 2 = 1) :
    decodeBundle w = .illegal ∨ ∃ i, decodeBundle w = .weight i := by
  rw [decodeBundle, form]
  show (if (_ == _) = true then _ else _) = _ ∨ ∃ i, (if (_ == _) = true then _ else _) = _
  split
  · split
    · split
      · exact .inr ⟨_, rfl⟩
      · exact .inl rfl
    · exact .inl rfl
  · exact .inl rfl

/-- R62, R63: form 0 is a G bundle, and its reserved header bits are zero. -/
theorem decodeBundle_form0 (form : w.extractLsb' 254 2 = 0) :
    decodeBundle w = if w.extractLsb' 240 11 = 0 then .general (decodeG w) else .illegal := by
  rw [decodeBundle, form]
  show (if (_ == _) = true then _ else _) = _
  simp only [beq_iff_eq]

end

/-- R64: a guard that selects above 20 is reserved. -/
theorem decodeS_reserved {w : BitVec 48} (h : 20 < (w.extractLsb' 42 5).toNat) : decodeS w = .bad := by
  have nonzero : (w == 0) = false := beq_false_of_ne (by rintro rfl; exact absurd h (by decide))
  have sel : (w.extractLsb' 42 6).extractLsb' 0 5 = w.extractLsb' 42 5 := by
    apply BitVec.eq_of_getLsbD_eq
    intro j hj
    simp [hj, show j < 6 by omega]
  have reserved : (Guard.ofBits (w.extractLsb' 42 6)).wf = false := by
    rw [Guard.wf, Guard.ofBits, sel]
    simpa using h
  rw [decodeS, nonzero]
  simp [slotOf, reserved]

end Sys2Proof
end

section
open Sys2Proof Sys2Proof.Machine

/-- Settles O56: the decoder's four forms, and the words, which it evaluates. -/
theorem bundleFormsAndWords : Obligations.bundle_forms_and_words := by
  refine ⟨fun w => ⟨decodeBundle_form3, decodeBundle_form2, decodeBundle_form1, fun form h => ?_, fun form h => ?_⟩,
    fun w => decodeS_reserved, by decide, by decide, by decide, by decide, by decide, by decide, by decide⟩
  · rw [decodeBundle_form0 form, if_neg h]
  · exact ⟨decodeG w, by rw [decodeBundle_form0 form, if_pos h], rfl, rfl, rfl, rfl⟩

end

section
/-! The followers of protected pairs after a step (R241, R242): which cores `State.mirror` sets, and to what. -/

namespace Sys2Proof.Machine

/-! ### The bytes that a memory takes from another -/

/-- A byte that no cell holds reads as unlisted. -/
theorem Memory.read_of_not_mem {m : Memory} {a : Nat} (h : a ∉ m.map (·.1)) : m.read a = Memory.unlisted := by
  induction m with
  | nil => rfl
  | cons e m ih =>
    obtain ⟨b, x⟩ := e
    rw [List.map_cons, List.mem_cons, not_or] at h
    rw [Memory.read, if_neg (Ne.symm h.1), ih h.2, ite_self]

/-- One address of `Memory.follow`: its byte is taken where it has changed. -/
def Memory.takeByte (old new m : Memory) (a : Nat) : Memory :=
  if old.read a = new.read a then m else m.write a (new.read a)

section
variable {old new own : Memory}

theorem Memory.takeByte_wf (a : Nat) (h : own.wf = true) : (Memory.takeByte old new own a).wf = true := by
  rw [Memory.takeByte]
  split
  · exact h
  · exact Memory.write_wf a _ h

theorem Memory.read_takeByte (a b : Nat) (h : own.wf = true) :
    (Memory.takeByte old new own a).read b = if b = a ∧ old.read b ≠ new.read b then new.read b else own.read b := by
  rw [Memory.takeByte]
  by_cases same : old.read a = new.read a
  · have : ¬ (b = a ∧ old.read b ≠ new.read b) := by rintro ⟨rfl, differs⟩; exact differs same
    rw [if_pos same, if_neg this]
  · rw [if_neg same]
    by_cases hb : b = a
    · subst hb
      rw [if_pos ⟨rfl, same⟩, Memory.read_write_same _ h (Nat.zero_le b)]
    · rw [if_neg (fun c => hb c.1), Memory.read_write_other _ h hb]

/-- Addresses taken one after another, in any order and any number of times. -/
theorem Memory.read_foldl_takeByte (as : List Nat) (b : Nat) (h : own.wf = true) :
    (as.foldl (Memory.takeByte old new) own).read b =
      if b ∈ as ∧ old.read b ≠ new.read b then new.read b else own.read b := by
  induction as generalizing own with
  | nil => simp
  | cons a as ih =>
    rw [List.foldl_cons, ih (Memory.takeByte_wf a h), Memory.read_takeByte a b h]
    by_cases same : old.read b = new.read b
    · simp [same]
    · by_cases later : b ∈ as <;> simp [same, later]

/-- A memory that follows another: a byte that has changed is the other's, every other byte is its own. -/
theorem Memory.read_follow (b : Nat) (h : own.wf = true) :
    (Memory.follow old new own).read b = if old.read b = new.read b then own.read b else new.read b := by
  have follow_eq : Memory.follow old new own = if old = new then own
      else (old.map (·.1) ++ new.map (·.1)).foldl (Memory.takeByte old new) own := by
    rw [List.foldl_append]; rfl
  rw [follow_eq]
  by_cases same : old = new
  · rw [if_pos same, same, if_pos rfl]
  · rw [if_neg same, Memory.read_foldl_takeByte _ b h]
    by_cases differs : old.read b = new.read b
    · rw [if_neg (fun c => c.2 differs), if_pos differs]
    · have listed : b ∈ old.map (·.1) ++ new.map (·.1) := by
        by_contra absent
        rw [List.mem_append, not_or] at absent
        exact differs ((Memory.read_of_not_mem absent.1).trans (Memory.read_of_not_mem absent.2).symm)
      rw [if_pos ⟨listed, differs⟩, if_neg differs]

end

/-! ### The cores that follow -/

section
variable {s u : State} {n : Nat}

/-- The leaders that a step from `s` to `u` has changed. -/
def State.changedLeaders (s u : State) : List Nat :=
  u.listed.filter fun n => n % 2 == 0 && u.protected_ n && s.core n != u.core n
/-- The follower of core `n` is brought up to it. -/
def State.bringUp (s u : State) (n : Nat) : State :=
  u.setCore (n + 1) (Core.follow (s.core n) (u.core n) (u.core (n + 1)))

theorem State.mirror_eq (s u : State) : s.mirror u = (s.changedLeaders u).foldl s.bringUp u := rfl

theorem State.mem_changedLeaders : n ∈ s.changedLeaders u ↔
    n ∈ u.listed ∧ n % 2 = 0 ∧ u.protected_ n = true ∧ s.core n ≠ u.core n := by
  simp [State.changedLeaders, and_assoc]

/-- Where no leader has changed, there is nothing to bring up. -/
theorem State.mirror_of_unchanged (same : ∀ m ∈ u.listed, m % 2 = 0 → u.protected_ m = true → u.core m = s.core m) :
    s.mirror u = u := by
  have none_changed : s.changedLeaders u = [] := by
    rw [List.eq_nil_iff_forall_not_mem]
    intro m hm
    obtain ⟨listed, even, prot, changed⟩ := State.mem_changedLeaders.mp hm
    exact changed (same m listed even prot).symm
  rw [State.mirror_eq, none_changed, List.foldl_nil]

/-- Only the followers of the listed leaders are set. -/
theorem State.core_foldl_bringUp_other {ns : List Nat} {m : Nat} (h : ∀ k ∈ ns, m ≠ k + 1) :
    (ns.foldl s.bringUp u).core m = u.core m := by
  induction ns generalizing u with
  | nil => rfl
  | cons k ns ih =>
    rw [List.foldl_cons, ih fun j hj => h j (List.mem_cons_of_mem k hj)]
    exact State.core_setCore_other u _ (h k List.mem_cons_self)

/-- A listed leader's follower takes its state, when every listed core is even and none is listed twice. -/
theorem State.core_foldl_bringUp {ns : List Nat} (distinct : ns.Nodup) (even : ∀ k ∈ ns, k % 2 = 0) (h : n ∈ ns) :
    (ns.foldl s.bringUp u).core (n + 1) = Core.follow (s.core n) (u.core n) (u.core (n + 1)) := by
  induction ns generalizing u with
  | nil => exact absurd h List.not_mem_nil
  | cons k ns ih =>
    obtain ⟨fresh, distinct⟩ := List.nodup_cons.mp distinct
    have even_n := even n h
    have even_k := even k List.mem_cons_self
    rw [List.foldl_cons]
    by_cases hk : n = k
    · subst hk
      rw [State.core_foldl_bringUp_other fun j hj => by rintro ⟨⟩; exact fresh hj]
      exact State.core_setCore_same u _ _
    · have later : n ∈ ns := (List.mem_cons.mp h).resolve_left hk
      rw [ih distinct (fun j hj => even j (List.mem_cons_of_mem k hj)) later]
      rw [State.bringUp, State.core_setCore_other u _ (show n ≠ k + 1 by omega),
        State.core_setCore_other u _ (show n + 1 ≠ k + 1 by omega)]

/-- No even core is a follower, and only followers are set. -/
theorem State.core_mirror_even (even : n % 2 = 0) : (s.mirror u).core n = u.core n := by
  rw [State.mirror_eq]
  refine State.core_foldl_bringUp_other fun k hk => ?_
  obtain ⟨-, even_k, -⟩ := State.mem_changedLeaders.mp hk
  omega

/-- The follower of a leader that the step has changed. -/
theorem State.core_mirror_follower (distinct : u.listed.Nodup) (changed : n ∈ s.changedLeaders u) :
    (s.mirror u).core (n + 1) = Core.follow (s.core n) (u.core n) (u.core (n + 1)) :=
  State.core_foldl_bringUp (distinct.filter _) (fun _ hk => (State.mem_changedLeaders.mp hk).2.1) changed

end

end Sys2Proof.Machine
end

section
/-! The shape of a step (R300): an outside event, or one of the enabled moves. -/

namespace Sys2Proof.Machine

section
variable {s : State} {i : Instr} {rest : List Instr}

theorem State.choose_mem_or (s : State) (ts : List State) : (s.choose ts = s ∧ ts = []) ∨ s.choose ts ∈ ts := by
  match ts with
  | [] => exact .inl ⟨rfl, rfl⟩
  | [t] => exact .inr List.mem_cons_self
  | t :: t' :: rest =>
    have within : Config.pick s.tick % ((t' :: rest).length + 1) < (t :: t' :: rest).length :=
      Nat.mod_lt _ (Nat.succ_pos _)
    rw [State.choose, List.getD_eq_getElem _ _ within]
    · exact .inr (List.getElem_mem within)
    · simp

/-- The oldest outside event is executed. -/
theorem step_event (oldest : (s.pass (Config.elapsed s.tick)).inbox = i :: rest) (event : isEvent i = true)
    (wf : i.wf = true) :
    step s = s.followed (exec i { s.pass (Config.elapsed s.tick) with inbox := rest }) := by
  rw [step]
  simp [oldest, event, wf]

/-- Without one, a move is made. -/
theorem step_move (none_waits : (s.pass (Config.elapsed s.tick)).inbox = []) :
    step s = .next (s.mirror ((s.pass (Config.elapsed s.tick)).choose (s.pass (Config.elapsed s.tick)).moved_)) := by
  rw [step]
  simp [none_waits]

end

section
variable {s u : State} {n : Nat}

@[simp] theorem State.pkg_pass (s : State) (dt : Nat) : (s.pass dt).pkg = s.pkg := rfl
@[simp] theorem State.leader_pass (s : State) (dt n : Nat) : (s.pass dt).leader n = s.leader n := rfl
@[simp] theorem State.listed_pass (s : State) (dt : Nat) : (s.pass dt).listed = s.listed := by
  simp [State.listed, State.pass, Function.comp_def]

/-- There is no move before MODULE_RESET has ended, nor in FAILED. -/
theorem State.moved_eq_nil (stopped : s.pkg.state = 0 ∨ s.pkg.state = 5) : s.moved_ = [] := by
  rw [State.moved_, if_pos (by simpa using stopped)]

/-- The turn of a core is a move of its own. -/
theorem State.coreTurn_mem_coreMoves (leads : s.leader n = n) (ungated : s.gatedCore n = false) :
    s.coreTurn n ∈ s.coreMoves n := by
  simp [State.coreMoves, leads, ungated]

/-- The moves of a listed core are moves of the module. -/
theorem State.mem_moved_of_coreMoves (up : s.pkg.state ≠ 0) (unfailed : s.pkg.state ≠ 5) (listed : n ∈ s.listed)
    (move : some u ∈ s.coreMoves n) : u ∈ s.moved_ := by
  have among_cores : some u ∈ s.listed.flatMap s.coreMoves := List.mem_flatMap.mpr ⟨n, listed, move⟩
  rw [State.moved_, if_neg (by simp [up, unfailed]), List.mem_filterMap]
  refine ⟨some u, ?_, rfl⟩
  simp only [List.mem_append]
  tauto

end

end Sys2Proof.Machine
end

section
/-! The turn of a core that R221 lets go, and the state in which its bundle's slots act. -/

namespace Sys2Proof.Machine

/-! ### What the start of a bundle's cycle leaves of the context -/

/-- Two contexts with the same program counter, registers, sequencer state and results in flight. -/
structure Ctx.Agrees (x y : Ctx) : Prop where
  pc : x.pc = y.pc
  regs : x.regs = y.regs
  seqr : x.seqr = y.seqr
  pipe : x.pipe = y.pipe

theorem Ctx.Agrees.refl (x : Ctx) : x.Agrees x := ⟨rfl, rfl, rfl, rfl⟩
theorem Ctx.Agrees.trans {x y z : Ctx} (h : x.Agrees y) (h' : y.Agrees z) : x.Agrees z :=
  ⟨h.pc.trans h'.pc, h.regs.trans h'.regs, h.seqr.trans h'.seqr, h.pipe.trans h'.pipe⟩

/-- The random word pops from the queue or is made anew. -/
theorem Ctx.popWord_agrees (x : Ctx) : x.popWord.2.Agrees x := by
  rw [Ctx.popWord]
  split <;> exact ⟨rfl, rfl, rfl, rfl⟩

theorem Ctx.fillQueue_agrees (x : Ctx) : x.fillQueue.Agrees x := by
  rw [Ctx.fillQueue]
  split <;> exact ⟨rfl, rfl, rfl, rfl⟩

/-- The random word of a bundle that core `c` issues, and the context without it. -/
def Core.draw (c : Core) (v : View) : Word × Ctx :=
  if v.pops c.ctx.regs then c.ctx.popWord else (0, c.ctx)
/-- The context of core `c` in the cycle of a bundle. -/
def Core.issueCtx (c : Core) (v : View) : Ctx :=
  let x := (c.draw v).2.fillQueue
  let x := if v.rdv && !c.inTrap then { x with rdv := x.rdv + 1 } else x
  if v.idle.isSome then x else { x with idleRun := 0 }

theorem Core.issueCtx_agrees (c : Core) (v : View) : (c.issueCtx v).Agrees c.ctx := by
  have drawn : (c.draw v).2.fillQueue.Agrees c.ctx := by
    refine (Ctx.fillQueue_agrees _).trans ?_
    rw [Core.draw]
    split
    · exact c.ctx.popWord_agrees
    · exact .refl _
  refine Ctx.Agrees.trans ?_ drawn
  simp only [Core.issueCtx]
  split <;> split <;> exact ⟨rfl, rfl, rfl, rfl⟩

/-- The capture of a loop's body touches the fetch only. -/
theorem Core.capture_eq (c : Core) (pc : Word) (b : Bits256) : ∃ f, c.capture pc b = { c with fetch := f } := by
  rw [Core.capture]
  split
  · exact ⟨_, rfl⟩
  · exact ⟨c.fetch, rfl⟩

/-! ### The bundle issues -/

section
variable {s : State} {n : Nat} {v : View}

/-- Core `n` in the cycle of the bundle that it issues. -/
def State.issuer (s : State) (n : Nat) (v : View) : Core :=
  let c := s.core n
  { c with
    ctx := c.issueCtx v
    fetch := (match s.fetch n with | .bundle _ (some pa) => c.fetch.hit pa | _ => c.fetch)
    btw := { c.btw with transit := c.btw.transit && v.transit } }
/-- The state in which the slots of a bundle of core `n` act. -/
def State.issuing (s : State) (n : Nat) (v : View) : State :=
  { s.setCore n ((s.issuer n v).capture (s.core n).ctx.pc v.bits) with
    iss := { Issue.zero with cur := n, transit := v.transit, ck := v.ck, word := ((s.core n).draw v).1 } }

theorem State.runBundle_of_slots (s : State) (n : Nat) (slots : v.idle = none) :
    s.runBundle n v = (v.acts.foldl State.act (s.issuing n v)).finish n v (s.core n) := by
  obtain ⟨bits, ck, rdv, transit, idle, ops⟩ := v
  cases slots
  rfl

theorem State.core_issuing_other (s : State) (v : View) {m : Nat} (h : m ≠ n) : (s.issuing n v).core m = s.core m :=
  State.core_setCore_other s _ h

/-- The core at hand is the one that issues, but for its fetch. -/
theorem State.me_issuing (s : State) (n : Nat) (v : View) :
    ∃ f, (s.issuing n v).me = { s.issuer n v with fetch := f } := by
  obtain ⟨f, captured⟩ := Core.capture_eq (s.issuer n v) (s.core n).ctx.pc v.bits
  exact ⟨f, (State.core_setCore_same s n _).trans captured⟩

/-- One operation is the whole list of those that act, whichever its slot. -/
theorem View.acts_of_single {x : Nat × Nat × Instr} (single : v.slots = [x]) : v.acts = [x] := by
  rw [View.acts, single]
  by_cases scalar : x.1 = 0
  · simp [scalar]
  · simp [scalar]

/-- A slot that acts is an operation, at issue on the core at hand with its own raw bits. -/
theorem State.act_of_op {t : State} {k raw : Nat} {i : Instr} (goes_on : t.iss.ended = false)
    (op : (opOf i).isSome = true) :
    exec i { t with iss := { t.iss with slot := k, raw := raw } } = .next (t.act (k, raw, i)) := by
  obtain ⟨o, ho⟩ := Option.isSome_iff_exists.mp op
  rw [State.act, goes_on, exec_of_op i o _ ho]
  rfl

end

/-! ### The turn -/

section
variable {s : State} {n : Nat} {v : View} {w : Bits256} {pa : Option Nat}

/-- What stands in the way of a core's next bundle, apart from the bundle itself: nothing. -/
structure State.Free (s : State) (n : Nat) : Prop where
  run : (s.core n).run = .run
  saving : (s.core n).saving = none
  halting : (s.core n).btw.halting = false
  vjoin : (s.core n).btw.vjoin = 0
  nulLeft : (s.core n).btw.nulLeft = 0
  interrupt : s.interrupt n = none
  idle : (s.core n).btw.idle = 0
  replay : (s.core n).btw.replay = false
  barPending : (s.core n).barPending = none
  phase : (s.core n).btw.phase = none
  ungated : s.gatedCore n = false

theorem State.phaseHeld_of_phase_none (h : (s.core n).btw.phase = none) : s.phaseHeld n = false := by
  simp [State.phaseHeld, Core.inPhase, h]

theorem State.inStep_of_phase_none (h : (s.core n).btw.phase = none) : s.inStep n = false := by
  simp [State.inStep, h]

theorem State.nullified_of_nulLeft (h : (s.core n).btw.nulLeft = 0) : s.nullified n = none := by
  simp [State.nullified, h]

/-- A bundle that the fetch, the decode checks and R221 let pass is what its core meets. -/
theorem State.meets_eq_go (free : s.Free n) (fetched : s.fetch n = .bundle w pa) (decoded : s.decode n w = .ok v)
    (passes : s.weigh n v = .go v) : s.meets n = .go v := by
  have own : s.ownLook n = .go v := by simp [State.ownLook, fetched, decoded, passes]
  have look : s.look n = .go v := by simp [State.look, free.barPending, own]
  simp [State.meets, look, State.phaseHeld_of_phase_none free.phase]

/-- A free core's turn is the bundle that it meets. -/
theorem State.turn_eq_runBundle (free : s.Free n) (meets : s.meets n = .go v) (commits : (s.core n).commits v = false) :
    s.turn n = .cycle (s.runBundle n v) := by
  have between : (s.core n).between = false := by simp [Core.between, free.vjoin, free.idle, free.replay]
  have issue : s.issue n v = .cycle (s.runBundle n v) := by simp [State.issue, commits]
  simp [State.turn, free.run, free.saving, free.ungated, free.halting, between, free.vjoin,
    State.nullified_of_nulLeft free.nulLeft, free.interrupt, free.idle, free.replay, meets, free.barPending, issue]

theorem State.coreTurn_eq_runBundle (free : s.Free n) (meets : s.meets n = .go v)
    (commits : (s.core n).commits v = false) : s.coreTurn n = some (s.gangBack (s.runBundle n v) n) := by
  simp [State.coreTurn, State.turn_eq_runBundle free meets commits, State.inStep_of_phase_none free.phase]

end

end Sys2Proof.Machine
end

section
/-! The end of a bundle's cycle (R130), and the slots that the decode checks let pass (R80). -/

namespace Sys2Proof.Machine

section
variable {s : State} {n : Nat} {v : View} {c0 : Core}

/-- The end of a bundle's cycle leaves what the bundle has asked for: a redirect of its trap, and a clear. -/
theorem State.closeCycleOf_btw (s : State) (pc : Word) :
    (s.closeCycleOf pc).me.btw.mid = s.me.btw.mid ∧ (s.closeCycleOf pc).me.btw.clear = s.me.btw.clear := by
  have count_btw (c : Core) : c.count.btw = c.btw := by rw [Core.count]; split <;> rfl
  have counted : (if s.iss.ov.isSome then s.me else s.me.count).btw = s.me.btw := by
    split
    · rfl
    · exact count_btw s.me
  have closed : (s.closeCycleOf pc).me = (((if s.iss.ov.isSome then s.me else s.me.count).endCycle (some pc) s.iss.sysw
      (s.iss.reqs ++ if s.iss.ov.isSome then s.me.ctx.owed else [])).drain s.tick).closeDue :=
    State.core_setCore_same s s.iss.cur _
  obtain ⟨-, -, -, -, -, -, due⟩ := Core.closeDue_keeps (((if s.iss.ov.isSome then s.me else s.me.count).endCycle (some pc)
    s.iss.sysw (s.iss.reqs ++ if s.iss.ov.isSome then s.me.ctx.owed else [])).drain s.tick)
  have mid := congrArg Between.mid counted
  have clear := congrArg Between.clear counted
  rw [closed, due]
  exact ⟨mid, clear⟩

/-- R130: without a redirect and without a loop the next bundle is 32 bytes further. -/
theorem Core.pass_pc (c : Core) (pend : c.ctx.seqr.pend = 0) (loop : c.ctx.seqr.loop = false) :
    c.pass.ctx.pc = c.ctx.pc + 32 := by
  simp [Core.pass, advance, pend, loop]

theorem Core.beginClear_of_none (c : Core) (w : TrapAt) (none_due : c.btw.clear = none) : c.beginClear w = c := by
  simp [Core.beginClear, none_due]

/-- The program counter at the end of a bundle that has not moved it. -/
theorem State.finish_pc (cur : s.iss.cur = n) (ended : s.iss.ended = false) (advanced : s.iss.advanced = false)
    (mid : (s.core n).btw.mid = none) (clear : (s.core n).btw.clear = none) :
    ((s.finish n v c0).core n).ctx.pc = (s.closeCycleOf c0.ctx.pc).me.pass.ctx.pc := by
  obtain ⟨closed_mid, closed_clear⟩ := s.closeCycleOf_btw c0.ctx.pc
  have closed_ended : (s.closeCycleOf c0.ctx.pc).iss.ended = false := ended
  have closed_advanced : (s.closeCycleOf c0.ctx.pc).iss.advanced = false := advanced
  have closed_core : (s.closeCycleOf c0.ctx.pc).core n = (s.closeCycleOf c0.ctx.pc).me := by rw [← cur]; rfl
  rw [← cur, State.core_cur] at mid clear
  rw [mid] at closed_mid
  rw [clear] at closed_clear
  rw [State.finish, ended]
  simp only [Bool.false_eq_true, if_false]
  generalize s.closeCycleOf c0.ctx.pc = t at *
  simp only [closed_ended, closed_advanced, closed_core, Bool.false_eq_true, if_false, Bool.or_self]
  have on_time : t.me.pass.btw.mid = none := closed_mid
  rw [if_neg (by rw [on_time]; decide), State.core_setCore_same, Core.beginClear_of_none _ _ (by split <;> exact closed_clear)]
  split <;> rfl

end

section
variable {s : State} {n raw : Nat} {w : Bits256} {v : View} {i : Instr} {b : GBundle}

theorem eq_decodeG_of_general (general : decodeBundle w = .general b) : b = decodeG w := by
  rw [decodeBundle] at general
  split at general
  · split at general
    · cases general
      rfl
    · cases general
  · split at general
    · split at general
      · split at general <;> cases general
      · cases general
    · cases general
  · split at general <;> cases general
  · cases general

/-- R80: a G bundle that passes the decode checks keeps its operations, with their slots and raw bits, and none of its
slots has an illegal operation. -/
theorem State.decode_general_ok (general : decodeBundle w = .general b) (passes : s.decode n w = .ok v) :
    (∀ x ∈ b.slots.zipIdx, (s.facing n b.transit b.ckpt).slotTrap w x.2 x.1 = none)
      ∧ v.slots = b.slots.zipIdx.filterMap fun x => match x.1 with | .op i => some (x.2, slotRaw w x.2, i) | _ => none := by
  rw [State.decode, general] at passes
  simp only at passes
  split at passes
  · exact absurd passes (by simp)
  · split at passes
    · exact absurd passes (by simp)
    · split at passes
      · exact absurd passes (by simp)
      · next untrapped =>
        split at passes
        · exact absurd passes (by simp)
        · cases passes
          exact ⟨List.findSome?_eq_none_iff.mp untrapped, rfl⟩

/-- A slot that no illegal-operation trap meets holds a well-formed instruction. -/
theorem State.wf_of_slotTrap {k : Nat} (untrapped : s.slotTrap w k (.op i) = none) : i.wf = true := by
  rw [State.slotTrap] at untrapped
  by_cases legal : s.slotLegal i = true
  · rw [State.slotLegal, Bool.and_eq_true] at legal
    exact legal.1
  · simp [legal] at untrapped

/-- The operation of the S slot is what the bundle's bits 239:192 decode to. -/
theorem State.decode_scalar (passes : s.decode n w = .ok v) (scalar : (0, raw, i) ∈ v.slots) :
    raw = slotRaw w 0 ∧ decodeS (w.extractLsb' 192 48) = .op i ∧ i.wf = true := by
  cases form : decodeBundle w with
  | illegal => simp [State.decode, form] at passes
  | idle count =>
    simp only [State.decode, form, Except.ok.injEq] at passes
    simp [← passes] at scalar
  | weight j =>
    simp only [State.decode, form] at passes
    split at passes
    · cases passes
      simp at scalar
    · cases passes
  | general b =>
    obtain ⟨untrapped, slots⟩ := State.decode_general_ok form passes
    rw [slots, List.mem_filterMap] at scalar
    obtain ⟨⟨r, k⟩, placed, kept⟩ := scalar
    split at kept
    · next op =>
      cases op
      cases kept
      have first : (SlotRes.op i) = b.s := by simpa [GBundle.slots] using placed
      rw [eq_decodeG_of_general form] at first
      exact ⟨rfl, first.symm, State.wf_of_slotTrap (untrapped _ placed)⟩
    · cases kept

end

end Sys2Proof.Machine
end

section
/-! The clauses of O57 that need more than one of the facts above. -/

namespace Sys2Proof.Machine

section
variable {s : State} {n k raw : Nat} {i : Instr} {v : View} {w : Bits256} {pa : Option Nat}

/-- R221: the turn of a core that meets a bundle with one operation is `exec` of it, on the core as it is at issue but
for its random words and its fetch. -/
theorem State.coreTurn_of_single (free : s.Free n) (meets : s.meets n = .go v) (commits : (s.core n).commits v = false)
    (slots : v.idle = none) (single : v.slots = [(k, raw, i)]) (op : (opOf i).isSome = true) :
    ∃ x, exec i { s.issuing n v with iss := { (s.issuing n v).iss with slot := k, raw := raw } } = .next x
      ∧ s.coreTurn n = some (s.gangBack (x.finish n v (s.core n)) n) := by
  refine ⟨_, State.act_of_op rfl op, ?_⟩
  rw [State.coreTurn_eq_runBundle free meets commits, State.runBundle_of_slots s n slots, View.acts_of_single single]
  rfl

end

end Sys2Proof.Machine
end

section
open Sys2Proof Sys2Proof.Machine

/-- Settles O57: from the shape of `step`, the cores that `State.mirror` sets, the turn of a core that nothing holds back,
the end of its cycle and the decode checks. -/
theorem stepRunsDecoded : Obligations.step_runs_decoded := by
  intro n k raw i rest w pa v u s s2 t c free
  refine ⟨fun oldest event wf runs => ?event, fun none_waits => ?move, fun none_waits only => ?only_move,
    fun same listed prot => ?unchanged, fun m even => State.core_mirror_even even, State.mem_mirror s u,
    fun distinct listed even prot changed => ?follower, fun stopped => State.moved_eq_nil stopped,
    fun up unfailed listed leads ungated turn => ?turn,
    fun held_by_nothing fetched decoded passes commits slots single op => ?bundle,
    fun cur ended advanced pend loop mid clear => ?further, State.decode_scalar⟩
  case event =>
    rw [step_event oldest event wf, runs]
    rfl
  case move =>
    refine ⟨_, step_move none_waits, ?_⟩
    exact t.choose_mem_or t.moved_
  case only_move =>
    rw [step_move none_waits, only]
    rfl
  case unchanged =>
    exact State.mirror_of_unchanged fun m hm even lead => same m (listed ▸ hm) even (prot m ▸ lead)
  case follower =>
    have follower := State.core_mirror_follower (s := s) distinct
      (State.mem_changedLeaders.mpr ⟨listed, even, prot, changed.symm⟩)
    simp only [follower]
    exact ⟨rfl, rfl, rfl, rfl, rfl, fun wf a => Memory.read_follow a wf⟩
  case turn =>
    exact State.mem_moved_of_coreMoves up unfailed ((s.listed_pass _).symm ▸ listed)
      (turn ▸ State.coreTurn_mem_coreMoves leads ungated)
  case bundle =>
    obtain ⟨run, saving, halting, vjoin, nulLeft, interrupt, idle, replay, barPending, phase, ungated⟩ := held_by_nothing
    have free_core : s.Free n :=
      ⟨run, saving, halting, vjoin, nulLeft, interrupt, idle, replay, barPending, phase, ungated⟩
    obtain ⟨x, runs, turn⟩ := State.coreTurn_of_single free_core
      (State.meets_eq_go free_core fetched decoded passes) commits slots single op
    obtain ⟨f, me⟩ := s.me_issuing n v
    obtain ⟨pc, regs, seqr, pipe⟩ := c.issueCtx_agrees v
    refine ⟨_, x, runs, rfl, rfl, rfl, rfl, rfl, ?_⟩
    have at_issue : ({ s.issuing n v with iss := { (s.issuing n v).iss with slot := k, raw := raw } } : State).me
        = { s.issuer n v with fetch := f } := me
    rw [at_issue]
    exact ⟨pc, regs, seqr, pipe, rfl, rfl, rfl, rfl, rfl, rfl, fun _ other => s.core_issuing_other v other, turn⟩
  case further =>
    rw [State.finish_pc cur ended advanced mid clear]
    obtain ⟨-, -, -, closed_pc, closed_seqr, -⟩ := s2.closeCycleOf_keeps c.ctx.pc
    subst cur
    rw [Core.pass_pc _ (closed_seqr ▸ pend) (closed_seqr ▸ loop), closed_pc, State.core_cur]

end

section
/-! The host's queues, its accesses to the window of the tier, and the completion of jobs (R346 to R348). -/

namespace Sys2Proof.Machine

/-! ### Host queues (R346, R347) -/

/-- R346: a tail is taken where it lies within the ring and not before the previous tail. -/
theorem HostQ.writeTail_eq (x : HostQ) (t : BitVec 32) : x.writeTail t =
    if (t - x.head).toNat ≤ 2 ^ x.log2 ∧ (x.tail - x.head).toNat ≤ (t - x.head).toNat then { x with tail := t }
    else { x with err := true } := by
  unfold HostQ.writeTail
  by_cases taken : (t - x.head).toNat ≤ 2 ^ x.log2 ∧ (x.tail - x.head).toNat ≤ (t - x.head).toNat
  · rw [if_pos taken, if_neg (by simpa [-BitVec.toNat_sub] using taken)]
  · rw [if_neg taken, if_pos (by simpa [-not_and, not_and_or, -BitVec.toNat_sub] using taken)]

/-- HQTAIL: the host's bytes stand in its memory, and the doorbell reaches its queue. -/
theorem hqtail_leads (s : State) (q : Nat) (tl : BitVec 32) (ws : List (Nat × Byte)) :
    leads (.hqtail q ⟨tl, ws⟩) s fun t => t.mem = s.mem
      ∧ t.pkg.hostMem = ws.foldl (fun (m : Memory) w => Memory.write m w.1 w.2) s.pkg.hostMem
      ∧ t.pkg.hq q = (s.pkg.hq q).writeTail tl :=
  ⟨_, rfl, rfl, rfl, s.pkg.hq_setHq q _⟩

/-- An entry may be taken from a host queue: it runs, is enabled and not empty, and a root word can be registered. -/
theorem hostEntryTake_leads {s : State} {q : Nat} (runs : s.pkg.state = 2) (en : (s.pkg.hq q).en = true)
    (nonempty : (s.pkg.hq q).head ≠ (s.pkg.hq q).tail) (room : s.pkg.open_ < 4096) :
    let x := s.pkg.hq q
    let e := BitVec.ofNat 512 (Memory.readLe s.pkg.hostMem (x.base.toNat + 64 * (x.head.toNat % 2 ^ x.log2)) 64)
    let p := s.pkg.setHq q { x with head := x.head + 1 }
    let root : Root := ⟨s.pkg.nextJob, BitVec.ofNat 64 (recAddr e 2), x.asid, x.die, q, x.head, none⟩
    leads (.hostEntryTake q) s fun t =>
      if recAddr e 2 = 0 then t = ({ s with pkg := p }).discard x.die (recQueue e)
      else t = State.enqueue { s with pkg := { p with roots := p.roots ++ [root], nextJob := s.pkg.nextJob + 1 } } x.die
        (recWith e x.asid (min (recPrio e) x.pmax)) .host ⟨true, x.asid, BitVec.ofNat 6 x.pmax, s.pkg.nextJob⟩ none := by
  intro x e p root
  have open_ : (s.pkg.state != 2 || !x.en || x.head == x.tail || decide (4096 ≤ s.pkg.open_)) = false := by
    simp [runs, x, en, nonempty, room]
  refine ⟨_, show execHostEntryTake q s = _ from rfl, ?_⟩
  rw [State.takeEntry, if_neg (by rw [open_]; decide)]
  beta_reduce
  by_cases rootless : recAddr e 2 = 0
  · rw [if_pos rootless, if_pos rootless]; rfl
  · rw [if_neg rootless, if_neg rootless]; rfl

/-- R347: the completion of the `k`-th root word that has reached zero, where its ring has a place. -/
theorem jobCompletion_leads {s : State} {k : Nat} {r : Root}
    (done : (s.pkg.roots.filter fun o => o.finished.isSome)[k]? = some r)
    (room : ((s.pkg.hq r.queue).cqtail - (s.pkg.hq r.queue).cqhead).toNat ≠ 2 ^ (s.pkg.hq r.queue).log2) :
    let y := s.pkg.hq r.queue
    leads (.jobCompletion k) s fun t =>
      let d0 := r.head.toNat + (if r.finished = some true then 2 ^ 32 else 0)
      (t.pkg.hq r.queue).cqtail = y.cqtail + 1 ∧ t.pkg.roots = dropFirst (· == r) s.pkg.roots
      ∧ t.pkg.msix = s.pkg.msix ++ [y.vec] ∧ t.mem = s.mem
      ∧ t.pkg.hostMem = Memory.writeBytes s.pkg.hostMem (y.cqbase.toNat + 16 * (y.cqtail.toNat % 2 ^ y.log2))
          (leBytes 8 d0 ++ leBytes 8 r.addr.toNat) := by
  intro y
  have completed : s.completes k = some (s.setPkg { s.pkg.setHq r.queue { y with cqtail := y.cqtail + 1 } with
      roots := dropFirst (· == r) s.pkg.roots
      hostMem := Memory.writeBytes s.pkg.hostMem (y.cqbase.toNat + 16 * (y.cqtail.toNat % 2 ^ y.log2))
        (leBytes 8 (r.head.toNat + (if r.finished == some true then 2 ^ 32 else 0)) ++ leBytes 8 r.addr.toNat)
      msix := s.pkg.msix ++ [y.vec] }) := by
    simp only [State.completes, done]
    exact if_neg room
  refine ⟨_, show execJobCompletion k s = _ from rfl, ?_⟩
  rw [completed]
  refine ⟨congrArg HostQ.cqtail (s.pkg.hq_setHq r.queue _), rfl, rfl, rfl, ?_⟩
  simp [State.setPkg]

/-! ### The window of the tier (R348) -/

/-- An access within a line is one request of the host link. -/
theorem State.hostAsks_line (s : State) {pa n : Nat} (fuel : Nat) (data : Option (List Byte)) (nonempty : 0 < n)
    (line : pa % 128 + n ≤ 128) : s.hostAsks (fuel + 1) pa n data =
      s.push srcHost (agentReq (.host n (data.map fun bs => bs.take n)) pa 0 true false 0) := by
  have whole : min n (128 - pa % 128) = n := by omega
  rw [State.hostAsks, if_neg nonempty.ne', whole]
  simp only [Nat.sub_self]
  cases fuel <;> rfl

/-- R348: what an access is refused for: the feature is off, or it is not within the window. -/
theorem State.cxl_refuses_iff (s : State) (addr n : Nat) :
    (!s.pkg.featact.getLsbD 11 || decide (s.pkg.window.2 * 2 ^ 28 < addr + n)) = true
      ↔ ¬(s.pkg.featact.getLsbD 11 = true ∧ addr + n ≤ s.pkg.window.2 * 2 ^ 28) := by
  rw [Bool.or_eq_true, Bool.not_eq_true', decide_eq_true_eq, not_and_or, Bool.not_eq_true, Nat.not_le]

/-- CXL_MEM_ACCESS within the window and a line. -/
theorem cxlMemAccess_leads {s : State} {addr n : Nat} (write : Bool) (data : List Byte)
    (within : s.pkg.featact.getLsbD 11 = true ∧ addr + n ≤ s.pkg.window.2 * 2 ^ 28) (nonempty : 0 < n)
    (line : (0x100000000000 + s.pkg.window.1 * 2 ^ 28 + addr) % 128 + n ≤ 128) :
    leads (.cxlMemAccess write addr n data) s fun t => t =
      s.push srcHost (agentReq (.host n (if write then some (data.take n) else none))
        (0x100000000000 + s.pkg.window.1 * 2 ^ 28 + addr) 0 true false 0) := by
  refine ⟨_, show execCxlMemAccess write addr n data s = _ from rfl, ?_⟩
  rw [State.cxl, if_neg (mt (s.cxl_refuses_iff addr n).mp (not_not_intro within)), State.hostAsks_line s _ _ nonempty line]
  cases write <;> rfl

/-- CXL_MEM_ACCESS beyond the window, or without the feature, does nothing. -/
theorem cxlMemAccess_outside {s : State} {addr n : Nat} (write : Bool) (data : List Byte)
    (outside : ¬(s.pkg.featact.getLsbD 11 = true ∧ addr + n ≤ s.pkg.window.2 * 2 ^ 28)) :
    leads (.cxlMemAccess write addr n data) s fun t => t = s :=
  ⟨_, show execCxlMemAccess write addr n data s = _ from rfl, if_pos ((s.cxl_refuses_iff addr n).mpr outside)⟩

end Sys2Proof.Machine
end

section
/-! The OWC service: what its cache gives back, and its answer to a block request (R88, R89, R352, R353). -/

namespace Sys2Proof.Machine

/-! ### Bundles as a cache entry holds them -/

theorem codeBundles_append {xs : List Byte} (rest : List Byte) (h : xs.length = 32) :
    codeBundles (xs ++ rest) = BitVec.ofNat 256 (leNat xs) :: codeBundles rest := by
  have count : (xs ++ rest).length / 32 = rest.length / 32 + 1 := by
    rw [List.length_append, h]; omega
  have later (k : Nat) : (xs ++ rest).drop (32 * (k + 1)) = rest.drop (32 * k) := by
    rw [Nat.mul_add, Nat.add_comm, Nat.mul_one, ← List.drop_drop, ← h, List.drop_left]
  have first : (xs ++ rest).take 32 = xs := by rw [← h, List.take_left]
  rw [codeBundles, count, List.range_succ_eq_map]
  simp [codeBundles, first, later, Function.comp_def]

/-- The bytes of bundles hold those bundles. -/
theorem codeBundles_codeBytes (bs : List Bits256) : codeBundles (codeBytes bs) = bs := by
  induction bs with
  | nil => rfl
  | cons b bs ih =>
    have value : BitVec.ofNat 256 (leNat (leBytes 32 b.toNat)) = b := by
      rw [leNat_leBytes, Nat.mod_eq_of_lt (lt_of_lt_of_eq b.isLt (by decide)), BitVec.ofNat_toNat, BitVec.setWidth_eq]
    have bytes : codeBytes (b :: bs) = leBytes 32 b.toNat ++ codeBytes bs := rfl
    rw [bytes, codeBundles_append _ (length_leBytes _ _), value, ih]

/-- R353: decryption under the nonce of the encryption gives the bytes back. -/
theorem sealBytes_sealBytes (nonce : BitVec 96) (bs : List Byte) : sealBytes nonce (sealBytes nonce bs) = bs := by
  apply List.ext_getElem
  · simp [sealBytes]
  · intro i h1 h2
    simp [sealBytes]

theorem OwcEntry.genuine_seal (e : OwcEntry) (nonce : BitVec 96) : (e.seal nonce).genuine = true := by
  simp [OwcEntry.genuine, OwcEntry.seal, OwcEntry.associated]

/-! ### The cache (R352) -/

/-- The entry that the cache takes last is the one that is found, where no other has its key. -/
theorem find_filter_append {p q : OwcEntry → Bool} {e : OwcEntry} (es : List OwcEntry) (he : p e = true)
    (keyed : ∀ x, p x = true → q x = true) : ((es.filter fun x => !q x) ++ [e]).find? p = some e := by
  have others : (es.filter fun x => !q x).find? p = none := by
    rw [List.find?_eq_none]
    intro x hx hp
    simp [List.mem_filter, keyed x hp] at hx
  rw [List.find?_append, others, Option.none_or, List.find?_cons_of_pos he]

/-- The service loads the entry that the cache has taken last for its key, if its tag verifies. -/
theorem Pkg.loaded_of_owc {p p' : Pkg} {d : List Byte} {e : OwcEntry}
    (owc : p'.owc = (p.owc.filter fun x => !p.keyed d x) ++ [e]) (key : p'.keyed = p.keyed) (keyed : p.keyed d e = true)
    (trusted : (!p'.record.sealedCache || e.genuine) = true) :
    p'.loaded d = some (codeBundles (if p'.record.sealedCache then sealBytes e.nonce e.code else e.code)) := by
  rw [Pkg.loaded, owc, key, find_filter_append (q := p.keyed d) _ (by simp [keyed, trusted])]
  · rfl
  · exact fun x hx => (Bool.and_eq_true_iff.mp hx).1

/-- R352, R353: what the cache has taken is what the service loads. -/
theorem Pkg.loaded_cached (p : Pkg) (record d : List Byte) (code : List Bits256) :
    (p.cached record d code).loaded d = some code := by
  unfold Pkg.cached
  by_cases sealed : p.record.sealedCache = true
  · simp only [sealed, if_true]
    refine Eq.trans (Pkg.loaded_of_owc (p := p) rfl rfl ?_ ?_) ?_
    · simp [Pkg.keyed, OwcEntry.seal]
    · rw [OwcEntry.genuine_seal, Bool.or_true]
    · simp only [sealed, if_true]
      simp [OwcEntry.seal, sealBytes_sealBytes, codeBundles_codeBytes]
  · simp only [sealed, Bool.false_eq_true, if_false]
    refine Eq.trans (Pkg.loaded_of_owc (p := p) rfl rfl ?_ ?_) ?_
    · simp [Pkg.keyed]
    · simp [sealed]
    · simp [sealed, codeBundles_codeBytes]

theorem Pkg.owcOut_cached (p : Pkg) (record d : List Byte) (code : List Bits256) :
    (p.cached record d code).owcOut = p.owcOut := by
  unfold Pkg.cached; split <;> rfl

/-! ### A block request (R88, R89, R93) -/

/-- The service's answer, case by case; whatever code it answers, its cache then holds. -/
theorem Pkg.request_spec (p : Pkg) (record : List Byte) :
    (p.request record).2.owcOut = p.owcOut
    ∧ (∀ c, (p.request record).1 = .code c → (p.request record).2.loaded (Machine.digest record) = some c)
    ∧ if p.featact.getLsbD 1 = false then (p.request record).1 = .feature
      else match Block.ofRecord record with
      | none => (p.request record).1 = .range
      | some b => match p.loaded (Machine.digest record) with
        | some c => (p.request record).1 = .code c
        | none => (p.request record).1 = if b.span * 2048 < (owcCode p.errata record b).length then .span
            else .code (owcCode p.errata record b) := by
  unfold Pkg.request
  cases on : p.featact.getLsbD 1 with
  | false => simp
  | true =>
    simp only [Bool.not_true, Bool.false_eq_true, if_false, Bool.true_eq_false]
    cases Block.ofRecord record with
    | none => simp
    | some b =>
      cases held : p.loaded (Machine.digest record) with
      | some c => simp [held]
      | none =>
        by_cases long : b.span * 2048 < (owcCode p.errata record b).length
        · simp [pageBundles, long]
        · simp [pageBundles, long, Pkg.loaded_cached, Pkg.owcOut_cached]

/-- BLOCK_REQUEST: the answer is sent, and nothing outside the package changes. -/
theorem blockRequest_leads (s : State) (record : List Byte) : leads (.blockRequest record) s fun t =>
    t.mem = s.mem ∧ t.cores = s.cores ∧ t.pkg.owcOut = s.pkg.owcOut ++ [(s.pkg.request record).1]
      ∧ t.pkg.loaded = (s.pkg.request record).2.loaded := by
  obtain ⟨unsent, -, -⟩ := s.pkg.request_spec record
  exact ⟨_, rfl, rfl, rfl, congrArg (· ++ [(s.pkg.request record).1]) unsent, rfl⟩

end Sys2Proof.Machine
end

section
/-! Partial weight updates: the request for a block with a changed weight, and what an installed generation holds
(R97, R98, R351). -/

namespace Sys2Proof.Machine

/-! ### The requests of an update -/

/-- R351: a record of FMT 2 with one weight changed has that weight's byte changed. -/
theorem updateRequest_int8 {u : BlockUpdate} {b : Block} {i : Nat} {v : Int} (change : u.changes = [(i, v)])
    (block : Block.ofRecord u.record = some b) (fmt : b.fmt = 2) (listed : i < b.rows * b.cols) (low : -128 ≤ v)
    (high : v ≤ 127) : updateRequest u = some (u.record.set (16 + i) (BitVec.ofInt 8 v)) := by
  have there : ¬ b.rows * b.cols ≤ i := by omega
  have inside : ¬ (v < -128 ∨ 127 < v) := by omega
  simp [updateRequest, block, change, setWeight, fmt, there, inside]

/-- Where every block is answered there is a code for each. -/
theorem Pkg.length_of_requests {p : Pkg} {us : List BlockUpdate} {codes : List (List Bits256)}
    (h : (p.requests us).1 = some codes) : codes.length = us.length := by
  induction us generalizing p codes with
  | nil => cases h; rfl
  | cons u us ih =>
    simp only [Pkg.requests] at h
    split at h
    · next rest =>
      cases h
      simp [ih rest]
    · cases h

/-! ### What an update installs -/

/-- The images of pages after some have been put, each by its number in its block. -/
def putImages (images : Map (List Bits256)) (code : List Bits256) (ps : List (Nat × Nat)) : Map (List Bits256) :=
  ps.foldl (fun m x => Map.put m x.1 (spanBundles (code.drop (x.2 * pageBundles)) pageBundles)) images
/-- The doublewords of a table, written under key 0. -/
def Mem.writeTable (m : Mem) (table : List (Nat × Word)) : Mem :=
  table.foldl (fun (m : Mem) x => m.store 0 x.1 (leBytes 8 x.2.toNat)) m
/-- Memory with other page images. -/
def Mem.withImages (m : Mem) (images : Map (List Bits256)) : Mem := { m with images := images }

/-- The bytes of a unit are brought under a key whatever the page images are. -/
theorem Mem.rekey_withImages (m : Mem) (images : Map (List Bits256)) (u : Nat) (key : BitVec 8) :
    (m.withImages images).rekey u key = (m.rekey u key).withImages images := by
  have keys : (m.withImages images).keys = m.keys := rfl
  by_cases same : Map.getD m.keys u 0 = key
  · simp only [Mem.rekey, keys, same, if_true]
  · simp only [Mem.rekey, keys, same, if_false]
    rfl

theorem Mem.store_withImages (m : Mem) (images : Map (List Bits256)) (key : BitVec 8) (a : Nat) (bs : List Byte) :
    (m.withImages images).store key a bs = (m.store key a bs).withImages images := by
  have rekeyed (us : List Nat) : us.foldl (fun m u => m.rekey u key) (m.withImages images)
      = (us.foldl (fun m u => m.rekey u key) m).withImages images :=
    List.foldl_hom (fun m => Mem.withImages m images) fun m u => Mem.rekey_withImages m images u key
  simp only [Mem.store, rekeyed]
  rfl

theorem Mem.writeTable_withImages (m : Mem) (images : Map (List Bits256)) (table : List (Nat × Word)) :
    (m.withImages images).writeTable table = (m.writeTable table).withImages images :=
  List.foldl_hom (fun m => Mem.withImages m images) fun m _ => Mem.store_withImages m images _ _ _

theorem Mem.foldl_putImages (m : Mem) (code : List Bits256) (ps : List (Nat × Nat)) :
    ps.foldl (fun (m : Mem) x =>
      { m with images := Map.put m.images x.1 (spanBundles (code.drop (x.2 * pageBundles)) pageBundles) }) m
    = m.withImages (putImages m.images code ps) := by
  induction ps generalizing m with
  | nil => rfl
  | cons x ps ih => rw [List.foldl_cons, ih]; rfl

/-- R97: what installing a block changes: page images, the table's doublewords, and the sealed granules. -/
theorem Mem.install_eq (m : Mem) (code : List Bits256) (u : BlockUpdate) : m.install code u =
    { (m.writeTable u.table).withImages (putImages m.images code u.pages.zipIdx) with
      sealed := ((m.writeTable u.table).sealed ++ u.pages.map fun p => p * 65536 / 2 ^ 21).dedup } := by
  unfold Mem.install
  simp only [Mem.foldl_putImages]
  have table (y : Mem) : u.table.foldl (fun (m : Mem) x => m.store 0 x.1 (leBytes 8 x.2.toNat)) y
      = y.writeTable u.table := rfl
  rw [table, Mem.writeTable_withImages]
  rfl

/-! ### Sealed granules -/

theorem Mem.sealed_rekey (m : Mem) (u : Nat) (key : BitVec 8) : (m.rekey u key).sealed = m.sealed := by
  unfold Mem.rekey; split <;> rfl

theorem Mem.sealed_store (m : Mem) (key : BitVec 8) (a : Nat) (bs : List Byte) :
    (m.store key a bs).sealed = m.sealed := by
  have rekeyed (us : List Nat) (m : Mem) : (us.foldl (fun (m : Mem) u => m.rekey u key) m).sealed = m.sealed := by
    induction us generalizing m with
    | nil => rfl
    | cons u us ih => rw [List.foldl_cons, ih, Mem.sealed_rekey]
  simp only [Mem.store, rekeyed]

theorem Mem.sealed_writeTable (m : Mem) (table : List (Nat × Word)) : (m.writeTable table).sealed = m.sealed := by
  induction table generalizing m with
  | nil => rfl
  | cons x table ih =>
    simp only [Mem.writeTable, List.foldl_cons] at ih ⊢
    rw [ih, Mem.sealed_store]

/-- R97: the pages of a block are sealed by installing it, and every sealed address stays sealed. -/
theorem Mem.isSealed_install (m : Mem) (code : List Bits256) (u : BlockUpdate) (pa : Nat) :
    (m.install code u).isSealed pa = true ↔
      m.isSealed pa = true ∨ ∃ p ∈ u.pages, p * 65536 / 2 ^ 21 = pa / 2 ^ 21 := by
  rw [Mem.install_eq, Mem.sealed_writeTable]
  simp only [Mem.isSealed, List.contains_iff_mem, List.mem_dedup, List.mem_append, List.mem_map]

/-- Blocks with their codes, installed in order. -/
def Mem.installAll (m : Mem) (xs : List (List Bits256 × BlockUpdate)) : Mem :=
  xs.foldl (fun (m : Mem) x => m.install x.1 x.2) m

theorem Mem.isSealed_installAll {m : Mem} {xs : List (List Bits256 × BlockUpdate)} {pa : Nat}
    (h : m.isSealed pa = true ∨ ∃ x ∈ xs, ∃ p ∈ x.2.pages, p * 65536 / 2 ^ 21 = pa / 2 ^ 21) :
    (m.installAll xs).isSealed pa = true := by
  induction xs generalizing m with
  | nil =>
    rcases h with already | ⟨x, hx, -⟩
    · exact already
    · cases hx
  | cons x xs ih =>
    refine ih ?_
    rw [Mem.isSealed_install]
    simpa [or_assoc] using h

/-- Every page of an update is sealed, where there is a code for each block. -/
theorem Mem.isSealed_page {us : List BlockUpdate} {codes : List (List Bits256)} (m : Mem)
    (each : codes.length = us.length) {u : BlockUpdate} {p : Nat} (hu : u ∈ us) (hp : p ∈ u.pages) :
    (m.installAll (codes.zip us)).isSealed (p * 65536) = true := by
  rw [← List.map_snd_zip (Nat.le_of_eq each.symm)] at hu
  obtain ⟨x, hx, rfl⟩ := List.mem_map.mp hu
  exact Mem.isSealed_installAll (.inr ⟨x, hx, p, hp, rfl⟩)

/-! ### Page images -/

theorem find_putImages_other {images : Map (List Bits256)} {code : List Bits256} {ps : List (Nat × Nat)} {p : Nat}
    (h : p ∉ ps.map (·.1)) : Map.find? (putImages images code ps) p = Map.find? images p := by
  induction ps generalizing images with
  | nil => rfl
  | cons x ps ih =>
    simp only [List.map_cons, List.mem_cons, not_or] at h
    exact (ih h.2).trans (Map.find_put_other _ _ h.1)

theorem find_putImages {images : Map (List Bits256)} {code : List Bits256} {ps : List (Nat × Nat)} {p i : Nat}
    (distinct : (ps.map (·.1)).Nodup) (h : (p, i) ∈ ps) : Map.find? (putImages images code ps) p =
      some (spanBundles (code.drop (i * pageBundles)) pageBundles) := by
  induction ps generalizing images with
  | nil => cases h
  | cons x ps ih =>
    rw [List.map_cons, List.nodup_cons] at distinct
    obtain ⟨fresh, distinct⟩ := distinct
    rcases List.mem_cons.mp h with rfl | later
    · exact (find_putImages_other fresh).trans (Map.find_put_same _ _ _)
    · exact ih distinct later

/-- R97: the pages of a block hold its bundles in order. -/
theorem Mem.images_install {m : Mem} {code : List Bits256} {u : BlockUpdate} {i p : Nat} (distinct : u.pages.Nodup)
    (h : u.pages[i]? = some p) : Map.find? (m.install code u).images p =
      some (spanBundles (code.drop (i * 2048)) 2048) := by
  rw [Mem.install_eq]
  exact find_putImages (by rwa [List.zipIdx_map_fst]) (List.mk_mem_zipIdx_iff_getElem?.mpr h)

theorem Mem.bytes_install (m : Mem) (code : List Bits256) (u : BlockUpdate) :
    (m.install code u).bytes = (m.writeTable u.table).bytes := by
  rw [Mem.install_eq]; rfl

/-! ### PARTIAL_WEIGHT_UPDATE -/

/-- The pages of an accepted update are distinct. -/
theorem Mem.nodup_of_updates {m new : Mem} {asid : BitVec 12} {gen : Word} {us : List BlockUpdate}
    (h : m.updates new asid gen us = true) : (us.flatMap (·.pages)).Nodup := by
  simp only [Mem.updates, Bool.and_eq_true, beq_iff_eq] at h
  obtain ⟨⟨distinct, -⟩, -⟩ := h
  exact List.dedup_eq_self.mp distinct

/-- R98: the pages of an update belong to its generation. -/
theorem Pkg.mem_gens_recordGen {p : Pkg} (m : Mem) (asid : BitVec 12) (gen : Word) {us : List BlockUpdate}
    {u : BlockUpdate} {page : Nat} (hu : u ∈ us) (hp : page ∈ u.pages) :
    page ∈ Map.getD (p.recordGen m asid gen us).gens (asid.toNat * 4096 + gen.toNat / 2 ^ 52 % 4096) [] := by
  rw [show gen.toNat / 2 ^ 52 % 4096 = bitsAt gen.toNat 52 12 from (bitsAt_eq gen.toNat 52 12).symm, Pkg.recordGen,
    Map.getD_put_same]
  exact List.mem_append_right _ (List.mem_flatMap.mpr ⟨u, hu, hp⟩)

/-- The package after the requests of every block have been answered. -/
def Pkg.answered (p : Pkg) (us : List BlockUpdate) : Pkg :=
  { (p.requests us).2.2 with owcOut := (p.requests us).2.2.owcOut ++ (p.requests us).2.1 }
/-- The blocks of an update that hold a changed weight. -/
def changedBlocks (blocks : List BlockUpdate) : List BlockUpdate := blocks.filter fun u => !u.changes.isEmpty

section
variable {s : State} {us blocks : List BlockUpdate} {codes : List (List Bits256)} {asid : BitVec 12} {gen : Word}

/-- An update with a block that is refused installs nothing. -/
theorem exec_partialWeightUpdate_refused (h : (s.pkg.requests (changedBlocks blocks)).1 = none) :
    exec (.partialWeightUpdate asid ⟨gen, blocks⟩) s = .next { s with pkg := s.pkg.answered (changedBlocks blocks) } := by
  show execPartialWeightUpdate asid ⟨gen, blocks⟩ s = _
  unfold changedBlocks at h
  simp only [execPartialWeightUpdate, h]
  rfl

/-- R97, R98: an update whose blocks are all answered is installed where it maps them as it has to. -/
theorem exec_partialWeightUpdate_answered (h : (s.pkg.requests (changedBlocks blocks)).1 = some codes) :
    exec (.partialWeightUpdate asid ⟨gen, blocks⟩) s =
      let us := changedBlocks blocks
      let m := s.mem.installAll (codes.zip us)
      .next (if s.mem.updates m asid gen us
        then { s with pkg := (s.pkg.answered us).recordGen s.mem asid gen us, mem := m }
        else { s with pkg := s.pkg.answered us }) := by
  show execPartialWeightUpdate asid ⟨gen, blocks⟩ s = _
  unfold changedBlocks at h
  simp only [execPartialWeightUpdate, h]
  rfl

theorem partialWeightUpdate_refused (h : (s.pkg.requests (changedBlocks blocks)).1 = none) :
    leads (.partialWeightUpdate asid ⟨gen, blocks⟩) s fun t => t.mem = s.mem :=
  ⟨_, exec_partialWeightUpdate_refused h, rfl⟩

/-- An update that does not map its blocks as R97 and R98 say leaves memory. -/
theorem partialWeightUpdate_unmapped (h : (s.pkg.requests (changedBlocks blocks)).1 = some codes)
    (refused : s.mem.updates (s.mem.installAll (codes.zip (changedBlocks blocks))) asid gen (changedBlocks blocks) = false) :
    leads (.partialWeightUpdate asid ⟨gen, blocks⟩) s fun t => t.mem = s.mem := by
  refine ⟨_, exec_partialWeightUpdate_answered h, ?_⟩
  rw [if_neg (by simp [refused])]

/-- An update that is taken installs every block, and its pages are recorded as a generation's. -/
theorem partialWeightUpdate_taken (changed : changedBlocks blocks = us) (h : (s.pkg.requests us).1 = some codes)
    (taken : s.mem.updates (s.mem.installAll (codes.zip us)) asid gen us = true) :
    leads (.partialWeightUpdate asid ⟨gen, blocks⟩) s fun t =>
      t.mem = s.mem.installAll (codes.zip us) ∧ t.pkg = (s.pkg.answered us).recordGen s.mem asid gen us := by
  subst changed
  refine ⟨_, exec_partialWeightUpdate_answered h, ?_⟩
  rw [if_pos taken]
  exact ⟨rfl, rfl⟩

end

end Sys2Proof.Machine
end

section
/-! Code objects: what a loader takes (R349). -/

namespace Sys2Proof.Machine

theorem objectOf_bytes {data : List Byte} {o : CodeObject} (h : objectOf data = some o) : o.bytes = data := by
  rw [objectOf] at h
  split at h
  · cases h
  · obtain ⟨xs, -, rfl⟩ := Option.map_eq_some_iff.mp h
    rfl

/-- R349: two sections of an object may stand where they do: one for the loader only stands before every other, and the
others stand by rank. -/
def Sect.precedes (a b : Sect) : Prop :=
  (a.kind.loaderOnly = true → b.kind.loaderOnly = false → a.fin ≤ b.off)
    ∧ (a.kind.loaderOnly = false → b.kind.loaderOnly = false → a.rank < b.rank → a.fin ≤ b.off)

/-- A section is never before itself, so the model's exception for it changes nothing. -/
theorem Sect.precedes_iff (a b : Sect) : a.precedes b ↔
    (a == b || (if a.kind.loaderOnly then b.kind.loaderOnly || decide (a.fin ≤ b.off)
      else b.kind.loaderOnly || decide (b.rank ≤ a.rank) || decide (a.fin ≤ b.off))) = true := by
  by_cases same : a = b
  · subst same
    cases kind : a.kind.loaderOnly <;> simp [Sect.precedes, kind]
  · cases ha : a.kind.loaderOnly <;> cases hb : b.kind.loaderOnly <;>
      simp [Sect.precedes, same, ha, hb, imp_iff_not_or]

theorem CodeObject.ordered_iff (o : CodeObject) : o.ordered = true ↔
    (64 ≤ o.table ∧ o.table + 32 * o.sects.length ≤ o.list)
      ∧ (∀ a ∈ o.sects, o.firstAt ≤ a.off ∧ a.fin ≤ o.bytes.length) ∧ ∀ a ∈ o.sects, ∀ b ∈ o.sects, a.precedes b := by
  simp only [Sect.precedes_iff, CodeObject.ordered, Bool.and_eq_true, List.all_eq_true, decide_eq_true_eq, and_assoc]

theorem CodeObject.accepted_iff (o : CodeObject) : o.accepted = true ↔
    64 ≤ o.table ∧ o.table + 32 * o.sects.length ≤ o.list
      ∧ Config.verifies (digest o.signed) (slice o.bytes o.sigAt signatureLen) = true
      ∧ ∀ a ∈ o.sects, o.firstAt ≤ a.off ∧ a.fin ≤ o.bytes.length
        ∧ (∃ e, o.expanded a = some e ∧ e.length ≤ a.bound) ∧ ∀ b ∈ o.sects, a.precedes b := by
  simp only [CodeObject.accepted, Bool.and_eq_true, List.all_eq_true, CodeObject.ordered_iff]
  constructor
  · rintro ⟨⟨⟨⟨table, list⟩, place, order⟩, signed⟩, bound⟩
    refine ⟨table, list, signed, fun a ha => ?_⟩
    obtain ⟨first, last⟩ := place a ha
    refine ⟨first, last, ?_, order a ha⟩
    have within := bound a ha
    split at within
    · next e expanded => exact ⟨e, expanded, of_decide_eq_true within⟩
    · cases within
  · rintro ⟨table, list, signed, each⟩
    refine ⟨⟨⟨⟨table, list⟩, fun a ha => ?_, fun a ha => ?_⟩, signed⟩, fun a ha => ?_⟩ <;>
      obtain ⟨first, last, ⟨e, expanded, bound⟩, order⟩ := each a ha
    · exact ⟨first, last⟩
    · exact order
    · simp [expanded, bound]

/-- A loader takes an object whole, or refuses it. -/
theorem loadObject_of_objectOf {data : List Byte} {o : CodeObject} (h : objectOf data = some o) :
    loadObject data = if o.accepted then some o else none := by
  rw [loadObject, h, Option.filter_some]

end Sys2Proof.Machine
end

section
open Sys2Proof Sys2Proof.Machine

/-- Settles O45: each step changes what its rule names; what the cache takes it gives back, pages are installed in the
order of their block, and an object is loaded where its order, its signature and its bounds hold. -/
theorem hostAndWeights : Obligations.host_and_weights := by
  intro q k addr n i v tl ws r data record asid gen blocks u b codes code object s
    x ring y pa within ask us installed
  refine ⟨?tail, hostEntryTake_leads, jobCompletion_leads,
    fun inside nonempty line =>
      ⟨cxlMemAccess_leads true data inside nonempty line, cxlMemAccess_leads false data inside nonempty line⟩,
    cxlMemAccess_outside true data, ?request, updateRequest_int8, partialWeightUpdate_refused,
    partialWeightUpdate_unmapped, fun answered taken => ?pages, fun single answered taken => ?images,
    fun laid_out => ?object⟩
  case tail =>
    have doorbell := hqtail_leads s q tl ws
    rwa [HostQ.writeTail_eq] at doorbell
  case request =>
    obtain ⟨t, step, mem, cores, out, loaded⟩ := blockRequest_leads s record
    obtain ⟨-, cached, answer⟩ := s.pkg.request_spec record
    exact ⟨t, step, mem, cores, _, out, loaded ▸ cached, answer⟩
  case pages =>
    obtain ⟨t, step, mem, pkg⟩ := partialWeightUpdate_taken rfl answered taken
    refine ⟨t, step, fun u hu page hp => ⟨?_, ?_⟩⟩
    · rw [mem]
      exact s.mem.isSealed_page (Pkg.length_of_requests answered) hu hp
    · rw [pkg]
      exact Pkg.mem_gens_recordGen s.mem asid gen hu hp
  case images =>
    have mapped : s.mem.updates (s.mem.installAll ([code].zip [u])) asid gen [u] = true := by
      rw [← single] at taken ⊢
      exact taken
    obtain ⟨t, step, mem, -⟩ := partialWeightUpdate_taken single answered mapped
    have one_block : t.mem = s.mem.install code u := mem
    have distinct : u.pages.Nodup := by simpa using Mem.nodup_of_updates taken
    refine ⟨t, step, fun i p placed => ?_, ?_⟩
    · rw [one_block]
      exact Mem.images_install distinct placed
    · rw [one_block]
      exact s.mem.bytes_install code u
  case object =>
    have loads := loadObject_of_objectOf laid_out
    obtain rfl := objectOf_bytes laid_out
    constructor
    · have loaded_iff : loadObject object.bytes = some object ↔ object.accepted = true := by rw [loads]; simp
      exact loaded_iff.trans object.accepted_iff
    · rw [loads]
      simp

end

section
/-! The S slot's integer and predicate operations (R103 to R106, R111, R112): what their words are as numbers. -/

namespace Sys2Proof.Machine

/-! ### Operations whose only effect is a result in flight -/

section
variable {i : Instr} {g : Guard} {d : GReg} {a b c : GSrc} {l : Nat} {s : State} {y : Word}

theorem delivers_of_aluOp {srcs : List Src} {f : State → Word} (e : opOf i = some (aluOp g d srcs l f))
    (value : s.iss.ov = none → f s = y) : delivers i s l (.g d y false) :=
  delivers_of e rfl fun ho => by rw [← value ho]; rfl

theorem delivers_of_alu1 {f : Word → Word} (e : opOf i = some (alu1 g d a f)) (value : f (s.gReg a) = y) :
    delivers i s 1 (.g d y false) :=
  delivers_of_aluOp e fun ho => by rw [State.opA_reg ho, value]

theorem delivers_of_alu2 {f : Word → Word → Word} (e : opOf i = some (alu2 g d a b l f))
    (value : f (s.gReg a) (s.gReg b) = y) : delivers i s l (.g d y false) :=
  delivers_of_aluOp e fun ho => by rw [State.opA_reg ho, State.opB_reg ho, value]

theorem delivers_of_alu3 {f : Word → Word → Word → Word} (e : opOf i = some (alu3 g d a b c f))
    (value : f (s.gReg a) (s.gReg b) (s.gReg c) = y) : delivers i s 1 (.g d y false) :=
  delivers_of_aluOp e fun ho => by rw [State.opA_reg ho, State.opB_reg ho, State.opC_reg ho, value]

theorem delivers_of_predOp {pd : PReg} {srcs : List Src} {f : State → Bool} {x : Bool}
    (e : opOf i = some (predOp g pd srcs f)) (value : s.iss.ov = none → f s = x) : delivers i s 1 (.p pd x) :=
  delivers_of e rfl fun ho => by rw [← value ho]; rfl

end

/-! ### Sums, extrema and addresses (R103) -/

theorem sub_eq_ofInt (x y : Word) : x - y = BitVec.ofInt 64 ((x.toNat : Int) - y.toNat) := by
  have hx := x.isLt
  have hy := y.isLt
  apply BitVec.eq_of_toNat_eq
  simp only [BitVec.toNat_sub, BitVec.toNat_ofInt]
  omega

theorem min_signed (x y : Word) : (if y.slt x then y else x) = if x.toInt ≤ y.toInt then x else y := by
  simp only [BitVec.slt_iff_toInt_lt, ← not_le, ite_not]
theorem max_signed (x y : Word) : (if x.slt y then y else x) = if y.toInt ≤ x.toInt then x else y := by
  simp only [BitVec.slt_iff_toInt_lt, ← not_le, ite_not]
theorem min_unsigned (x y : Word) : (if y.ult x then y else x) = if x.toNat ≤ y.toNat then x else y := by
  simp only [BitVec.ult, decide_eq_true_eq, ← not_le, ite_not]
theorem max_unsigned (x y : Word) : (if x.ult y then y else x) = if y.toNat ≤ x.toNat then x else y := by
  simp only [BitVec.ult, decide_eq_true_eq, ← not_le, ite_not]

/-- R103: ABS is the magnitude as an unsigned number, so that the least value maps to itself. -/
theorem abs64_eq (x : Word) : abs64 x = BitVec.ofNat 64 x.toInt.natAbs := by
  have hx : x.toInt = if 2 * x.toNat < 2 ^ 64 then (x.toNat : Int) else (x.toNat : Int) - 2 ^ 64 := by
    simpa using BitVec.toInt_eq_toNat_cond x
  have lt := x.isLt
  have sign : x.slt 0 = decide (x.toInt < 0) := by simp [BitVec.slt_eq_decide]
  apply BitVec.eq_of_toNat_eq
  rw [abs64, sign]
  split at hx
  · rw [if_neg (by simp; omega), BitVec.toNat_ofNat]; omega
  · rw [if_pos (by simp; omega), BitVec.toNat_ofNat, BitVec.toNat_sub]; simp; omega

/-! ### Shifts and rotations (R103, R105) -/

theorem count6_eq (x : Word) : count6 x = x.toNat % 64 := by simp [count6, bitsAt]

theorem shl64_eq (x : Word) (n : Nat) : shl64 x n = BitVec.ofNat 64 (x.toNat * 2 ^ n) := by
  apply BitVec.eq_of_toNat_eq
  simp [shl64, Nat.shiftLeft_eq]
theorem shr64_eq (x : Word) (n : Nat) : shr64 x n = BitVec.ofNat 64 (x.toNat / 2 ^ n) := by
  apply BitVec.eq_of_toNat_eq
  rw [shr64, BitVec.toNat_ushiftRight, Nat.shiftRight_eq_div_pow, BitVec.toNat_ofNat,
    Nat.mod_eq_of_lt (Nat.lt_of_le_of_lt (Nat.div_le_self ..) x.isLt)]
theorem sar64_eq (x : Word) (n : Nat) : sar64 x n = BitVec.ofInt 64 (x.toInt / 2 ^ n) := by
  have floor : x.toInt / 2 ^ n = x.toInt >>> n := by rw [Int.shiftRight_eq_div_pow]; norm_cast
  rw [floor]; rfl

theorem lea_eq (x y : Word) (n : Nat) : x + shl64 y n = BitVec.ofNat 64 (x.toNat + y.toNat * 2 ^ n) := by
  rw [shl64_eq, BitVec.ofNat_add, BitVec.ofNat_toNat, BitVec.setWidth_eq]

theorem rot64_getLsbD (x : Word) {n i : Nat} (hn : n < 64) (hi : i < 64) :
    (rot64 x n).getLsbD ((i + n) % 64) = x.getLsbD i := by
  rw [rot64, BitVec.getLsbD_rotateLeft, Nat.mod_eq_of_lt hn, cond_eq_ite]
  by_cases wraps : 64 ≤ i + n
  · have wrapped : (i + n) % 64 = i + n - 64 := by omega
    rw [wrapped, if_pos (by simp; omega)]
    congr 1; omega
  · rw [Nat.mod_eq_of_lt (by omega), if_neg (by simp), Nat.add_sub_cancel]
    simp; omega

/-! ### Products and quotients (R104) -/

theorem mulh64_eq (x y : Word) : mulh64 x y = (BitVec.ofInt 128 (x.toInt * y.toInt)).extractLsb' 64 64 := by
  apply BitVec.eq_of_toNat_eq
  simp only [mulh64, BitVec.toNat_ofInt, BitVec.extractLsb'_toNat, Nat.shiftRight_eq_div_pow]
  omega
theorem mulhu64_eq (x y : Word) : mulhu64 x y = (BitVec.ofNat 128 (x.toNat * y.toNat)).extractLsb' 64 64 := by
  apply BitVec.eq_of_toNat_eq
  simp only [mulhu64, BitVec.toNat_ofNat, BitVec.extractLsb'_toNat, Nat.shiftRight_eq_div_pow]
  omega

theorem ofInt_bmod (x : Int) : BitVec.ofInt 64 (x.bmod (2 ^ 64)) = BitVec.ofInt 64 x := by
  rw [← BitVec.toInt_ofInt, BitVec.ofInt_toInt]
/-- Table NUM-1: the least value over −1 wraps as `BitVec.ofInt` does. -/
theorem div64_eq (x y : Word) :
    div64 x y = if y = 0 then BitVec.ofInt 64 (-1) else BitVec.ofInt 64 (x.toInt.tdiv y.toInt) := by
  rw [div64, ← BitVec.ofInt_toInt (x := x.sdiv y), BitVec.toInt_sdiv, ofInt_bmod]; rfl
theorem divu64_eq (x y : Word) :
    divu64 x y = if y = 0 then BitVec.ofInt 64 (-1) else BitVec.ofNat 64 (x.toNat / y.toNat) := by
  rw [divu64, BitVec.udiv_def]; rfl
theorem rem64_eq (x y : Word) : rem64 x y = if y = 0 then x else BitVec.ofInt 64 (x.toInt.tmod y.toInt) := by
  rw [rem64, ← BitVec.toInt_srem, BitVec.ofInt_toInt]
theorem remu64_eq (x y : Word) : remu64 x y = if y = 0 then x else BitVec.ofNat 64 (x.toNat % y.toNat) := by
  rw [remu64, BitVec.umod_def]

/-! ### Immediate forms (R105, R106) -/

theorem addi_eq (x : Word) (n : BitVec 24) : x + n.signExtend 64 = BitVec.ofInt 64 (x.toInt + n.toInt) := by
  rw [BitVec.ofInt_add, BitVec.ofInt_toInt]; rfl
theorem movhi_eq (x : Word) (n : BitVec 32) :
    n ++ x.extractLsb' 0 32 = BitVec.ofNat 64 (n.toNat * 2 ^ 32 + x.toNat % 2 ^ 32) := by
  have := n.isLt
  apply BitVec.eq_of_toNat_eq
  simp only [BitVec.toNat_append, BitVec.extractLsb'_toNat, BitVec.toNat_ofNat]
  rw [← Nat.shiftLeft_add_eq_or_of_lt (by omega)]
  simp [Nat.shiftLeft_eq]; omega

/-! ### Compares and VTST (R111, R171) -/

theorem Cond.holds_eq_toInt (x y : Word) : Cond.holds .eq x y = decide (x.toInt = y.toInt) := by
  rw [Cond.holds, ← decide_eq_decide.mpr BitVec.toInt_inj.symm]; rfl
theorem Cond.holds_ne_toInt (x y : Word) : Cond.holds .ne x y = decide (x.toInt ≠ y.toInt) := by
  rw [decide_not, ← Cond.holds_eq_toInt]; rfl
theorem ne_zero_eq_any (x : Mask) : (x != 0) = (List.range 512).any x.getLsbD := by
  rw [Bool.eq_iff_iff, bne_iff_ne, List.any_eq_true, ne_eq, BitVec.eq_of_getLsbD_eq_iff]
  simp [List.mem_range]

end Sys2Proof.Machine
end

section
open Sys2Proof Sys2Proof.Machine

/-- Settles O1: each operation's word is the number that the rule gives. -/
theorem registerForms : Obligations.register_forms := by
  intro g d a b p sh s A B
  refine ⟨delivers_of_alu2 rfl (BitVec.add_def ..), delivers_of_alu2 rfl (sub_eq_ofInt ..), delivers_of_alu2 rfl rfl,
    delivers_of_alu2 rfl rfl, delivers_of_alu2 rfl rfl, delivers_of_alu2 rfl rfl, delivers_of_alu2 rfl (min_signed ..),
    delivers_of_alu2 rfl (max_signed ..), delivers_of_alu2 rfl (min_unsigned ..), delivers_of_alu2 rfl (max_unsigned ..),
    delivers_of_alu1 rfl (abs64_eq ..), delivers_of_aluOp rfl fun ho => ?_, delivers_of_alu1 rfl rfl,
    delivers_of_alu2 rfl (lea_eq ..)⟩
  rw [State.opA_reg ho, State.opB_reg ho, State.opP]

/-- Settles O2: a register's count is its value modulo 64, and the shifts multiply, divide and rotate. -/
theorem shifts : Obligations.shifts := by
  intro g d a b k s A n shl shr sar rot
  have six : n < 64 := Nat.mod_lt _ (by decide)
  have count {f : Word → Nat → Word} {v : Word} (h : f A n = v) : f A (count6 (s.gReg b)) = v := by rw [count6_eq, h]
  exact ⟨delivers_of_alu2 rfl (count (shl64_eq ..)), delivers_of_alu2 rfl (count (shr64_eq ..)),
    delivers_of_alu2 rfl (count (sar64_eq ..)),
    ⟨rot64 A n, fun _ hi => rot64_getLsbD A six hi, delivers_of_alu2 rfl (count rfl)⟩,
    delivers_of_alu1 rfl (shl64_eq ..), delivers_of_alu1 rfl (shr64_eq ..), delivers_of_alu1 rfl (sar64_eq ..),
    ⟨rot64 A k.toNat, fun _ hi => rot64_getLsbD A k.isLt hi, delivers_of_alu1 rfl rfl⟩⟩

/-- Settles O3: the products' halves and Table NUM-1's quotients and remainders. -/
theorem productsAndQuotients : Obligations.products_and_quotients := by
  intro g d a b s A B
  exact ⟨delivers_of_alu2 rfl (BitVec.mul_def ..), delivers_of_alu2 rfl (mulh64_eq ..),
    delivers_of_alu2 rfl (mulhu64_eq ..), delivers_of_alu2 rfl (div64_eq ..), delivers_of_alu2 rfl (divu64_eq ..),
    delivers_of_alu2 rfl (rem64_eq ..), delivers_of_alu2 rfl (remu64_eq ..)⟩

/-- Settles O4: sign extension adds the immediate as an integer, and MOVHI joins it to the low half. -/
theorem immediateForms : Obligations.immediate_forms := by
  intro g d a i24 i32 s
  exact ⟨delivers_of_alu1 rfl (addi_eq ..), delivers_of_aluOp rfl fun _ => rfl, delivers_of_alu1 rfl (movhi_eq ..)⟩

/-- Settles O6: each condition compares the operands as integers, or as unsigned numbers. -/
theorem comparesAndPredicates : Obligations.compares_and_predicates := by
  intro g pd pa pb a b m s A B P
  have cmp {c : Cond} {x : Bool} (h : Cond.holds c A B = x) : delivers (.cmp g pd c a b) s 1 (.p pd x) :=
    delivers_of_predOp rfl fun ho => by rw [State.opA_reg ho, State.opB_reg ho, h]
  exact ⟨cmp (Cond.holds_eq_toInt A B), cmp (Cond.holds_ne_toInt A B), cmp rfl, cmp rfl, cmp rfl, cmp rfl, cmp rfl,
    cmp rfl, cmp rfl, cmp rfl, delivers_of_predOp rfl fun _ => rfl, delivers_of_predOp rfl fun _ => rfl,
    delivers_of_predOp rfl fun _ => (Bool.bne_eq_xor ..).symm ▸ rfl, delivers_of_predOp rfl fun _ => rfl,
    delivers_of_predOp rfl fun _ => rfl, delivers_of rfl rfl fun _ => by rw [← ne_zero_eq_any]; rfl⟩

end

section
/-! Bit fields, funnel shifts and bit counts (R107 to R110), bit by bit. -/

namespace Sys2Proof

/-! ### The immediate fields of an SR word -/

theorem SR.q_word (g : Guard) (op : BitVec 7) (x : SR) : (SR.word g op x).extractLsb' 0 12 = x.q :=
  congrArg SR.q (SR.of_word g op x)
theorem SR.len_word (g : Guard) (op : BitVec 7) (x : SR) :
    (SR.word g op x).extractLsb' 0 6 = x.q.extractLsb' 0 6 := by
  rw [← SR.q_word g op x, BitVec.extractLsb'_extractLsb'_of_le (by decide)]
theorem SR.pos_word (g : Guard) (op : BitVec 7) (x : SR) :
    (SR.word g op x).extractLsb' 6 6 = x.q.extractLsb' 6 6 := by
  rw [← SR.q_word g op x, BitVec.extractLsb'_extractLsb'_of_le (by decide)]

end Sys2Proof

namespace Sys2Proof.Machine

/-! ### Fields (R107, R108) -/

theorem ones_getLsbD {n i : Nat} (hn : n ≤ 64) : (ones n).getLsbD i = decide (i < n) := by
  rw [ones, BitVec.getLsbD_ofNat, Nat.testBit_two_pow_sub_one]
  simp; omega

theorem field64_getLsbD (x : Word) (pos : Nat) {n i : Nat} (hn : n ≤ 64) :
    (field64 x pos n).getLsbD i = (decide (i < n) && decide (pos + i ≤ 63) && x.getLsbD (pos + i)) := by
  rw [field64, BitVec.getLsbD_and, ones_getLsbD hn, BitVec.getLsbD_ushiftRight]
  by_cases inside : pos + i ≤ 63
  · simp [inside, Bool.and_comm]
  · simp [inside, BitVec.getLsbD_of_ge x (pos + i) (by omega)]

theorem fieldS64_getLsbD (x : Word) (pos : Nat) {n i : Nat} (hn : n ≤ 64) (nonempty : 0 < n) (hi : i < 64) :
    (fieldS64 x pos n).getLsbD i = (field64 x pos n).getLsbD (min i (n - 1)) := by
  rw [fieldS64]
  by_cases inside : i < n
  · rw [Nat.min_eq_left (by omega)]
    split <;> simp [ones_getLsbD hn, inside]
  · have above : (field64 x pos n).getLsbD i = false := by rw [field64_getLsbD x pos hn]; simp [inside]
    rw [Nat.min_eq_right (by omega)]
    split
    next sign =>
      rw [BitVec.getLsbD_or, above, BitVec.getLsbD_not, ones_getLsbD hn, sign]
      simp [inside, hi]
    next sign => rw [above, eq_false_of_ne_true sign]

theorem insert64_getLsbD (x y : Word) (pos : Nat) {n j : Nat} (hn : n ≤ 64) (hj : j < 64) :
    (insert64 x y pos n).getLsbD j = if pos ≤ j ∧ j < pos + n then y.getLsbD (j - pos) else x.getLsbD j := by
  have mask : (ones n <<< pos).getLsbD j = decide (pos ≤ j ∧ j < pos + n) := by
    rw [BitVec.getLsbD_shiftLeft, ones_getLsbD hn, Bool.eq_iff_iff]
    simp; omega
  rw [insert64, BitVec.getLsbD_or, BitVec.getLsbD_and, BitVec.getLsbD_and, BitVec.getLsbD_not, mask,
    BitVec.getLsbD_shiftLeft]
  split
  next inside => simp [inside, hj]
  next outside => rw [decide_eq_false outside]; simp [hj]

/-! ### Funnel shifts (R109) -/

theorem append_toNat (x y : Word) : (x ++ y).toNat = x.toNat * 2 ^ 64 + y.toNat := by
  rw [BitVec.toNat_append, ← Nat.shiftLeft_add_eq_or_of_lt y.isLt, Nat.shiftLeft_eq]
theorem fshl64_eq (x y z : Word) :
    fshl64 x y z = BitVec.ofNat 64 ((x.toNat * 2 ^ 64 + y.toNat) * 2 ^ min z.toNat 64 / 2 ^ 64) := by
  apply BitVec.eq_of_toNat_eq
  simp only [fshl64, count64, BitVec.extractLsb'_toNat, BitVec.toNat_shiftLeft, append_toNat, Nat.shiftLeft_eq,
    Nat.shiftRight_eq_div_pow, BitVec.toNat_ofNat]
  omega
theorem fshr64_eq (x y z : Word) :
    fshr64 x y z = BitVec.ofNat 64 ((x.toNat * 2 ^ 64 + y.toNat) / 2 ^ min z.toNat 64) := by
  apply BitVec.eq_of_toNat_eq
  simp [fshr64, count64, append_toNat, Nat.shiftRight_eq_div_pow]

/-! ### Counts (R110) -/

theorem clz64_spec (x : Word) : if x = 0 then clzNat 64 x.toNat = 64
    else clzNat 64 x.toNat < 64 ∧ x.getLsbD (63 - clzNat 64 x.toNat) = true
      ∧ ∀ j, 63 - clzNat 64 x.toNat < j → x.getLsbD j = false := by
  split
  next zero => subst zero; rfl
  next nonzero =>
    have nz : x.toNat ≠ 0 := fun h => nonzero (BitVec.eq_of_toNat_eq h)
    have top : Nat.log2 x.toNat < 64 := (Nat.log2_lt nz).mpr x.isLt
    have count : clzNat 64 x.toNat = 63 - Nat.log2 x.toNat := by rw [clzNat, if_neg nz]
    have highest : 63 - clzNat 64 x.toNat = Nat.log2 x.toNat := by omega
    rw [highest]
    refine ⟨by omega, Nat.testBit_log2 nz, fun j hj => ?_⟩
    exact Nat.testBit_lt_two_pow (Nat.lt_log2_self.trans_le (Nat.pow_le_pow_right (by decide) hj))

theorem ctzNat_spec (w x : Nat) : (∀ j < ctzNat w x, x.testBit j = false) ∧ ctzNat w x ≤ w
    ∧ (ctzNat w x < w → x.testBit (ctzNat w x) = true) := by
  induction w generalizing x with
  | zero => simp [ctzNat]
  | succ k ih =>
    rw [ctzNat]
    split
    next odd => simp [Nat.testBit_zero, odd]
    next even =>
      obtain ⟨below, le, lowest⟩ := ih (x / 2)
      refine ⟨fun j hj => ?_, by omega, fun h => ?_⟩
      · cases j with
        | zero => simp [Nat.testBit_zero]; omega
        | succ j => rw [Nat.testBit_succ]; exact below j (by omega)
      · rw [Nat.add_comm, Nat.testBit_succ]; exact lowest (by omega)

theorem ctz64_spec (x : Word) : if x = 0 then ctzNat 64 x.toNat = 64
    else ctzNat 64 x.toNat < 64 ∧ x.getLsbD (ctzNat 64 x.toNat) = true
      ∧ ∀ j < ctzNat 64 x.toNat, x.getLsbD j = false := by
  obtain ⟨below, le, lowest⟩ := ctzNat_spec 64 x.toNat
  split
  next zero => subst zero; rfl
  next nonzero =>
    have lt : ctzNat 64 x.toNat < 64 := by
      refine lt_of_le_of_ne le fun all => nonzero (BitVec.eq_of_getLsbD_eq fun j hj => ?_)
      exact (below j (by omega)).trans BitVec.getLsbD_zero.symm
    exact ⟨lt, lowest lt, below⟩

theorem popcNat_eq (w x : Nat) : popcNat w x = (List.range w).countP x.testBit := by
  induction w generalizing x with
  | zero => rfl
  | succ k ih =>
    have shift : x.testBit ∘ Nat.succ = (x / 2).testBit := funext fun j => Nat.testBit_succ ..
    rw [popcNat, ih, List.range_succ_eq_map, List.countP_cons, List.countP_map, shift, Nat.testBit_zero]
    rcases Nat.mod_two_eq_zero_or_one x with even | odd
    · simp [even]
    · simp [odd, Nat.add_comm]

theorem brevNat_testBit (w x acc j : Nat) : (brevNat w x acc).testBit j =
    if j < w then x.testBit (w - 1 - j) else acc.testBit (j - w) := by
  induction w generalizing x acc with
  | zero => simp [brevNat]
  | succ k ih =>
    rw [brevNat, ih]
    rcases Nat.lt_trichotomy j k with lt | rfl | gt
    · rw [if_pos lt, if_pos (by omega), ← Nat.testBit_succ]; congr 1; omega
    · simp [Nat.testBit_zero]
    · have next_bit : j - k = j - (k + 1) + 1 := by omega
      rw [if_neg (by omega), if_neg (by omega), next_bit, Nat.testBit_succ]; congr 1; omega

theorem brev64_getLsbD (x : Word) (i : Nat) (hi : i < 64) :
    (BitVec.ofNat 64 (brevNat 64 x.toNat 0)).getLsbD (63 - i) = x.getLsbD i := by
  have mirrored : 64 - 1 - (63 - i) = i := by omega
  rw [BitVec.getLsbD_ofNat, brevNat_testBit, if_pos (by omega), mirrored, decide_eq_true (show 63 - i < 64 by omega),
    Bool.true_and, BitVec.testBit_toNat]

end Sys2Proof.Machine
end

section
open Sys2Proof Sys2Proof.Machine

/-- Settles O5: the bits of each field, insertion and count, and the fields of the words that encode them. -/
theorem bitFieldsAndCounts : Obligations.bit_fields_and_counts := by
  refine ⟨fun g d a b c pos len s => ?_, fun g d a s => ?_⟩
  · intro A B C n field zeroExt signExt insert m
    have hn : n ≤ 64 := len.isLt
    have field_zero (k : Nat) : zeroExt k (field64 A k n) := fun i _ => field64_getLsbD A k hn
    have field_sign (k : Nat) : signExt k (fieldS64 A k n) := fun i hi => by
      rw [fieldS64_getLsbD A k hn (Nat.succ_pos _) hi, field64_getLsbD A k hn]
    have inserted (k : Nat) : insert k (insert64 A B k n) := fun j hj => insert64_getLsbD A B k hn hj
    refine ⟨⟨_, field_sign _, delivers_of_alu1 rfl rfl⟩, ⟨_, field_zero _, delivers_of_alu1 rfl rfl⟩,
      ⟨_, inserted _, delivers_of_alu2 rfl rfl⟩, ⟨_, field_sign _, delivers_of_alu2 rfl rfl⟩,
      ⟨_, field_zero _, delivers_of_alu2 rfl rfl⟩, ⟨_, inserted _, delivers_of_alu3 rfl rfl⟩,
      delivers_of_alu3 rfl (fshl64_eq ..), delivers_of_alu3 rfl (fshr64_eq ..), ?_⟩
    refine ⟨?_, ?_, ?_, ?_⟩ <;> rintro w ⟨⟩
    · exact ⟨SR.op_word .., (SR.pos_word ..).trans (fieldQ_pos ..), (SR.len_word ..).trans (fieldQ_len ..)⟩
    · exact ⟨SR.op_word .., (SR.len_word ..).trans (fieldQ_len ..)⟩
    · exact SR.op_word ..
    · exact SR.op_word ..
  · intro A
    exact ⟨⟨_, clz64_spec A, delivers_of_alu1 rfl rfl⟩, ⟨_, ctz64_spec A, delivers_of_alu1 rfl rfl⟩,
      delivers_of_alu1 rfl (congrArg _ (popcNat_eq 64 A.toNat)), ⟨_, brev64_getLsbD A, delivers_of_alu1 rfl rfl⟩⟩

end

section
/-! The S slot's loads, stores, atomics, markers, owners and arrival words (R113 to R127). -/

namespace Sys2Proof.Machine

/-! ### Changes of the core at hand -/

/-- Two changes of the core at hand do the same where they agree on the core that the instruction finds. -/
theorem Like.onMe_congr {u s : State} (h : Like u s) {f f' : Core → Core} (same : f s.me = f' s.me) :
    u.onMe f = u.onMe f' := by
  rw [State.onMe, State.onMe, h.me, same]

theorem Core.emptyG_eq_emptied (c : Core) (d : GReg) : c.emptyG d = c.emptied d := by
  rw [Core.emptyG, Core.emptied, Regs.emptyG, Regs.writeG]
  split <;> rfl

/-- R114: the effective address is the sum of two integers. -/
theorem Like.ea {u s : State} (h : Like u s) (a : GSrc) (off : BitVec 14) :
    u.ea a off = BitVec.ofInt 64 ((s.gReg a).toInt + off.toInt) := by
  rw [State.ea, h.opA, BitVec.ofInt_add, BitVec.ofInt_toInt]; rfl

/-! ### Loads and stores (R114 to R116, R303) -/

theorem Core.localStore_eq (c : Core) (v : LSpace) (slot a : Nat) (bs : List Byte) : c.localStore v slot a bs =
    { c with loc := if c.inTrap then c.loc.storeNow v c.btw.seqno slot c.btw.seg a bs
                    else c.loc.hold v c.btw.seqno slot c.btw.seg a bs } := by
  rw [Core.localStore]
  split <;> rfl

section
variable {pa n : Nat} {e : Tlb} {c : Core} {d : Dst} {mk : Word → Dst} {acq : Bool} {sc : Scope}

/-- The load that enters the queue. -/
def Core.loadAcc (c : Core) (d : Dst) (pa n : Nat) (e : Tlb) (acq : Bool) (sc : Scope) : Acc :=
  c.newAcc (.load d pa n acq sc (forwards c.accs (pteHome e.hi) pa n)) false pa (pteHome e.hi) e.key (pteC e.lo) e.cbf

/-- R303: bytes that are not all in the core's own stores come from memory. -/
theorem Core.globalLoad_queued (part : (forwards c.accs (pteHome e.hi) pa n).length ≠ n) :
    c.globalLoad d mk pa n e acq sc = c.enters (c.loadAcc d pa n e acq sc) := by
  rw [Core.globalLoad, if_neg part]; rfl

/-- R303: bytes that the core's own stores hold are there at issue. -/
theorem Core.globalLoad_served (whole : (forwards c.accs (pteHome e.hi) pa n).length = n) :
    c.globalLoad d mk pa n e acq sc =
      { c.enters { c.loadAcc d pa n e acq sc with departed := true, performed := true } with
        replies := c.replies ++ [⟨(c.loadAcc d pa n e acq sc).id,
          mk (BitVec.ofNat 64 (leNat ((forwards c.accs (pteHome e.hi) pa n).map (·.2)))), c.inTrap⟩] } := by
  rw [Core.globalLoad, if_pos whole]; rfl

end

theorem Like.ld_global {g : Guard} {t : GReg} {a : GSrc} {w : Width} {ord : Bool} {sc : Scope} {off : BitVec 14} {pa : Nat}
    {e : Tlb} {u s : State} (like : Like u s)
    (hit : s.translate s.me .load (BitVec.ofInt 64 ((s.gReg a).toInt + off.toInt)) = .hit pa e) :
    (opLd g t a w .global ord sc off).run u = u.onMe fun c =>
      (c.globalLoad (.g t 0 false) (fun x => .g t x false) pa (widthBytes w) e ord sc).emptied t := by
  simp only [opLd, spaceLoc, like.ea, like.me, like.translate, hit, Core.emptyG_eq_emptied]

/-! ### Atomics and markers (R118 to R122) -/

theorem Like.atomic {g : Guard} {d : GReg} {a : GSrc} {srcs : List Src} {n : Nat} {sc : Scope}
    {k : State → Nat → AccKind} {bytes : State → List Byte} {c : State → Word × Word} {pa : Nat} {e : Tlb} {u s : State}
    (like : Like u s) (hit : s.translate s.me .atomic (s.gReg a) = .hit pa e) :
    (atomicOp g d a srcs n sc k bytes c).run u =
      u.onMe fun x => (x.enters ((s.access (k u pa) true).at pa e)).emptied d := by
  simp only [atomicOp, like.opA, like.me, like.translate, hit, Core.emptyG_eq_emptied]
  exact like.onMe_congr rfl

theorem atomic2_completes {i : Instr} {op : AtomOp} {g : Guard} {d : GReg} {a b : GSrc} {n : Nat} {sc : Scope} {o : AOrd}
    {pa : Nat} {e : Tlb} {s : State} (hi : opOf i = some (atomic2 op g d a b n sc o))
    (hit : s.translate s.me .atomic (s.gReg a) = .hit pa e) : completes i s fun u => u.onMe fun x =>
      (x.enters ((s.access (.atomic op d pa n (s.gReg b) 0 sc o) true).at pa e)).emptied d :=
  completes_when hi fun u like => by rw [atomic2, like.atomic hit, like.opB]

theorem marker_completes {i : Instr} {o : Op} {k : AccKind} {s : State} (hi : opOf i = some o)
    (enters : o.run = fun s => s.onMe fun c => c.addAcc k false 0 0 0 true) :
    completes i s fun u => u.onMe fun c => c.enters (s.access k false) :=
  completes_when hi fun u like => by rw [enters]; exact like.onMe_congr rfl

/-! ### VJOIN (R123, R124) -/

theorem Local.wbuf_storeBy (l : Local) (seg : Nat) (v : LSpace) (p : Nat) (bs : List Byte) :
    (l.storeBy seg v p bs).wbuf = l.wbuf := by cases v <;> rfl
theorem Local.wbuf_heal (l : Local) (v : LSpace) (p n : Nat) : (l.heal v p n).wbuf = l.wbuf := by cases v <;> rfl

theorem Local.wbuf_drain (l : Local) (f : Nat → Bool) : (l.drain f).wbuf = l.wbuf :=
  (List.foldl_hom Local.wbuf (g₂ := fun m _ => m) fun _ _ => by rw [Local.wbuf_heal, Local.wbuf_storeBy]).symm.trans
    (List.foldl_fixed _)

/-- Every element is among those that land. -/
theorem Local.draining_flush (l : Local) : l.flush.draining = [] := by
  rw [Local.flush, Local.drain]
  refine List.map_eq_nil_iff.mpr (List.filter_eq_nil_iff.mpr fun x hx => ?_)
  obtain ⟨k, hk, rfl⟩ := List.mem_iff_getElem.mp hx
  simp only [Bool.or_true, List.filter_true, Bool.not_eq_true, Bool.not_eq_false', List.contains_iff_mem, List.mem_map]
  exact ⟨(l.draining[k], k), by simp [List.mk_mem_zipIdx_iff_getElem?], rfl⟩

theorem Local.joined_of_join {l : Local} {seq : Nat} {r : WRec} (h : r ∈ (l.join seq).wbuf) (early : r.seq < seq) :
    r.joined = true := by
  obtain ⟨r', -, rfl⟩ := List.mem_map.mp h
  by_cases lt : r'.seq < seq
  · rw [if_pos lt]
  · rw [if_neg lt] at early; exact absurd early lt

/-! ### Owners and arrival words (R125, R126) -/

theorem getLsbD_putBit {w : Nat} (x : BitVec w) {j k : Nat} (b : Bool) (h : k < w) :
    (putBit x j b).getLsbD k = if k = j then b else x.getLsbD k := by
  by_cases eq : k = j
  · subst eq
    cases b <;> simp [putBit, h]
  · have other : (1#w <<< j).getLsbD k = false := by
      rw [BitVec.getLsbD_shiftLeft, BitVec.getLsbD_one]; simp; omega
    cases b
    · rw [if_neg eq, putBit, if_neg (by decide), BitVec.getLsbD_and, BitVec.getLsbD_not, other]; simp [h]
    · rw [if_neg eq, putBit, if_pos rfl, BitVec.getLsbD_or, other, Bool.or_false]

theorem Local.word_mod (l : Local) (a : Nat) : l.word (a % 262144) = l.word a := by
  rw [Local.word, Local.word, Nat.mod_mod]

theorem Local.arm_eq (l : Local) (a : Nat) (target : BitVec 24) : l.arm a target =
    { l with tspad :=
        Memory.writeLe l.tspad (a % 262144) 8 ((l.word a).toNat / 2 ^ 48 * 2 ^ 48 + target.toNat * 2 ^ 24) } := by
  have hw := (l.word a).isLt
  have ht := target.isLt
  have gen : bitsAt (l.word a).toNat 48 16 = (l.word a).toNat / 2 ^ 48 := by
    rw [bitsAt_eq, Nat.mod_eq_of_lt (by omega)]
  rw [Local.arm, Local.setWord, gen, BitVec.toNat_ofNat, Nat.mod_eq_of_lt (b := 2 ^ 64) (by omega)]

/-! ### System registers (R128) -/

/-- The registers that O10 lists. -/
def sysReadListed : List (BitVec 12) :=
  [0x000, 0x001, 0x002, 0x003, 0x004, 0x100, 0x101, 0x102, 0x103, 0x104, 0x105, 0x110, 0x111, 0x112, 0x113, 0x114, 0x115,
    0x118, 0x119, 0x11A, 0x11B, 0x120, 0x121, 0x122, 0x123, 0x139, 0x140, 0x141, 0x200, 0x201, 0x202, 0x300, 0x301, 0x302,
    0x303, 0x304, 0x3E0, 0x3E1, 0x3E4, 0x3E5, 0x401, 0x411]

theorem sysr_delivers (g : Guard) (d : GReg) (q : BitVec 12) (s : State) :
    delivers (.sysr g d q) s 1 (.g d (s.sysRead s.iss.cur q) false) := delivers_of rfl rfl fun _ => rfl

end Sys2Proof.Machine
end

section
open Sys2Proof Sys2Proof.Machine

/-- Settles O7: the local forms, a global load as its bytes stand in the core's own stores or not, a global store. -/
theorem loadsAndStores : Obligations.loads_and_stores := by
  intro g t b a w sp ord sc off s n EA bytes
  have width : widthBytes w = n := by cases w <;> rfl
  refine ⟨fun v view => ⟨completes_when rfl fun u like => ?_, completes_when rfl fun u like => ?_⟩,
    fun global pa e hit => ⟨fun part => completes_when rfl fun u like => ?_, fun whole => completes_when rfl fun u like => ?_⟩,
    fun global pa e hit => completes_when rfl fun u like => ?_⟩
  · simp only [opLd, view, like.ea, like.me, width]
    rfl
  · simp only [opSt, view, like.ea, like.opB, Core.localStore_eq, width]
    rfl
  · subst global
    rw [like.ld_global hit, width]
    exact like.onMe_congr (congrArg (Core.emptied · t) (Core.globalLoad_queued part))
  · subst global
    rw [like.ld_global hit, width]
    exact like.onMe_congr (congrArg (Core.emptied · t) (Core.globalLoad_served whole))
  · subst global
    simp only [opSt, spaceLoc, like.ea, like.opB, like.me, like.translate, width]
    rw [hit]
    exact like.onMe_congr rfl

/-- Settles O8: every atomic is one operation, with one operand or, for ACAS, two. -/
theorem atomicsAtIssue : Obligations.atomics_at_issue := by
  intro g d a b c w u sc o s pa e hit B C n held
  exact ⟨atomic2_completes rfl hit, atomic2_completes rfl hit, atomic2_completes rfl hit, atomic2_completes rfl hit,
    atomic2_completes rfl hit, atomic2_completes rfl hit, atomic2_completes rfl hit,
    completes_when rfl fun u like => by rw [opAcas, like.atomic hit, like.opB, like.opC]; rfl,
    atomic2_completes rfl hit, atomic2_completes rfl hit⟩

/-- Settles O9: the markers, VJOIN by what landing every element and joining leave, the owner's bit, the arrival word. -/
theorem orderingOwnersAndArrivals : Obligations.ordering_owners_and_arrivals := by
  intro g a sc target n gen s x
  have tile (y : Nat) : y % 262144 % 262144 / 4096 = y % 262144 / 4096 := by rw [Nat.mod_mod]
  refine ⟨marker_completes rfl rfl, marker_completes rfl rfl, fun hr => leads_when rfl hr fun u like => ?_,
    ⟨putBit s.me.loc.owner (x / 4096) false, fun k hk => getLsbD_putBit _ _ hk, completes_when rfl fun u like => ?_⟩,
    fun owned => completes_when rfl fun u like => ?_, fun unowned free => completes_when rfl fun u like => ?_,
    completes_when rfl fun u like => ?_, completes_when rfl fun _ _ => rfl, completes_when rfl fun _ _ => rfl⟩
  · have length : (s.me.loc.flush.join s.me.btw.seqno).wbuf.length = s.me.loc.wbuf.length := by
      rw [Local.join, List.length_map, Local.flush, Local.wbuf_drain]
    simp only [opVjoin, State.me_onMe, State.mem_onMe, like.me, like.mem]
    exact ⟨trivial, s.me.loc.draining_flush, fun r => Local.joined_of_join, length, trivial, trivial⟩
  · simp only [opOwnCore, like.opA]
    exact like.onMe_congr (by simp only [Local.setOwner, tile]; rfl)
  · have owns : s.me.loc.engineOwns x = true := by rw [Local.engineOwns, tile]; exact owned
    simp only [opOwnEngine, like.opA, like.me]
    rw [if_pos owns]
  · have owns : s.me.loc.engineOwns x = false := by rw [Local.engineOwns, tile]; exact unowned
    simp only [opOwnEngine, like.opA, like.me]
    rw [owns, if_neg (by decide)]
    exact like.onMe_congr (by rw [free]; rfl)
  · simp only [opArma, like.opA]
    exact like.onMe_congr (by simp only [Local.arm_eq, Local.word_mod, x])

/-- Settles O10: SYSR delivers what `State.sysRead` reads, which for each listed register is what the list says. -/
theorem systemRegistersRead : Obligations.system_registers_read := by
  intro g d s c n x hx
  change x ∈ sysReadListed.map fun q => (q, s.sysRead n q) at hx
  obtain ⟨q, -, rfl⟩ := List.mem_map.mp hx
  exact sysr_delivers g d q s

end

section
/-! The constants G0, P0 and M0, and what a landing result writes (R99 to R101, R149, R151). -/

namespace Sys2Proof.Machine

section
variable (r : Regs)

/-! ### Registers after a landing -/

theorem Regs.apply_g {d : GReg} (x : Word) (q : Bool) (h : d ≠ 0) :
    r.apply (.g d x q) = r.setG d { r.gCell d with v := x, poison := q } := if_neg h

theorem Regs.gCell_apply_same {d : GReg} (x : Word) (q : Bool) (h : d ≠ 0) :
    (r.apply (.g d x q)).gCell d = { r.gCell d with v := x, poison := q } := by
  rw [r.apply_g x q h, Regs.gCell_setG_same]

theorem Regs.gCell_apply_other {d e : GReg} (x : Word) (q : Bool) (h : e ≠ d) :
    (r.apply (.g d x q)).gCell e = r.gCell e := by
  by_cases zero : d = 0
  · subst zero; rfl
  · rw [r.apply_g x q zero, Regs.gCell_setG_other r _ h]

/-- A scalar result changes scalar registers only. -/
theorem Regs.apply_g_frame (d : GReg) (x : Word) (q : Bool) : (r.apply (.g d x q)).p = r.p
    ∧ (r.apply (.g d x q)).m = r.m ∧ (r.apply (.g d x q)).v = r.v ∧ (r.apply (.g d x q)).lf = r.lf := by
  by_cases zero : d = 0
  · subst zero; exact ⟨rfl, rfl, rfl, rfl⟩
  · rw [r.apply_g x q zero]; exact ⟨rfl, rfl, rfl, rfl⟩

theorem Regs.pv_setP_same {p : PReg} (b : Bool) (h : p ≠ 0) : (r.setP p b).pv p = b := by
  rw [Regs.setP, if_neg h, Regs.pv, getLsbD_putBit _ _ p.isLt, if_pos rfl, beq_false_of_ne h, Bool.false_or]

theorem Regs.pv_setP_other {p p' : PReg} (b : Bool) (h : p' ≠ p) : (r.setP p b).pv p' = r.pv p' := by
  have : p'.toNat ≠ p.toNat := fun e => h (BitVec.eq_of_toNat_eq e)
  rw [Regs.setP]
  split
  · rfl
  · rw [Regs.pv, Regs.pv, getLsbD_putBit _ _ p'.isLt, if_neg this]

theorem Regs.getLsbD_mv_setM_same {m : MReg} (x k : Mask) (h : m ≠ 0) (j : Nat) :
    ((r.setM m x k).mv m).getLsbD j = if k.getLsbD j then x.getLsbD j else (r.mv m).getLsbD j := by
  have stands : (r.setM m x k).mv m = (x &&& k) ||| (r.mv m &&& ~~~k) := by
    rw [Regs.setM, if_neg h, Regs.mv, Regs.mv, if_neg h, if_neg h]
    exact Vector.getElem_set_self ..
  rw [stands, BitVec.getLsbD_or, BitVec.getLsbD_and, BitVec.getLsbD_and, BitVec.getLsbD_not]
  by_cases inside : j < 512
  · cases k.getLsbD j <;> simp [inside]
  · simp [BitVec.getLsbD_of_ge _ _ (Nat.le_of_not_lt inside)]

theorem Regs.mv_setM_other {m m' : MReg} (x k : Mask) (h : m' ≠ m) : (r.setM m x k).mv m' = r.mv m' := by
  have : m.toNat ≠ m'.toNat := fun e => h (BitVec.eq_of_toNat_eq e.symm)
  by_cases zero : m = 0
  · rw [zero, Regs.setM_zero]
  · rw [Regs.setM, if_neg zero, Regs.mv, Regs.mv]
    exact if_congr Iff.rfl rfl (Vector.getElem_set_ne m.isLt _ this)

section
variable (d : VReg) (x : Row) (k : Mask) (tag : Option Tag) (q w : Bool)

theorem Regs.vCell_apply_same : (r.apply (.v d x k tag q w)).vCell d =
    { r.vCell d with row := mergeRow k x (r.vCell d).row, tag := tag.getD (r.vCell d).tag, poison := q } :=
  Regs.vCell_setV_same ..

theorem Regs.vCell_apply_other {e : VReg} (h : e ≠ d) : (r.apply (.v d x k tag q w)).vCell e = r.vCell e :=
  Regs.vCell_setV_other r _ h

end

end

theorem lane_mergeRow (k : Mask) (x old : Row) {j : Nat} (h : j < 512) :
    lane (mergeRow k x old) j = if k.getLsbD j then lane x j else lane old j := lane_rowOf _ h

/-! ### The end of a cycle -/

section
variable {x : Ctx} {a b : Land}

theorem Ctx.advance_in_flight (one : x.pipe = [a]) (later : 1 < a.rem) :
    x.advance = { x with pipe := [{ a with rem := a.rem - 1 }] } := by
  simp [Ctx.advance, landing, staying, one, later, Nat.not_le.mpr later]

theorem Ctx.advance_landing (one : x.pipe = [a]) (now : a.rem ≤ 1) : x.advance = { x.land a with pipe := [] } := by
  simp [Ctx.advance, landing, staying, one, now, Nat.not_lt.mpr now]

theorem Ctx.advance_landing_two (two : x.pipe = [a, b]) (now : a.rem ≤ 1) (now' : b.rem ≤ 1) :
    x.advance = { (x.land a).land b with pipe := [] } := by
  simp [Ctx.advance, landing, staying, two, now, now', Nat.not_lt.mpr now, Nat.not_lt.mpr now']

end

/-! ### Guards (R137) -/

theorem View.guard_of_mem_ops {v : View} {r : Regs} {x : Nat × Op} (h : x ∈ v.ops r) : r.guard x.2.guard = true := by
  obtain ⟨y, -, hy⟩ := List.mem_filterMap.mp h
  split at hy
  next o _ =>
    split at hy
    next guard => cases hy; exact guard
    next => cases hy
  next => cases hy

end Sys2Proof.Machine
end

section
open Sys2Proof Sys2Proof.Machine

/-- Settles O55: what each kind of landing writes and leaves, the cycles of one and of two results in flight, and a false
guard. -/
theorem constantsGuardsAndLandings : Obligations.constants_guards_and_landings := by
  intro r x a b d e p m v w y z k row tag bit q wb i o u s gd vd
  obtain ⟨frame_p, frame_m, frame_v, frame_lf⟩ := r.apply_g_frame d y q
  refine ⟨rfl, rfl, rfl, rfl, rfl, rfl, rfl, rfl, rfl, rfl, fun hd => ?_, r.gCell_apply_other y q, frame_p, frame_m,
    frame_v, frame_lf, r.pv_setP_same bit, fun p' => r.pv_setP_other bit,
    fun hm j _ => r.getLsbD_mv_setM_same z k hm j, fun m' => r.mv_setM_other z k, fun j hj => ?_, ?_,
    r.vCell_apply_other v row k tag q wb, rfl, rfl, rfl, rfl, fun one later => ?_, fun one now => ?_,
    fun two now now' => ?_, fun hi ov legal allowed skipped => ?_, fun j => View.guard_of_mem_ops⟩
  · have cell : gd.gCell d = { r.gCell d with v := y, poison := q } := r.gCell_apply_same y q hd
    rw [Regs.gv, Regs.gPoison, Regs.gFull, Regs.gFull, cell, if_neg hd, bne_iff_ne.mpr hd, beq_false_of_ne hd]
    exact ⟨rfl, rfl, rfl⟩
  · rw [r.vCell_apply_same, lane_mergeRow k _ _ hj]
  · rw [r.vCell_apply_same]
  · rw [Ctx.advance_in_flight one later]; exact ⟨rfl, rfl⟩
  · rw [Ctx.advance_landing one now]; exact ⟨rfl, rfl, rfl⟩
  · rw [Ctx.advance_landing_two two now now']; rfl
  · rw [exec_of_op i o s hi, Op.exec_skipped ov legal allowed skipped]

end

section
/-! What a request finds in memory: the same under other channels, slices and log; a load's bytes (R282, R303, R310). -/

namespace Sys2Proof.Machine

/-- Memory with other channels, slices and log. -/
def Mem.queued (m : Mem) (channels : Map (List Nat)) (slices : Map Slice) (log : List MemEvent) : Mem :=
  { m with channels := channels, slices := slices, log := log }

/-- The module with its memory so. -/
def State.queued (s : State) (channels : Map (List Nat)) (slices : Map Slice) (log : List MemEvent) : State :=
  { s with mem := s.mem.queued channels slices log }

section
variable (c : Map (List Nat)) (y : Map Slice) (l : List MemEvent)

section
variable (m : Mem)

theorem Mem.images_queued : (m.queued c y l).images = m.images := rfl
theorem Mem.ecc_queued : (m.queued c y l).ecc = m.ecc := rfl
theorem Mem.byte_queued (key : BitVec 8) (pa : Nat) : (m.queued c y l).byte key pa = m.byte key pa := rfl
theorem Mem.load_queued (key : BitVec 8) (pa n : Nat) : (m.queued c y l).load key pa n = m.load key pa n := rfl
theorem Mem.codeBlock_queued (key : BitVec 8) (page k : Nat) :
    (m.queued c y l).codeBlock key page k = m.codeBlock key page k := by
  simp only [Mem.codeBlock, Mem.load_queued, Mem.images_queued]
  rfl
theorem Mem.homeByte_queued (a : Acc) (pa : Nat) : (m.queued c y l).homeByte a pa = m.homeByte a pa := by
  simp only [Mem.homeByte, Mem.plainByte, Mem.codeBlock_queued, Mem.byte_queued, Mem.ecc_queued]

theorem Mem.rekey_queued (u : Nat) (key : BitVec 8) : (m.queued c y l).rekey u key = (m.rekey u key).queued c y l := by
  have keys : (m.queued c y l).keys = m.keys := rfl
  by_cases same : Map.getD m.keys u 0 = key
  · simp only [Mem.rekey, keys, same, if_true]
  · simp only [Mem.rekey, keys, same, if_false]
    rfl

theorem Mem.store_queued (key : BitVec 8) (a : Nat) (bs : List Byte) :
    (m.queued c y l).store key a bs = (m.store key a bs).queued c y l := by
  have rekeyed (us : List Nat) : us.foldl (fun m u => m.rekey u key) (m.queued c y l)
      = (us.foldl (fun m u => m.rekey u key) m).queued c y l :=
    List.foldl_hom (fun m => Mem.queued m c y l) fun m u => Mem.rekey_queued c y l m u key
  simp only [Mem.store, rekeyed]
  rfl

end

section
variable (s : State)

theorem State.acc_queued (n id : Nat) : (s.queued c y l).acc n id = s.acc n id := rfl
theorem State.core_queued (n : Nat) : (s.queued c y l).core n = s.core n := rfl
theorem State.mem_queued : (s.queued c y l).mem = s.mem.queued c y l := rfl

end

end

theorem State.setSlice_eq (s : State) (k : Nat) (y : Slice) :
    s.setSlice k y = s.queued s.mem.channels (Map.put s.mem.slices k y) s.mem.log := rfl

theorem Mem.slices_store (m : Mem) (key : BitVec 8) (a : Nat) (bs : List Byte) : (m.store key a bs).slices = m.slices := by
  have kept := congrArg Mem.slices (Mem.store_queued m.channels m.slices m.log m key a bs)
  exact kept

theorem mem_upFrom {a n x : Nat} : x ∈ upFrom a n ↔ a ≤ x ∧ x < a + n := by
  simp only [upFrom, List.mem_map, List.mem_range]
  exact ⟨fun ⟨k, hk, e⟩ => by omega, fun h => ⟨x - a, by omega, by omega⟩⟩

theorem Mem.sealedRun_false {m : Mem} {pa n : Nat} (h : ∀ x, pa ≤ x → x < pa + n → m.isSealed x = false) :
    m.sealedRun pa n = false := by
  rw [Mem.sealedRun, List.any_eq_false]
  intro x hx
  obtain ⟨lo, hi⟩ := mem_upFrom.mp hx
  rw [h x lo hi]
  decide

/-! ### What replies, the log and a store at its home leave -/

section
variable (s : State)

/-- R285: uncorrectable units that are read are logged, and nothing else happens to them. -/
theorem State.noteBad_eq (pa n : Nat) : ∃ log, s.noteBad pa n = s.queued s.mem.channels s.mem.slices log := by
  rw [State.noteBad]
  generalize (upFrom pa n).filter _ = xs
  induction xs generalizing s with
  | nil => exact ⟨s.mem.log, rfl⟩
  | cons x xs ih => exact ih (s.note (.uncorrectable x))

section
variable (n : Nat) (a : Acc) (d : Dst)

theorem State.replies_sendReply :
    ((s.sendReply n a d).core n).replies = (s.core n).replies ++ [⟨a.id, d, a.own⟩] := by
  rw [State.sendReply, State.core_setCore_same, State.setAcc, State.core_setCore_same]
theorem State.ctx_sendReply : ((s.sendReply n a d).core n).ctx = (s.core n).ctx := by
  rw [State.sendReply, State.core_setCore_same, State.setAcc, State.core_setCore_same]
theorem State.mem_sendReply : (s.sendReply n a d).mem = s.mem := rfl
theorem State.slice_sendReply (k : Nat) : (s.sendReply n a d).slice k = s.slice k := rfl

end

section
variable {n : Nat} (id : Nat) (core : n < 1024)
include core

theorem State.core_dropAcc : (s.dropAcc n id).core n =
    { s.core n with accs := (s.core n).accs.filter fun b => b.id != id } := by
  rw [State.dropAcc, if_pos core, State.core_setCore_same]
theorem State.mem_dropAcc : (s.dropAcc n id).mem = s.mem := by
  rw [State.dropAcc, if_pos core]; rfl

end

section
variable (key : BitVec 8) {pa : Nat} (bs : List Byte) (memory : inControl pa = false)
include memory

theorem State.core_homeStore (n : Nat) : (s.homeStore key pa bs).core n = s.core n := by
  rw [State.homeStore, memory]; rfl
theorem State.mem_homeStore : (s.homeStore key pa bs).mem = s.mem.store key pa bs := by
  rw [State.homeStore, memory]; rfl

end

end

/-! ### The bytes of a load (R303) -/

/-- The bytes that a load answers with: those that it took from its core's own stores, and the memory's others. -/
def State.loadBytes (s : State) (a : Acc) (pa w : Nat) (fw : List (Nat × Byte)) : List (Option Byte) :=
  (upFrom pa w).map fun x => match fw.find? fun f => f.1 == x with | some f => some f.2 | none => s.mem.homeByte a x

theorem State.loadBytes_queued (s : State) (c : Map (List Nat)) (y : Map Slice) (l : List MemEvent) (a : Acc) (pa w : Nat)
    (fw : List (Nat × Byte)) : (s.queued c y l).loadBytes a pa w fw = s.loadBytes a pa w fw := by
  simp only [State.loadBytes, State.mem_queued, Mem.homeByte_queued]

/-- A load outside the control space is answered with the bytes of its home. -/
theorem State.loadValue_eq {s : State} {a : Acc} {pa w : Nat} {fw : List (Nat × Byte)}
    (plain : ∀ x, pa ≤ x → x < pa + w → inControl x = false) : s.loadValue a pa w fw =
      (BitVec.ofNat 64 (leNat ((s.loadBytes a pa w fw).map fun b => b.getD 0)), (s.loadBytes a pa w fw).any (·.isNone)) := by
  have home : s.homeBytes a pa w = (upFrom pa w).map (s.mem.homeByte a) :=
    List.map_congr_left fun x hx => by rw [plain x (mem_upFrom.mp hx).1 (mem_upFrom.mp hx).2]; rfl
  have beside (f : Nat × Option Byte → Option Byte) : ((upFrom pa w).zip ((upFrom pa w).map (s.mem.homeByte a))).map f =
      (upFrom pa w).map fun x => f (x, s.mem.homeByte a x) := by
    rw [← List.map_prod_left_eq_zip, List.map_map]; rfl
  simp only [State.loadValue, home, beside]
  rfl

end Sys2Proof.Machine
end

section
/-! The order points: which request is served, what a fill and an atomics unit do (R119, R281 to R283, R310, R311). -/

namespace Sys2Proof.Machine

section
variable {s : State} {sl k n id : Nat} {a : Acc}

/-! ### What a slice does with a request that it serves -/

theorem State.serve_load {d : Dst} {pa w : Nat} {acq : Bool} {sc : Scope} {fw : List (Nat × Byte)}
    (listed : s.acc n id = some a) (kind : a.kind = .load d pa w acq sc fw) : s.serve sl n id =
      (s.noteBad pa w).sendReply n a (d.withValue (s.loadValue a pa w fw).1 (s.loadValue a pa w fw).2) := by
  simp only [State.serve, listed, kind]

theorem State.serve_store {pa : Nat} {bs : List Byte} {rel : Bool} {sc : Scope} (listed : s.acc n id = some a)
    (kind : a.kind = .store pa bs rel sc) (unsealed : s.mem.sealedRun pa bs.length = false) :
    s.serve sl n id = (s.dropAcc n id).homeStore a.key pa bs := by
  simp only [State.serve, listed, kind, unsealed]
  rfl

theorem State.serve_atomic {op : AtomOp} {d : GReg} {pa w : Nat} {b c : Word} {sc : Scope} {o : AOrd}
    (listed : s.acc n id = some a) (kind : a.kind = .atomic op d pa w b c sc o) : s.serve sl n id =
      s.setSlice sl { s.slice sl with updates := (s.slice sl).updates ++ [(n, id)] } := by
  simp only [State.serve, listed, kind]
  rfl

section
variable (c : Map (List Nat)) (y : Map Slice) (l : List MemEvent)

theorem State.serve_load_queued {d : Dst} {pa w : Nat} {acq : Bool} {sc : Scope} {fw : List (Nat × Byte)}
    (listed : s.acc n id = some a) (kind : a.kind = .load d pa w acq sc fw)
    (plain : ∀ x, pa ≤ x → x < pa + w → inControl x = false) :
    let t := (s.queued c y l).serve sl n id
    let bs := s.loadBytes a pa w fw
    (t.core n).replies = (s.core n).replies
        ++ [⟨a.id, d.withValue (BitVec.ofNat 64 (leNat (bs.map fun b => b.getD 0))) (bs.any (·.isNone)), a.own⟩]
      ∧ (t.core n).ctx = (s.core n).ctx ∧ t.mem.bytes = s.mem.bytes ∧ t.mem.slices = y := by
  obtain ⟨log, logged⟩ := (s.queued c y l).noteBad_eq pa w
  intro t bs
  have served : t = _ := State.serve_load ((s.acc_queued c y l n id).trans listed) kind
  rw [State.loadValue_eq plain, State.loadBytes_queued, logged] at served
  rw [served, State.replies_sendReply, State.ctx_sendReply, State.mem_sendReply]
  exact ⟨rfl, rfl, rfl, rfl⟩

theorem State.serve_store_queued {pa : Nat} {bs : List Byte} {rel : Bool} {sc : Scope} (core : n < 1024)
    (listed : s.acc n id = some a) (kind : a.kind = .store pa bs rel sc) (memory : inControl pa = false)
    (unsealed : ∀ x, pa ≤ x → x < pa + bs.length → s.mem.isSealed x = false) :
    let t := (s.queued c y l).serve sl n id
    (t.core n).accs = (s.core n).accs.filter (fun b => b.id != id)
      ∧ t.mem.bytes = (s.mem.store a.key pa bs).bytes := by
  intro t
  have served : t = ((s.queued c y l).dropAcc n id).homeStore a.key pa bs :=
    State.serve_store ((s.acc_queued c y l n id).trans listed) kind (Mem.sealedRun_false unsealed)
  rw [served, State.core_homeStore _ _ _ memory, State.mem_homeStore _ _ _ memory, State.core_dropAcc _ _ core,
    State.mem_dropAcc _ _ core, State.mem_queued, Mem.store_queued]
  exact ⟨rfl, rfl⟩

end

/-! ### The request at the head of its channel (R282) -/

/-- A request at the head of its channel that nothing holds back: no earlier request of its line waits, its line has no
miss register, and no update in flight names its element. -/
structure State.First (s : State) (sl k n id : Nat) (a : Acc) : Prop where
  head : (s.requests sl)[k]? = some (n, id, false)
  listed : s.acc n id = some a
  passes : s.waitsBefore (s.slice sl).ingress (lineOf a.pa) = false
  unmissed : ∀ e ∈ (s.slice sl).mshr, e.1 ≠ lineOf a.pa
  free : s.updating sl n id (a.span s.mem) = false
  cached : a.cached = true
  memory : inControl a.pa = false
  part : a.kind.coversLine = false
  own : ∀ m, a.kind ≠ .ask m

/-- The module when the head of a channel has been taken. -/
def State.popped (s : State) (c : Nat) : State := { s with mem := s.mem.popChannel c }

theorem State.mayReply_of_ne_ask (own : ∀ m, a.kind ≠ .ask m) : s.mayReply a = true := by
  unfold State.mayReply
  split
  next m h => exact absurd h (own m)
  next => rfl

section
variable (h : s.First sl k n id a)
include h

theorem State.First.point : (s.popped (inbound n sl)).point sl n id a =
    if (s.slice sl).present.any (fun e => e.1 == lineOf a.pa) then .served
    else if (s.slice sl).mshr.length < 64 then .register else .waits := by
  have unlisted : (s.slice sl).mshr.find? (fun e => e.1 == lineOf a.pa) = none :=
    List.find?_eq_none.mpr fun e he => by simpa using h.unmissed e he
  have slice : (s.popped (inbound n sl)).slice sl = s.slice sl := rfl
  have free : (s.popped (inbound n sl)).updating sl n id (a.span (s.popped (inbound n sl)).mem) = false := h.free
  simp only [State.point, slice, unlisted, free, State.mayReply_of_ne_ask h.own, h.cached, h.memory, h.part,
    Bool.not_true, Bool.or_false, Bool.false_eq_true, if_false, Bool.true_and, Bool.false_and]

theorem State.First.taken {t : State} (takes : (s.popped (inbound n sl)).takeRequest sl n id a = some t) :
    exec (.orderPointServe sl k) s = .next t := by
  have pointServe : s.pointServe sl k = some t := by
    simp only [State.pointServe, h.head, h.listed, h.passes]
    rw [if_neg (by decide), ← State.popped, takes]
  show execOrderPointServe sl k s = _
  rw [execOrderPointServe, pointServe, Option.getD_some]

theorem State.First.serves (present : (s.slice sl).present.any (fun e => e.1 == lineOf a.pa) = true) :
    exec (.orderPointServe sl k) s =
      .next (((s.popped (inbound n sl)).setSlice sl ((s.slice sl).touch (lineOf a.pa))).serve sl n id) :=
  h.taken (by rw [State.takeRequest, h.point, if_pos present]; rfl)

theorem State.First.misses (absent : (s.slice sl).present.any (fun e => e.1 == lineOf a.pa) = false)
    (room : (s.slice sl).mshr.length < 64) : exec (.orderPointServe sl k) s =
      .next ((s.popped (inbound n sl)).setSlice sl
        { s.slice sl with mshr := (s.slice sl).mshr ++ [(lineOf a.pa, [(n, id)])] }) :=
  h.taken (by rw [State.takeRequest, h.point, absent, if_neg (by decide), if_pos room]; rfl)

end

/-! ### Lines that come in and lines that are used -/

theorem Slice.updates_touch (y : Slice) (line : Nat) : (y.touch line).updates = y.updates := by
  unfold Slice.touch; split <;> rfl
/-- R281: bringing a line in changes which lines are present, and nothing else of the slice. -/
theorem Slice.allocate_eq (y : Slice) (line part : Nat) : ∃ p, y.allocate line part = { y with present := p } := by
  unfold Slice.allocate
  dsimp only
  split
  next => exact ⟨_, rfl⟩
  next =>
    split
    next => exact ⟨_, rfl⟩
    next => exact ⟨y.present, rfl⟩

/-- R282: a fill serves the one request of its line's list. -/
theorem State.exec_lineFill {line : Nat}
    (missed : (s.slice sl).mshr.find? (fun e => e.1 == line) = some (line, [(n, id)]))
    (unblocked : s.blocked (line * 128) = false) (listed : s.acc n id = some a)
    (free : s.updating sl n id (a.span s.mem) = false) (own : ∀ m, a.kind ≠ .ask m) :
    ∃ y : Slice, (∀ e ∈ y.mshr, e.1 ≠ line) ∧ exec (.lineFill sl line) s = .next ((s.setSlice sl y).serve sl n id) := by
  let rest : Slice := { s.slice sl with mshr := (s.slice sl).mshr.filter fun x => x.1 != line }
  obtain ⟨p, allocated⟩ := rest.allocate_eq line a.part.toNat
  have filled : s.fill sl line = some ((s.setSlice sl { rest with present := p }).serveList sl [(n, id)]) := by
    simp only [State.fill, missed, unblocked, List.head?_cons, Option.bind_some, listed, Option.map_some, Option.getD_some,
      ← allocated]
    rfl
  refine ⟨{ rest with present := p }, fun e he => by simpa using (List.mem_filter.mp he).2, ?_⟩
  generalize hy : ({ rest with present := p } : Slice) = y at filled ⊢
  have listed' : (s.setSlice sl y).acc n id = some a := listed
  have free' : (s.setSlice sl y).updating sl n id (a.span (s.setSlice sl y).mem) = false := by
    rw [State.updating, State.slice_setSlice, ← hy]; exact free
  have list : (s.setSlice sl y).serveList sl [(n, id)] = (s.setSlice sl y).serve sl n id := by
    simp only [State.serveList, listed', free', State.mayReply_of_ne_ask own]
    rfl
  show execLineFill sl line s = _
  rw [execLineFill, filled, Option.getD_some, list]

/-! ### Atomics (R119, R283, R311) -/

/-- The unit writes the new value and answers with the old. -/
theorem State.exec_atomicUpdate {op : AtomOp} {d : GReg} {pa w : Nat} {b c : Word} {sc : Scope} {o : AOrd}
    (oldest : (s.slice sl).updates[k]? = some (n, id)) (listed : s.acc n id = some a)
    (kind : a.kind = .atomic op d pa w b c sc o) (memory : inControl pa = false) (sound : s.mem.bad pa w = false)
    (unsealed : ∀ x, pa ≤ x → x < pa + w → s.mem.isSealed x = false) :
    let old := BitVec.ofNat 64 (leNat (s.mem.load a.key pa w))
    exec (.atomicUpdate sl k) s = .next (State.sendReply
      ((s.setSlice sl { s.slice sl with updates := (s.slice sl).updates.eraseIdx k }).homeStore a.key pa
        (leBytes w (atomNew op w old b c).toNat)) n a (.g d old false)) := by
  intro old
  let s' := s.setSlice sl { s.slice sl with updates := (s.slice sl).updates.eraseIdx k }
  have element : s'.element a.key pa w = old := by rw [State.element, memory, if_neg (by decide)]; rfl
  have good : s'.badElement pa w = false := by rw [State.badElement, memory]; exact sound
  have sealed : s'.mem.sealedRun pa w = false := Mem.sealedRun_false unsealed
  have updated : s.update sl k = some (s'.atomic n a op d pa w b c) := by
    simp only [State.update, oldest, listed, kind]; rfl
  show execAtomicUpdate sl k s = _
  rw [execAtomicUpdate, updated, Option.getD_some, State.atomic, element, good, sealed]
  rfl

end

end Sys2Proof.Machine
end

section
open Sys2Proof Sys2Proof.Machine

/-- Settles O38: the request at the head of its channel is served or missed, a fill serves, a unit writes and answers. -/
theorem orderPoints : Obligations.order_points := by
  intro sl k n id line a s y key plain open_ first gone answered loaded
  have heads (h : first) : n < 1024 ∧ s.First sl k n id a := by
    obtain ⟨core, head, listed, passes, unmissed, free, cached, memory, part, own⟩ := h
    exact ⟨core, head, listed, passes, unmissed, free, cached, memory, part, own⟩
  refine ⟨fun h present => ?_, fun h absent room => ?_, ?_, ?_⟩
  · obtain ⟨core, first⟩ := heads h
    let channels := (s.mem.popChannel (inbound n sl)).channels
    let slices := Map.put s.mem.slices sl (y.touch key)
    refine ⟨fun d pa w acq sc fw kind outside => ?_, fun pa bs rel sc kind memory unsealed => ?_,
      fun op d pa w b c sc o kind => ?_⟩ <;> refine ⟨_, first.serves present, ?_⟩
    · obtain ⟨replies, ctx, bytes, -⟩ :=
        State.serve_load_queued (sl := sl) channels slices s.mem.log first.listed kind outside
      exact ⟨⟨replies, ctx⟩, bytes⟩
    · exact State.serve_store_queued (sl := sl) channels slices s.mem.log core first.listed kind memory unsealed
    · have served := State.serve_atomic (sl := sl) (n := n) (id := id)
        (s := (s.popped (inbound n sl)).setSlice sl (y.touch key)) first.listed kind
      beta_reduce
      rw [served, State.slice_setSlice, State.slice_setSlice, Slice.updates_touch]
      exact ⟨rfl, rfl⟩
  · obtain ⟨-, first⟩ := heads h
    exact ⟨_, first.misses absent room, by rw [State.slice_setSlice], rfl, rfl⟩
  · intro d pa w acq sc fw missed unblocked listed free kind outside
    obtain ⟨y', unlisted, filled⟩ := State.exec_lineFill missed unblocked listed free (by simp [kind])
    obtain ⟨replies, ctx, bytes, slices⟩ := State.serve_load_queued (sl := sl) s.mem.channels
      (Map.put s.mem.slices sl y') s.mem.log listed kind outside
    refine ⟨_, filled, ?_, ⟨replies, ctx⟩, bytes⟩
    have slice : State.slice _ sl = y' := (congrArg (Map.getD · sl Slice.reset) slices).trans (Map.getD_put_same ..)
    exact fun e he => unlisted e (slice ▸ he)
  · intro op d pa w b c sc o oldest listed kind memory sound unsealed
    refine ⟨_, State.exec_atomicUpdate oldest listed kind memory sound unsealed, ?_, ⟨?_, ?_⟩, ?_⟩
    · rw [State.mem_sendReply, State.mem_homeStore _ _ _ memory, State.setSlice_eq, State.mem_queued, Mem.store_queued]
      rfl
    · rw [State.replies_sendReply, State.core_homeStore _ _ _ memory]
      rfl
    · rw [State.ctx_sendReply, State.core_homeStore _ _ _ memory]
      rfl
    · rw [State.slice_sendReply, State.slice, State.mem_homeStore _ _ _ memory, Mem.slices_store]
      exact congrArg Slice.updates (State.slice_setSlice s sl _)

end

section
/-! Replies of variable latency, and what the die answers (R101, R222, R265, R276, R299, R328, R368). -/

namespace Sys2Proof.Machine

/-! ### A reply written at its core (R101, R222) -/

/-- A context after a reply: parked where a handler runs that did not ask for it, and written otherwise. -/
def Core.replied (c : Core) (r : Reply) : Ctx :=
  if c.inTrap && !r.own then { c.ctx with parked := c.ctx.parked ++ [r] } else c.ctx.reply r.dst

section
variable (c : Core) (r : Reply) (seg : Nat)

/-- R222, R231: beside the context itself a reply changes only the records kept for its segment's entry. -/
theorem Core.answer_eq : ∃ entry btw, c.answer r seg = if c.inTrap && !r.own then
    { c with entry := entry, btw := btw, ctx := { c.ctx with parked := c.ctx.parked ++ [r] } }
    else { c with entry := entry, btw := btw }.written r.dst :=
  ⟨_, _, rfl⟩
theorem Core.ctx_answer : (c.answer r seg).ctx = c.replied r := by
  obtain ⟨entry, btw, answered⟩ := c.answer_eq r seg
  rw [answered, Core.replied]
  cases c.inTrap && !r.own <;> rfl
theorem Core.accs_answer : (c.answer r seg).accs = c.accs := by
  obtain ⟨entry, btw, answered⟩ := c.answer_eq r seg
  rw [answered]
  cases c.inTrap && !r.own <;> rfl
theorem Core.loc_answer : (c.answer r seg).loc = c.loc := by
  obtain ⟨entry, btw, answered⟩ := c.answer_eq r seg
  rw [answered]
  cases c.inTrap && !r.own <;> rfl
theorem Core.replies_answer : (c.answer r seg).replies = c.replies := by
  obtain ⟨entry, btw, answered⟩ := c.answer_eq r seg
  rw [answered]
  cases c.inTrap && !r.own <;> rfl

end

/-- From `u` to `t` the reply `r` has been written at core `n`, which stood as `c`; the access that asked has gone. -/
structure State.Wrote (u t : State) (n : Nat) (c : Core) (r : Reply) : Prop where
  accs : (t.core n).accs = c.accs.filter fun b => b.id != r.id
  ctx : (t.core n).ctx = c.replied r
  loc : (t.core n).loc = (u.core n).loc
  dies : t.dies = u.dies
  conj : t.conj = u.conj
  mem : t.mem = u.mem

section
variable {s u : State} {n k : Nat} {a : Acc}

theorem State.conj_dropAcc (s : State) (n id : Nat) : (s.dropAcc n id).conj = s.conj := by
  unfold State.dropAcc; split <;> rfl
theorem State.time_dropAcc (s : State) (n id : Nat) : (s.dropAcc n id).time = s.time := by
  unfold State.dropAcc; split <;> rfl
theorem State.tag_dropAcc (s : State) (n id : Nat) (tg : BitVec 32) : (s.dropAcc n id).tag tg = s.tag tg := by
  unfold State.dropAcc; split <;> rfl
theorem State.dies_dropAcc (s : State) (n id : Nat) : (s.dropAcc n id).dies = s.dies := by
  unfold State.dropAcc; split <;> rfl

theorem State.writeReply_wrote (core : n < 1024) (d : Dst) :
    State.Wrote u (u.writeReply n a d) n (u.core n) ⟨a.id, d, a.own⟩ := by
  have after : (u.writeReply n a d).core n =
      Core.answer { u.core n with accs := (u.core n).accs.filter fun b => b.id != a.id } ⟨a.id, d, a.own⟩ a.seg := by
    rw [State.writeReply, State.core_setCore_same, State.core_dropAcc _ _ core]
  exact ⟨by rw [after, Core.accs_answer], by rw [after, Core.ctx_answer]; rfl, by rw [after, Core.loc_answer],
    u.dies_dropAcc n a.id, u.conj_dropAcc n a.id, u.mem_dropAcc a.id core⟩

/-- Local storage takes no part in what a reply writes. -/
theorem State.Wrote.of_core {t : State} {c : Core} {r : Reply} {l : Local} (wrote : State.Wrote u t n (u.core n) r)
    (stood : u.core n = { c with loc := l }) : State.Wrote u t n c r := by
  obtain ⟨accs, ctx, loc, dies, conj, mem⟩ := wrote
  rw [stood] at accs ctx
  exact ⟨accs, ctx, loc, dies, conj, mem⟩

/-! ### VARIABLE_REPLY -/

/-- A reply on its way is written. -/
theorem exec_variableReply_written {r : Reply} (core : n < 1024) (sent : (s.core n).replies[k]? = some r) :
    ∃ t, exec (.variableReply n k) s = .next t ∧ State.Wrote s t n (s.core n) r
      ∧ (t.core n).replies = (s.core n).replies.eraseIdx k := by
  let rest : Core := { (s.dropAcc n r.id).core n with replies := (s.core n).replies.eraseIdx k }
  have now : ∃ seg, s.repliesNow n k = some ((s.dropAcc n r.id).setCore n (rest.answer r seg)) := by
    simp only [State.repliesNow, sent, State.core_dropAcc _ _ core, rest]
    exact ⟨_, rfl⟩
  obtain ⟨seg, now⟩ := now
  refine ⟨(s.dropAcc n r.id).setCore n (rest.answer r seg), ?_, ?_, ?_⟩
  · show execVariableReply n k s = _
    rw [execVariableReply, now, Option.getD_some]
  · have stood : (s.dropAcc n r.id).core n = _ := s.core_dropAcc r.id core
    exact ⟨by rw [State.core_setCore_same, Core.accs_answer]; simp only [rest, stood],
      by rw [State.core_setCore_same, Core.ctx_answer]; simp only [rest, stood]; rfl,
      by rw [State.core_setCore_same, Core.loc_answer]; simp only [rest, stood],
      s.dies_dropAcc n r.id, s.conj_dropAcc n r.id, s.mem_dropAcc r.id core⟩
  · rw [State.core_setCore_same, Core.replies_answer]

/-- A request that has departed to the die is answered. -/
theorem exec_variableReply_answered {t : State} (late : (s.core n).replies.length ≤ k)
    (asked : ((s.core n).accs.filter fun b => b.departed && b.kind.asksDie)[k - (s.core n).replies.length]? = some a)
    (answer : s.answerOf n a = some t) : exec (.variableReply n k) s = .next t := by
  have now : s.repliesNow n k = some t := by
    simp only [State.repliesNow, List.getElem?_eq_none late, asked, answer]
  show execVariableReply n k s = _
  rw [execVariableReply, now, Option.getD_some]

/-- R299: XLATE's answer changes what its core remembers of walks, and then is a reply like any other. -/
theorem State.told_writeReply_wrote (core : n < 1024) (d : Dst) :
    State.Wrote s ((s.told n a.id).writeReply n a d) n (s.core n) ⟨a.id, d, a.own⟩ := by
  obtain ⟨accs, ctx, loc, dies, conj, mem⟩ := State.writeReply_wrote (u := s.told n a.id) (a := a) core d
  have stood : (s.told n a.id).core n =
      { s.core n with fetch := { (s.core n).fetch with gone := (s.core n).fetch.gone.filter fun g => g.1 != a.id } } :=
    State.core_setCore_same ..
  rw [stood] at accs ctx loc
  exact ⟨accs, ctx, loc, dies, conj, mem⟩

/-- R297, R299: a walk for which XLATE does not wait yet is asked for. -/
theorem State.askWalk_new {id : Nat} {w : Walk} (new : (id, w) ∉ (s.core n).fetch.asks) : s.askWalk n id w = some
    (s.setCore n { s.core n with fetch := { (s.core n).fetch with asks := (s.core n).fetch.asks ++ [(id, w)] } }) := by
  rw [State.askWalk, if_neg (by simpa using new)]

/-- R265: to allocate a tag changes the conjunction units alone. -/
theorem State.core_tagAlloc (ds : List Word) (asid : BitVec 12) (m : Nat) : (s.tagAlloc n ds asid).1.core m = s.core m := by
  unfold State.tagAlloc
  dsimp only
  refine iteInduction (motive := fun r : State × Word => r.1.core m = s.core m) (fun _ => rfl) fun _ => ?_
  refine iteInduction (motive := fun r : State × Word => r.1.core m = s.core m) (fun _ => rfl) fun _ => ?_
  split <;> rfl

/-- R328: what a POP does to its core before its reply is written stays in local storage. -/
theorem State.core_popServe {q ts : Nat} {nb : Bool} {asid : BitVec 12} {x : Word}
    (served : s.popServe n a q ts nb asid = some (u, x)) : ∃ l, u.core n = { s.core n with loc := l } := by
  have given {p : Prop} [Decidable p] {t : State} {l : Local} {w : Word}
      (gives : (if p then none else some (t.setCore n { s.core n with loc := l }, w)) = some (u, x)) :
      ∃ l, u.core n = { s.core n with loc := l } := by
    split at gives
    next => simp at gives
    next =>
      obtain ⟨rfl, -⟩ := Prod.mk.inj (Option.some.inj gives)
      exact ⟨l, State.core_setCore_same ..⟩
  have turned {y : Queue} {w : Word} (turns : some (s.setQueue (dieOf n) q y, w) = some (u, x)) :
      ∃ l, u.core n = { s.core n with loc := l } := by
    obtain ⟨rfl, -⟩ := Prod.mk.inj (Option.some.inj turns)
    exact ⟨(s.core n).loc, rfl⟩
  unfold State.popServe at served
  dsimp only at served
  split at served
  next => exact turned served
  next =>
    split at served
    next => exact given served
    next =>
      split at served
      next =>
        split at served
        next => simp at served
        next => exact given served
      next =>
        split at served
        next => exact turned served
        next =>
          split at served
          next => exact turned served
          next => simp at served

end

/-! ### The first access that acts -/

/-- A search finds what the first element that could give anything gives. -/
theorem findSome?_of_find? {α β : Type} {f : α → Option β} {p : α → Bool} {l : List α} {x : α} {y : β}
    (first : l.find? p = some x) (others : ∀ z, p z = false → f z = none) (gives : f x = some y) :
    l.findSome? f = some y := by
  obtain ⟨-, before, after, rfl, skipped⟩ := List.find?_eq_some_iff_append.1 first
  exact List.findSome?_eq_some_iff.2 ⟨before, x, after, rfl, gives, fun z mem => others z (by simpa using skipped z mem)⟩

section
variable {s : State} {n : Nat} {a : Acc}

/-- POP_TIMEOUT: a blocking POP whose time has passed and which nothing serves returns EMPTY. -/
theorem exec_popTimeout {d : GReg} {q ts since : Nat} {nb : Bool} {asid : BitVec 12}
    (first : (s.core n).accs.find? (fun b => match b.kind with | .pop .. => true | _ => false) = some a)
    (asks : a.kind = .pop d q ts nb since asid) (departed : a.departed = true) (waits : s.popServe n a q ts nb asid = none)
    (late : since + (s.queue (dieOf n) q).poplim.toNat ≤ s.time) (dry : (s.settled (s.queue (dieOf n) q)).recs = [])
    (opened : (s.queue (dieOf n) q).closed = false) :
    exec (.popTimeout n) s = .next (s.writeReply n a (.g d (BitVec.ofNat 64 (2 ^ 62)) false)) := by
  have out : s.popTimesOut n = some (s.popAnswer n a d (popWord 1 0)) := by
    refine findSome?_of_find? first (fun b other => ?_) ?_
    · cases kind : b.kind <;> simp_all
    · simp [asks, departed, waits, late, dry, opened]
  show execPopTimeout n s = _
  rw [execPopTimeout, out, Option.getD_some]
  rfl

/-! ### TAG_FREE (R276) -/

/-- A tag's record retired at a time: what it held is gone. -/
def TagRec.retire (q : TagRec) (now : Nat) : TagRec :=
  { q with state := .retired, held := [], pres := 0, next := 0, since := now }

/-- R276: a context frees a tag that it owns; there is no orphan area to write. -/
theorem State.freeTagOf_owned {tg : BitVec 32} {q : TagRec} {ctx : Nat} (tag : s.tag tg = some q) (owner : q.owner = ctx)
    (live : q.state ∈ [TagState.idle, .opened, .broken]) (noArea : q.state = .opened → q.orph = 0) :
    s.freeTagOf ctx tg = s.setTag tg (q.retire s.time) := by
  have owns : s.owns ctx tg = true := by
    simp only [List.mem_cons, List.not_mem_nil, or_false] at live
    rw [State.owns, tag]
    obtain idle | opened | broken := live <;> simp [*]
  have noPiece : (if q.state == .opened then s.orphanArea tg q 4 else (s, false)) = (s, false) := by
    split
    next opened => rw [State.orphanArea, if_pos (noArea (by simpa using opened))]
    next => rfl
  simp only [State.freeTagOf, owns, tag, noPiece]
  rfl

/-- The record of a tag that is allocated is found again where it is put. -/
theorem State.tag_setTag {tg : BitVec 32} {q r : TagRec} (tag : s.tag tg = some q) (scope : r.scope = q.scope) :
    (s.setTag tg r).tag tg = some r := by
  have here : (q.scope == tagScope tg && !s.tagRemote tg) = true := by
    rw [State.tag] at tag
    split at tag
    next r _ =>
      split at tag
      next here => exact Option.some.inj tag ▸ here
      next => simp at tag
    next => simp at tag
  have put : Map.find? (s.setTag tg r).conj.tags (tagKey tg) = some r := Map.find_put_same ..
  rw [State.tag, put]
  exact if_pos (by rw [scope]; exact here)

/-- The accesses by which TAG_FREE frees the tag. -/
def Acc.frees (tg : BitVec 32) (b : Acc) : Bool := b.departed && decide (b.kind = .tagf tg)

theorem Acc.kind_of_frees {tg : BitVec 32} (frees : a.frees tg = true) : a.departed = true ∧ a.kind = .tagf tg := by
  simpa [Acc.frees] using frees

/-- The first core that has such an access frees the tag with its first. -/
theorem State.tagFrees_first {tg : BitVec 32} (first : s.listed.find? (fun m => (s.core m).accs.any (Acc.frees tg)) = some n)
    (oldest : (s.core n).accs.find? (Acc.frees tg) = some a) :
    s.tagFrees tg = some ((s.dropAcc n a.id).freeTagOf (s.core n).regs.ctxId tg) := by
  have passes (m : Nat) (b : Acc) (other : b.frees tg = false) : (match b.kind with
      | .tagf x => if b.departed && x == tg then some ((s.dropAcc m b.id).freeTagOf (s.core m).regs.ctxId tg) else none
      | _ => none) = none := by
    cases kind : b.kind <;> simp_all [Acc.frees]
  obtain ⟨departed, kind⟩ := Acc.kind_of_frees (List.find?_some oldest)
  refine findSome?_of_find? first (fun m idle => ?_) (findSome?_of_find? oldest (passes n) (by simp [kind, departed]))
  refine List.findSome?_eq_none_iff.2 fun b mem => passes m b ?_
  simpa using List.any_eq_false.1 idle b mem

/-- The tag retires, and of the core that frees it only the access goes. -/
theorem exec_tagFree {tg : BitVec 32} {q : TagRec} (core : n < 1024)
    (first : s.listed.find? (fun m => (s.core m).accs.any (Acc.frees tg)) = some n)
    (oldest : (s.core n).accs.find? (Acc.frees tg) = some a) (tag : s.tag tg = some q)
    (owner : q.owner = (s.core n).regs.ctxId) (live : q.state ∈ [TagState.idle, .opened, .broken])
    (noArea : q.state = .opened → q.orph = 0) :
    leads (.tagFree tg) s fun t => (t.core n).accs = (s.core n).accs.filter (fun b => b.id != a.id)
      ∧ (t.core n).ctx = (s.core n).ctx ∧ t.mem = s.mem
      ∧ t.tag tg = some (q.retire s.time) := by
  let u := s.dropAcc n a.id
  have known : u.tag tg = some q := tag.symm ▸ State.tag_dropAcc ..
  have time : u.time = s.time := State.time_dropAcc ..
  have frees : s.tagFrees tg = some (u.setTag tg (q.retire s.time)) := by
    rw [State.tagFrees_first first oldest, State.freeTagOf_owned known owner live noArea, time]
  have stood : (u.setTag tg (q.retire s.time)).core n = _ := s.core_dropAcc a.id core
  refine ⟨u.setTag tg (q.retire s.time), ?_, ?_, ?_, s.mem_dropAcc a.id core, State.tag_setTag known rfl⟩
  · show execTagFree tg s = _
    rw [execTagFree, frees, Option.getD_some]
  · rw [stood]
  · rw [stood]

end

end Sys2Proof.Machine
end

section
open Sys2Proof Sys2Proof.Machine

/-- Settles O39: `State.Wrote` says what a reply on its way, each answer of the die, and a POP whose time has passed write;
of a TAGF the tag retires. -/
theorem replies : Obligations.replies := by
  intro n k a r tg s c written answers core
  refine ⟨fun sent => ?_, fun late asked => ?_, ?_, ?_⟩
  · obtain ⟨t, runs, ⟨accs, ctx, loc, dies, conj, mem⟩, rest⟩ := exec_variableReply_written core sent
    exact ⟨t, runs, ⟨accs, ctx, loc, dies, conj, mem⟩, rest⟩
  · have departed : a.departed = true := by
      have listed := (List.mem_filter.1 (List.mem_of_getElem? asked)).2
      simp only [Bool.and_eq_true] at listed
      exact listed.1
    have told {u t : State} {d : GReg} {x : Word} (answer : s.answerOf n a = some t)
        (wrote : State.Wrote u t n c ⟨a.id, .g d x false, a.own⟩) : answers u d x := by
      obtain ⟨accs, ctx, loc, dies, conj, mem⟩ := wrote
      exact ⟨t, exec_variableReply_answered late asked answer, accs, ctx, loc, dies, conj, mem⟩
    refine ⟨fun d va acc w user asks calm => ⟨fun p page => ?_, fun x fault => ?_, fun v walk new => ?_⟩,
      fun d x asks => ?_, fun d x asks => ?_, fun d ds x asks => ?_, fun d q ts nb since asid u x asks served => ?_⟩
    · exact told (by simp [State.answerOf, departed, asks, State.xlateAnswer, c, calm, page])
        (State.told_writeReply_wrote core _)
    · exact told (by simp [State.answerOf, departed, asks, State.xlateAnswer, c, calm, fault, xlateFails])
        (State.told_writeReply_wrote core _)
    · have walks : s.answerOf n a = some
          (s.setCore n { c with fetch := { c.fetch with asks := c.fetch.asks ++ [(a.id, v)] } }) := by
        simp [State.answerOf, departed, asks, State.xlateAnswer, c, calm, walk, State.askWalk_new new]
      exact ⟨_, exec_variableReply_answered late asked walks, by rw [State.core_setCore_same],
        by rw [State.core_setCore_same], rfl⟩
    · exact told (by simp [State.answerOf, departed, asks]) (State.writeReply_wrote core _)
    · exact told (by simp [State.answerOf, departed, asks]) (State.writeReply_wrote core _)
    · refine told (by simp [State.answerOf, departed, asks]; rfl) ?_
      exact (State.writeReply_wrote core _).of_core (l := c.loc) (s.core_tagAlloc ds x n)
    · refine told (by simp [State.answerOf, departed, asks, served]; rfl) ?_
      obtain ⟨l, stood⟩ := State.core_popServe served
      exact (State.writeReply_wrote core _).of_core stood
  · intro d q ts nb since asid first asks departed waits late dry opened
    obtain ⟨accs, ctx, loc, dies, conj, mem⟩ :=
      State.writeReply_wrote (u := s) (a := a) core (.g d (BitVec.ofNat 64 (2 ^ 62)) false)
    exact ⟨_, exec_popTimeout first asks departed waits late dry opened, accs, ctx, loc, dies, conj, mem⟩
  · intro frees q first oldest tag owner live noArea
    exact exec_tagFree core first oldest tag owner live noArea
end

section
/-! Transfers, delay bundles and loops: where a bundle that is passed or that transfers leads (R130 to R140). -/

namespace Sys2Proof.Machine

/-! ### Passing a bundle (R130) -/

/-- R131: the first delay bundle is followed by the second. -/
theorem Core.pass_first_delay {c : Core} (pend : c.ctx.seqr.pend = 2) :
    c.pass.ctx.pc = c.ctx.pc + 32 ∧ c.pass.ctx.seqr = { c.ctx.seqr with pend := 1 } := by
  simp [Core.pass, advance, pend]

/-- R131: the second delay bundle is followed by the target. -/
theorem Core.pass_second_delay {c : Core} (pend : c.ctx.seqr.pend = 1) :
    c.pass.ctx.pc = c.ctx.seqr.tgt ∧ c.pass.ctx.seqr = { c.ctx.seqr with pend := 0 } := by
  simp [Core.pass, advance, pend]

/-! ### A loop (R139, R140) -/

/-- The core stands at bundle `i` of the loop body of `n` bundles from `start` on, with `left` rounds to come after this one. -/
structure Core.AtLoop (c : Core) (start : Word) (n i left : Nat) : Prop where
  pc : c.ctx.pc = start + BitVec.ofNat 64 (32 * i)
  pend : c.ctx.seqr.pend = 0
  loop : c.ctx.seqr.loop = true
  lstart : c.ctx.seqr.lstart = start
  llen : c.ctx.seqr.llen.toNat = n - 1
  lrem : c.ctx.seqr.lrem.toNat = left

section
variable {c : Core} {start : Word} {n i left : Nat}

/-- Within 64 bundles, bundle `i` of the body is the last one where its address is that of the last. -/
theorem Core.AtLoop.last_iff (h : c.AtLoop start n i left) (long : n ≤ 64) (inside : i < n) :
    c.ctx.pc = c.ctx.seqr.lstart + BitVec.ofNat 64 (32 * c.ctx.seqr.llen.toNat) ↔ i + 1 = n := by
  rw [h.pc, h.lstart, h.llen, BitVec.add_right_inj, ← BitVec.toNat_inj, BitVec.toNat_ofNat, BitVec.toNat_ofNat]
  omega

/-- Inside the body the next bundle follows. -/
theorem Core.AtLoop.next (h : c.AtLoop start n i left) (long : n ≤ 64) (inside : i + 1 < n) :
    c.pass.AtLoop start n (i + 1) left := by
  have inner : ¬ c.ctx.pc = c.ctx.seqr.lstart + BitVec.ofNat 64 (32 * c.ctx.seqr.llen.toNat) := by
    rw [h.last_iff long (by omega)]; omega
  have moved : advance c.ctx.seqr c.ctx.pc = (c.ctx.pc + 32, c.ctx.seqr) := by
    simp [advance, h.pend, inner]
  refine ⟨?_, ?_, ?_, ?_, ?_, ?_⟩ <;> rw [Core.pass, moved]
  · rw [Core.goto_pc, h.pc, BitVec.add_assoc, Nat.mul_succ, BitVec.ofNat_add]
    rfl
  · exact h.pend
  · exact h.loop
  · exact h.lstart
  · exact h.llen
  · exact h.lrem

/-- After the last bundle of a round that is not the last one the body begins again. -/
theorem Core.AtLoop.again (h : c.AtLoop start n i (left + 1)) (long : n ≤ 64) (last : i + 1 = n) :
    c.pass.AtLoop start n 0 left := by
  have rounds : ¬ c.ctx.seqr.lrem = 0#32 := fun none_left => by
    have := h.lrem
    rw [none_left] at this
    exact absurd this (by simp)
  have moved : advance c.ctx.seqr c.ctx.pc
      = (c.ctx.seqr.lstart, { c.ctx.seqr with lrem := c.ctx.seqr.lrem - 1 }) := by
    simp [advance, h.pend, h.loop, (h.last_iff long (by omega)).2 last, rounds]
  refine ⟨?_, ?_, ?_, ?_, ?_, ?_⟩ <;> rw [Core.pass, moved]
  · simpa using h.lstart
  · exact h.pend
  · exact h.loop
  · exact h.lstart
  · exact h.llen
  · have := h.lrem
    simp only [Core.goto_seqr]
    bv_omega

/-- After the last bundle of the last round the loop ends, and the core goes on behind the body. -/
theorem Core.AtLoop.ends (h : c.AtLoop start n i 0) (long : n ≤ 64) (last : i + 1 = n) :
    c.pass.ctx.pc = start + BitVec.ofNat 64 (32 * n) ∧ c.pass.ctx.seqr.loop = false := by
  have finished : c.ctx.seqr.lrem = 0 := BitVec.eq_of_toNat_eq h.lrem
  have moved : advance c.ctx.seqr c.ctx.pc = (c.ctx.pc + 32, { c.ctx.seqr with loop := false }) := by
    simp [advance, h.pend, h.loop, (h.last_iff long (by omega)).2 last, finished]
  rw [Core.pass, moved, Core.goto_pc, h.pc, ← last, BitVec.add_assoc, Nat.mul_succ, BitVec.ofNat_add]
  exact ⟨rfl, rfl⟩

/-- A round issues the bundles of the body one after another. -/
theorem Core.AtLoop.round (h : c.AtLoop start n 0 left) (long : n ≤ 64) (inside : i < n) :
    (Core.pass^[i] c).AtLoop start n i left := by
  induction i with
  | zero => exact h
  | succ i ih =>
    rw [Function.iterate_succ_apply']
    exact (ih (by omega)).next long inside

/-- After `q` rounds the core stands at the body's first bundle again. -/
theorem Core.AtLoop.rounds {q : Nat} (h : c.AtLoop start n 0 (q + left)) (some_body : 1 ≤ n) (long : n ≤ 64) :
    (Core.pass^[n * q] c).AtLoop start n 0 left := by
  induction q generalizing c with
  | zero => simpa using h
  | succ q ih =>
    have first : (Core.pass^[n] c).AtLoop start n 0 (q + left) := by
      obtain ⟨k, rfl⟩ := Nat.exists_eq_succ_of_ne_zero (by omega : n ≠ 0)
      rw [Function.iterate_succ_apply']
      rw [Nat.add_right_comm] at h
      exact (h.round long k.lt_succ_self).again long rfl
    rw [Nat.mul_succ, Function.iterate_add_apply]
    exact ih first

/-- LBM with a count that is not zero starts the loop at the bundle after it. -/
theorem Core.atLoop_lbmStart {k : BitVec 32} (pend : c.ctx.seqr.pend = 0) (some_body : 1 ≤ n) (long : n ≤ 64)
    (counted : k ≠ 0) :
    (c.goto (lbmStart c.ctx.seqr c.ctx.pc n k)).AtLoop (c.ctx.pc + 32) n 0 (k.toNat - 1) := by
  have positive : 0 < k.toNat := Nat.pos_of_ne_zero fun zero => counted (BitVec.eq_of_toNat_eq zero)
  have started : lbmStart c.ctx.seqr c.ctx.pc n k = (c.ctx.pc + 32, { c.ctx.seqr with
      loop := true, lstart := c.ctx.pc + 32, llen := BitVec.ofNat 6 (n - 1), lrem := k - 1 }) := by
    rw [lbmStart, if_neg counted]
  rw [started]
  refine ⟨by simp, pend, rfl, rfl, ?_, ?_⟩
  · show (BitVec.ofNat 6 (n - 1)).toNat = n - 1
    rw [BitVec.toNat_ofNat]
    omega
  · show (k - 1).toNat = k.toNat - 1
    bv_omega

end

end Sys2Proof.Machine
end

section
open Sys2Proof Sys2Proof.Machine

/-- Settles O18: each of the two delay bundles is passed in turn. -/
theorem delayBundles : Obligations.delay_bundles := by
  intro c x a c1
  have pend : c1.ctx.seqr.pend = 2 := rfl
  obtain ⟨pc2, seqr2⟩ := Core.pass_first_delay pend
  have pend2 : c1.pass.ctx.seqr.pend = 1 := by rw [seqr2]
  obtain ⟨pc3, seqr3⟩ := Core.pass_second_delay pend2
  refine ⟨rfl, ?_, ?_, by rw [seqr3], rfl⟩
  · rw [pc2]
    show a + 32 + 32 = a + 64
    rw [BitVec.add_assoc]
    rfl
  · rw [pc3, seqr2]
    rfl

/-- Settles O19: the bundles of a round by their place in the body, the rounds by the count that is left. -/
theorem loopRunsCountTimes : Obligations.loop_runs_count_times := by
  intro c n k some_body long counted pend a start at_
  have begun : start.AtLoop (a + 32) n 0 (k.toNat - 1) := Core.atLoop_lbmStart pend some_body long counted
  have positive : 0 < k.toNat := Nat.pos_of_ne_zero fun zero => counted (BitVec.eq_of_toNat_eq zero)
  have place (q i left : Nat) (total : q + left = k.toNat - 1) (inside : i < n) :
      (at_ (n * q + i)).AtLoop (a + 32) n i left := by
    show (Core.pass^[n * q + i] start).AtLoop (a + 32) n i left
    rw [Nat.add_comm, Function.iterate_add_apply]
    exact (Core.AtLoop.rounds (total ▸ begun) some_body long).round long inside
  have address (i : Nat) : a + 32 + BitVec.ofNat 64 (32 * i) = a + BitVec.ofNat 64 (32 * (i + 1)) := by
    rw [BitVec.add_assoc, Nat.mul_succ, Nat.add_comm, BitVec.ofNat_add]
    rfl
  refine ⟨fun j early => ?_, ?_⟩
  · have round : j / n < k.toNat := Nat.div_lt_of_lt_mul early
    have stood := (place (j / n) (j % n) (k.toNat - 1 - j / n) (by omega) (Nat.mod_lt j (by omega))).pc
    rwa [Nat.div_add_mod, address] at stood
  · have last := place (k.toNat - 1) (n - 1) 0 rfl (by omega)
    have passed : at_ (n * k.toNat) = (at_ (n * (k.toNat - 1) + (n - 1))).pass := by
      have : n * k.toNat = n * (k.toNat - 1) + (n - 1) + 1 := by
        obtain ⟨r, hr⟩ := Nat.exists_eq_succ_of_ne_zero (Nat.pos_iff_ne_zero.mp positive)
        rw [hr, Nat.mul_succ, Nat.succ_sub_one]
        omega
      show Core.pass^[_] start = _
      rw [this, Function.iterate_succ_apply']
    rw [passed, ← address]
    exact last.ends long (by omega)

end

section
/-! What a taken transfer and an idle cycle leave of the core at hand and of the rest of the module (R131 to R135, R146). -/

namespace Sys2Proof.Machine

/-! ### Transfers -/

section
variable {s u : State} {link : Option GReg} {x : Word}

@[simp] theorem State.mem_take : (s.take link x).mem = s.mem := by cases link <;> rfl

theorem State.core_take_other {n : Nat} (other : n ≠ s.iss.cur) : (s.take link x).core n = s.core n := by
  cases link with
  | none => exact (State.core_moved _ n).trans (s.core_onMe_other _ other)
  | some d =>
    have sent := s.core_send_other 1 (.g d (s.me.ctx.pc + 96) false) 0 0 other
    exact (State.core_moved _ n).trans (((s.send 1 _).core_onMe_other _ other).trans sent)

/-- The link's landing (R134), of a transfer at `pc`. -/
def linkLand (pc : Word) (link : Option GReg) : List Land :=
  link.toList.map fun d => ⟨1, .g d (pc + 96) false, 0, 0⟩

/-- R131, R134: the core at hand jumps, its link in flight. -/
theorem State.me_take : (s.take link x).me
    = { s.me with ctx := { s.me.ctx with pipe := s.me.ctx.pipe ++ linkLand s.me.ctx.pc link } }.jump s.time x := by
  cases link with
  | none => simp [State.take, linkLand]
  | some d =>
    simp [State.take, linkLand, Ctx.send]

/-- A transfer to `x` has been taken, with `sent` put in flight beside it. -/
structure State.Took (s t : State) (x : Word) (sent : List Land) : Prop where
  pc : t.me.ctx.pc = s.me.ctx.pc + 32
  seqr : t.me.ctx.seqr = { s.me.ctx.seqr with pend := 2, tgt := x, loop := false }
  pipe : t.me.ctx.pipe = s.me.ctx.pipe ++ sent
  regs : t.me.ctx.regs = s.me.ctx.regs
  advanced : t.iss.advanced = true
  mem : t.mem = s.mem
  others : ∀ n, n ≠ s.iss.cur → t.core n = s.core n

/-- A plain transfer is taken with its link. -/
theorem Like.took (h : Like u s) : s.Took (u.take link x) x (linkLand s.me.ctx.pc link) where
  pc := by rw [State.me_take, h.me]; rfl
  seqr := by rw [State.me_take, h.me]; rfl
  pipe := by rw [State.me_take, h.me]; rfl
  regs := by rw [State.me_take, h.me]; rfl
  advanced := rfl
  mem := State.mem_take.trans h.mem
  others n other := (State.core_take_other (h.cur ▸ other)).trans (h.core n)

/-- BRT's leaf lands beside its transfer (R135). -/
theorem Like.took_tree (h : Like u s) (leaf : Nat) :
    s.Took (((u.send 1 (.leaf leaf)).onMe fun c => { c with btw := { c.btw with brt := none } }).take none x) x
      [⟨1, .leaf leaf, 0, 0⟩] where
  pc := by simp [State.me_take, h.me, Ctx.send]
  seqr := by simp [State.me_take, h.me, Ctx.send]
  pipe := by simp [State.me_take, h.me, linkLand, Ctx.send]
  regs := by simp [State.me_take, h.me, Ctx.send]
  advanced := rfl
  mem := by simp [h.mem]
  others n other := by
    have away : n ≠ u.iss.cur := h.cur ▸ other
    have sent := u.core_send_other 1 (.leaf leaf) 0 0 away
    refine (State.core_take_other ?_).trans (((u.send 1 (.leaf leaf)).core_onMe_other _ ?_).trans (sent.trans (h.core n)))
    · exact away
    · exact away

/-- R6, R134: a label is a displacement in bundles. -/
theorem Like.label (h : Like u s) (disp : BitVec 30) :
    u.label disp = BitVec.ofInt 64 (s.me.ctx.pc.toInt + 32 * disp.toInt) := by
  rw [State.label, h.me, BitVec.ofInt_add, BitVec.ofInt_toInt]

/-- A ready plain transfer is taken to the target that its operation names. -/
theorem jumpOp_took {i : Instr} {g : Guard} {srcs : List Src} {f : State → Word} {checked : Bool} {y : Word}
    (e : opOf i = some (jumpOp g srcs link f checked)) (hi : ready i s = true) (target : ∀ u, Like u s → f u = y) :
    leads i s fun t => s.Took t y (linkLand s.me.ctx.pc link) :=
  leads_when e hi fun u like => target u like ▸ like.took

/-- R135: the leaf is the number that the four predicates reach. -/
theorem Like.leafOf (h : Like u s) (pw px py pz : PReg) :
    Machine.leafOf (u.opP pw) (u.opP px) (u.opP py) (u.opP pz) =
      let P := s.me.ctx.regs.pv
      if P pw = false then (if P px = false then 0 else 1)
      else if P py = false then 2 else if P pz = false then 3 else 4 := by
  simp [Machine.leafOf, h.opP]

/-- A ready BRT is taken to the entry that has arrived. -/
theorem brt_took {g : Guard} {a : GSrc} {pw px py pz : PReg} (arrived : s.me.btw.brt = some (x, false))
    (hi : ready (.brt g a pw px py pz) s = true) : leads (.brt g a pw px py pz) s fun t =>
      s.Took t x [⟨1, .leaf (let P := s.me.ctx.regs.pv
        if P pw = false then (if P px = false then 0 else 1)
        else if P py = false then 2 else if P pz = false then 3 else 4), 0, 0⟩] := by
  refine leads_when rfl hi fun u like => ?_
  have entry : u.me.btw.brt = some (x, false) := like.me ▸ arrived
  rw [← like.leafOf]
  simp only [opBrt, entry]
  exact like.took_tree _

end

/-! ### An idle cycle -/

/-- R100: landings leave the sequencing of the context and its count of cycles. -/
theorem Ctx.advance_keeps (x : Ctx) : x.advance.pc = x.pc ∧ x.advance.seqr = x.seqr ∧ x.advance.cycle = x.cycle
    ∧ x.advance.idleRun = x.idleRun ∧ x.advance.pipe = staying x.pipe := by
  have landed (ls : List Land) (y : Ctx) : (ls.foldl Ctx.land y).pc = y.pc ∧ (ls.foldl Ctx.land y).seqr = y.seqr
      ∧ (ls.foldl Ctx.land y).cycle = y.cycle ∧ (ls.foldl Ctx.land y).idleRun = y.idleRun := by
    induction ls generalizing y with
    | nil => exact ⟨rfl, rfl, rfl, rfl⟩
    | cons l ls ih => exact ih (y.land l)
  obtain ⟨pc, seqr, cycle, idleRun⟩ := landed (landing x.pipe) x
  exact ⟨pc, seqr, cycle, idleRun, rfl⟩

/-- R146, R226: an idle cycle counts outside a handler, and every result in flight advances. -/
theorem Core.idleCycle_ctx (c : Core) (tick : Nat) :
    let x := (c.idleCycle tick).ctx
    x.pc = c.ctx.pc ∧ x.seqr = c.ctx.seqr ∧ x.cycle = (if c.inTrap then c.ctx.cycle else c.ctx.cycle + 1)
      ∧ x.idleRun = c.ctx.idleRun ∧ x.pipe = staying c.ctx.pipe := by
  obtain ⟨ctx, -⟩ := ((c.count.endCycle none [] []).drain tick).closeDue_keeps
  obtain ⟨pc, seqr, cycle, idleRun, pipe⟩ := c.count.ctx.advance_keeps
  intro x
  have same : x = { c.count.ctx.advance with sig := x.sig } := by
    show (c.idleCycle tick).ctx = { c.count.ctx.advance with sig := (c.idleCycle tick).ctx.sig }
    rw [show (c.idleCycle tick).ctx = _ from ctx]
    rfl
  rw [same]
  refine ⟨pc.trans ?_, seqr.trans ?_, cycle.trans ?_, idleRun.trans ?_, pipe.trans ?_⟩ <;>
    (rw [Core.count]; split <;> rfl)

end Sys2Proof.Machine
end

section
open Sys2Proof Sys2Proof.Machine

/-- Settles O16: every transfer is taken in one way, with or without its link; BRT's target is the entry. -/
theorem transfers : Obligations.transfers := by
  intro g d a disp pw px py pz s pc label P leaf goes link
  have took {i : Instr} {x : Word} {sent : List Land} (h : ready i s = true → leads i s fun t => s.Took t x sent) :
      goes i x sent := fun hi => by
    obtain ⟨t, runs, pc, seqr, pipe, regs, advanced, mem, others⟩ := h hi
    exact ⟨t, runs, pc, seqr, pipe, regs, advanced, mem, others⟩
  refine ⟨took fun hi => ?_, took fun hi => ?_, took fun hi => ?_, took fun hi => ?_, took fun hi => ?_,
    fun x arrived => took fun hi => brt_took arrived hi⟩
  · exact jumpOp_took (link := none) rfl hi fun u like => like.label disp
  · exact jumpOp_took (link := none) rfl hi fun u like => like.opA a
  · exact jumpOp_took (link := none) rfl hi fun u like => like.opA a
  · exact jumpOp_took (link := some d) rfl hi fun u like => like.label disp
  · exact jumpOp_took (link := some d) rfl hi fun u like => like.opA a

/-- Settles O17: LBM goes where `lbmStart` says, and PFI adds its lines to those asked for. -/
theorem loopsAndPrefetch : Obligations.loops_and_prefetch := by
  intro g a n k disp s pc count
  refine ⟨fun hi => leads_when rfl hi fun u like => ?_, completes_when rfl fun u like => ?_⟩
  · have counted : (u.opA a).extractLsb' 0 32 = count := congrArg (BitVec.extractLsb' 0 32) (like.opA a)
    have llen : BitVec.ofNat 6 (n.toNat + 1 - 1) = n := by simp
    have looped : ((opLbm g a n).run u).me = { s.me.goto (lbmStart s.me.ctx.seqr pc (n.toNat + 1) count) with
        fetch := { (s.me.goto (lbmStart s.me.ctx.seqr pc (n.toNat + 1) count)).fetch with loopBuf := [] } } := by
      simp only [opLbm, counted, State.me_moved, State.me_onMe, like.me, pc]
    rw [looped]
    refine ⟨?_, rfl, rfl, rfl, like.mem⟩
    rw [Core.goto, lbmStart, llen]
    split
    · exact ⟨rfl, rfl⟩
    · exact ⟨rfl, rfl⟩
  · have at_label : (u.label disp).toNat = (pc + BitVec.ofInt 64 (32 * disp.toInt)).toNat := by rw [State.label, like.me]
    simp only [opPfi, at_label, alignDown]

/-- Settles O25: the idle cycle, and then the next one or the bundle after. -/
theorem idleRuns : Obligations.idle_runs := by
  intro k s
  obtain ⟨pc, seqr, cycle, idleRun, pipe⟩ := s.me.idleCycle_ctx s.tick
  refine ⟨_, rfl, ?_⟩
  simp only [State.me_over, State.me_setMe]
  rw [← cycle, ← pc, ← seqr, ← idleRun, Core.idled]
  split
  · exact ⟨⟨rfl, rfl, rfl⟩, rfl, pipe, rfl, rfl⟩
  · exact ⟨⟨rfl, rfl, rfl⟩, rfl, pipe, rfl, rfl⟩

end

section
/-! The sequencer's record of a trap (Table CTL-4) and the return from a trap (R144, R147, R223). -/

namespace Sys2Proof.Machine

/-! ### The fields of TCAUSE and TSEQ -/

/-- R147: the position in the loop body that TSEQ records. -/
def Seqr.lpos (q : Seqr) (pc : Word) : Nat := if q.loop then lposOf pc q.lstart % 64 else 0

theorem Seqr.lpos_lt (q : Seqr) (pc : Word) : q.lpos pc < 64 := by
  rw [Seqr.lpos]
  split
  · exact Nat.mod_lt _ (by decide)
  · decide

section
variable (q : Seqr) (pc : Word) (xfer done : Bool) (idle : Nat)

/-- TSEQ as a number: the fields side by side. -/
theorem tseqWord_toNat : (tseqWord q pc xfer done idle).toNat =
    q.lrem.toNat * 2 ^ 32 + q.loop.toNat * 2 ^ 31 + q.llen.toNat * 2 ^ 25 + q.lpos pc * 2 ^ 19 + q.pend.toNat * 2 ^ 17
      + xfer.toNat * 2 ^ 13 + done.toNat * 2 ^ 12 + idle % 4096 := by
  have := q.lpos_lt pc
  have := q.loop.toNat_lt
  have := xfer.toNat_lt
  have := done.toNat_lt
  rw [tseqWord, BitVec.toNat_ofNat, ← Seqr.lpos]
  omega

/-- A flag of TSEQ is the bit at its place. -/
theorem tseqWord_getLsbD (i : Nat) : (tseqWord q pc xfer done idle).getLsbD i =
    decide ((tseqWord q pc xfer done idle).toNat / 2 ^ i % 2 = 1) := by
  rw [BitVec.getLsbD, Nat.testBit_eq_decide_div_mod_eq]

theorem tseqLrem_tseqWord : tseqLrem (tseqWord q pc xfer done idle) = q.lrem := by
  have := q.lpos_lt pc
  have := q.loop.toNat_lt
  have := xfer.toNat_lt
  have := done.toNat_lt
  apply BitVec.eq_of_toNat_eq
  rw [tseqLrem, BitVec.extractLsb'_toNat, Nat.shiftRight_eq_div_pow, tseqWord_toNat]
  omega

theorem tseqLlen_tseqWord : tseqLlen (tseqWord q pc xfer done idle) = q.llen := by
  have := q.lpos_lt pc
  have := xfer.toNat_lt
  have := done.toNat_lt
  apply BitVec.eq_of_toNat_eq
  rw [tseqLlen, BitVec.extractLsb'_toNat, Nat.shiftRight_eq_div_pow, tseqWord_toNat]
  omega

theorem tseqLpos_tseqWord : (tseqLpos (tseqWord q pc xfer done idle)).toNat = q.lpos pc := by
  have := q.lpos_lt pc
  have := xfer.toNat_lt
  have := done.toNat_lt
  rw [tseqLpos, BitVec.extractLsb'_toNat, Nat.shiftRight_eq_div_pow, tseqWord_toNat]
  omega

theorem tseqPend_tseqWord : tseqPend (tseqWord q pc xfer done idle) = q.pend := by
  have := xfer.toNat_lt
  have := done.toNat_lt
  apply BitVec.eq_of_toNat_eq
  rw [tseqPend, BitVec.extractLsb'_toNat, Nat.shiftRight_eq_div_pow, tseqWord_toNat]
  omega

theorem tseqLoop_tseqWord : tseqLoop (tseqWord q pc xfer done idle) = q.loop := by
  have := q.lpos_lt pc
  have := xfer.toNat_lt
  have := done.toNat_lt
  have bit : (tseqWord q pc xfer done idle).toNat / 2 ^ 31 % 2 = q.loop.toNat := by
    have := q.loop.toNat_lt
    rw [tseqWord_toNat]
    omega
  rw [tseqLoop, tseqWord_getLsbD, bit]
  cases q.loop <;> rfl

theorem tseqXfer_tseqWord : tseqXfer (tseqWord q pc xfer done idle) = xfer := by
  have bit : (tseqWord q pc xfer done idle).toNat / 2 ^ 13 % 2 = xfer.toNat := by
    have := xfer.toNat_lt
    have := done.toNat_lt
    rw [tseqWord_toNat]
    omega
  rw [tseqXfer, tseqWord_getLsbD, bit]
  cases xfer <;> rfl

end

/-- Table TRP-3: bit 16 of TCAUSE is the mode that the trap found. -/
theorem causeWord_ppriv {code sub : Nat} (b : Bool) (hc : code < 256) (hs : sub < 256) :
    (causeWord code sub b).getLsbD 16 = b := by
  rw [causeWord, BitVec.getLsbD_ofNat, Nat.testBit_eq_decide_div_mod_eq]
  have bit : (code + 256 * sub + 65536 * b.toNat + 131072) / 2 ^ 16 % 2 = b.toNat := by
    have := b.toNat_lt
    omega
  rw [bit]
  cases b <;> rfl

/-- An aligned address is its own bundle's. -/
theorem and_not_31 {x : Word} (aligned : x &&& 31 = 0) : x &&& ~~~31 = x := by
  have whole : x &&& 31 ||| x &&& ~~~31 = x := by
    rw [← BitVec.and_or_distrib_left, BitVec.or_not_self, BitVec.and_allOnes]
  rw [aligned] at whole
  exact BitVec.zero_or.symm.trans whole

@[simp] theorem TrapRegs.intrap_setIntrap (t : TrapRegs) (b : Bool) : (t.setIntrap b).intrap = b := by
  rw [TrapRegs.intrap, TrapRegs.setIntrap, getLsbD_putBit _ _ (by decide), if_pos rfl]

/-! ### The return -/

/-- A context with its parked replies written (R223). -/
def Ctx.unparked (x : Ctx) : Ctx :=
  { x with regs := x.parked.foldl (fun r p => r.applyReply p.dst) x.regs, parked := [] }

theorem Ctx.unparked_of_nil {x : Ctx} (h : x.parked = []) : x.unparked = x := by
  rw [Ctx.unparked, h]
  cases x
  cases h
  rfl

/-- Parked replies are written to the context; beside it they reach the commit record alone (R243). -/
theorem Core.unpark_eq (c : Core) :
    ∃ bs, c.unpark = { c with ctx := c.ctx.unparked, btw := { c.btw with replied := bs } } := by
  have written (rs : List Reply) (d : Core) : ∃ bs, rs.foldl (fun d r => d.written r.dst) d
      = { d with ctx := { d.ctx with regs := rs.foldl (fun r p => r.applyReply p.dst) d.ctx.regs }
                 btw := { d.btw with replied := bs } } := by
    induction rs generalizing d with
    | nil => exact ⟨d.btw.replied, rfl⟩
    | cons r rs ih =>
      obtain ⟨bs, e⟩ := ih (d.written r.dst)
      exact ⟨bs, e⟩
  obtain ⟨bs, e⟩ := written c.ctx.parked c
  refine ⟨bs, ?_⟩
  rw [Core.unpark, e]
  rfl

/-- Where ERET goes on (R223): at the trapped bundle, behind it, or with its transfer pending. -/
def TrapRegs.resume (t : TrapRegs) : Word × Seqr :=
  let q := seqrOf t.tseq t.ttgt t.tbundle
  if tseqDone t.tseq then (if tseqXfer t.tseq then transfer q t.tbundle t.ttgt else advance q t.tbundle)
  else (t.tbundle, q)

section
variable {t : TrapRegs}

theorem TrapRegs.resume_refused (h : tseqDone t.tseq = false) : t.resume = (t.tbundle, seqrOf t.tseq t.ttgt t.tbundle) := by
  simp [TrapRegs.resume, h]
theorem TrapRegs.resume_transfer (h : tseqDone t.tseq = true) (taken : tseqXfer t.tseq = true) :
    t.resume = transfer (seqrOf t.tseq t.ttgt t.tbundle) t.tbundle t.ttgt := by
  simp [TrapRegs.resume, h, taken]
theorem TrapRegs.resume_passed (h : tseqDone t.tseq = true) (none_taken : tseqXfer t.tseq = false) :
    t.resume = advance (seqrOf t.tseq t.ttgt t.tbundle) t.tbundle := by
  simp [TrapRegs.resume, h, none_taken]

end

/-- The context that ERET leaves: it depends on the context and the trap registers alone. -/
def Ctx.resumed (x : Ctx) (t : TrapRegs) : Ctx :=
  { x.unparked with
    pc := t.resume.1, seqr := t.resume.2, pipe := x.snap ++ x.pipe, snap := []
    idleRun := if tseqDone t.tseq then 0 else tseqIdle t.tseq
    caph := if tseqDone t.tseq then putBit x.caph 63 false else x.caph }

/-- R144, R223: the return is to the context that the trap registers say, in the mode of PPRIV, with INTRAP clear. -/
theorem Core.return_eq (c : Core) (time : Nat) : ∃ f b tr, c.return_ time =
    { c with ctx := c.ctx.resumed c.trap, sup := c.trap.ppriv, trap := c.trap.setIntrap false, fetch := f, btw := b, trace := tr }
      ∧ (tseqDone c.trap.tseq = false → b.replay = c.ctx.caph.getLsbD 63) := by
  obtain ⟨bs, e⟩ := (c.traced time 3 0 c.ctx.pc).unpark_eq
  unfold Core.return_
  simp only [e, Ctx.resumed, TrapRegs.resume]
  split
  · next done =>
    split
    · exact ⟨_, _, _, rfl, fun not_done => absurd (not_done.symm.trans done) (by decide)⟩
    · exact ⟨_, _, _, rfl, fun not_done => absurd (not_done.symm.trans done) (by decide)⟩
  · exact ⟨_, _, _, rfl, fun _ => rfl⟩

theorem Core.ctx_return (c : Core) (time : Nat) : (c.return_ time).ctx = c.ctx.resumed c.trap := by
  obtain ⟨f, b, tr, e, -⟩ := c.return_eq time
  rw [e]
theorem Core.sup_return (c : Core) (time : Nat) : (c.return_ time).sup = c.trap.ppriv := by
  obtain ⟨f, b, tr, e, -⟩ := c.return_eq time
  rw [e]

end Sys2Proof.Machine
end

section
open Sys2Proof Sys2Proof.Machine

/-- Settles O22: the end of ERET's cycle leaves the trap registers, and the return follows them. -/
theorem returnFromTrap : Obligations.return_from_trap := by
  intro g s hi
  refine leads_when rfl hi fun u like => ?_
  obtain ⟨trap, -, -, -, -, caph, -, -, -, mem, -⟩ := u.closeCycleOf_keeps u.me.ctx.pc
  rw [like.me] at trap caph
  obtain ⟨f, b, tr, returned, replay⟩ := u.closeCycle.me.return_eq u.time
  rw [State.closeCycle, like.me, trap, caph] at replay
  have me : ((opEret g).run u).me = u.closeCycle.me.return_ u.time :=
    State.me_onMe u.closeCycle fun c => c.return_ u.time
  rw [returned, State.closeCycle, like.me, trap] at me
  rw [me]
  refine ⟨rfl, TrapRegs.intrap_setIntrap .., rfl, rfl, ?_, rfl, mem.trans like.mem⟩
  simp only [Ctx.resumed]
  split
  · next refused =>
    rw [TrapRegs.resume_refused refused]
    exact ⟨rfl, rfl, replay refused⟩
  · next done =>
    rw [Bool.not_eq_false] at done
    split
    · next taken =>
      rw [TrapRegs.resume_transfer done taken]
      exact ⟨rfl, rfl⟩
    · next none_taken =>
      rw [TrapRegs.resume_passed done (by simpa using none_taken)]
      exact ⟨rfl, rfl⟩

/-- Settles O23: the trap registers keep the address, the mode and the sequencer state, field by field. -/
theorem trapAndReturn : Obligations.trap_and_return := by
  intro c i time hc hs aligned target inside r
  have is_return : r = (c.enter i c.at).return_ time := rfl
  clear_value r
  have tseq : (c.enter i c.at).trap.tseq = tseqWord c.ctx.seqr c.ctx.pc false false c.ctx.idleRun := rfl
  have tbundle : (c.enter i c.at).trap.tbundle = c.ctx.pc := and_not_31 aligned
  have ttgt : (c.enter i c.at).trap.ttgt = c.ctx.seqr.tgt := and_not_31 target
  have resume : (c.enter i c.at).trap.resume = (c.ctx.pc, seqrOf (tseqWord c.ctx.seqr c.ctx.pc false false c.ctx.idleRun)
      c.ctx.seqr.tgt c.ctx.pc) := by
    rw [TrapRegs.resume, tseq, tbundle, ttgt, tseqDone_tseqWord, if_neg (by decide)]
  have ctx : r.ctx = (c.enter i c.at).ctx.resumed (c.enter i c.at).trap := is_return ▸ Core.ctx_return ..
  have sup : r.sup = (causeWord i.code i.sub c.sup).getLsbD 16 := is_return ▸ Core.sup_return ..
  have pc : r.ctx.pc = c.ctx.pc := by rw [ctx, Ctx.resumed, resume]
  have seqr : r.ctx.seqr = seqrOf (tseqWord c.ctx.seqr c.ctx.pc false false c.ctx.idleRun) c.ctx.seqr.tgt c.ctx.pc := by
    rw [ctx, Ctx.resumed, resume]
  have pipe : r.ctx.pipe = c.ctx.pipe := by rw [ctx]; exact List.append_nil _
  rw [sup, causeWord_ppriv c.sup hc hs, seqr, seqrOf, tseqPend_tseqWord, tseqLoop_tseqWord, tseqLlen_tseqWord,
    tseqLrem_tseqWord, tseqLpos_tseqWord]
  refine ⟨pc, rfl, rfl, rfl, rfl, rfl, rfl, fun looping => ?_, pipe, fun none_parked => ?_⟩
  · obtain ⟨k, within, stands⟩ := inside looping
    have lpos : c.ctx.seqr.lpos c.ctx.pc = k := by
      rw [Seqr.lpos, if_pos looping, lposOf, stands, add_sub_cancel_left, BitVec.toNat_ofNat]
      omega
    show c.ctx.pc - BitVec.ofNat 64 (32 * c.ctx.seqr.lpos c.ctx.pc) = c.ctx.seqr.lstart
    rw [lpos, stands, BitVec.add_sub_cancel]
  · have parked : (c.enter i c.at).ctx.parked = [] := none_parked
    rw [ctx, Ctx.resumed, Ctx.unparked_of_nil parked]
    rfl

end
section
/-! Completed traps and HALT (R142, R143): what the end of the bundle's cycle leaves for them. -/

namespace Sys2Proof.Machine

/-- The bundle at hand as a completed trap records it. -/
def State.doneHere (s : State) : TrapAt :=
  { pc := s.me.ctx.pc, seqr := s.me.ctx.seqr, done := true, xfer := none, idle := 0 }

/-- R142, R222: outside a handler a completed trap is entered from the core `d` that the end of the cycle leaves. -/
theorem State.me_completed (s : State) (t : TrapInfo) (outside : s.me.inTrap = false) :
    ∃ (d : Core) (v : Trace), (s.completed t).me = { d.enter t s.doneHere with trace := v } ∧ d.trap = s.me.trap ∧ d.sup = s.me.sup := by
  obtain ⟨trap, sup, -⟩ := s.closeCycleOf_keeps s.me.ctx.pc
  let u := s.closeCycle.onMe fun c => { c with btw := { c.btw with ckpted := false } }
  have me : u.core u.iss.cur = { s.closeCycle.me with btw := { s.closeCycle.me.btw with ckpted := false } } :=
    State.me_onMe ..
  have same_trap : (u.core u.iss.cur).trap = s.me.trap := me ▸ trap
  have same_sup : (u.core u.iss.cur).sup = s.me.sup := me ▸ sup
  have still_outside : (u.core u.iss.cur).inTrap = false := by rw [Core.inTrap, same_trap, same_sup]; exact outside
  obtain ⟨r, tr, v, entered⟩ := State.trapWith_enter u u.iss.cur t s.doneHere still_outside
  have cur : (u.trapWith u.iss.cur t s.doneHere).iss = u.iss := State.cur_trapWith ..
  refine ⟨{ u.core u.iss.cur with run := r, trace := tr }, v, ?_, same_trap, same_sup⟩
  show (u.trapWith u.iss.cur t s.doneHere).core (u.trapWith u.iss.cur t s.doneHere).iss.cur = _
  rw [cur, entered, State.core_setCore_same]

theorem State.mem_completed (s : State) (t : TrapInfo) : (s.completed t).mem = s.mem := State.mem_trapWith ..

/-- R142: what TRAP and BRK, with trap `k` and their code, leave in the handler that they enter. -/
theorem completed_trap {i : Instr} {o : Op} {s : State} {k : Nat} {code : BitVec 16} (e : opOf i = some o)
    (run : ∀ u, o.run u = u.completed ⟨k, 0, 0, code.setWidth 64⟩) (outside : s.me.inTrap = false)
    (hi : ready i s = true) : leads i s fun t =>
      t.me.trap.tcause = BitVec.ofNat 64 (k + 65536 * s.me.sup.toNat + 131072)
      ∧ t.me.trap.tbundle = (s.me.ctx.pc &&& ~~~31) ∧ t.me.trap.tslot = 0 ∧ t.me.trap.tinfo = code.setWidth 64
      ∧ tseqDone t.me.trap.tseq = true ∧ tseqXfer t.me.trap.tseq = false
      ∧ t.me.ctx.pc = s.me.trap.tvec ∧ t.me.sup = true ∧ t.me.ctx.pipe = [] ∧ t.iss.ended = true ∧ t.mem = s.mem := by
  refine leads_when e hi fun u like => ?_
  rw [run u]
  obtain ⟨d, v, entered, trap, sup⟩ := u.me_completed ⟨k, 0, 0, code.setWidth 64⟩ (like.me ▸ outside)
  rw [entered, ← like.me, ← trap, ← sup]
  exact ⟨rfl, rfl, rfl, rfl, tseqDone_tseqWord .., tseqXfer_tseqWord .., rfl, rfl, rfl, rfl,
    (u.mem_completed _).trans like.mem⟩

/-- A core whose HALT has begun to end its context, the commit to come. -/
def Core.beginsHalt (c : Core) : Core :=
  { c with
    ctx := { c.ctx with seqr := Seqr.zero }
    fetch := { c.fetch with loopBuf := [] }
    btw := { c.btw with halting := true, haltCommit := true } }

theorem State.me_halt (s : State) : s.halt.me = s.closeCycle.me.beginsHalt := State.me_onMe s.closeCycle Core.beginsHalt

/-- R143, steps 2 and 3: the replies are written, and the kept results fly with the handler's. -/
theorem Core.endTrapped_eq (c : Core) : ∃ bs, c.endTrapped =
    { c with ctx := { c.ctx.unparked with caph := 0, pipe := c.ctx.snap ++ c.ctx.pipe, snap := [] }
             btw := { c.btw with replied := bs } } := by
  obtain ⟨bs, e⟩ := ({ c with ctx := { c.ctx with caph := 0 } } : Core).unpark_eq
  refine ⟨bs, ?_⟩
  rw [Core.endTrapped, e]
  rfl

/-- R143, step 4: out of the handler, with every reply written. -/
theorem Core.leaveTrap_keeps (c : Core) :
    c.leaveTrap.inTrap = false ∧ c.leaveTrap.ctx.parked = [] ∧ c.leaveTrap.ctx.pc = c.ctx.pc := by
  obtain ⟨bs, e⟩ := c.unpark_eq
  rw [Core.leaveTrap, e]
  refine ⟨?_, rfl, rfl⟩
  show (c.sup && (c.trap.setIntrap false).intrap) = false
  rw [TrapRegs.intrap_setIntrap, Bool.and_false]

end Sys2Proof.Machine
end

section
open Sys2Proof Sys2Proof.Machine

/-- Settles O21: TRAP and BRK are one completed trap with two numbers; HALT ends its cycle and begins to end the
context. -/
theorem trapsAndHalt : Obligations.traps_and_halt := by
  refine ⟨fun g code s outside => ⟨completed_trap rfl (fun _ => rfl) outside, completed_trap rfl (fun _ => rfl) outside⟩,
    fun g s hi => leads_when rfl hi fun u like => ?_, Core.leaveTrap_keeps⟩
  obtain ⟨trap, sup, -⟩ := u.closeCycleOf_keeps u.me.ctx.pc
  have me : ((opHalt g).run u).me = u.closeCycle.me.beginsHalt := u.me_halt
  rw [me, ← like.me]
  exact ⟨rfl, rfl, rfl, rfl, trap, sup, rfl, like.mem⟩

end

section
/-! The end of a segment: what a commit leaves of the core, and when SEGMENT_COMMIT makes it (R145, R230, R244, R304). -/

namespace Sys2Proof.Machine

/-! ### What a commit releases (R304) -/

theorem releaseAccs_eq (accs : List Acc) (seg commit : Nat) : releaseAccs accs seg commit =
    accs.map fun a => if a.held ∧ a.seg ≤ seg then { a with held := false, commit := commit } else a := by
  simp [releaseAccs]

/-- Core `d` has the segment of `c` closed: it is in the next one, and the effects of the old one are released, or wait where
the pair is a protected one (R244). -/
structure Core.Closed (c d : Core) (wait : Bool) (thermal : List Word) : Prop where
  seg : d.btw.seg = c.btw.seg + 1
  commits : d.btw.commits = c.btw.commits + 1
  pc : d.ctx.pc = c.ctx.pc
  regs : d.ctx.regs = c.ctx.regs
  sig : d.ctx.sig = 0
  thermal : d.ctx.thermal = some thermal
  effects : if wait then
      d.btw.closing = c.btw.closing ++ [(2, c.btw.seg, c.entry)] ∧ d.accs = c.accs ∧ d.held = c.held ∧ d.engine = c.engine
    else
      d.accs = (c.accs.map fun a => if a.held ∧ a.seg ≤ c.btw.seg then
        { a with held := false, commit := c.btw.commits + 1 } else a)
      ∧ d.held = c.held.filter (fun e => decide (c.btw.seg < e.seg))
      ∧ d.engine = c.engine ++ (c.held.filter fun e => decide (e.seg ≤ c.btw.seg)).map
          fun e => e.marked (releaseMark d.accs) (c.btw.commits + 1)

section
variable {c d : Core} {wait ck : Bool} {th : List Word}

/-- A trace entry and marks between bundles do not bear on it. -/
theorem Core.Closed.mark (h : c.Closed d wait th) (t : Trace) (b : Between) (seg : b.seg = d.btw.seg)
    (commits : b.commits = d.btw.commits) (closing : b.closing = d.btw.closing) :
    c.Closed { d with trace := t, btw := b } wait th :=
  ⟨seg.trans h.seg, commits.trans h.commits, h.pc, h.regs, h.sig, h.thermal, by
    have effects := h.effects
    rw [← closing] at effects
    exact effects⟩

theorem Core.Closed.traced (h : c.Closed d wait th) (time kind info : Nat) (addr : Word) :
    c.Closed (d.traced time kind info addr) wait th := h.mark _ _ rfl rfl rfl

/-- The parts of a commit of the segment at hand release what it holds. -/
theorem Core.held_commitParts (c : Core) :
    (c.commitParts c.btw.seg).held = c.held.filter fun e => decide (c.btw.seg < e.seg) :=
  List.filter_congr fun _ _ => decide_not.symm.trans (decide_eq_decide.2 Nat.not_le)

/-- R145: a checkpoint closes the segment, with the snapshot of this moment (R367). -/
theorem Core.checkpoint_closed (c : Core) (r : Recov) : c.Closed
    ({ c with recov := r, ctx := { c.ctx with thermal := some th } }.checkpoint wait ck) wait th := by
  cases wait with
  | true => exact ⟨rfl, rfl, rfl, rfl, rfl, rfl, rfl, rfl, rfl, rfl⟩
  | false => exact ⟨rfl, rfl, rfl, rfl, rfl, rfl, releaseAccs_eq .., Core.held_commitParts c, rfl⟩

section
variable (c : Core) (time : Nat) (handler : c.inTrap = true)
include handler

/-- R230: so does SEGCTL. -/
theorem Core.segctl_closed : c.Closed (c.segctl wait time th) wait th := by
  rw [Core.segctl, if_neg (by simp [handler])]
  cases wait with
  | true => exact ⟨rfl, rfl, rfl, rfl, rfl, rfl, rfl, rfl, rfl, rfl⟩
  | false => exact ⟨rfl, rfl, rfl, rfl, rfl, rfl, releaseAccs_eq .., Core.held_commitParts c, rfl⟩

/-- Beside it a commit by SEGCTL leaves the trapped context, the trap registers and the mode as they are. -/
theorem Core.segctl_keeps : (c.segctl wait time th).ctx = { c.ctx with sig := 0, thermal := some th }
    ∧ (c.segctl wait time th).trap = c.trap ∧ (c.segctl wait time th).sup = c.sup := by
  rw [Core.segctl, if_neg (by simp [handler])]
  cases wait with
  | true => exact ⟨rfl, rfl, rfl⟩
  | false => exact ⟨rfl, rfl, rfl⟩

/-- Its entry is the context that ERET would resume, with the privilege of PPRIV. -/
theorem Core.entry_segctl : (c.segctl wait time th).entry =
    { Ctx.resumed { c.ctx with sig := 0, thermal := some th } c.trap with priv := c.trap.ppriv } := by
  rw [Core.segctl, if_neg (by simp [handler])]
  cases wait with
  | true => exact congrArg (fun x : Ctx => { x with priv := c.trap.ppriv }) (Core.ctx_return ..)
  | false => exact congrArg (fun x : Ctx => { x with priv := c.trap.ppriv }) (Core.ctx_return ..)

end

end

/-! ### SEGMENT_COMMIT and SEGCTL_COMMIT -/

/-- A core that is put twice is as it was put last. -/
theorem Map.put_put {α : Type} (m : Map α) (k : Nat) (v w : α) : Map.put (Map.put m k v) k w = Map.put m k w := by
  induction m with
  | nil => simp [Map.put]
  | cons e m ih =>
    obtain ⟨j, x⟩ := e
    by_cases before : k < j
    · simp [Map.put, before]
    · by_cases here : k = j
      · simp [Map.put, here]
      · simp [Map.put, before, here, ih]

@[simp] theorem State.setCore_setCore (s : State) (n : Nat) (c d : Core) : (s.setCore n c).setCore n d = s.setCore n d :=
  congrArg (fun cores => { s with cores := cores }) (Map.put_put ..)

section
variable {s : State} {n : Nat} {ck : Bool}

/-- The core with its segment closed. -/
def State.closedCore (s : State) (n : Nat) (ck : Bool) : Core := (s.closeSegment n ck).core n

theorem State.closeSegment_eq : s.closeSegment n ck = s.setCore n (s.closedCore n ck) := by
  rw [State.closedCore, State.closeSegment, State.core_setCore_same]

theorem State.closed_closedCore : (s.core n).Closed (s.closedCore n ck) (s.protected_ n) (s.thermal (dieOf n)) := by
  rw [State.closedCore, State.closeSegment, State.core_setCore_same]
  exact (Core.checkpoint_closed (s.core n) _).traced ..

/-- The next segment's entry is the context as it stands. -/
theorem State.entry_closedCore (s : State) (n : Nat) (ck : Bool) : (s.closedCore n ck).entry = (s.closedCore n ck).ctx := by
  rw [State.closedCore, State.closeSegment, State.core_setCore_same]
  rfl

/-- R231: outside a recovery the end of a segment is its commit. -/
theorem State.endSegment_commit (phase : (s.core n).recov.phase = 0) :
    s.endSegment n ck = (s.closeSegment n ck, true) := by
  have first : (s.core n).rerunEnd = .commit := by rw [Core.rerunEnd, phase]; rfl
  rw [State.endSegment, first]

theorem State.commitAt_eq (phase : (s.core n).recov.phase = 0) (late : Option Bool) : s.commitAt n late =
    let d := s.closedCore n true
    s.setCore n { d with btw := { d.btw with ckpted := true, mid := late } } := by
  simp [State.commitAt, State.endSegment_commit phase, State.closeSegment_eq]

theorem State.commitHalt_eq (outside : (s.core n).inTrap = false) (phase : (s.core n).recov.phase = 0) : s.commitHalt n =
    let d := s.closedCore n false
    s.setCore n { d with btw := { d.btw with haltCommit := false } } := by
  simp [State.commitHalt, outside, State.endSegment_commit phase, State.closeSegment_eq]

/-- The core that SEGCTL leaves. -/
def State.segctlCore (s : State) (n : Nat) : Core := (s.segctl n).core n

section
variable (handler : (s.core n).inTrap = true)
include handler

theorem State.segctlCore_eq : s.segctlCore n =
    ((s.core n).segctl (s.protected_ n) s.time (s.thermal (dieOf n))).traced s.time 5 0 (s.core n).trap.tbundle := by
  rw [State.segctlCore, State.segctl, if_pos handler, State.core_setCore_same]

theorem State.segctl_eq : s.segctl n = s.setCore n (s.segctlCore n) := by
  rw [State.segctlCore_eq handler]
  exact if_pos handler

theorem State.closed_segctlCore : (s.core n).Closed (s.segctlCore n) (s.protected_ n) (s.thermal (dieOf n)) := by
  rw [State.segctlCore_eq handler]
  exact ((s.core n).segctl_closed s.time handler).traced ..

theorem State.segctlCore_keeps : (s.segctlCore n).ctx = { (s.core n).ctx with sig := 0, thermal := some (s.thermal (dieOf n)) }
    ∧ (s.segctlCore n).trap = (s.core n).trap ∧ (s.segctlCore n).sup = (s.core n).sup := by
  rw [State.segctlCore_eq handler]
  exact (s.core n).segctl_keeps s.time handler

theorem State.inTrap_segctlCore : (s.segctlCore n).inTrap = true := by
  obtain ⟨-, trap, sup⟩ := s.segctlCore_keeps handler
  rw [Core.inTrap, trap, sup]
  exact handler

theorem State.entry_segctlCore : (s.segctlCore n).entry =
    { ((s.segctlCore n).return_ s.time).ctx with priv := (s.core n).trap.ppriv } := by
  obtain ⟨ctx, trap, -⟩ := s.segctlCore_keeps handler
  rw [Core.ctx_return, ctx, trap, State.segctlCore_eq handler]
  exact (s.core n).entry_segctl s.time handler

end

/-- R143: in a handler HALT commits as SEGCTL does, and then the trapped context's part ends. -/
theorem State.commitHalt_handler (handler : (s.core n).inTrap = true) : s.commitHalt n =
    let d := (s.segctlCore n).endTrapped
    s.setCore n { d with btw := { d.btw with haltCommit := false } } := by
  simp [State.commitHalt, handler, State.segctl_eq handler]

theorem State.commitDue_bundle {v : View} (run : (s.core n).run = .run) (halting : (s.core n).btw.halting = false)
    (midway : (s.core n).midway = false) (meets : s.meets n = .go v) (commits : (s.core n).commits v = true) :
    s.commitDue n = some (s.commitAt n none) := by
  simp [State.commitDue, run, halting, midway, meets, commits]

theorem State.commitDue_halt (run : (s.core n).run = .run) (halting : (s.core n).btw.halting = true)
    (due : (s.core n).btw.haltCommit = true) (room : (s.core n).roomToCommit = true) :
    s.commitDue n = some (s.commitHalt n) := by
  simp [State.commitDue, run, halting, due, room]

theorem segmentCommit_leads {m : Nat} {t : State} {q : State → Prop} (due : s.commitDue (s.leader m) = some t)
    (holds : q t) : leads (.segmentCommit m) s q := by
  refine ⟨t, ?_, holds⟩
  show execSegmentCommit m s = _
  simp [execSegmentCommit, due]

end

end Sys2Proof.Machine
end

section
open Sys2Proof Sys2Proof.Machine

/-- Settles O41: every commit closes the segment in the one way of `Core.Closed`; they differ in the entry that is recorded. -/
theorem segmentEnds : Obligations.segment_ends := by
  intro m v s n c closes
  have closed {d : Core} (h : c.Closed d (s.protected_ n) (s.thermal (dieOf n))) : closes (s.setCore n d) := by
    have effects := h.effects
    obtain ⟨core, mem, others⟩ := s.setCore_only n d
    show _ ∧ _
    rw [core]
    exact ⟨h.seg, h.commits, h.pc, h.regs, h.sig, mem, others, h.thermal, effects⟩
  refine ⟨fun run phase halting midway meets commits => ?_, fun run phase outside halting due room => ?_,
    fun run handler halting due room => ?_, fun handler => ?_⟩
  · refine segmentCommit_leads (State.commitDue_bundle run halting midway meets commits) ?_
    rw [State.commitAt_eq phase]
    refine ⟨closed (State.closed_closedCore.mark _ _ rfl rfl rfl), ?_⟩
    rw [State.core_setCore_same]
    exact ⟨s.entry_closedCore n true, rfl⟩
  · refine segmentCommit_leads (State.commitDue_halt run halting due room) ?_
    rw [State.commitHalt_eq outside phase]
    refine ⟨closed (State.closed_closedCore.mark _ _ rfl rfl rfl), ?_⟩
    rw [State.core_setCore_same]
    exact ⟨s.entry_closedCore n false, rfl⟩
  · refine segmentCommit_leads (State.commitDue_halt run halting due room) ?_
    obtain ⟨bs, ended⟩ := (s.segctlCore n).endTrapped_eq
    obtain ⟨ctx, -⟩ := s.segctlCore_keeps handler
    rw [State.commitHalt_handler handler, State.core_setCore_same, ended]
    refine ⟨(State.closed_segctlCore handler).seg, rfl, State.inTrap_segctlCore handler, rfl, rfl, rfl, ?_, rfl⟩
    show (s.segctlCore n).ctx.snap ++ (s.segctlCore n).ctx.pipe = _
    rw [ctx]
  · refine ⟨_, congrArg Host.Outcome.next (State.segctl_eq handler), closed (State.closed_segctlCore handler), ?_⟩
    rw [State.core_setCore_same]
    exact ⟨State.inTrap_segctlCore handler, State.entry_segctlCore handler⟩

end

section
/-! RECOVERY of a core in user mode whose TCAUSE has INTRAP set, as a write of that register from outside leaves it
(Table TRP-3). The core is in no handler, so the rollback leaves INTRAP; where the segment was entered in supervisor mode, the
core that reruns it is in a handler again. -/

namespace Sys2Proof.Machine

/-- A core in user mode, in a segment that the supervisor has entered. -/
def supervisorEntered : Core := { Core.reset 0 with run := .run, sup := false }
/-- The module after a write of INTRAP to that core's TCAUSE. -/
def markedUser : State := { State.reset with cores := [(0, supervisorEntered)] }.registerWrite (.core 0 0x100) 0x20000

/-- The core runs, no recovery and no commit is under way, and it has passed no transit barrier. -/
theorem markedUser_plain : (markedUser.core 0).run = .run ∧ (markedUser.core 0).recov.phase = 0
    ∧ (markedUser.core 0).btw.closing = [] ∧ (markedUser.core 0).transitBars = [] := by decide +kernel
/-- Its pair is a protected one, led by core 0. -/
theorem markedUser_pair : markedUser.leader 0 = 0 ∧ markedUser.protected_ 0 = true := by decide +kernel
/-- Its next bundle has a walk to wait for, and no poisoned data. -/
theorem markedUser_meets : markedUser.meets 0 = .stop (.freeze 3 0 .none) := by decide +kernel
/-- After the rollback the core is in a handler. -/
theorem markedUser_mismatch : ((markedUser.gangBack (markedUser.mismatch 0) 0).core 0).inTrap = true := by decide +kernel

theorem markedUser_recovery : exec (.recovery 0) markedUser = .next (markedUser.gangBack (markedUser.mismatch 0) 0) := by
  obtain ⟨leader, pair⟩ := markedUser_pair
  obtain ⟨run, -⟩ := markedUser_plain
  show execRecovery 0 markedUser = _
  simp [execRecovery, leader, run, markedUser_meets, pair]

end Sys2Proof.Machine
end

section
open Sys2Proof Sys2Proof.Machine

/-- Refutes O42: its clause on RECOVERY has the core be in no handler afterwards. A rollback clears INTRAP where it leaves a
handler; a core in user mode with INTRAP set is in none, and the supervisor mode of its segment's entry makes it one. -/
theorem not_freezesAndRecovery : ¬ Obligations.freezes_and_recovery := by
  intro h
  obtain ⟨-, -, -, -, recovery⟩ := h 0 ⟨0, 0, 0⟩ ⟨0, 0, 0, 0⟩ markedUser
  obtain ⟨leader, pair⟩ := markedUser_pair
  obtain ⟨run, phase, closing, bars⟩ := markedUser_plain
  simp only [leader] at recovery
  obtain ⟨t, step, -, -, -, -, outside, -⟩ := recovery run phase closing bars
    (.inr ⟨pair, fun x poisoned => by rw [markedUser_meets] at poisoned; cases poisoned⟩)
  obtain rfl : _ = t := Host.Outcome.next.inj (markedUser_recovery.symm.trans step)
  rw [markedUser_mismatch] at outside
  exact absurd outside (by decide)

end

section
/-! Lane logic, shifts, counts and fields (R155, R167), and what chooses lanes: compares, selection, permutation,
sparsity, masks (R156, R157, R163 to R165, R171). -/

namespace Sys2Proof.Machine

/-! ### Shifts and counts (R110, R155) -/

theorem sarLane_eq (a b : VCell) (j : Nat) :
    sarLane a b j = ⟨(a.int j / 2 ^ (b.bits j % tagWidth a.tag) % 2 ^ tagWidth a.tag).toNat, 0⟩ := by
  simp [sarLane, exact, wrapInt_eq]

/-- The bits of a number that is not zero end at its highest set bit. -/
theorem size_eq_log2_succ {x : Nat} (nonzero : x ≠ 0) : Nat.size x = Nat.log2 x + 1 :=
  le_antisymm (Nat.size_le.mpr Nat.lt_log2_self) (Nat.lt_size.mpr (Nat.log2_self_le nonzero))

theorem clzNat_eq (w x : Nat) : clzNat w x = w - Nat.size x := by
  rw [clzNat]
  split_ifs with zero
  · rw [zero, Nat.size_zero, Nat.sub_zero]
  · rw [size_eq_log2_succ zero]; omega

/-! ### Compares (R156) -/

/-- R156: a condition on two integers. -/
def VCond.onInts (c : VCond) (x y : Int) : Bool :=
  match c with
  | .eq => x = y | .ne => x ≠ y | .lt => x < y | .le => x ≤ y | .gt => y < x | .ge => y ≤ x

theorem ordInt_eq_lt {x y : Int} : ordInt x y = .lt ↔ x < y := by
  unfold ordInt; split_ifs <;> simp <;> omega
theorem ordInt_eq_eq {x y : Int} : ordInt x y = .eq ↔ x = y := by
  unfold ordInt; split_ifs <;> simp <;> omega
theorem ordInt_eq_gt {x y : Int} : ordInt x y = .gt ↔ y < x := by
  unfold ordInt; split_ifs <;> simp <;> omega

/-- A condition over the order of two integers is the condition on them. -/
theorem VCond.holds_ordInt (c : VCond) (x y : Int) : VCond.holds c (some (ordInt x y)) = VCond.onInts c x y := by
  rw [Bool.eq_iff_iff]
  cases c <;> simp [VCond.holds, VCond.onInts, ordInt_eq_lt, ordInt_eq_eq, ordInt_eq_gt]

/-- With a NaN only `.ne` holds. -/
theorem VCond.holds_unordered (c : VCond) : VCond.holds c none = decide (c = .ne) := by cases c <;> rfl

/-- A pattern's number in the order of R42 with −0 brought up to +0 (R156). -/
def Fmt.rank (f : Fmt) (x : Nat) : Int := if f.key x < 0 then f.key x + 1 else f.key x

theorem tagFmt_of_isFlt {t : Tag} (h : isFlt t = true) : tagFmt t = some (fltFmt t) := by
  cases t <;> simp [isFlt, tagFmt, fltFmt] at h ⊢

theorem VCell.elem_flt {a : VCell} (h : isFlt a.tag = true) (j : Nat) : a.elem j = (fltFmt a.tag).value (a.bits j) := by
  simp only [VCell.elem, elemVal, tagFmt_of_isFlt h]

section
variable {a b : VCell} (c : VCond) (j : Nat)

theorem holds_cmpLane_int (h : isInt a.tag = true) : VCond.holds c (cmpLane a b j) = VCond.onInts c (a.int j) (b.int j) := by
  have notFlt : isFlt a.tag = false := Bool.eq_false_iff.mpr fun flt => by simp [isInt_of_isFlt flt] at h
  have notRaw : a.tag ≠ .raw := fun raw => by rw [raw] at h; exact absurd h (by decide)
  rw [← VCond.holds_ordInt]
  simp [cmpLane, notFlt, notRaw]

theorem holds_cmpLane_raw (h : a.tag = .raw) : VCond.holds c (cmpLane a b j) = VCond.onInts c (a.bits j) (b.bits j) := by
  rw [← VCond.holds_ordInt]
  simp [cmpLane, h, isFlt]

theorem holds_cmpLane_flt (h : isFlt a.tag = true) (same : b.tag = a.tag) :
    VCond.holds c (cmpLane a b j) = if (a.elem j).isNan || (b.elem j).isNan then decide (c = .ne)
      else VCond.onInts c ((fltFmt a.tag).rank (a.bits j)) ((fltFmt a.tag).rank (b.bits j)) := by
  rw [VCell.elem_flt h, VCell.elem_flt (same ▸ h), same, cmpLane, if_pos h, Fmt.order]
  split_ifs
  · exact VCond.holds_unordered c
  · exact VCond.holds_ordInt c _ _

end

/-! ### Sparsity (R164, R165) -/

theorem compLane_kept (a : VCell) {j : Nat} (h : j < 256) : compLane a j =
    ⟨a.bits (4 * (j / 2) + if j % 2 = 0 then (groupKeep a (j / 2)).1 else (groupKeep a (j / 2)).2.1), 0⟩ := by
  simp only [compLane, if_pos h, exact]
theorem compLane_metadata (a : VCell) {j : Nat} (h : ¬ j < 256) (h' : j < 384) : compLane a j =
    ⟨(groupKeep a (j - 256)).1 + 4 * (groupKeep a (j - 256)).2.1 + if (groupKeep a (j - 256)).2.2 then 16 else 0, 0⟩ := by
  simp only [compLane, if_neg h, if_pos h', exact]
  cases (groupKeep a (j - 256)).2.2 <;> rfl
theorem compLane_rest (a : VCell) {j : Nat} (h : ¬ j < 384) : compLane a j = ⟨0, 0⟩ := by
  have upper : ¬ j < 256 := by omega
  simp only [compLane, if_neg upper, if_neg h, exact]

theorem expdLane_eq (a : VCell) (j : Nat) : expdLane a j =
    if j % 4 = a.bits (256 + j / 4) / 4 % 4 then ⟨a.bits (2 * (j / 4) + 1), 0⟩
    else if j % 4 = a.bits (256 + j / 4) % 4 then ⟨a.bits (2 * (j / 4)), 0⟩
    else ⟨0, 0⟩ := by
  simp [expdLane, bitsAt_eq, exact]

/-! ### The instructions -/

section
variable {i : Instr} {g : Guard} {d : VReg} {md mk : MReg} {a b : VSrc} {s : State}

/-- A row operation yields its lane function's results, which have only to be known where it is ready. -/
theorem rowOp_yields {srcs : List Src} {mask : State → Mask} {tag : State → Option Word} {lat : State → Nat}
    {tgt : State → Option Tag} {f : State → Nat → FRes} {l : Nat} {m : Mask} {t : Option Tag} {x : Nat → FRes}
    (e : opOf i = some (rowOp g d srcs mask tag lat tgt f)) (latency : lat s = l) (masked : mask s = m)
    (result : tgt s = t) (lanes : ready i s = true → ∀ j < 512, f s j = x j) : yields i s l d m t x := by
  subst latency masked result
  exact yields_of (f s) e rfl (fun _ => rfl) lanes

/-- A unary operation of a feature does the same as one of none. -/
theorem una_under_yields {p : Tag → Bool} {l : Nat} {f : VCell → Nat → FRes} {fs : List Nat} {x : Nat → FRes}
    (e : opOf i = some ((una g d a mk p l f).under fs)) (lanes : ∀ j < 512, f (s.vReg a) j = x j) :
    yields i s l d (s.me.ctx.regs.mv mk) (some (s.vReg a).tag) x :=
  yields_of (f (s.vReg a)) e rfl (fun _ => rfl) fun _ => lanes

/-- A ready operation is in no replay. -/
theorem ready_noOv {o : Op} (e : opOf i = some o) (h : ready i s = true) : s.iss.ov = none :=
  (Op.ready_parts (o := o) (by simpa [ready, e] using h)).1

/-- VCMP delivers its condition on every lane, under the mask (R156). -/
theorem vcmp_delivers {c : VCond} {p : Nat → Bool}
    (lanes : ∀ j, VCond.holds c (cmpLane (s.vReg a) (s.vReg b) j) = p j) :
    ∃ m : Mask, (∀ j < 512, m.getLsbD j = p j) ∧
      delivers (.vcmp g md c a b mk) s 2 (.m md m (s.me.ctx.regs.mv mk)) :=
  ⟨maskOf fun j => VCond.holds c (cmpLane (s.vReg a) (s.vReg b) j), fun j hj => (getLsbD_maskOf _ hj).trans (lanes j),
    delivers_of rfl rfl fun _ => rfl⟩

/-- VMSK delivers the mask of the lanes that are not zero (R171). -/
theorem vmsk_delivers : ∃ m : Mask, (∀ j < 512, m.getLsbD j = decide ((s.vReg a).bits j ≠ 0)) ∧
    delivers (.vmsk g md a) s 2 (.m md m (BitVec.allOnes 512)) := by
  refine ⟨maskOf fun j => (s.vReg a).bits j != 0, fun j hj => ?_, delivers_of rfl rfl fun _ => rfl⟩
  rw [getLsbD_maskOf _ hj, Bool.eq_iff_iff, bne_iff_ne, decide_eq_true_iff]

/-- R163: the opcode of VPERM's word. -/
theorem vperm_op {w : BitVec 40} (h : encodeV (.vperm g d a b mk) = some w) : w.extractLsb' 28 6 = 0x1D := by
  obtain rfl := Option.some.inj h
  exact VR.op_word g 0x1D _

end

end Sys2Proof.Machine
end

section
open Sys2Proof Sys2Proof.Machine

/-- Settles O28: each lane's pattern is the number that the rule gives. -/
theorem laneBits : Obligations.lane_bits := by
  intro g d a b mk rm k s A B w gives
  refine ⟨?_, ?_, ?_, ?_, ?_, ?_, ?_, ?_, ?_, ?_, ?_⟩
  · exact bin_yields rfl rfl fun _ _ _ => rfl
  · exact bin_yields rfl rfl fun _ _ _ => rfl
  · exact bin_yields rfl rfl fun _ _ _ => rfl
  · exact bin_yields rfl rfl fun _ _ _ => rfl
  · exact bin_yields rfl rfl fun _ _ _ => rfl
  · exact bin_yields rfl rfl fun _ j _ => sarLane_eq A B j
  · exact una_yields rfl fun _ _ _ => rfl
  · exact una_yields rfl fun _ j _ => congrArg exact (popcNat_eq w (A.bits j))
  · exact una_yields rfl fun _ j _ => congrArg exact (clzNat_eq w (A.bits j))
  · exact bin_yields rfl rfl fun _ _ _ => rfl
  · exact bin_yields rfl rfl fun _ _ _ => rfl

/-- Settles O29: compares by the order of their tag's numbers, and for each other instruction the lane that its rule
chooses. -/
theorem laneChoices : Obligations.lane_choices := by
  intro g d md mk a b ga c t s A B M all holds compares nan sign
  have onInts (x y : Int) : VCond.onInts c x y = holds x y := by cases c <;> rfl
  refine ⟨fun int => ?_, fun raw _ => ?_, fun flt same => ?_, ?_, ?_, ?_, fun w => vperm_op, ?_, ?_, ?_, vmsk_delivers⟩
  · exact vcmp_delivers fun j => (holds_cmpLane_int c j int).trans (onInts _ _)
  · exact vcmp_delivers fun j => (holds_cmpLane_raw c j raw).trans (onInts _ _)
  · exact vcmp_delivers fun j => (holds_cmpLane_flt c j flt same).trans (by rw [onInts]; rfl)
  · exact rowOp_yields rfl rfl rfl rfl fun _ _ _ => rfl
  · exact rowOp_yields rfl rfl rfl rfl fun isReady _ _ => by rw [State.opA_reg (ready_noOv rfl isReady)]; rfl
  · exact bin_yields rfl rfl fun _ _ _ => rfl
  · refine una_under_yields rfl fun j _ => ?_
    by_cases kept : j < 256
    · simp only [if_pos kept]; exact compLane_kept A kept
    · by_cases metadata : j < 384
      · simp only [if_neg kept, if_pos metadata]; exact compLane_metadata A kept metadata
      · simp only [if_neg kept, if_neg metadata]; exact compLane_rest A metadata
  · exact una_under_yields rfl fun j _ => expdLane_eq A j
  · exact delivers_of rfl rfl fun _ => rfl

end

section
/-! The copy fault report in a state whose cores are not listed in rising order: as with a refused send, to put the engine's
core in place can list it before another core that holds the same context, and then the report goes to that core. -/

namespace Sys2Proof.Machine

/-- A copy of context 3 that has stopped with status 5; no accepted piece of it is left. -/
def stoppedCopy : Copy :=
  { id := 0, op := .cpy, a := 0, b := 0, c := 0, desc := [], inc := 0, chk := false, slot := 4, bundle := 0, asid := 0
    gen := 0, seg := 0, mark := 0, commits := 0, acc := 0, writes := [], done := [], sent := [], aux := [], got := []
    asked := [], tries := 0, spos := 0, idx := [], idxBad := none, base := 0, ctx := 3, own := false
    stop := some (5, 0, 0) }
/-- Core 3 holds context 3, and its engine the stopped copy. -/
def copier : Core := { Core.reset 3 with run := .run, engine := [.copy stoppedCopy] }
/-- Core 5, which holds context 3 as well, is listed before core 3. -/
def unorderedCopy : State := { State.reset with cores := [(5, holder), (3, copier)] }

/-- The context's home is core 5, the first that is listed, which has no fault recorded. -/
theorem unorderedCopy_homeOf : unorderedCopy.homeOf stoppedCopy.ctx = some 5
    ∧ (unorderedCopy.core 5).trap.cfr0.getLsbD 63 = false := by decide +kernel
/-- Once the copy has left the engine core 3 is listed first, and core 5 hears nothing. -/
theorem unorderedCopy_untold :
    exec (.copyFaultReport 3) unorderedCopy = .next ((unorderedCopy.faultReport 3).getD unorderedCopy)
      ∧ (((unorderedCopy.faultReport 3).getD unorderedCopy).core 5).pending = [] := ⟨rfl, by decide +kernel⟩

end Sys2Proof.Machine
end

section
open Sys2Proof Sys2Proof.Machine

/-- Refutes O50: its clause on COPY_FAULT_REPORT has the core that is the context's home before the step record the fault.
Where the cores are not listed in rising order, the step can make another core the first that is listed with that context,
and that one records it: with cores 5 and 3 listed in this order, both with context 3, the stopped copy of core 3 leaves
core 5 without its boundary event. -/
theorem not_engineAndArray : ¬ Obligations.engine_and_array := by
  intro h
  obtain ⟨-, -, -, -, -, -, -, -, -, -, -, -, -, report, -⟩ :=
    h 3 0 0 0 0 5 0 5 0 stoppedCopy ⟨0, 0, none, none⟩ ⟨.mmai, 0, 0, 0, false, 0⟩ [] ⟨0, 0, 0, 0, 0, 0, 0⟩ (fun _ => 0)
      unorderedCopy
  obtain ⟨home, unrecorded⟩ := unorderedCopy_homeOf
  obtain ⟨t, step, -, -, -, -, recorded⟩ := report rfl rfl rfl (fun k hk => absurd hk (Nat.not_lt_zero k)) home
  obtain ⟨taken, untold⟩ := unorderedCopy_untold
  obtain rfl : _ = t := Host.Outcome.next.inj (taken.symm.trans step)
  obtain ⟨-, told⟩ := recorded unrecorded
  rw [untold] at told
  exact absurd told (by simp)

end

section
/-! The module right after reset (R172, R173): what each system register reads. -/

namespace Sys2Proof.Machine

theorem State.core_reset (n : Nat) : State.reset.core n = Core.reset n := rfl
theorem State.pair_reset (p : Nat) : State.reset.pair p = Pair.reset := rfl
theorem State.die_reset (d : Nat) : State.reset.die d = Die.reset := rfl

theorem Regs.gCell_regsZero (d : GReg) : Regs.zero.gCell d = GCell.zero := Vector.getElem_replicate _
theorem Regs.vCell_regsZero (d : VReg) : Regs.zero.vCell d = VCell.zero := Vector.getElem_replicate _
theorem Regs.pv_regsZero (d : PReg) : Regs.zero.pv d = decide (d = 0) :=
  (congrArg (d == 0 || ·) BitVec.getLsbD_zero).trans (Bool.or_false _)
theorem Regs.mv_regsZero (d : MReg) : Regs.zero.mv d = if d = 0 then BitVec.allOnes 512 else 0 :=
  congrArg (ite (d = 0) _) (Vector.getElem_replicate _)
theorem TrapRegs.intrap_zero : TrapRegs.zero.intrap = false := by decide
theorem Local.engineOwns_reset (a : Nat) : Local.reset.engineOwns a = false := BitVec.getLsbD_zero
theorem Pair.word_reset : Pair.reset.word = 1 := by decide
theorem Arr.tbusy_zero : Arr.zero.tbusy = 0 := by decide
theorem CoreRegs.asctl_reset (n : Nat) : (CoreRegs.reset n).asctl = 0 := by
  show (CoreRegs.reset 0).asctl = 0
  decide

/-- R172: the value that register `q` of core `n` reads after reset. -/
def resetWord (n : Nat) (q : BitVec 12) : Word :=
  if q = 0x105 then 5000 else if q = 0x200 then 1 else if q = 0x300 then 0x801
  else if q = 0x3E0 then BitVec.allOnes 64 else if q = 0x418 then 240
  else if q = 0x004 then BitVec.ofNat 64 (n % 1024)
  else if q = 0x400 then BitVec.ofNat 64 (dieOf n % 4 * 256 + State.reset.zoneOf n) else 0

theorem State.sysRead_reset (n : Nat) (q : BitVec 12) : State.reset.sysRead n q = resetWord n q := by
  have number (k : BitVec 12) : q = k ↔ q.toNat = k.toNat := BitVec.toNat_inj.symm
  have flow : (if State.reset.expert 10 then State.reset.cool.modflow else 240) = 240 := ite_self 240
  simp only [State.sysRead, resetWord, State.core_reset, State.pair_reset, State.die_reset, Core.reset, Pair.word_reset,
    Arr.tbusy_zero, CoreRegs.asctl_reset, flow, number]
  split
  -- the numbers that the read does not name
  case h_47 => iterate 7 rw [if_neg (by assumption)]
  all_goals simp [*, TrapRegs.zero, Ctx.reset, Trace.entry, State.reset, CoreRegs.reset, Die.reset]

end Sys2Proof.Machine
end

section
open Sys2Proof Sys2Proof.Machine

/-- Settles O54: every unit is in its reset state, whose fields the statement lists; `State.sysRead_reset` says what the system
registers read. -/
theorem resetValues : Obligations.reset_values := by
  unfold Obligations.reset_values
  intro s
  refine ⟨fun n => ⟨rfl, rfl, rfl, Regs.gCell_regsZero, Regs.vCell_regsZero, Regs.pv_regsZero, Regs.mv_regsZero, rfl, rfl,
      rfl, rfl, rfl, rfl, rfl, rfl, rfl, rfl, rfl, rfl, rfl, fun _ => ⟨rfl, rfl⟩, rfl, rfl, rfl, fun _ => ⟨rfl, rfl⟩,
      fun _ => rfl, Local.engineOwns_reset, rfl, rfl, rfl, rfl, rfl, rfl, rfl, rfl, TrapRegs.intrap_zero, Pair.word_reset,
      fun q _ => State.sysRead_reset n q⟩,
    fun _ => rfl, fun _ _ => rfl, rfl, rfl, rfl, rfl, fun _ _ => rfl, rfl, fun _ _ => ⟨rfl, rfl, rfl⟩, rfl,
    fun k => ⟨rfl, fun j hj => ?_⟩, rfl⟩
  have slpart : (State.reset.slice k).slpart[j]! = _ := getElem!_pos (State.reset.slice k).slpart j hj
  rw [slpart]
  exact Vector.getElem_replicate _

end

section
/-! The keyed lists: what is found stands in the list. -/

namespace Sys2Proof

theorem Map.mem_of_find {α : Type} {m : Map α} {k : Nat} {v : α} (h : Map.find? m k = some v) : (k, v) ∈ m := by
  induction m with
  | nil => cases h
  | cons e m ih =>
    obtain ⟨j, w⟩ := e
    rw [Map.find?] at h
    split at h
    next same => cases h; exact same ▸ List.mem_cons_self
    next => exact List.mem_cons_of_mem _ (ih h)

end Sys2Proof
end

section
/-! Walks: a walk that goes to a walker, and what the cores that wait for it learn when it ends (R289, R293). -/

namespace Sys2Proof.Machine

/-! ### A core that learns how a walk has ended -/

/-- Core `c` has become `d` by learning that walk `w` has ended with `r`; of its context and of all but its fetch state
nothing has changed. -/
structure Core.Told (c d : Core) (w : Walk) (r : Option Tlb) : Prop where
  frame : ∃ f, d = { c with fetch := f }
  walks : d.fetch.walks = c.fetch.walks.filter (· != w)
  found : ∀ t, r = some t → d.fetch.tlb.head? = some t
  absent : r = none → c.demands w = true → w ∈ d.fetch.misses

section
variable {c d : Core} {w : Walk} {r : Option Tlb}

theorem Core.told_walked (c : Core) (w : Walk) (r : Option Tlb) : c.Told (c.walked w r) w r := by
  cases r with
  | none => exact ⟨⟨_, rfl⟩, rfl, by simp, fun _ demands => by simp [Core.walked, demands]⟩
  | some t => exact ⟨⟨_, rfl⟩, rfl, fun u same => by cases same; rfl, by simp⟩

/-- A core that is told twice knows what it knew. -/
theorem Core.Told.walked (h : c.Told d w r) : c.Told (d.walked w r) w r := by
  obtain ⟨⟨f, rfl⟩, walks, found, absent⟩ := h
  obtain ⟨⟨f', frame⟩, walks', found', absent'⟩ := Core.told_walked { c with fetch := f } w r
  refine ⟨⟨f', frame⟩, ?_, found', absent'⟩
  rw [walks', walks, List.filter_filter]
  simp

theorem Core.Told.ctx (h : c.Told d w r) : d.ctx = c.ctx := by
  obtain ⟨⟨f, rfl⟩, -⟩ := h
  rfl

end

/-! ### The cores of a die -/

/-- The cores of a die that wait for a walk, and each of them told. -/
def State.waiters (s : State) (d : Nat) (w : Walk) : List Nat :=
  (s.cores.filter fun e =>
    dieOf e.1 == d && (e.2.fetch.walks.contains w || e.2.fetch.asks.any fun a => a.2 == w)).map (·.1)
def State.tell (w : Walk) (r : Option Tlb) (s : State) (n : Nat) : State := s.setCore n ((s.core n).walked w r)

section
variable (s : State) {d m : Nat} {w : Walk} {r : Option Tlb} {ns : List Nat}

theorem State.dieOf_waiters (h : m ∈ s.waiters d w) : dieOf m = d := by
  obtain ⟨e, listed, rfl⟩ := List.mem_map.1 h
  have waits := (List.mem_filter.1 listed).2
  simp only [Bool.and_eq_true, beq_iff_eq] at waits
  exact waits.1

theorem State.mem_waiters (die : dieOf m = d) (waits : w ∈ (s.core m).fetch.walks) : m ∈ s.waiters d w := by
  rw [State.core, Map.getD] at waits
  cases found : Map.find? s.cores m with
  | none => simp [found, Core.reset, Fetch.zero] at waits
  | some c =>
    rw [found] at waits
    refine List.mem_map.2 ⟨(m, c), List.mem_filter.2 ⟨Map.mem_of_find found, ?_⟩, rfl⟩
    simpa [die] using Or.inl waits

theorem State.core_tell_other (other : m ∉ ns) : (ns.foldl (State.tell w r) s).core m = s.core m := by
  induction ns generalizing s with
  | nil => rfl
  | cons n ns ih =>
    obtain ⟨here, later⟩ : m ≠ n ∧ m ∉ ns := by simpa using other
    rw [List.foldl_cons, ih _ later, State.tell, State.core_setCore_other _ _ here]

theorem Core.Told.tell {c : Core} (told : c.Told (s.core m) w r) : c.Told ((ns.foldl (State.tell w r) s).core m) w r := by
  induction ns generalizing s with
  | nil => exact told
  | cons n ns ih =>
    refine ih _ ?_
    by_cases here : m = n
    · subst here
      rw [State.tell, State.core_setCore_same]
      exact told.walked
    · rw [State.tell, State.core_setCore_other _ _ here]
      exact told

theorem State.told_tell (listed : m ∈ ns) : (s.core m).Told ((ns.foldl (State.tell w r) s).core m) w r := by
  induction ns generalizing s with
  | nil => cases listed
  | cons n ns ih =>
    by_cases here : m = n
    · subst here
      refine Core.Told.tell (State.tell w r s m) ?_
      rw [State.tell, State.core_setCore_same]
      exact Core.told_walked _ w r
    · have later := ih (State.tell w r s n) ((List.mem_cons.1 listed).resolve_left here)
      rwa [State.tell, State.core_setCore_other _ _ here] at later

theorem State.mem_tell : (ns.foldl (State.tell w r) s).mem = s.mem := by
  induction ns generalizing s with
  | nil => rfl
  | cons n ns ih => exact ih _

theorem Mem.bytes_cacheWalk (m : Mem) (cl : Nat) : (m.cacheWalk cl r).bytes = m.bytes := by
  unfold Mem.cacheWalk
  split
  next => rfl
  next => dsimp only; split <;> rfl

theorem Mem.bytes_cacheWalks (m : Mem) : (ns.foldl (fun m n => m.cacheWalk (sliceOf n) r) m).bytes = m.bytes := by
  induction ns generalizing m with
  | nil => rfl
  | cons n ns ih => rw [List.foldl_cons, ih, Mem.bytes_cacheWalk]

/-- R293: when a walk of a die has ended, every core of the die that waits for it is told, and no core of another die is. -/
theorem State.walkDone_told (d m : Nat) (w : Walk) (r : Option Tlb) :
    let t := s.walkDone d w r
    (dieOf m = d → w ∈ (s.core m).fetch.walks → (s.core m).Told (t.core m) w r)
      ∧ (dieOf m ≠ d → t.core m = s.core m) ∧ (t.core m).ctx = (s.core m).ctx ∧ t.mem.bytes = s.mem.bytes := by
  intro t
  let u : State := { s with mem := (s.waiters d w).foldl (fun m n => m.cacheWalk (sliceOf n) r) s.mem }
  have done : t = (s.waiters d w).foldl (State.tell w r) u := rfl
  have told (waits : m ∈ s.waiters d w) : (s.core m).Told (t.core m) w r := done ▸ u.told_tell waits
  have other (rest : m ∉ s.waiters d w) : t.core m = s.core m := done ▸ u.core_tell_other rest
  refine ⟨fun die waits => told (s.mem_waiters die waits),
    fun away => other fun waits => away (s.dieOf_waiters waits), ?_, ?_⟩
  · by_cases waits : m ∈ s.waiters d w
    · exact (told waits).ctx
    · rw [other waits]
  · rw [done, State.mem_tell]
    exact Mem.bytes_cacheWalks s.mem

end

end Sys2Proof.Machine
end

section
/-! What starts a walk, and what ends one: TRANSLATION_WALK and the entry that a walker has read (R289, R293). -/

namespace Sys2Proof.Machine

section
variable {s : State} {d j k m : Nat} {w : Walk}

/-- A step that ends a walk tells the cores of its die, where it has changed no core and no byte before. -/
theorem leads_walkDone {i : Instr} {u : State} {r : Option Tlb} {z : State → Prop}
    (ends : exec i s = .next (u.walkDone d w r)) (core : u.core m = s.core m) (bytes : u.mem.bytes = s.mem.bytes)
    (heard : ∀ t : State, (s.core m).Told (t.core m) w r → z t) :
    leads i s fun t => (dieOf m = d → w ∈ (s.core m).fetch.walks →
        (t.core m).fetch.walks = (s.core m).fetch.walks.filter (· != w) ∧ z t)
      ∧ (dieOf m ≠ d → t.core m = s.core m) ∧ (t.core m).ctx = (s.core m).ctx ∧ t.mem.bytes = s.mem.bytes := by
  obtain ⟨told, away, ctx, kept⟩ := u.walkDone_told d m w r
  rw [core] at told away ctx
  exact ⟨_, ends, fun die waits => ⟨(told die waits).walks, heard _ (told die waits)⟩, away, ctx, kept.trans bytes⟩

/-- A walk goes to the lowest free walker of the die's 64. -/
theorem exec_translationWalk (asked : (s.walksOf d)[k]? = some w) (number : j < 64)
    (free : (s.mem.walkers.any fun y => y.die == d && y.num == j) = false)
    (lowest : ∀ i < j, (s.mem.walkers.any fun y => y.die == d && y.num == i) = true) :
    exec (.translationWalk d k) s = .next (s.walkerGoes d j w (s.mem.walkStart w.asid w.gen w.va)) := by
  have walker : (List.range 64).find? (fun j => !s.mem.walkers.any fun y => y.die == d && y.num == j) = some j :=
    List.find?_range_eq_some.2 ⟨by rw [free]; rfl, List.mem_range.2 number, fun i below => by rw [lowest i below]; rfl⟩
  show execTranslationWalk d k s = _
  rw [execTranslationWalk, State.walkStarts, asked, walker, Option.getD_some]

/-- A free walker is none of those at work. -/
theorem State.walkers_of_free (free : (s.mem.walkers.any fun y => y.die == d && y.num == j) = false) :
    (s.mem.walkers.filter fun y => !(y.die == d && y.num == j)) = s.mem.walkers :=
  List.filter_eq_self.2 fun y working => by simpa [imp_iff_not_or] using List.any_eq_false.1 free y working

/-- R282: a request at the head of its channel whose line is present, and which nothing holds back, is served. -/
theorem State.pointServe_present {sl src id : Nat} {a : Acc} (head : (s.requests sl)[k]? = some (src, id, false))
    (listed : s.acc src id = some a) (own : ∀ m, a.kind ≠ .ask m)
    (passes : s.waitsBefore (s.slice sl).ingress (lineOf a.pa) = false)
    (unmissed : ∀ e ∈ (s.slice sl).mshr, e.1 ≠ lineOf a.pa)
    (free : s.updating sl src id (a.span s.mem) = false) (cached : a.cached = true)
    (present : ((s.slice sl).present.any fun e => e.1 == lineOf a.pa) = true) :
    exec (.orderPointServe sl k) s =
      .next (((s.popped (inbound src sl)).setSlice sl ((s.slice sl).touch (lineOf a.pa))).serve sl src id) := by
  have unlisted : (s.slice sl).mshr.find? (fun e => e.1 == lineOf a.pa) = none :=
    List.find?_eq_none.mpr fun e he => by simpa using unmissed e he
  have slice : (s.popped (inbound src sl)).slice sl = s.slice sl := rfl
  have still : (s.popped (inbound src sl)).updating sl src id (a.span (s.popped (inbound src sl)).mem) = false := free
  have point : (s.popped (inbound src sl)).point sl src id a = .served := by
    simp [State.point, slice, unlisted, still, State.mayReply_of_ne_ask own, cached, present]
  show execOrderPointServe sl k s = _
  simp only [execOrderPointServe, State.pointServe, head, listed, passes]
  rw [if_neg (by decide), ← State.popped, State.takeRequest, point, slice]
  rfl

/-- The entry that a walker has read is a leaf: the walk has ended. -/
theorem State.serve_leaf {sl src id : Nat} {a : Acc} {level ent sz e : Nat} {via : Bool} {lo hi lo' hi' : Word}
    (outer : 1024 ≤ src) (listed : s.acc src id = some a) (asks : a.kind = .pte d j)
    (working : s.mem.walkers.find? (fun y => y.die == d && y.num == j) = some ⟨d, j, w, level, ent, via⟩)
    (read : s.mem.pte ent = some (lo, hi)) (leaf : s.mem.shape.walkNext level ent w.va via lo hi = .leaf sz e lo' hi') :
    ∃ u : State, u.cores = s.cores ∧ u.mem.bytes = s.mem.bytes ∧ s.serve sl src id =
      u.walkDone d w (some ⟨w.asid, w.gen, alignDown w.va (pageBytes sz), sz, e, lo', hi'⟩) := by
  let v : State := { s with mem := { s.mem with reqs := Map.del s.mem.reqs id } }
  have dropped : s.dropAcc src id = v := if_neg (by omega)
  have served : s.serve sl src id = v.walkerReads d j := by simp only [State.serve, listed, asks, dropped]
  have here : v.mem.walkers.find? (fun y => y.die == d && y.num == j) = some ⟨d, j, w, level, ent, via⟩ := working
  have entry : v.mem.pte ent = some (lo, hi) := read
  have next : v.mem.shape.walkNext level ent w.va via lo hi = .leaf sz e lo' hi' := leaf
  refine ⟨{ v with mem := { v.mem with walkers := v.mem.walkers.filter fun y => !(y.die == d && y.num == j) } },
    rfl, rfl, ?_⟩
  simp only [served, State.walkerReads, here, entry, next]
  rfl

end

end Sys2Proof.Machine
end

section
/-! A code line that a miss brings in (R189, R190, R238, R294). -/

namespace Sys2Proof.Machine

/-- The bundle of a block's line at an address is the block's bundle there. -/
theorem bundle_lineFrom (bs : List Byte) (pa : Nat) : (lineFrom bs pa).bundle pa = bundleOf bs (pa % 1024 / 32) := by
  have place : pa % 1024 / 32 = pa % 1024 / 128 * 4 + pa / 32 % 4 := by omega
  obtain h | h | h | h : pa / 32 % 4 = 0 ∨ pa / 32 % 4 = 1 ∨ pa / 32 % 4 = 2 ∨ pa / 32 % 4 = 3 := by omega
  all_goals rw [CodeLine.bundle, place, h]; rfl

/-- The most recent line is found at its address. -/
theorem Fetch.line_cons (f : Fetch) {l : CodeLine} {pa : Nat} (ls : List CodeLine) (here : l.pa = alignDown pa 128) :
    Fetch.line { f with lines := l :: ls } pa = some l := by
  simp [Fetch.line, here]

/-- R190: a line is there once it is filled, in a way or delivered. -/
theorem Fetch.bundle_fill {f : Fetch} {pa : Nat} (ccway : Word) (part : Nat) (bs : List Byte) (missed : f.line pa = none) :
    ((f.fill ccway part (lineFrom bs pa)).line pa).map (fun l => l.bundle pa) = some (bundleOf bs (pa % 1024 / 32)) := by
  have bundle : some ((lineFrom bs pa).bundle pa) = _ := congrArg some (bundle_lineFrom bs pa)
  unfold Fetch.fill
  dsimp only
  split
  next =>
    rw [Fetch.line_cons _ _ rfl]
    exact bundle
  next =>
    split
    next =>
      rw [Fetch.line_cons _ _ rfl]
      exact bundle
    next =>
      have uncached : f.lines.find? (fun l => l.pa == alignDown pa 128) = none := (Option.or_eq_none_iff.1 missed).1
      have delivered : Fetch.line { f with direct := some (lineFrom bs pa) } pa = some (lineFrom bs pa) := by
        rw [Fetch.line, uncached]
        exact if_pos rfl
      rw [delivered]
      exact bundle

section
variable {s : State} {n pa : Nat} {t : Tlb} {bs : List Byte}

/-- The module where core `n` has the block of an address in its block buffer, and its line. -/
def State.blockCame (s : State) (n pa : Nat) (bs : List Byte) : State :=
  let c := s.core n
  let f := { c.fetch with block := some (alignDown pa 1024, bs) }
  s.setCore n { c with fetch := f.fill c.regs.ccway c.regs.part.toNat (lineFrom bs pa) }

theorem State.bring_held (held : (s.core n).fetch.heldBlock pa = some bs) :
    s.bring n t pa = (s.blockCame n pa bs, true) := by
  simp only [State.bring, held]
  rfl

/-- R295: what becomes of the staged copies when one has been used. -/
theorem State.bring_staged {x : Staged} (unheld : (s.core n).fetch.heldBlock pa = none)
    (staged : s.stagedPage (dieOf n) (pa / 65536) = some x)
    (block : x.block s.mem (pteKey t.hi) (pa % 65536 / 1024) = some bs) :
    ∃ xs, s.bring n t pa = ({ s.blockCame n pa bs with mem := { s.mem with staged := xs } }, true) := by
  simp only [State.bring, unheld, staged, Option.bind_some, block]
  exact ⟨_, rfl⟩

theorem State.bring_fails {x : Staged} (unheld : (s.core n).fetch.heldBlock pa = none)
    (staged : s.stagedPage (dieOf n) (pa / 65536) = some x)
    (block : x.block s.mem (pteKey t.hi) (pa % 65536 / 1024) = none) :
    s.bring n t pa = (s, false) := by
  simp only [State.bring, unheld, staged, Option.bind_some, block]

/-- The line is there, of the context nothing has changed, and no byte of memory. -/
theorem State.blockCame_spec (bs : List Byte) (missed : (s.core n).fetch.line pa = none) :
    (((s.blockCame n pa bs).core n).fetch.line pa).map (fun l => l.bundle pa) = some (bundleOf bs (pa % 1024 / 32))
      ∧ ((s.blockCame n pa bs).core n).ctx = (s.core n).ctx := by
  rw [State.blockCame, State.core_setCore_same]
  exact ⟨Fetch.bundle_fill _ _ bs missed, rfl⟩

/-- Core `n` is frozen for code at address `pa` of its module: no line of it is there, and its block has not failed. -/
structure State.Demands (s : State) (n pa : Nat) (t : Tlb) : Prop where
  frozen : (s.core n).frozenFor 4 = true
  hit : ∃ at_, s.translate (s.core n) .fetch (s.core n).ctx.pc = .hit at_ t ∧ s.codePa t at_ = pa
  missed : (s.core n).fetch.line pa = none
  fresh : (s.core n).fetch.failed.contains (pa / 1024) = false

section
variable (h : s.Demands n pa t)
include h

theorem State.Demands.fetchMiss_held (held : (s.core n).fetch.heldBlock pa = some bs) :
    s.fetchMiss n = some (s.blockCame n pa bs) := by
  obtain ⟨at_, hit, rfl⟩ := h.hit
  simp only [State.fetchMiss, h.frozen, hit, h.missed, h.fresh, held, State.bring_held held]
  rfl

theorem State.Demands.fetchMiss_staged {x : Staged} (unheld : (s.core n).fetch.heldBlock pa = none)
    (staged : s.stagedPage (dieOf n) (pa / 65536) = some x) (good : x.good = true)
    (block : x.block s.mem (pteKey t.hi) (pa % 65536 / 1024) = some bs) :
    ∃ xs, s.fetchMiss n = some { s.blockCame n pa bs with mem := { s.mem with staged := xs } } := by
  obtain ⟨xs, brings⟩ := State.bring_staged unheld staged block
  obtain ⟨at_, hit, rfl⟩ := h.hit
  refine ⟨xs, ?_⟩
  simp only [State.fetchMiss, h.frozen, hit, h.missed, h.fresh, unheld, staged, good, brings]
  rfl

theorem State.Demands.fetchMiss_fails {x : Staged} (unheld : (s.core n).fetch.heldBlock pa = none)
    (staged : s.stagedPage (dieOf n) (pa / 65536) = some x) (good : x.good = true)
    (block : x.block s.mem (pteKey t.hi) (pa % 65536 / 1024) = none) : s.fetchMiss n = some (s.setCore n
      { s.core n with fetch := { (s.core n).fetch with failed := (pa / 1024) :: (s.core n).fetch.failed } }) := by
  have brings := State.bring_fails (t := t) unheld staged block
  obtain ⟨at_, hit, rfl⟩ := h.hit
  simp only [State.fetchMiss, h.frozen, hit, h.missed, h.fresh, unheld, staged, good, brings]
  rfl

end

theorem exec_codeFetchMiss {m : Nat} {u : State} (misses : s.fetchMiss (s.leader m) = some u) :
    exec (.codeFetchMiss m) s = .next u := by
  show execCodeFetchMiss m s = _
  rw [execCodeFetchMiss, misses, Option.getD_some]

end

end Sys2Proof.Machine
end

section
open Sys2Proof Sys2Proof.Machine

/-- Settles O40: a walk's first step gives its walker a request, or ends it as the entry of a leaf does, and then the waiting
cores are told; a missed line is that of the block that comes, from the block buffer or the staged copy. -/
theorem walksAndFetch : Obligations.walks_and_fetch := by
  intro n d j k m sl src id level ent sz pa e via lo hi lo' hi' w a tr x s l c at_ mine told starts comes demands fetched
  have demand : demands → s.Demands l at_ tr :=
    fun ⟨frozen, hit, missed, fresh⟩ => ⟨frozen, ⟨pa, hit, rfl⟩, missed, fresh⟩
  refine ⟨fun ⟨asked, number, free, lowest⟩ reads => ?_, fun ⟨asked, number, free, lowest⟩ ends => ?_,
    fun ⟨outer, head, listed, asks, passes, unmissed, still, cached, present, working⟩ read leaf => ?_,
    fun demanded bs held => ?_,
    fun demanded unheld staged good => ⟨fun bs block => ?_, fun block => ?_⟩⟩
  · have goes := exec_translationWalk asked number free lowest
    simp only [reads, State.walkerGoes, State.walkers_of_free free] at goes
    exact ⟨_, goes, rfl, rfl, rfl, rfl, ⟨_, Map.find_put_same _ _ _, rfl, rfl⟩, rfl⟩
  · have goes := exec_translationWalk asked number free lowest
    simp only [ends] at goes
    exact leads_walkDone goes rfl rfl fun t heard => heard.absent rfl
  · have serves := State.pointServe_present head listed (fun q => by simp [asks]) passes unmissed still cached present
    obtain ⟨u, cores, bytes, ended⟩ := State.serve_leaf
      (s := (s.popped (inbound src sl)).setSlice sl ((s.slice sl).touch (lineOf a.pa))) (sl := sl) outer listed asks working
      read leaf
    rw [ended] at serves
    exact leads_walkDone serves (congrArg (Map.getD · m (Core.reset m)) cores) bytes fun t heard => heard.found _ rfl
  · obtain ⟨line, ctx⟩ := State.blockCame_spec bs (demand demanded).missed
    exact ⟨_, exec_codeFetchMiss ((demand demanded).fetchMiss_held held), line, ctx, rfl⟩
  · obtain ⟨line, ctx⟩ := State.blockCame_spec bs (demand demanded).missed
    obtain ⟨xs, misses⟩ := (demand demanded).fetchMiss_staged unheld staged good block
    exact ⟨_, exec_codeFetchMiss misses, line, ctx, rfl⟩
  · refine ⟨_, exec_codeFetchMiss ((demand demanded).fetchMiss_fails unheld staged good block), ?_, ?_, rfl⟩
    · rw [State.core_setCore_same]
    · rw [State.core_setCore_same]

end

section
/-! CSREQ: a context is saved and restored (R232 to R235). -/

namespace Sys2Proof.Machine

/-! ### The request and its area -/

/-- The word of CSREQ that asks for a SAVE to the area of an address. -/
def saveWord (area : Word) : Word := 0x4000000000000000 ||| (area &&& 0x00FFFFFFFFFF0000)

theorem bitsAt_toNat (x : Word) (lo n : Nat) : bitsAt x.toNat lo n = (x.extractLsb' lo n).toNat :=
  (BitVec.extractLsb'_toNat lo n x).symm

theorem saveWord_asks (area : Word) : bitsAt (saveWord area).toNat 62 2 = 1 := by
  have top : (0x00FFFFFFFFFF0000 : Word).extractLsb' 62 2 = 0#2 := by decide
  rw [bitsAt_toNat, saveWord, BitVec.extractLsb'_or, BitVec.extractLsb'_and, top, BitVec.and_zero, BitVec.or_zero]
  decide

/-- CSREQ's address field is that of the area. -/
theorem csArea_saveWord (area : Word) :
    (csArea (saveWord area)).toNat = area.toNat / 2 ^ 16 % 2 ^ 40 * 2 ^ 16 := by
  have field : (saveWord area).extractLsb' 16 40 = area.extractLsb' 16 40 := by
    have ones : (0x00FFFFFFFFFF0000 : Word).extractLsb' 16 40 = BitVec.allOnes 40 := by decide
    have none_ : (0x4000000000000000 : Word).extractLsb' 16 40 = 0#40 := by decide
    rw [saveWord, BitVec.extractLsb'_or, BitVec.extractLsb'_and, ones, none_, BitVec.and_allOnes, BitVec.zero_or]
  rw [csArea, bitsAt_toNat, field, ← bitsAt_toNat, bitsAt_eq, BitVec.toNat_ofNat]
  omega

/-- R232: the core that has accepted a SAVE to an area, in the handler of a user context. -/
def Core.saveAsked (c : Core) (area : Word) : Core :=
  { c with
    regs := { c.regs with csstat := 0x8000000000000000 }
    saving := some ⟨csArea (saveWord area), 0, none⟩ }

theorem Core.csreq_saveWord {c : Core} (area : Word) (handler : c.inTrap = true)
    (user : c.trap.tcause.getLsbD 16 = false) : c.csreq (saveWord area) = c.saveAsked area := by
  have may : (c.inTrap && !c.trap.ppriv) = true := by rw [handler, TrapRegs.ppriv, user]; rfl
  rw [Core.csreq, may, saveWord_asks]
  rfl

/-- The pages of an area follow from memory, the module's number and the core's SASID. -/
theorem State.areaPages_setCore (s : State) {n : Nat} {c : Core} (va len : Nat)
    (asid : c.regs.sasid = (s.core n).regs.sasid) : (s.setCore n c).areaPages n va len = s.areaPages n va len := by
  have page (a : Nat) : (s.setCore n c).areaPage n a = s.areaPage n a := by
    simp only [State.areaPage, State.core_setCore_same, asid]
    rfl
  simp only [State.areaPages, page]

/-! ### What a SAVE leaves as it is -/

/-- The engine writes memory alone. -/
theorem State.fillPages_mem (s : State) (ps : List (Nat × BitVec 8)) : ∃ m, s.fillPages ps = { s with mem := m } := by
  have writes (page : State → Nat × BitVec 8 → Mem) (u : State) :
      ∃ m, ps.foldl (fun u p => { u with mem := page u p }) u = { u with mem := m } := by
    induction ps generalizing u with
    | nil => exact ⟨u.mem, rfl⟩
    | cons p ps ih => exact (ih { u with mem := page u p }).imp fun _ e => e
  exact writes _ s

/-- A change of a gang changes the dies alone. -/
theorem State.onGang_dies (s : State) (n : Nat) (f : Gang → Gang) : ∃ ds, s.onGang n f = { s with dies := ds } := by
  unfold State.onGang
  split
  · exact ⟨s.dies, rfl⟩
  · exact ⟨_, rfl⟩

/-- Where a core stands of which all is as it was, but that it may have become idle. -/
def Core.Rests (c d : Core) : Prop := d = c ∨ d = { c with run := .idle }

theorem Core.Rests.run_idle {c d : Core} (h : c.Rests d) (idle : c.run = .idle) : d = c := by
  obtain rfl | rfl := h
  · rfl
  · cases c; cases idle; rfl

theorem Core.Rests.idle {c d : Core} (h : c.Rests d) : c.Rests { d with run := .idle } := by
  obtain rfl | rfl := h
  · exact .inr rfl
  · exact .inr rfl

theorem State.idleCore_rests (s : State) (c : Core) (n k : Nat) (h : c.Rests (s.core n)) : c.Rests ((s.idleCore k).core n) := by
  by_cases same : n = k
  · subst same
    rw [State.idleCore, State.core_setCore_same]
    exact h.idle
  · rwa [State.idleCore, State.core_setCore_other _ _ same]

/-- R329: a gang that gives up its pairs makes cores idle, and changes nothing else of a core. -/
theorem State.gangLeft_rests (s : State) (n d k : Nat) :
    (s.core n).Rests ((s.gangLeft d k).core n) ∧ (s.gangLeft d k).saves = s.saves := by
  have each (ls : List (Nat × Nat)) : ∀ u : State, (s.core n).Rests (u.core n) → u.saves = s.saves →
      (s.core n).Rests ((ls.foldl (fun u e => u.idleCore e.1) u).core n)
        ∧ (ls.foldl (fun u e => u.idleCore e.1) u).saves = s.saves := by
    induction ls with
    | nil => exact fun u rests saves => ⟨rests, saves⟩
    | cons e ls ih => exact fun u rests saves => ih (u.idleCore e.1) (u.idleCore_rests _ n e.1 rests) saves
  unfold State.gangLeft
  split
  next => exact ⟨.inl rfl, rfl⟩
  next g _ =>
    split
    next => exact ⟨.inl rfl, rfl⟩
    next => exact each g.standing s (.inl rfl) rfl

/-! ### The SAVE (R233) -/

/-- Nothing of a core's context is outstanding, and its array is empty. -/
structure Core.Quiet (c : Core) : Prop where
  arr : c.arr = Arr.zero
  accs : c.accs = []
  replies : c.replies = []
  closing : c.btw.closing = []
  engine : c.engine = []

/-- Core `n`, of which nothing is outstanding, is saving its context to an area that it has not pinned yet and whose first page is
`p`. -/
structure State.SavesTo (s : State) (n : Nat) (v : Saving) (p : Nat × BitVec 8) (ps : List (Nat × BitVec 8)) : Prop where
  saving : (s.core n).saving = some v
  unpinned : v.pins = none
  pages : s.areaPages n v.area.toNat saveLen = .ok (p :: ps)
  quiet : (s.core n).Quiet

/-- The module when the record of core `n` has been written to the area of the pages `p :: ps`. -/
def State.contextSaved (s : State) (n : Nat) (p : Nat × BitVec 8) (ps : List (Nat × BitVec 8)) : State :=
  let c := s.core n
  let u := s.fillPages ((p :: ps) ++ [])
  let u := (if c.run == .stopped .retired then u.settleAll (dieOf n) else u).onGang n fun g => g.saveOne c.rank (c.leaves n)
  { u.setCore n (c.vacate.traced u.time 7 0 c.trap.tbundle) with
    saves := Map.put u.saves p.1 (c.saved (s.pair (pairOf n)).mode none)
    absent := u.absent ++ c.pending.map fun e => (c.regs.ctxId, e) }

/-- R233: the core stands without its context, and its record under the area's address. -/
theorem State.contextSaved_spec (s : State) (n : Nat) (p : Nat × BitVec 8) (ps : List (Nat × BitVec 8)) :
    (s.contextSaved n p ps).core n = (s.core n).vacate.traced s.time 7 0 (s.core n).trap.tbundle
      ∧ Map.find? (s.contextSaved n p ps).saves p.1 = some ((s.core n).saved (s.pair (pairOf n)).mode none) := by
  obtain ⟨m, filled⟩ := s.fillPages_mem ((p :: ps) ++ [])
  have settled (b : Bool) : ∃ ds, (if b then (s.fillPages ((p :: ps) ++ [])).settleAll (dieOf n)
      else s.fillPages ((p :: ps) ++ [])) = { s with mem := m, dies := ds } := by
    rw [filled]
    cases b
    · exact ⟨s.dies, rfl⟩
    · exact ⟨_, rfl⟩
  obtain ⟨ds, e⟩ := settled ((s.core n).run == .stopped .retired)
  obtain ⟨ds', e'⟩ := State.onGang_dies { s with mem := m, dies := ds } n
    fun g => g.saveOne (s.core n).rank ((s.core n).leaves n)
  rw [State.contextSaved]
  simp only [e, e']
  exact ⟨State.core_setCore_same _ _ _, Map.find_put_same _ _ _⟩

section
variable {s : State} {n : Nat} {v : Saving} {p : Nat × BitVec 8} {ps : List (Nat × BitVec 8)} (h : s.SavesTo n v p ps)
include h

theorem State.SavesTo.withdraw : s.withdraw n = s := by rw [State.withdraw, h.quiet.accs]; rfl

theorem State.SavesTo.savePins : ∃ tlbs, s.savePins n v = .ok ⟨p :: ps, [], tlbs⟩ := by
  have bare : (s.core n).hasArray = false := by rw [Core.hasArray, h.quiet.arr]; decide
  refine ⟨s.areaTlbs n v.area.toNat saveLen ++ [], ?_⟩
  simp only [State.savePins, h.unpinned, State.pinArea, h.pages, bare]
  rfl

theorem State.SavesTo.drained : (s.core n).drained = true := by
  simp only [Core.drained, h.quiet.replies, h.quiet.closing, h.quiet.accs, h.quiet.arr, h.quiet.engine]
  rfl

/-- The save engine writes the context's record, and the gang may give up its pairs. -/
theorem State.SavesTo.saveStep :
    s.saveStep n = some ((s.contextSaved n p ps).gangLeft (dieOf n) (s.core n).gangId) := by
  obtain ⟨tlbs, pins⟩ := h.savePins
  have sound : (s.core n).arr.ecc.isEmpty = true := by rw [h.quiet.arr]; rfl
  simp only [State.saveStep, h.saving, pins, h.withdraw, h.drained, sound]
  rfl

end

/-- R232, R233: a SAVE that the die controller asks for in the handler of a user context is taken and carried out. -/
theorem csreqSave_spec {s : State} {m : Nat} {area : Word} {p : Nat × BitVec 8} {ps : List (Nat × BitVec 8)}
    (unasked : (s.core (s.leader m)).saving = none) (handler : (s.core (s.leader m)).inTrap = true)
    (user : (s.core (s.leader m)).trap.tcause.getLsbD 16 = false)
    (pages : s.areaPages (s.leader m) (area.toNat / 2 ^ 16 % 2 ^ 40 * 2 ^ 16) saveLen = .ok (p :: ps))
    (quiet : (s.core (s.leader m)).Quiet) :
    let c := (s.core (s.leader m)).saveAsked area
    ∃ t, exec (.csreqSave m area) s = .next t ∧ t.core (s.leader m) = c.vacate.traced s.time 7 0 c.trap.tbundle
      ∧ Map.find? t.saves p.1 = some (c.saved (s.pair (pairOf (s.leader m))).mode none) := by
  intro c
  let u := s.setCore (s.leader m) c
  have asked : u.core (s.leader m) = c := State.core_setCore_same _ _ _
  have savesTo : u.SavesTo (s.leader m) ⟨csArea (saveWord area), 0, none⟩ p ps := by
    refine ⟨congrArg Core.saving asked, rfl, ?_, ?_⟩
    · rw [csArea_saveWord]
      exact (s.areaPages_setCore (c := c) _ _ rfl).trans pages
    · rw [asked]
      exact ⟨quiet.arr, quiet.accs, quiet.replies, quiet.closing, quiet.engine⟩
  obtain ⟨vacated, listed⟩ := u.contextSaved_spec (s.leader m) p ps
  obtain ⟨rests, saves⟩ := (u.contextSaved (s.leader m) p ps).gangLeft_rests (s.leader m) (dieOf (s.leader m)) c.gangId
  rw [asked] at vacated listed
  refine ⟨_, ?_, (rests.run_idle (congrArg Core.run vacated)).trans vacated,
    (congrArg (Map.find? · p.1) saves).trans listed⟩
  have step := savesTo.saveStep
  rw [asked] at step
  show execCsreqSave m area s = _
  simp only [execCsreqSave, unasked]
  show Host.Outcome.next (((s.setCore _ (Core.csreq _ (saveWord area))).saveStep _).getD _) = _
  rw [Core.csreq_saveWord area handler user, show State.saveStep (s.setCore _ _) _ = _ from step]
  rfl

/-! ### The RESTORE (R234) -/

/-- A core that resumes keeps what ERET keeps. -/
theorem Core.resumed_eq (c : Core) (time : Nat) : ∃ x u t f b tr,
    c.resumed time = { c with ctx := x, sup := u, trap := t, fetch := f, btw := b, trace := tr }
      ∧ u = (if c.inTrap then c.trap.ppriv else c.sup) ∧ (c.ctx.parked = [] → x.regs = c.ctx.regs) := by
  unfold Core.resumed
  split
  next =>
    obtain ⟨f, b, tr, e, -⟩ := c.return_eq time
    exact ⟨_, _, _, f, b, tr, e, rfl, fun none_ => (congrArg Ctx.regs (Ctx.unparked_of_nil none_) :)⟩
  next => exact ⟨c.ctx, c.sup, c.trap, c.fetch, c.btw, c.trace, rfl, rfl, fun _ => rfl⟩

/-- The record `r` of an area whose first page is `p` can be restored on core `n`. -/
structure State.RestoresFrom (s : State) (n va : Nat) (p : Nat × BitVec 8) (ps : List (Nat × BitVec 8)) (r : Saved) :
    Prop where
  idle : (s.core n).run = .idle
  led : s.protected_ n = true → n % 2 = 0 ∧ (s.core (n + 1)).run = .idle
  unshared : (s.pair (pairOf n)).mode = 2 → (s.pair (pairOf n)).q0 = false ∧ (s.pair (pairOf n)).q1 = false
  pages : s.areaPages n va saveLen = .ok (p :: ps)
  listed : Map.find? s.saves p.1 = some r
  fresh : r.restored = false
  mode : r.mode = (s.pair (pairOf n)).mode
  bare : r.arrAt = none
  sound : s.mem.badPages (p :: ps) = false

/-- The core that runs the context of a record again, with the events that had come for it. -/
def Core.restoredAs (c : Core) (r : Saved) (th : List Word) (time : Nat) (pending : List BEvent) : Core :=
  { (c.reload r th).resumed time with pending := pending, trace := c.trace.add time 8 0 r.trap.tbundle }

/-- R234: of the core that takes a record, only what ERET changes is not as the record says. -/
theorem Core.restoredAs_eq (c : Core) (r : Saved) (th : List Word) (time : Nat) (pending : List BEvent) :
    ∃ x u t f b tr, c.restoredAs r th time pending
        = { c.reload r th with ctx := x, sup := u, trap := t, fetch := f, btw := b, trace := tr, pending := pending }
      ∧ x = ((c.reload r th).resumed time).ctx ∧ u = (if r.trap.intrap then r.trap.tcause.getLsbD 16 else r.ctx.priv)
      ∧ (r.ctx.parked = [] → x.regs = r.ctx.regs) := by
  obtain ⟨x, u, t, f, b, tr, e, mode, regs⟩ := (c.reload r th).resumed_eq time
  refine ⟨x, u, t, f, b, c.trace.add time 8 0 r.trap.tbundle, ?_, ?_, ?_, regs⟩
  · rw [Core.restoredAs, e]
  · rw [e]
  · have handler : (c.reload r th).inTrap = ((r.trap.intrap || r.ctx.priv) && r.trap.intrap) := rfl
    have entered : (c.reload r th).sup = (r.trap.intrap || r.ctx.priv) := rfl
    rw [mode, handler, entered]
    cases r.trap.intrap
    · simp
    · rfl

/-- The events that have come for the context of an identifier while it was on no core. -/
def State.eventsFor (s : State) (ctx : Nat) : List BEvent := (s.absent.filter fun e => e.1 == ctx).map (·.2)

/-- The module when core `n` runs the context of the record `r` of the area at `key`. -/
def State.contextRestored (s : State) (n key : Nat) (r : Saved) : State :=
  let c := s.core n
  let u := s.moveClaims r.regs.ctxId (c.btw.seg + 1) c.btw.rolls
  let c' := c.restoredAs r (s.thermal (dieOf n)) s.time (s.eventsFor r.regs.ctxId)
  let u := { u.setCore n c' with
    saves := Map.put s.saves key { r with restored := true }
    absent := s.absent.filter fun e => e.1 != r.regs.ctxId }
  u.onGang n fun g => g.restoreOne c'.rank n

/-- R241: of a protected pair the core of the even number leads. -/
theorem State.leader_even (s : State) {m : Nat} (two : s.protected_ (s.leader m) = true) : s.leader m % 2 = 0 := by
  rw [State.leader] at two ⊢
  cases led : s.protected_ m
  · rw [led, if_neg (by decide), led] at two
    exact absurd two (by decide)
  · rw [if_pos rfl, Nat.mul_mod_right]

/-- R234: the record runs on the core, and is marked so that no RESTORE takes it again; no byte of memory changes. -/
theorem State.contextRestored_spec (s : State) (n key : Nat) (r : Saved) :
    (s.contextRestored n key r).core n = (s.core n).restoredAs r (s.thermal (dieOf n)) s.time (s.eventsFor r.regs.ctxId)
      ∧ Map.find? (s.contextRestored n key r).saves key = some { r with restored := true }
      ∧ (s.contextRestored n key r).mem = s.mem := by
  unfold State.contextRestored
  dsimp only
  obtain ⟨ds, e⟩ := State.onGang_dies _ n _
  rw [e]
  exact ⟨State.core_setCore_same _ _ _, Map.find_put_same _ _ _, rfl⟩

theorem State.RestoresFrom.exec_csreqRestore {s : State} {n : Nat} {area : Word} {p : Nat × BitVec 8}
    {ps : List (Nat × BitVec 8)} {r : Saved} (h : s.RestoresFrom n (bitsAt area.toNat 16 40 * 65536) p ps r) :
    exec (.csreqRestore n area) s = .next (s.contextRestored n p.1 r) := by
  have follows : (s.protected_ n && (n % 2 != 0 || (s.core (n + 1)).run != .idle)) = false := by
    cases two : s.protected_ n
    · rfl
    · obtain ⟨even, stands⟩ := h.led two
      simp [even, stands]
  have shares : ((s.pair (pairOf n)).mode == 2 && ((s.pair (pairOf n)).q0 || (s.pair (pairOf n)).q1)) = false := by
    cases two : (s.pair (pairOf n)).mode == 2
    · rfl
    · obtain ⟨none0, none1⟩ := h.unshared (eq_of_beq two)
      simp [none0, none1]
  have sound : s.mem.badPages (p :: ps ++ []) = false := by rw [List.append_nil]; exact h.sound
  show execCsreqRestore n area s = _
  simp only [execCsreqRestore, h.idle, follows, shares, h.pages, h.listed, h.fresh, h.mode, h.bare, bne_self_eq_false, sound,
    State.contextRestored]
  rfl

end Sys2Proof.Machine
end

section
/-! The two clears of LSCLR (R194), and the trace's triggers (R236). -/

namespace Sys2Proof.Machine

/-! ### The end of a clear -/

/-- The end of a freeze lets the core run. -/
theorem Core.thaw_frozen {c : Core} (time : Nat) {r : Nat} (frozen : c.frozenFor r = true) :
    ∃ tr, c.thaw time = { c with run := .run, trace := tr } := by
  cases run : c.run with
  | frozen f =>
    simp only [Core.thaw, run]
    exact ⟨_, rfl⟩
  | _ =>
    simp only [Core.frozenFor, run] at frozen
    exact absurd frozen (by decide)

/-- What a core of which a clear may have ended keeps of core `c`. -/
structure Core.ClearEnds (c d : Core) : Prop where
  loc : d.loc = c.loc
  ctx : d.ctx = c.ctx
  frozen : c.frozenFor 9 = true → d.btw.clear = none ∧ d.run = .run
  unfrozen : c.frozenFor 9 = false → d.btw.clear = c.btw.clear ∧ d.run = c.run

/-- R194: a clear ends a freeze of reason 9, in time (R228). -/
theorem State.endClear_spec {s : State} {n : Nat} (timely : (s.core n).expired = false) :
    (s.core n).ClearEnds ((s.endClear n).core n) ∧ (s.endClear n).mem = s.mem := by
  cases frozen : (s.core n).frozenFor 9
  · have stays : s.endClear n = s := by simp only [State.endClear, frozen]; rfl
    rw [stays]
    exact ⟨⟨rfl, rfl, fun is_frozen => absurd (frozen.symm.trans is_frozen) (by decide), fun _ => ⟨rfl, rfl⟩⟩, rfl⟩
  · obtain ⟨tr, thaws⟩ := Core.thaw_frozen s.time frozen
    have ends : s.endClear n = s.setCore n
        { s.core n with run := .run, trace := tr, btw := { (s.core n).btw with clear := none, doneAt := none } } := by
      simp only [State.endClear, frozen, timely, thaws]
      rfl
    rw [ends, State.core_setCore_same]
    exact ⟨⟨rfl, rfl, fun _ => ⟨rfl, rfl⟩, fun not_frozen => absurd (frozen.symm.trans not_frozen) (by decide)⟩, rfl⟩

/-! ### One half of a clear -/

/-- The core with one half of a clear done, and `x` of it left to do. -/
def Core.halfCleared (c : Core) (l : Local) (x : Bool × Bool) : Core :=
  { c with loc := l, btw := { c.btw with clear := some x } }

/-- The module after one half of a clear, which leaves the local memory `l`: where `more` says so, the other half `x` is still to
do. -/
def State.halfCleared (s : State) (n : Nat) (l : Local) (x : Bool × Bool) (more : Bool) : State :=
  let u := s.setCore n ((s.core n).halfCleared l (if more then x else (false, false)))
  if more then u else u.endClear n

section
variable {s : State} {n : Nat} {b : Bool}

theorem State.clearHalf_abuf (clear : (s.core n).btw.clear = some (true, b))
    (whole : (s.core n).engine.any EngItem.midAbuf = false) :
    s.clearHalf n false = s.halfCleared n (s.core n).loc.clearA (false, true) b := by
  simp only [State.clearHalf, clear, Core.clearReady, whole]
  cases b <;> rfl

theorem State.clearHalf_tspad (clear : (s.core n).btw.clear = some (b, true))
    (landed : ∀ l ∈ (s.core n).loc.lines, l.2.count = 0) :
    s.clearHalf n true = s.halfCleared n (s.core n).loc.flush.clearT (true, false) b := by
  have none_lands : (s.core n).loc.lines.any (fun l => l.2.count != 0) = false :=
    List.any_eq_false.2 fun l hl => by simp [landed l hl]
  simp only [State.clearHalf, clear, Core.clearReady, none_lands]
  cases b <;> rfl

end

/-- Where nothing is left to do, the freeze ends. -/
theorem State.halfCleared_spec {s : State} {n : Nat} (l : Local) (x : Bool × Bool) (more : Bool)
    (timely : (s.core n).expired = false) :
    let t := s.halfCleared n l x more
    (t.core n).loc = l ∧ (t.core n).ctx = (s.core n).ctx ∧ t.mem = s.mem
    ∧ if more then (t.core n).btw.clear = some x ∧ (t.core n).run = (s.core n).run
      else if (s.core n).frozenFor 9 then (t.core n).btw.clear = none ∧ (t.core n).run = .run
      else (t.core n).btw.clear = some (false, false) ∧ (t.core n).run = (s.core n).run := by
  cases more
  · have ends := State.endClear_spec (s := s.setCore n ((s.core n).halfCleared l (false, false))) (n := n)
    rw [State.core_setCore_same] at ends
    obtain ⟨⟨loc, ctx, frozen, unfrozen⟩, mem⟩ := ends timely
    refine ⟨loc, ctx, mem, ?_⟩
    show if (s.core n).frozenFor 9 then _ else _
    split
    next is_frozen => exact frozen is_frozen
    next not_frozen => exact unfrozen (Bool.not_eq_true _ ▸ not_frozen)
  · rw [State.halfCleared, if_pos rfl]
    dsimp only
    rw [State.core_setCore_same]
    exact ⟨rfl, rfl, rfl, rfl, rfl⟩

/-! ### The trace -/

/-- R236: a trigger by hand while the trace records, and no countdown runs. -/
theorem Trace.trigger_spec {t : Trace} (on : t.trctl.getLsbD 63 = true) (records : t.trctl.getLsbD 62 = false)
    (idle : t.left = none) :
    (if t.trctl.toNat / 2 ^ 36 % 2 ^ 12 = 0 then
        t.trigger.trctl.getLsbD 62 = true ∧ t.trigger.due = (t.due || t.trctl.getLsbD 61)
      else t.trigger.left = some (t.trctl.toNat / 2 ^ 36 % 2 ^ 12))
    ∧ t.trigger.entries = t.entries := by
  simp only [Trace.trigger, on, records, idle, bitsAt_eq]
  split
  next none_more =>
    refine ⟨⟨?_, rfl⟩, rfl⟩
    exact (getLsbD_putBit _ _ (by decide)).trans (if_pos rfl)
  next => exact ⟨rfl, rfl⟩

end Sys2Proof.Machine
end

section
open Sys2Proof Sys2Proof.Machine

/-- Settles O43: each instruction's effect is that of one step of the save engine, of the clear or of the trace, whose rule is
stated once above. -/
theorem savesAndClears : Obligations.saves_and_clears := by
  intro m area idx p ps r b s n c va keeps cleared
  have keeps_setCore (d : Core) (ctx : d.ctx = c.ctx) (run : d.run = c.run) : keeps (s.setCore n d) := by
    obtain ⟨here, mem, others⟩ := s.setCore_only n d
    exact ⟨by rw [here, ctx], by rw [here, run], mem, others⟩
  refine ⟨fun unasked handler user pages arr accs replies closing engine => ?_,
    fun idle follower unshared pages listed fresh mode bare sound => ?_, ?_,
    fun clear whole timely => ?_, fun clear landed timely => ?_, ?_, fun on records unarmed => ?_⟩
  · obtain ⟨t, goes, vacated, listed⟩ := csreqSave_spec unasked handler user pages ⟨arr, accs, replies, closing, engine⟩
    exact ⟨t, goes, congrArg Core.run vacated, congrArg (·.regs.csstat) vacated, congrArg Core.held vacated,
      _, listed, rfl, rfl, rfl, rfl, rfl, rfl, rfl, rfl, rfl⟩
  · have here : s.RestoresFrom n (bitsAt area.toNat 16 40 * 65536) p ps r := by
      refine ⟨idle, fun two => ⟨s.leader_even two, follower two⟩, unshared, ?_, listed, fresh, mode, bare, sound⟩
      rw [bitsAt_eq]
      exact pages
    obtain ⟨restored, marked, mem⟩ := s.contextRestored_spec n p.1 r
    obtain ⟨x, u, t, f, b, tr, e, ctx, sup, regs⟩ := c.restoredAs_eq r (s.thermal (dieOf n)) s.time (s.eventsFor r.regs.ctxId)
    have core := restored.trans e
    exact ⟨_, here.exec_csreqRestore, congrArg Core.run core, (congrArg Core.ctx core).trans ctx,
      (congrArg Core.sup core).trans sup, congrArg Core.entry core, congrArg (·.regs.csstat) core, congrArg Core.recov core,
      congrArg (·.regs.thctl) core, congrArg (·.regs.job) core, congrArg (·.regs.ctxId) core, congrArg (·.regs.asid) core,
      fun none_ => (congrArg (·.ctx.regs) core).trans (regs none_), ⟨_, marked, rfl⟩, mem⟩
  · exact ⟨_, rfl, congrArg (·.regs.csstat) (State.core_setCore_same _ _ _), keeps_setCore _ rfl rfl⟩
  · obtain ⟨loc, ctx, mem, ends⟩ := State.halfCleared_spec c.loc.clearA (false, true) b timely
    have goes : exec (.lsclrClra m) s = .next _ := congrArg Host.Outcome.next (State.clearHalf_abuf clear whole)
    exact ⟨_, goes, by rw [loc]; rfl, by rw [loc]; rfl, by rw [loc]; rfl, by rw [loc]; rfl, ctx, mem, ends⟩
  · obtain ⟨loc, ctx, mem, ends⟩ := State.halfCleared_spec c.loc.flush.clearT (true, false) b timely
    have goes : exec (.lsclrClrt m) s = .next _ := congrArg Host.Outcome.next (State.clearHalf_tspad clear landed)
    exact ⟨_, goes, by rw [loc]; rfl, by rw [loc]; rfl, by rw [loc]; rfl, by rw [loc]; exact c.loc.draining_flush,
      ctx, mem, ends⟩
  · exact ⟨_, rfl, congrArg (·.trace) (State.core_setCore_same _ _ _), keeps_setCore _ rfl rfl⟩
  · obtain ⟨post, entries⟩ := Trace.trigger_spec on records unarmed
    have here := State.core_setCore_same s n { c with trace := c.trace.trigger }
    refine ⟨_, rfl, ?_, ?_, keeps_setCore _ rfl rfl⟩
    · rw [here]; exact post
    · rw [here]; exact entries

end

section
/-! Copies and sends at issue: what latches, and where the item goes (R195 to R201, R222, R266, R313). -/

namespace Sys2Proof.Machine

/-- R200, R201, R222, R266: an item takes the next number; it goes to the engine at once where its kind is not held or a
trap handler issues it, and to the held queue otherwise. -/
def Core.queues (c : Core) (now : Bool) (held engine : EngItem) : Core :=
  let numbered := { c with btw := { c.btw with nextId := c.btw.nextId + 1 } }
  if now || c.inTrap then { numbered with engine := c.engine ++ [engine] } else { numbered with held := c.held ++ [held] }

/-- The item has joined one of the two queues of the core at hand; the other queue, the context, the accesses, the local
memories, the memory and the other cores stay as they are. -/
def State.Queued (s t : State) (now : Bool) (held engine : EngItem) : Prop :=
  (if now || s.me.inTrap then t.me.engine = s.me.engine ++ [engine] ∧ t.me.held = s.me.held
   else t.me.held = s.me.held ++ [held] ∧ t.me.engine = s.me.engine)
  ∧ t.me.btw.nextId = s.me.btw.nextId + 1 ∧ t.me.ctx = s.me.ctx ∧ t.me.accs = s.me.accs ∧ t.me.loc = s.me.loc
  ∧ t.mem = s.mem ∧ ∀ n, n ≠ s.iss.cur → t.core n = s.core n

theorem Like.queued {u s : State} (like : Like u s) (now : Bool) (held engine : EngItem) :
    s.Queued (u.onMe fun c => c.queues now held engine) now held engine := by
  have others (n : Nat) (other : n ≠ s.iss.cur) : (u.onMe fun c => c.queues now held engine).core n = s.core n := by
    rw [State.core_onMe_other _ _ (like.cur ▸ other), like.core]
  rw [State.Queued, State.me_onMe, State.mem_onMe, like.me, like.mem, Core.queues]
  split
  · exact ⟨⟨rfl, rfl⟩, rfl, rfl, rfl, rfl, rfl, others⟩
  · exact ⟨⟨rfl, rfl⟩, rfl, rfl, rfl, rfl, rfl, others⟩

/-! ### Copies (R195 to R201, R216 to R219) -/

/-- R313: the release mark is given as the copy enters the engine. -/
theorem State.enterCopy_eq (u : State) (x : Copy) (now : Bool) : u.enterCopy x now =
    u.onMe fun c => c.queues now (.copy x) (.copy { x with mark := releaseMark c.accs, commits := c.btw.commits }) := rfl

/-- The copy is in its queue as it has latched. -/
def State.CopyJoined (s : State) (now : Bool) (x : Copy) (t : State) : Prop :=
  s.Queued t now (.copy x) (.copy { x with mark := releaseMark s.me.accs, commits := s.me.btw.commits })

theorem Like.enterCopy {u s : State} (like : Like u s) (now : Bool) (x : Copy) :
    s.CopyJoined now x (u.enterCopy x now) := by
  rw [State.enterCopy_eq, like.onMe_congr (f' := fun c => c.queues now (.copy x)
    (.copy { x with mark := releaseMark s.me.accs, commits := s.me.btw.commits })) rfl]
  exact like.queued now _ _

/-- A ready copy joins its queue with what it latches, whatever requests have been noted before. -/
theorem copy_leads {i : Instr} {o : Op} {s : State} {now : Bool} {mk : State → Copy} {op : CopyOp} {a b c : Word}
    {ds : List Word} {inc : BitVec 7} {chk : Bool} (e : opOf i = some o)
    (run : o.run = fun u => u.enterCopy (mk u) now)
    (latches : ∀ rs, mk { s with iss := { s.iss with reqs := rs } } = s.mkCopy op a b c ds inc chk)
    (hi : ready i s = true) : leads i s (s.CopyJoined now (s.mkCopy op a b c ds inc chk)) :=
  leads_when e hi fun u like => by
    have latched : mk u = s.mkCopy op a b c ds inc chk := by
      obtain ⟨⟨rs, rfl⟩, -⟩ := like
      exact latches rs
    rw [run, ← latched]
    exact like.enterCopy now (mk u)

/-! ### Sends (R266) -/

/-- What latches into a send. -/
def State.mkSend (s : State) (t : Word) (pos : BitVec 4) (src : Option Nat) (fmt : Option Tag) (row : Option Row) : Send :=
  { id := s.me.btw.nextId, tag := t.extractLsb' 0 32, pos := pos, src := src, fmt := fmt, row := row
    ctx := s.me.regs.ctxId, asid := s.me.space, seg := s.me.btw.seg, sent := false, refused := 0, due := 0
    waiting := false, stop := none }

theorem Like.enterSend {u s : State} (like : Like u s) (t : Word) (pos : BitVec 4) (src : Option Nat) (fmt : Option Tag)
    (row : Option Row) :
    s.Queued (u.enterSend t pos src fmt row) false (.send (s.mkSend t pos src fmt row))
      (.send (s.mkSend t pos src fmt row)) := by
  have joins : u.enterSend t pos src fmt row =
      u.onMe fun c => c.queues false (.send (s.mkSend t pos src fmt row)) (.send (s.mkSend t pos src fmt row)) :=
    like.onMe_congr rfl
  rw [joins]
  exact like.queued false _ _

end Sys2Proof.Machine
end

section
open Sys2Proof Sys2Proof.Machine

/-- Settles O34: each copy latches values of the core at hand and joins one of the two queues, and so does each send. -/
theorem copiesAndSendsAtIssue : Obligations.copies_and_sends_at_issue := by
  intro g a b c v inc chk f cls op pos s me A B C queued copies sends
  refine ⟨copy_leads rfl rfl fun _ => rfl, copy_leads rfl rfl fun _ => rfl, copy_leads rfl rfl fun _ => rfl,
    copy_leads rfl rfl fun _ => rfl, copy_leads rfl rfl fun _ => rfl, copy_leads rfl rfl fun _ => rfl,
    copy_leads rfl rfl fun _ => rfl, copy_leads rfl rfl fun _ => rfl, copy_leads rfl rfl fun _ => rfl,
    copy_leads rfl rfl fun _ => rfl, copy_leads rfl rfl fun _ => rfl, copy_leads rfl rfl fun _ => rfl,
    copy_leads rfl rfl fun _ => rfl, copy_leads rfl rfl fun _ => rfl, copy_leads rfl rfl fun _ => rfl,
    copy_leads rfl rfl fun _ => rfl, fun hi => leads_when rfl hi fun u like => ?_,
    fun hi => leads_when rfl hi fun u like => ?_⟩
  · simp only [opCjs, like.gOf, like.opV]
    exact like.enterSend _ _ _ _ _
  · simp only [opCjsl, like.gOf]
    exact like.enterSend _ _ _ _ _

end

section
/-! What a TLBI takes from the cores and the clusters (R191, R297). -/

namespace Sys2Proof

/-- A change of every value, the default with them, changes what is read. -/
theorem Map.getD_map {α : Type} (m : Map α) (f : α → α) (k : Nat) (d : α) :
    Map.getD (m.map fun e => (e.1, f e.2)) k (f d) = f (Map.getD m k d) := by
  rw [Map.getD, Map.find_map, Option.getD_map, Map.getD]

end Sys2Proof

namespace Sys2Proof.Machine

section
variable (c : Core) (s : State) (k : TlbiKind) (asid : BitVec 12) (va : Nat) (pages : List CodePage) {x : Tlb}

@[simp] theorem Core.ctx_tlbi : (c.tlbi k asid va pages).ctx = c.ctx := rfl

theorem Core.mem_tlb_tlbi :
    x ∈ (c.tlbi k asid va pages).fetch.tlb ↔ x ∈ c.fetch.tlb ∧ ¬ x.removedBy k asid va = true := by
  simp [Core.tlbi, Fetch.dropPages]

/-- A core that holds nothing loses nothing. -/
theorem Core.tlbi_reset (n : Nat) : (Core.reset n).tlbi k asid va pages = Core.reset n := rfl

/-- R297: every core loses what the TLBI names, whether the state lists the core or has it as at reset. -/
theorem State.core_invalidate (n : Nat) :
    (s.invalidate k asid va).core n = (s.core n).tlbi k asid va (s.tlbiPages k asid va) := by
  have mapped := Map.getD_map s.cores (Core.tlbi · k asid va (s.tlbiPages k asid va)) n (Core.reset n)
  rwa [Core.tlbi_reset] at mapped

/-- R297: every cluster loses what the TLBI names. -/
theorem State.mem_ctlb_invalidate (cl : Nat) :
    x ∈ Map.getD (s.invalidate k asid va).mem.ctlb cl []
      ↔ x ∈ Map.getD s.mem.ctlb cl [] ∧ ¬ x.removedBy k asid va = true := by
  have mapped := Map.getD_map s.mem.ctlb (List.filter fun t => !t.removedBy k asid va) cl []
  rw [List.filter_nil] at mapped
  rw [State.invalidate, mapped]
  simp

@[simp] theorem State.bytes_invalidate : (s.invalidate k asid va).mem.bytes = s.mem.bytes := rfl

theorem State.tlbiBy_held {n : Nat} (held : s.tlbiHeld k asid va = true) : s.tlbiBy n k asid va =
    s.setCore n { s.core n with fetch := { (s.core n).fetch with tlbis := (s.core n).fetch.tlbis ++ [(k, asid, va)] } } :=
  if_pos held

theorem State.tlbiBy_free {n : Nat} (free : s.tlbiHeld k asid va = false) : s.tlbiBy n k asid va = s.invalidate k asid va :=
  if_neg (by simp [free])

end

/-- A TLBI reads its operands at issue (R5) and notes no request, so it acts on the state as it stands. -/
theorem exec_tlbi {g : Guard} {a b : GSrc} {k : TlbiKind} {s : State} (h : ready (.tlbi g a b k) s = true) :
    exec (.tlbi g a b k) s =
      .next (s.tlbiBy s.iss.cur k ((s.gReg b).extractLsb' 0 12) ((s.gReg a).toNat % 2 ^ 56)) := by
  have noOv := ready_noOv rfl h
  have runs : exec (.tlbi g a b k) s
      = .next (s.tlbiBy s.iss.cur k ((s.opB b).extractLsb' 0 12) ((s.opA a).toNat % 2 ^ 56)) := exec_ready rfl h
  rw [runs, State.opA_reg noOv, State.opB_reg noOv]

end Sys2Proof.Machine
end

section
open Sys2Proof Sys2Proof.Machine

/-- Settles O14: a TLBI that is held joins the core's list; otherwise every core's and every cluster's list is filtered. -/
theorem translationsRemoved : Obligations.translations_removed := by
  intro g a b k s asid va named
  have removed (x : Tlb) : x.removedBy k asid va = true ↔ named x := by
    cases k with
    | all => simp [Tlb.removedBy, named]
    | space => simp [Tlb.removedBy, named]
    | page => simp [Tlb.removedBy, named, alignDown]
  refine ⟨fun held hi => ?_, fun hi free => ⟨s.invalidate k asid va, ?_, fun n x => ?_, fun cl x => ?_,
    State.bytes_invalidate .., fun n => ?_⟩⟩
  · rw [exec_tlbi hi, State.tlbiBy_held _ _ _ _ held]
    rfl
  · rw [exec_tlbi hi, State.tlbiBy_free _ _ _ _ free]
  · rw [State.core_invalidate, Core.mem_tlb_tlbi, removed]
  · rw [State.mem_ctlb_invalidate, removed]
  · rw [State.core_invalidate, Core.ctx_tlbi]

end

section
/-! What the trap registers hold after a trap (Tables TRP-2, TRP-3, CTL-4). -/

namespace Sys2Proof.Machine

theorem causeWord_toNat {code sub : Nat} (b : Bool) (hc : code < 256) (hs : sub < 256) :
    (causeWord code sub b).toNat = code + 256 * sub + 65536 * b.toNat + 131072 := by
  have := b.toNat_lt
  rw [causeWord, BitVec.toNat_ofNat]
  omega

/-- Table TRP-3: bit 17 of TCAUSE says that the core is in a handler. -/
theorem causeWord_intrap {code sub : Nat} (b : Bool) (hc : code < 256) (hs : sub < 256) :
    (causeWord code sub b).getLsbD 17 = true := by
  have := b.toNat_lt
  rw [BitVec.getLsbD, Nat.testBit_eq_decide_div_mod_eq, causeWord_toNat b hc hs, decide_eq_true_eq]
  omega

theorem TrapRegs.code_eq (t : TrapRegs) : t.code = t.tcause.toNat % 256 := by
  rw [TrapRegs.code, bitsAt_eq, pow_zero, Nat.div_one]
  rfl

/-- R222 writes six of the trap registers: TVEC is none of them. -/
theorem TrapRegs.tvec_written (r : TrapRegs) (cause bundle slot info seq tgt : Word) :
    TrapRegs.tvec { r with tcause := cause, tbundle := bundle, tslot := slot, tinfo := info, tseq := seq, ttgt := tgt }
      = r.tvec := rfl

theorem Core.tvec_enter (c : Core) (i : TrapInfo) (w : TrapAt) : (c.enter i w).trap.tvec = c.trap.tvec :=
  TrapRegs.tvec_written ..

/-- R222: once it has entered, the core is in its handler. -/
theorem Core.inTrap_enter (c : Core) {i : TrapInfo} (w : TrapAt) (hc : i.code < 256) (hs : i.sub < 256) :
    (c.enter i w).inTrap = true := by
  have intrap : (c.enter i w).trap.intrap = true := causeWord_intrap c.sup hc hs
  rw [Core.inTrap, intrap, Bool.and_true]
  rfl

section
variable (s : State) (n : Nat) (i : TrapInfo) (w : TrapAt)

/-- R222: outside a handler the core enters one; its run state and trace apart. -/
theorem State.core_trapWith_enter (outside : (s.core n).inTrap = false) : ∃ r u v,
    (s.trapWith n i w).core n = { ({ s.core n with run := r, trace := u }).enter i w with trace := v } := by
  obtain ⟨r, u, v, entered⟩ := State.trapWith_enter s n i w outside
  exact ⟨r, u, v, by rw [entered, State.core_setCore_same]⟩

/-- R222: in a handler the core stops; nothing of it changes beside its run state and its trace. -/
theorem State.core_trapWith_double (inside : (s.core n).inTrap = true) : ∃ u,
    (s.trapWith n i w).core n = { s.core n with run := .stopped .doubleTrap, trace := u } := by
  obtain ⟨u, stopped⟩ := State.trapWith_double s n i w inside
  exact ⟨u, by rw [stopped]; exact State.core_setCore_same ..⟩

/-- R222: the die controller is told of the trap that the handler was entered for, and of the one in it. -/
theorem State.reports_trapWith_double (inside : (s.core n).inTrap = true) :
    (s.trapWith n i w).reports = s.reports ++ [.doubleTrap n ((s.core n).trap.tcause.toNat % 256) i.code i.info] := by
  obtain ⟨u, stopped⟩ := State.trapWith_double s n i w inside
  rw [stopped, TrapRegs.code_eq]

end

end Sys2Proof.Machine
end

section
open Sys2Proof Sys2Proof.Machine

/-- Settles O20: outside a handler the core enters one, from what the trap found; in a handler it stops. -/
theorem trapEntryAndDoubleTrap : Obligations.trap_entry_and_double_trap := by
  refine ⟨fun s n i w hc hs outside => ?_, fun s n i w inside => ?_⟩
  · intro c t c'
    have mem : t.mem = s.mem := State.mem_trapWith s n i w
    have others (m : Nat) (other : m ≠ n) : t.core m = s.core m := State.core_trapWith_other s i w other
    obtain ⟨r, u, v, entered⟩ := s.core_trapWith_enter n i w outside
    change c' = _ at entered
    rw [entered]
    exact ⟨causeWord_toNat c.sup hc hs, rfl, rfl, rfl,
      ⟨tseqDone_tseqWord .., tseqXfer_tseqWord .., tseqPend_tseqWord .., tseqLoop_tseqWord .., tseqLlen_tseqWord ..,
        tseqLrem_tseqWord ..⟩,
      rfl, Core.inTrap_enter _ w hc hs, rfl, rfl, rfl, rfl, rfl, rfl, rfl, Core.tvec_enter .., mem, others⟩
  · obtain ⟨u, stopped⟩ := s.core_trapWith_double n i w inside
    dsimp only
    rw [stopped]
    exact ⟨rfl, State.reports_trapWith_double s n i w inside, rfl, rfl, State.mem_trapWith ..,
      fun m other => State.core_trapWith_other s i w other⟩

end

section
/-! The M slot at issue: what joins the array's queue, and what reads and writes the tiles (R249 to R255). -/

namespace Sys2Proof

/-- What is read after one key has been set. -/
theorem Map.getD_put {α : Type} (m : Map α) (k l : Nat) (v d : α) :
    Map.getD (Map.put m k v) l d = if l = k then v else Map.getD m l d := by
  split
  next same => rw [same, Map.getD_put_same]
  next other => exact Map.getD_put_other m v d other

end Sys2Proof

namespace Sys2Proof.Machine

/-! ### The array's queue (R249, R251, R254) -/

/-- R251: the kind that an operation fixes for its tile; FQSKIP has no tile. -/
def ArrKind.fixes : ArrKind → Option Kind
  | .mma .. => some .fp32
  | .mmai => some .int32
  | .skip _ => none

/-- The kinds as issued operations have set them, `o` with them. -/
def Arr.kindsWith (a : Arr) (o : ArrOp) : Map Kind :=
  match o.kind.fixes with
  | some k => Map.put a.kindNow o.t.toNat k
  | none => a.kindNow

theorem Arr.getD_kindsWith (a : Arr) (o : ArrOp) (j : Nat) : Map.getD (a.kindsWith o) j .clear =
    if j = o.t.toNat then o.kind.fixes.getD (a.kindOf j) else a.kindOf j := by
  rw [Arr.kindsWith, Arr.kindOf]
  cases o.kind.fixes with
  | some k => exact Map.getD_put ..
  | none => exact (ite_self _).symm

/-- An operation that joins changes the queue and the kinds, and else only what its segment has issued and consumes. -/
theorem Core.queueArr_eq (c : Core) (o : ArrOp) : ∃ ua ub n, c.queueArr o = { c with arr := { c.arr with
    queue := c.arr.queue ++ [o], kindNow := c.arr.kindsWith o, usedA := ua, usedB := ub, issued := n } } := by
  obtain ⟨kind, t, groups, seg, own, idx⟩ := o
  cases own with
  | true => cases kind <;> exact ⟨_, _, _, rfl⟩
  | false => cases kind <;> exact ⟨_, _, _, rfl⟩

/-- The operation stands last in the queue and has fixed its tile's kind; the tiles, the streams, the signature, the
context and the memory stay as they are. -/
def State.ArrayJoined (s : State) (k : ArrKind) (x : TReg) (groups : Nat) (t : State) : Prop :=
  t.me.arr.queue = s.me.arr.queue ++ [s.mkArrOp k x groups]
  ∧ (∀ j, t.me.arr.kindOf j = if j = x.toNat then k.fixes.getD (s.me.arr.kindOf j) else s.me.arr.kindOf j)
  ∧ t.me.arr.tiles = s.me.arr.tiles ∧ t.me.arr.fa = s.me.arr.fa ∧ t.me.arr.fb = s.me.arr.fb
  ∧ t.me.arr.asig = s.me.arr.asig ∧ t.me.ctx = s.me.ctx ∧ t.mem = s.mem

/-- A ready operation of the array joins its queue, whatever request has been noted before. -/
theorem arrayOp_leads {i : Instr} {o : Op} {s : State} {k : ArrKind} {x : TReg} {groups : Nat} (e : opOf i = some o)
    (run : o.run = fun u => u.onMe fun c => c.queueArr (u.mkArrOp k x groups)) (hi : ready i s = true) :
    leads i s (s.ArrayJoined k x groups) :=
  leads_when e hi fun u like => by
    have same : u.mkArrOp k x groups = s.mkArrOp k x groups := by rw [State.mkArrOp, State.mkArrOp, like.me]
    obtain ⟨ua, ub, n, joined⟩ := s.me.queueArr_eq (s.mkArrOp k x groups)
    rw [run, State.ArrayJoined, State.me_onMe, State.mem_onMe, like.me, like.mem, same, joined]
    exact ⟨rfl, s.me.arr.getD_kindsWith _, rfl, rfl, rfl, rfl, rfl, rfl⟩

/-! ### Tiles (R253, R255) -/

section
variable (c : Core) (x : TReg) (y : Tile) (p : Nat → Bool)

theorem Core.tile_putTile (j : Nat) :
    (c.putTile x y p).arr.tile j = if j = x.toNat then y else c.arr.tile j := Map.getD_put ..

theorem Core.kindOf_putTile (j : Nat) :
    (c.putTile x y p).arr.kindOf j = if j = x.toNat then y.kind else c.arr.kindOf j := Map.getD_put ..

end

/-- Tile `x` is `y`, and its kind that of `y`; the other tiles, the queue, the signature, the context and the memory stay as
they are. -/
def State.TileWritten (s : State) (x : TReg) (y : Tile) (t : State) : Prop :=
  (∀ j, t.me.arr.tile j = if j = x.toNat then y else s.me.arr.tile j)
  ∧ (∀ j, t.me.arr.kindOf j = if j = x.toNat then y.kind else s.me.arr.kindOf j)
  ∧ t.me.arr.queue = s.me.arr.queue ∧ t.me.arr.asig = s.me.arr.asig ∧ t.me.ctx = s.me.ctx ∧ t.mem = s.mem

theorem Like.putTile {u s : State} (like : Like u s) (x : TReg) (y : Tile) (p : Nat → Bool) :
    s.TileWritten x y (u.onMe fun c => c.putTile x y p) := by
  rw [State.TileWritten, State.me_onMe, State.mem_onMe, like.me, like.mem]
  exact ⟨s.me.tile_putTile x y p, s.me.kindOf_putTile x y p, rfl, rfl, rfl, rfl⟩

/-- R253: TCLR leaves the zero tile. -/
theorem tclr_leads {g : Guard} {x : TReg} {s : State} (hi : ready (.tclr g x) s = true) :
    leads (.tclr g x) s (s.TileWritten x Tile.zero) :=
  leads_when rfl hi fun _ like => like.putTile x Tile.zero fun _ => true

/-- R253: the tile with one row taken from a register; the row is poisoned no longer. -/
def Tile.withRow (y : Tile) (row : BitVec 6) (v : VCell) : Tile :=
  { rows := Map.put y.rows row.toNat (v.row.setWidth 2048)
    kind := if v.tag = .int32 then .int32 else .fp32
    poison := y.poison &&& ~~~(1#64 <<< row.toNat) }

/-- R253: TWR writes a row and gives the tile the kind of the row's tag. -/
theorem twr_leads {g : Guard} {a : VSrc} {x : TReg} {row : BitVec 6} {s : State} (hi : ready (.twr g a x row) s = true) :
    leads (.twr g a x row) s (s.TileWritten x ((s.me.arr.tile x.toNat).withRow row (s.vReg a))) :=
  leads_when rfl hi fun u like => by
    have run : (opTwr g a x row).run u = u.onMe fun c =>
        c.putTile x ((s.me.arr.tile x.toNat).withRow row (s.vReg a)) (· == row.toNat) := by
      simp only [opTwr, like.opV]
      refine like.onMe_congr ?_
      simp only [Tile.withRow, putBit, beq_iff_eq, Bool.false_eq_true, if_false]
    rw [run]
    exact like.putTile ..

/-- R253: a tile row fills lanes 0 to 63; the others are zero. -/
theorem lane_tileLanes (z : BitVec 2048) {j : Nat} (h : j < 512) :
    lane (tileLanes z) j = if j < 64 then z.extractLsb' (32 * j) 32 else 0 := by
  refine BitVec.eq_of_getLsbD_eq fun i hi => ?_
  have inside : 32 * j + i < 16384 := by omega
  rw [lane, tileLanes, BitVec.getLsbD_extractLsb', BitVec.getLsbD_setWidth, decide_eq_true hi, decide_eq_true inside,
    Bool.true_and, Bool.true_and]
  split
  next low => rw [BitVec.getLsbD_extractLsb', decide_eq_true hi, Bool.true_and]
  next high => rw [BitVec.getLsbD_of_ge _ _ (by omega), BitVec.ofNat_eq_ofNat, BitVec.getLsbD_zero]

theorem Kind.tag_eq (k : Kind) : k.tag = if k = .int32 then .int32 else .fp32 := by cases k <;> rfl

/-- R256: where no uncorrectable element stands in the row, its read does not fail. -/
theorem Arr.bad_row_of_not_mem {r : Arr} {x row : Nat} (sound : (x, row) ∉ r.ecc) : r.bad x (· == row) = false := by
  refine List.any_eq_false.mpr fun e listed found => ?_
  obtain ⟨tile, place⟩ := (Bool.and_eq_true_iff.mp found).imp eq_of_beq eq_of_beq
  exact sound (tile ▸ place ▸ listed)

/-- R253: TRD delivers a row whose elements can be read, with the tile's kind and poison. -/
theorem trd_completes {g : Guard} {d : VReg} {x : TReg} {row : BitVec 6} {s : State}
    (sound : (x.toNat, row.toNat) ∉ s.me.arr.ecc) :
    let y := s.me.arr.tile x.toNat
    completes (.trd g d x row) s fun u => u.send 4
      (.v d (tileLanes (Map.getD y.rows row.toNat 0)) (BitVec.allOnes 512) (some (if y.kind = .int32 then .int32 else .fp32))
        (y.poison != 0) false) :=
  completes_when rfl fun u like => by
    simp only [opTrd, like.me, Arr.bad_row_of_not_mem sound, Bool.false_and, Bool.false_eq_true, if_false, Kind.tag_eq]

/-- R255: MSIG delivers the signature. -/
theorem msig_completes (g : Guard) (d : GReg) (s : State) :
    completes (.msig g d) s fun u => u.send 1 (.g d s.me.arr.asig false) :=
  completes_when rfl fun u like => by simp only [opMsig, like.me]

end Sys2Proof.Machine
end

section
open Sys2Proof Sys2Proof.Machine

/-- Settles O33: four operations join the queue and differ in the kind that they fix; two write a tile, and TRD and MSIG
deliver what the array holds. -/
theorem matrixSlot : Obligations.matrix_slot := by
  intro g d gd tl a fa fb kg row f n s r joins writes old
  exact ⟨arrayOp_leads rfl rfl, arrayOp_leads rfl rfl, arrayOp_leads rfl rfl, arrayOp_leads rfl rfl, tclr_leads, twr_leads,
    fun sound => ⟨_, fun _ => lane_tileLanes _, trd_completes sound⟩, msig_completes g gd s⟩

end

section
/-! The bytes of memory are in their canonical form in every state that a step leads to (log 2). Every store goes through
`Mem.store` or writes listed bytes one by one, and either keeps the form; all else leaves the bytes as they are. -/

namespace Sys2Proof.Machine

/-! ### The states that an outcome leads to -/

/-- The bytes are canonical in every state that an optional step leads to. -/
def Stays (o : Option State) : Prop := ∀ t, o = some t → t.mem.bytes.wf = true

/-- They are so in every state that an instruction's meaning leads to. -/
def Ends (o : Host.Outcome State Fault Refusal) : Prop := ∀ t, o = .next t → t.mem.bytes.wf = true

@[simp] theorem stays_none : Stays none := fun _ h => absurd h (by simp)

@[simp] theorem stays_some (t : State) : Stays (some t) ↔ t.mem.bytes.wf = true :=
  ⟨fun h => h t rfl, fun h _ e => Option.some.inj e ▸ h⟩

@[simp] theorem ends_next (t : State) : Ends (.next t) ↔ t.mem.bytes.wf = true :=
  ⟨fun h => h t rfl, fun h u e => by cases e; exact h⟩

section
variable {α : Type}

@[simp] theorem stays_bind (o : Option α) (f : α → Option State) (h : ∀ x, Stays (f x)) : Stays (o.bind f) := by
  cases o with
  | none => exact stays_none
  | some x => exact h x

@[simp] theorem stays_map (o : Option α) (f : α → State) (h : ∀ x, (f x).mem.bytes.wf = true) : Stays (o.map f) := by
  cases o with
  | none => exact stays_none
  | some x => exact (stays_some _).mpr (h x)

@[simp] theorem stays_map_of {o : Option State} {f : State → State} (h : Stays o)
    (hf : ∀ t, t.mem.bytes.wf = true → (f t).mem.bytes.wf = true) : Stays (o.map f) := by
  cases o with
  | none => exact stays_none
  | some t => exact (stays_some _).mpr (hf t (h t rfl))

theorem stays_map_fst {o : Option (State × α)} {f : State × α → State} (h : Stays (o.map (·.1)))
    (hf : ∀ r : State × α, r.1.mem.bytes.wf = true → (f r).mem.bytes.wf = true) : Stays (o.map f) := by
  cases o with
  | none => exact stays_none
  | some r => exact (stays_some _).mpr (hf r (h r.1 rfl))

@[simp] theorem stays_or (o p : Option State) (h : Stays o) (k : Stays p) : Stays (o.or p) := by
  cases o with
  | none => exact k
  | some t => exact h

@[simp] theorem stays_findSome (f : α → Option State) (h : ∀ x, Stays (f x)) (xs : List α) :
    Stays (xs.findSome? f) := by
  induction xs with
  | nil => exact stays_none
  | cons x xs ih =>
    rw [List.findSome?_cons]
    split
    · next e => exact fun t found => h x t (e.trans found)
    · exact ih

@[simp] theorem wf_getD {o : Option State} {s : State} (h : Stays o) (hs : s.mem.bytes.wf = true) :
    (o.getD s).mem.bytes.wf = true := by
  cases o with
  | none => exact hs
  | some t => exact h t rfl

/-! ### Folds -/

/-- What each step of a fold leaves as it is, the whole leaves as it is. -/
theorem get_foldl {β : Type} (get : State → β) {f : State → α → State} (h : ∀ s x, get (f s x) = get s) (xs : List α)
    (s : State) : get (xs.foldl f s) = get s := by
  induction xs generalizing s with
  | nil => rfl
  | cons x xs ih => rw [List.foldl_cons, ih, h]

@[simp] theorem mem_foldl (f : State → α → State) (h : ∀ s x, (f s x).mem = s.mem) (xs : List α) (s : State) :
    (xs.foldl f s).mem = s.mem := get_foldl State.mem h xs s

@[simp] theorem bytes_foldl (f : State → α → State) (h : ∀ s x, (f s x).mem.bytes = s.mem.bytes) (xs : List α)
    (s : State) : (xs.foldl f s).mem.bytes = s.mem.bytes := get_foldl (fun s => s.mem.bytes) h xs s

@[simp] theorem mem_foldl_setCore (n : State → α → Nat) (c : State → α → Core) (xs : List α) (s : State) :
    (xs.foldl (fun s x => s.setCore (n s x) (c s x)) s).mem = s.mem :=
  mem_foldl _ (fun _ _ => State.mem_setCore ..) xs s

@[simp] theorem mem_foldl_post (n : State → α → Nat) (e : State → α → BEvent) (xs : List α) (s : State) :
    (xs.foldl (fun s x => s.post (n s x) (e s x)) s).mem = s.mem :=
  mem_foldl _ (fun _ _ => State.mem_post ..) xs s

@[simp] theorem mem_foldl_onMe (f : State → α → Core → Core) (xs : List α) (s : State) :
    (xs.foldl (fun s x => s.onMe (f s x)) s).mem = s.mem :=
  mem_foldl _ (fun _ _ => State.mem_onMe ..) xs s

theorem State.wf_foldl (f : State → α → State) (h : ∀ s x, s.mem.bytes.wf = true → (f s x).mem.bytes.wf = true)
    (xs : List α) (s : State) (hs : s.mem.bytes.wf = true) : (xs.foldl f s).mem.bytes.wf = true := by
  induction xs generalizing s with
  | nil => exact hs
  | cons x xs ih => exact ih _ (h s x hs)

theorem Mem.wf_foldl (f : Mem → α → Mem) (h : ∀ m x, m.bytes.wf = true → (f m x).bytes.wf = true) (xs : List α)
    (m : Mem)
    (hm : m.bytes.wf = true) : (xs.foldl f m).bytes.wf = true := by
  induction xs generalizing m with
  | nil => exact hm
  | cons x xs ih => exact ih _ (h m x hm)

/-! ### Stores -/

@[simp] theorem Mem.wf_rekey (m : Mem) (u : Nat) (key : BitVec 8) (h : m.bytes.wf = true) :
    (m.rekey u key).bytes.wf = true := by
  unfold Mem.rekey
  split
  · exact h
  · exact Memory.writeLe_wf _ _ _ h

@[simp] theorem Mem.wf_store (m : Mem) (key : BitVec 8) (a : Nat) (bs : List Byte) (h : m.bytes.wf = true) :
    (m.store key a bs).bytes.wf = true :=
  Memory.writeBytes_wf _ _ (Mem.wf_foldl (fun (m : Mem) u => m.rekey u key) (fun m u => m.wf_rekey u key) _ m h)

@[simp] theorem Mem.wf_foldl_store (key : Mem → α → BitVec 8) (at_ : Mem → α → Nat) (bs : Mem → α → List Byte)
    (xs : List α) (m : Mem) (hm : m.bytes.wf = true) :
    (xs.foldl (fun m x => m.store (key m x) (at_ m x) (bs m x)) m).bytes.wf = true :=
  Mem.wf_foldl _ (fun _ _ h => Mem.wf_store _ _ _ _ h) xs m hm

end

@[simp] theorem State.wf_homeStore (s : State) (key : BitVec 8) (pa : Nat) (bs : List Byte)
    (hs : s.mem.bytes.wf = true) :
    (s.homeStore key pa bs).mem.bytes.wf = true := by
  unfold State.homeStore
  split
  · unfold State.controlStore
    split <;> exact hs
  · exact Mem.wf_store _ _ _ _ hs

/-! ### Replies and walks -/

@[simp] theorem State.bytes_sendReply (s : State) (n : Nat) (a : Acc) (d : Dst) :
    (s.sendReply n a d).mem.bytes = s.mem.bytes := rfl

@[simp] theorem Mem.bytes_cacheWalks_of (m : Mem) (ns : List Nat) (r : Option Tlb) :
    (ns.foldl (fun m n => m.cacheWalk (sliceOf n) r) m).bytes = m.bytes := Mem.bytes_cacheWalks m

/-! ### Cores, registers and traps -/

@[simp] theorem State.mem_trapAt (s : State) (n : Nat) (t : TrapInfo) :
    (s.trapAt n t).mem = s.mem := by simp [State.trapAt]

@[simp] theorem State.bytes_refuse (s : State) (t : TrapInfo) :
    (s.refuse t).mem.bytes = s.mem.bytes := by simp [State.refuse]

/-! ### Segments (R225 to R231, R244, R304) -/

@[simp] theorem State.mem_rollback (s : State) (n : Nat) : (s.rollback n).mem = s.mem := rfl

@[simp] theorem mem_foldl_rollback (ns : List Nat) (s : State) : (ns.foldl (fun s n => s.rollback n) s).mem = s.mem :=
  mem_foldl _ (fun _ _ => State.mem_rollback ..) ns s

@[simp] theorem State.mem_retire (s : State) (n : Nat) : (s.retire n).mem = s.mem := rfl

@[simp] theorem State.bytes_recover (s : State) (n : Nat) (t : TrapInfo) :
    (s.recover n t).mem.bytes = s.mem.bytes := by
  unfold State.recover
  dsimp only
  split <;> simp

@[simp] theorem State.bytes_mismatch (s : State) (n : Nat) : (s.mismatch n).mem.bytes = s.mem.bytes := by
  unfold State.mismatch
  dsimp only
  split <;> simp

/-! ### Slot operations -/

@[simp] theorem State.mem_freeze (s : State) (reason info : Nat) : (s.freeze reason info).mem = s.mem := rfl

@[simp] theorem State.bytes_stop (s : State) (v : Verdict) : (s.stop v).mem.bytes = s.mem.bytes := by
  unfold State.stop
  split <;> simp

@[simp] theorem State.bytes_partialTrap (s : State) (sub : Nat) (addr : Word) (cap : Word × Word × Word) :
    (s.partialTrap sub addr cap).mem.bytes = s.mem.bytes := by simp [State.partialTrap]

/-! ### Translation -/

@[simp] theorem State.bytes_tlbiBy (s : State) (n : Nat) (k : TlbiKind) (asid : BitVec 12) (va : Nat) :
    (s.tlbiBy n k asid va).mem.bytes = s.mem.bytes := by
  unfold State.tlbiBy
  split <;> rfl

@[simp] theorem State.stays_tlbiEnds (s : State) (n : Nat) (hs : s.mem.bytes.wf = true) : Stays (s.tlbiEnds n) := by
  unfold State.tlbiEnds
  dsimp only
  (repeat' split) <;> simp [hs]

/-! ### Messages and channels -/

@[simp] theorem State.mem_sendOn (s : State) (p agent dst vc : Nat) (body : List Byte) :
    (s.sendOn p agent dst vc body).mem = s.mem := rfl

@[simp] theorem mem_foldl_sendOn {α : Type} (p agent dst vc : Nat) (body : State → α → List Byte) (xs : List α)
    (s : State) :
    (xs.foldl (fun s x => s.sendOn p agent dst vc (body s x)) s).mem = s.mem :=
  mem_foldl _ (fun _ _ => State.mem_sendOn ..) xs s

@[simp] theorem State.mem_sendMsg (s : State) (agent dst vc : Nat) (body : List Byte) :
    (s.sendMsg agent dst vc body).mem = s.mem := rfl

@[simp] theorem State.mem_ask (s : State) (agent dst vc : Nat) (body : List Byte) (core : Nat) (copy : Bool)
    (id lo hi : Nat) (write : Bool) :
    (s.ask agent dst vc body core copy id lo hi write).mem = s.mem := rfl

@[simp] theorem Mem.bytes_enter (m : Mem) (src id pa : Nat) : (Mem.enter m src id pa).bytes = m.bytes := rfl

@[simp] theorem State.stays_askWalk (s : State) (n id : Nat) (w : Walk) (hs : s.mem.bytes.wf = true) :
    Stays (s.askWalk n id w) := by
  unfold State.askWalk
  dsimp only
  split <;> simp [hs]

@[simp] theorem ends_execArrivalIncrement (n k : Nat) (s : State) (hs : s.mem.bytes.wf = true) :
    Ends (execArrivalIncrement n k s) := by
  unfold execArrivalIncrement
  dsimp only
  split <;> simp [hs]

/-! ### What a slice does to memory (R282, R285, R292) -/

@[simp] theorem State.bytes_setSlice (s : State) (k : Nat) (x : Slice) :
    (s.setSlice k x).mem.bytes = s.mem.bytes := rfl

@[simp] theorem State.mem_setAcc (s : State) (n id : Nat) (f : Acc → Acc) : (s.setAcc n id f).mem = s.mem := rfl

@[simp] theorem State.bytes_dropAcc (s : State) (src id : Nat) : (s.dropAcc src id).mem.bytes = s.mem.bytes := by
  unfold State.dropAcc
  split <;> rfl

@[simp] theorem State.bytes_postBytes (agent : Nat) (asid : BitVec 12) (gen : Word) (fuel va : Nat) (bs : List Byte)
    (s : State) :
    (s.postBytes agent asid gen fuel va bs).1.mem.bytes = s.mem.bytes := by
  induction fuel generalizing s va bs with
  | zero => rw [State.postBytes]
  | succ k ih =>
    cases bs with
    | nil => simp [State.postBytes]
    | cons b bs =>
      rw [State.postBytes]
      · dsimp only
        (repeat' split) <;> simp [ih]
      · simp

@[simp] theorem State.mem_controlStore (s : State) (pa : Nat) (bs : List Byte) :
    (s.controlStore pa bs).mem = s.mem := by
  unfold State.controlStore
  split <;> rfl

@[simp] theorem State.bytes_note (s : State) (e : MemEvent) : (s.note e).mem.bytes = s.mem.bytes := rfl

@[simp] theorem State.bytes_noteBad (s : State) (pa n : Nat) : (s.noteBad pa n).mem.bytes = s.mem.bytes := by
  rw [State.noteBad, bytes_foldl]
  exact fun _ _ => rfl

@[simp] theorem State.bytes_refuseWrite (s : State) (src pa : Nat) :
    (s.refuseWrite src pa).mem.bytes = s.mem.bytes := by
  unfold State.refuseWrite
  split <;> rfl

/-! ### Queues, grids and joins (R319 to R327) -/

@[simp] theorem State.mem_setQueue (s : State) (d q : Nat) (x : Queue) : (s.setQueue d q x).mem = s.mem := rfl

@[simp] theorem State.bytes_queueIn (s : State) (d qn : Nat) (r : QRec) :
    (s.queueIn d qn r).mem.bytes = s.mem.bytes := by
  unfold State.queueIn
  dsimp only
  split <;> simp

@[simp] theorem State.bytes_takeRec (s : State) (d qn seq : Nat) : (s.takeRec d qn seq).mem.bytes = s.mem.bytes := by
  unfold State.takeRec
  dsimp only
  (repeat' split) <;> simp

@[simp] theorem State.mem_discard (s : State) (d qn : Nat) : (s.discard d qn).mem = s.mem := rfl

@[simp] theorem State.mem_setGrid (s : State) (d g : Nat) (x : Grid) : (s.setGrid d g x).mem = s.mem := rfl

@[simp] theorem State.mem_countOf (s : State) (x : Grid) : (s.countOf x).2.mem = s.mem := by
  unfold State.countOf
  dsimp only
  (repeat' split) <;> simp

@[simp] theorem State.bytes_releaseGrid (s : State) (d g : Nat) : (s.releaseGrid d g).mem.bytes = s.mem.bytes := by
  unfold State.releaseGrid
  dsimp only
  (repeat' split) <;> simp

@[simp] theorem State.bytes_enqueue (s : State) (d : Nat) (r : BitVec 512) (src : EnqSource) (ctx : EnqCtx)
    (idx : Option (Nat × BitVec 8)) :
    (s.enqueue d r src ctx idx).mem.bytes = s.mem.bytes := by
  unfold State.enqueue
  dsimp only
  (repeat' split) <;> simp

@[simp] theorem ends_execEnqueue (d : Nat) (r : BitVec 512) (src : EnqSource) (ctx : EnqCtx) (s : State)
    (hs : s.mem.bytes.wf = true) :
    Ends (execEnqueue d r src ctx s) := by simp [execEnqueue, hs]

@[simp] theorem State.stays_gridReleases (s : State) (d g : Nat) (hs : s.mem.bytes.wf = true) :
    Stays (s.gridReleases d g) := by
  unfold State.gridReleases
  dsimp only
  (repeat' split) <;> simp [hs]

@[simp] theorem ends_execGridRelease (d k : Nat) (s : State) (hs : s.mem.bytes.wf = true) :
    Ends (execGridRelease d k s) := by simp [execGridRelease, hs]

@[simp] theorem State.mem_releasePending (s : State) (w : Nat) : (s.releasePending w).mem = s.mem := rfl

@[simp] theorem State.mem_rootDone (s : State) (pa : Nat) (err : Bool) : (s.rootDone pa err).mem = s.mem := rfl

@[simp] theorem State.wf_joinWord (s : State) (d pa : Nat) (key : BitVec 8) (ctx : EnqCtx)
    (hs : s.mem.bytes.wf = true) :
    (s.joinWord d pa key ctx).mem.bytes.wf = true := by
  unfold State.joinWord
  dsimp only
  (repeat' split) <;> simp [hs]

@[simp] theorem State.wf_dieJoin (s : State) (d : Nat) (addr : Nat) (ctx : EnqCtx) (hs : s.mem.bytes.wf = true) :
    (s.dieJoin d addr ctx).mem.bytes.wf = true := by
  unfold State.dieJoin
  dsimp only
  (repeat' split) <;> simp [hs]

/-! ### The coolant -/

@[simp] theorem State.mem_preempt (s : State) (d gang kind prio : Nat) : (s.preempt d gang kind prio).mem = s.mem := by
  unfold State.preempt
  split
  · rfl
  · split
    · rfl
    · simp

@[simp] theorem State.mem_setEphstat (s : State) (n : Nat) (x : Word) : (s.setEphstat n x).mem = s.mem := rfl

@[simp] theorem State.bytes_serveCommit (s : State) (core : Nat) (addr : Word) :
    (s.serveCommit core addr).mem.bytes = s.mem.bytes := by
  unfold State.serveCommit
  (repeat' split) <;> simp

@[simp] theorem State.mem_serveFlow (s : State) (x : Word) : (s.serveFlow x).mem = s.mem := by
  unfold State.serveFlow
  dsimp only
  split <;> simp

@[simp] theorem State.stays_arbitrates (s : State) (hs : s.mem.bytes.wf = true) : Stays (s.arbitrates) := by
  unfold State.arbitrates
  (repeat' split) <;> simp [hs]

@[simp] theorem ends_execEphreq (k : Nat) (s : State) (hs : s.mem.bytes.wf = true) : Ends (execEphreq k s) := by
  unfold execEphreq
  split <;> simp [hs]

@[simp] theorem State.mem_askCommit (s : State) (n : Nat) (x : Word) : (s.askCommit n x).mem = s.mem := by
  unfold State.askCommit
  split <;> rfl

@[simp] theorem State.mem_writeModflow (s : State) (x : Word) : (s.writeModflow x).mem = s.mem := by
  unfold State.writeModflow
  split <;> rfl

@[simp] theorem ends_execModflowWrite (x : Word) (s : State) (hs : s.mem.bytes.wf = true) :
    Ends (execModflowWrite x s) := by simp [execModflowWrite, hs]

@[simp] theorem State.mem_gateAll (s : State) : (s.gateAll).mem = s.mem := rfl

@[simp] theorem ends_execSlotAdvance (s : State) (hs : s.mem.bytes.wf = true) :
    Ends (execSlotAdvance s) := by simp [execSlotAdvance, hs]

@[simp] theorem State.bytes_sampleZone (s : State) (inlet : Inlet) (pressure d z : Nat) (v : ZoneSample) :
    (s.sampleZone inlet pressure d z v).mem.bytes = s.mem.bytes := by
  unfold State.sampleZone
  dsimp only
  split <;> simp

@[simp] theorem ends_execSensorSample (zones : List ZoneSample) (inlet : Inlet) (pressure : Nat) (s : State)
    (hs : s.mem.bytes.wf = true) :
    Ends (execSensorSample zones inlet pressure s) := by
  unfold execSensorSample
  split <;> simp [hs]

@[simp] theorem State.bytes_lose (s : State) (n : Nat) : (s.lose n).mem.bytes = s.mem.bytes := by simp [State.lose]

@[simp] theorem ends_execDryChannelEvacuation (d z : Nat) (s : State) (hs : s.mem.bytes.wf = true) :
    Ends (execDryChannelEvacuation d z s) := by
  unfold execDryChannelEvacuation
  dsimp only
  (repeat' split) <;> simp [hs]

/-! ### The array -/

@[simp] theorem State.bytes_arrayFails (s : State) (n t : Nat) (idx : Option Nat) (early : Bool) :
    (s.arrayFails n t idx early).mem.bytes = s.mem.bytes := by
  unfold State.arrayFails
  dsimp only
  (repeat' split) <;> simp

@[simp] theorem State.stays_arrayStep (s : State) (n : Nat) (hs : s.mem.bytes.wf = true) : Stays (s.arrayStep n) := by
  unfold State.arrayStep
  dsimp only
  (repeat' split) <;> simp [hs]

@[simp] theorem ends_execArrayOperationComplete (n : Nat) (s : State) (hs : s.mem.bytes.wf = true) :
    Ends (execArrayOperationComplete n s) := by simp [execArrayOperationComplete, hs]

@[simp] theorem ends_execPairmodeWrite (p : Nat) (mode win : BitVec 2) (s : State) (hs : s.mem.bytes.wf = true) :
    Ends (execPairmodeWrite p mode win s) := by
  unfold execPairmodeWrite
  split <;> simp [hs]

/-! ### Copies at issue -/

@[simp] theorem State.mem_enterCopy (s : State) (c : Copy) (now : Bool) : (s.enterCopy c now).mem = s.mem := rfl

/-! ### The copy engine -/

@[simp] theorem State.mem_readFails (s : State) (n i : Nat) (x : Copy) (k status : Nat) :
    (s.readFails n i x k status).mem = s.mem := by
  unfold State.readFails
  dsimp only
  (repeat' split) <;> simp

@[simp] theorem State.stays_want (s : State) (n i : Nat) (x : Copy) (lo hi : Nat) (hs : s.mem.bytes.wf = true) :
    Stays (s.want n i x lo hi) := by
  unfold State.want
  dsimp only
  (repeat' split) <;> simp [hs]

@[simp] theorem State.stays_latchIndex (s : State) (n i : Nat) (x : Copy) (j : Nat) (hs : s.mem.bytes.wf = true) :
    Stays (s.latchIndex n i x j) := by
  unfold State.latchIndex
  dsimp only
  split <;> simp [hs]

@[simp] theorem State.stays_acceptPiece (s : State) (n i : Nat) (x : Copy) (hs : s.mem.bytes.wf = true) :
    Stays (s.acceptPiece n i x) := by
  unfold State.acceptPiece
  dsimp only
  (repeat' split) <;> simp [hs]

@[simp] theorem State.stays_nextBlock (s : State) (n i : Nat) (x : Copy) (hs : s.mem.bytes.wf = true) :
    Stays (s.nextBlock n i x) := by
  unfold State.nextBlock
  dsimp only
  (repeat' split) <;> simp [hs]

@[simp] theorem Mem.bytes_useStaged (m : Mem) (d page time : Nat) (cls : Option Residency) :
    (Mem.useStaged m d page time cls).bytes = m.bytes := rfl

@[simp] theorem State.bytes_stagePage (s : State) (d page : Nat) (cls : Residency) (give : Bool) :
    (s.stagePage d page cls give).mem.bytes = s.mem.bytes := by
  unfold State.stagePage
  dsimp only
  (repeat' split) <;> simp

@[simp] theorem State.stays_prefetch (s : State) (n i : Nat) (x : Copy) (hs : s.mem.bytes.wf = true) :
    Stays (s.prefetch n i x) := by
  unfold State.prefetch
  dsimp only
  (repeat' split) <;> simp [hs]

@[simp] theorem State.stays_advanceCopy (s : State) (n i : Nat) (hs : s.mem.bytes.wf = true) :
    Stays (s.advanceCopy n i) := by
  unfold State.advanceCopy
  (repeat' split) <;> simp [hs]

@[simp] theorem ends_execEngineWriteAccept (n k : Nat) (s : State) (hs : s.mem.bytes.wf = true) :
    Ends (execEngineWriteAccept n k s) := by simp [execEngineWriteAccept, hs]

@[simp] theorem State.bytes_readDone (s : State) (n id k : Nat) (r : Except Nat (List Byte)) :
    (s.readDone n id k r).mem.bytes = s.mem.bytes := by
  unfold State.readDone
  (repeat' split) <;> simp

@[simp] theorem State.stays_askRemote (s : State) (n : Nat) (x : Copy) (t : Tlb) (a o u : Nat) (write : Bool)
    (bs : List Byte) (hs : s.mem.bytes.wf = true) :
    Stays (s.askRemote n x t a o u write bs) := by
  unfold State.askRemote
  dsimp only
  split <;> simp [hs]

@[simp] theorem State.stays_readPart (s : State) (n i : Nat) (w : Piece) (k : Nat) (hs : s.mem.bytes.wf = true) :
    Stays (s.readPart n i w k) := by
  unfold State.readPart
  dsimp only
  (repeat' split) <;> simp [hs]

@[simp] theorem State.mem_landedPart (s : State) (n i : Nat) (x : Copy) (w : Piece) (o u : Nat) :
    (s.landedPart n i x w o u).mem = s.mem := rfl

@[simp] theorem State.bytes_writeDone (s : State) (n id o u : Nat) (refused : Option Nat) :
    (s.writeDone n id o u refused).mem.bytes = s.mem.bytes := by
  unfold State.writeDone
  (repeat' split) <;> simp

@[simp] theorem State.stays_landPart (s : State) (n i : Nat) (w : Piece) (o : Nat) (hs : s.mem.bytes.wf = true) :
    Stays (s.landPart n i w o) := by
  unfold State.landPart
  dsimp only
  (repeat' split) <;> simp [hs]

@[simp] theorem State.stays_verify (s : State) (n i : Nat) (hs : s.mem.bytes.wf = true) : Stays (s.verify n i) := by
  unfold State.verify
  dsimp only
  (repeat' split) <;> simp [hs]

@[simp] theorem State.stays_engineMove (s : State) (n : Nat) (m : EngMove) (hs : s.mem.bytes.wf = true) :
    Stays (s.engineMove n m) := by
  unfold State.engineMove
  split <;> simp [hs]

@[simp] theorem ends_execCopyPieceLand (n k : Nat) (s : State) (hs : s.mem.bytes.wf = true) :
    Ends (execCopyPieceLand n k s) := by
  unfold execCopyPieceLand
  split <;> simp [hs]

@[simp] theorem State.mem_reportFault (s : State) (x : Copy) (status off : Nat) (addr : Word) :
    (s.reportFault x status off addr).mem = s.mem := by
  unfold State.reportFault
  dsimp only
  (repeat' split) <;> simp

@[simp] theorem State.stays_faultReport (s : State) (n : Nat) (hs : s.mem.bytes.wf = true) :
    Stays (s.faultReport n) := by
  unfold State.faultReport
  refine stays_findSome _ (fun i => ?_) _
  (repeat' split) <;> simp [hs]

@[simp] theorem ends_execCopyFaultReport (n : Nat) (s : State) (hs : s.mem.bytes.wf = true) :
    Ends (execCopyFaultReport n s) := by simp [execCopyFaultReport, hs]

/-! ### Conjunction units -/

@[simp] theorem State.mem_setTag (s : State) (t : BitVec 32) (r : TagRec) : (s.setTag t r).mem = s.mem := rfl

@[simp] theorem ends_execTagBlockRecordWrite (d blk : Nat) (x : Word) (s : State) (hs : s.mem.bytes.wf = true) :
    Ends (execTagBlockRecordWrite d blk x s) := by
  unfold execTagBlockRecordWrite
  dsimp only
  split <;> simp [hs]

@[simp] theorem State.bytes_tagAlloc (s : State) (n : Nat) (ds : List Word) (asid : BitVec 12) :
    (s.tagAlloc n ds asid).1.mem.bytes = s.mem.bytes := by
  unfold State.tagAlloc
  dsimp only
  (repeat' split) <;> simp

@[simp] theorem State.mem_enterSend (s : State) (t : Word) (pos : BitVec 4) (src : Option Nat) (fmt : Option Tag)
    (row : Option Row) :
    (s.enterSend t pos src fmt row).mem = s.mem := rfl

@[simp] theorem State.mem_postCtx (s : State) (ctx : Nat) (e : BEvent) : (s.postCtx ctx e).mem = s.mem := by
  unfold State.postCtx
  split <;> rfl

@[simp] theorem State.bytes_unitWrite (s : State) (u : Nat) (asid : BitVec 12) (fuel va : Nat) (bs : List Byte) :
    (s.unitWrite u asid fuel va bs).1.mem.bytes = s.mem.bytes := by simp [State.unitWrite]

@[simp] theorem State.bytes_orphanArea (s : State) (t : BitVec 32) (r : TagRec) (status : Nat) :
    (s.orphanArea t r status).1.mem.bytes = s.mem.bytes := by
  have h (xs : List (HeldVal × Nat)) (f : State × Bool → HeldVal × Nat → State × Bool)
    (hf : ∀ x h, (f x h).1.mem.bytes = x.1.mem.bytes) (x : State × Bool) :
    (xs.foldl f x).1.mem.bytes = x.1.mem.bytes := by
    induction xs generalizing x with
    | nil => rfl
    | cons y ys ih => rw [List.foldl_cons, ih, hf]
  unfold State.orphanArea
  split
  · rfl
  · simp only [State.bytes_unitWrite]
    rw [h]
    simp

@[simp] theorem State.bytes_breakTag (s : State) (t : BitVec 32) (status : Nat) :
    (s.breakTag t status).mem.bytes = s.mem.bytes := by
  unfold State.breakTag
  (repeat' split) <;> simp

@[simp] theorem State.stays_orphanReports (s : State) (k : Nat) (hs : s.mem.bytes.wf = true) :
    Stays (s.orphanReports k) := by
  unfold State.orphanReports
  (repeat' split) <;> simp [hs]

@[simp] theorem State.stays_orphaned (s : State) (t : BitVec 32) (hs : s.mem.bytes.wf = true) :
    Stays (s.orphaned t) := by
  unfold State.orphaned
  (repeat' split) <;> simp [hs]

@[simp] theorem ends_execOrphanTimeout (t : BitVec 32) (s : State) (hs : s.mem.bytes.wf = true) :
    Ends (execOrphanTimeout t s) := by simp [execOrphanTimeout, hs]

@[simp] theorem State.bytes_place (s : State) (t : BitVec 32) (r : TagRec) (p : Nat) (row : Row) :
    (s.place t r p row).1.mem.bytes = s.mem.bytes := by
  unfold State.place
  dsimp only
  (repeat' split) <;> simp

@[simp] theorem State.bytes_meet (s : State) (t : BitVec 32) (pos : BitVec 4) (fmt : Option Tag) (row : Row)
    (sender : Option Nat) :
    (s.meet t pos fmt row sender).1.mem.bytes = s.mem.bytes := by
  unfold State.meet
  (repeat' split) <;> simp

@[simp] theorem State.stays_sendArrives (s : State) (n i : Nat) (hs : s.mem.bytes.wf = true) :
    Stays (s.sendArrives n i) := by
  unfold State.sendArrives
  dsimp only
  (repeat' split) <;> simp [hs]

@[simp] theorem State.stays_flyArrives (s : State) (j : Nat) (hs : s.mem.bytes.wf = true) :
    Stays (s.flyArrives j) := by
  unfold State.flyArrives
  dsimp only
  (repeat' split) <;> simp [hs]

@[simp] theorem State.stays_operandArrives (s : State) (k : Nat) (hs : s.mem.bytes.wf = true) :
    Stays (s.operandArrives k) := by
  unfold State.operandArrives
  split <;> simp [hs]

@[simp] theorem ends_execOperandArrival (k : Nat) (s : State) (hs : s.mem.bytes.wf = true) :
    Ends (execOperandArrival k s) := by simp [execOperandArrival, hs]

@[simp] theorem State.stays_retrySend (s : State) (n k : Nat) (hs : s.mem.bytes.wf = true) :
    Stays (s.retrySend n k) := by
  unfold State.retrySend
  dsimp only
  (repeat' split) <;> simp [hs]

@[simp] theorem ends_execOperandRetry (n k : Nat) (s : State) (hs : s.mem.bytes.wf = true) :
    Ends (execOperandRetry n k s) := by simp [execOperandRetry, hs]

@[simp] theorem State.stays_sendRefused (s : State) (n : Nat) (hs : s.mem.bytes.wf = true) :
    Stays (s.sendRefused n) := by
  unfold State.sendRefused
  refine stays_findSome _ (fun i => ?_) _
  (repeat' split) <;> simp [hs]

@[simp] theorem ends_execSendRefusal (n : Nat) (s : State) (hs : s.mem.bytes.wf = true) :
    Ends (execSendRefusal n s) := by simp [execSendRefusal, hs]

@[simp] theorem State.mem_takeResult (s : State) (t : BitVec 32) : (s.takeResult t).mem = s.mem := rfl

@[simp] theorem State.stays_deliver (s : State) (t : BitVec 32) (hs : s.mem.bytes.wf = true) :
    Stays (s.deliver t) := by
  unfold State.deliver
  dsimp only
  (repeat' split) <;> simp [hs]

@[simp] theorem ends_execResultDelivery (t : BitVec 32) (s : State) (hs : s.mem.bytes.wf = true) :
    Ends (execResultDelivery t s) := by simp [execResultDelivery, hs]

@[simp] theorem State.stays_forward (s : State) (t : BitVec 32) (hs : s.mem.bytes.wf = true) :
    Stays (s.forward t) := by
  unfold State.forward
  (repeat' split) <;> simp [hs]

@[simp] theorem ends_execResultForward (t : BitVec 32) (s : State) (hs : s.mem.bytes.wf = true) :
    Ends (execResultForward t s) := by simp [execResultForward, hs]

@[simp] theorem State.bytes_freeTagOf (s : State) (ctx : Nat) (t : BitVec 32) :
    (s.freeTagOf ctx t).mem.bytes = s.mem.bytes := by
  unfold State.freeTagOf
  dsimp only
  (repeat' split) <;> simp

@[simp] theorem State.stays_retired (s : State) (t : BitVec 32) (hs : s.mem.bytes.wf = true) :
    Stays (s.retired t) := by
  unfold State.retired
  (repeat' split) <;> simp [hs]

@[simp] theorem ends_execTagRetirementEnd (t : BitVec 32) (s : State) (hs : s.mem.bytes.wf = true) :
    Ends (execTagRetirementEnd t s) := by simp [execTagRetirementEnd, hs]

/-! ### The ordering machine and the order points -/

@[simp] theorem State.stays_depart (s : State) (n : Nat) (a : Acc) (hs : s.mem.bytes.wf = true) :
    Stays (s.depart n a) := by
  unfold State.depart
  (repeat' split) <;> simp [hs]

@[simp] theorem State.stays_loadDeparts (s : State) (n : Nat) (hs : s.mem.bytes.wf = true) :
    Stays (s.loadDeparts n) := by
  unfold State.loadDeparts
  dsimp only
  (repeat' split) <;> simp [hs]

@[simp] theorem ends_execLoadDeparture (n : Nat) (s : State) (hs : s.mem.bytes.wf = true) :
    Ends (execLoadDeparture n s) := by simp [execLoadDeparture, hs]

@[simp] theorem State.stays_storeDeparts (s : State) (n : Nat) (hs : s.mem.bytes.wf = true) :
    Stays (s.storeDeparts n) := by
  unfold State.storeDeparts
  dsimp only
  (repeat' split) <;> simp [hs]

@[simp] theorem ends_execStoreDeparture (n : Nat) (s : State) (hs : s.mem.bytes.wf = true) :
    Ends (execStoreDeparture n s) := by simp [execStoreDeparture, hs]

@[simp] theorem State.wf_atomic (s : State) (n : Nat) (a : Acc) (op : AtomOp) (d : GReg) (pa w : Nat) (b c : Word)
    (hs : s.mem.bytes.wf = true) :
   (s.atomic n a op d pa w b c).mem.bytes.wf = true := by
  unfold State.atomic
  dsimp only
  (repeat' split) <;> simp [hs, State.mem_sendReply]

@[simp] theorem State.wf_appendRelease (s : State) (asid : BitVec 12) (va pa sz : Nat) (hs : s.mem.bytes.wf = true) :
    (s.appendRelease asid va pa sz).mem.bytes.wf = true := by
  unfold State.appendRelease
  dsimp only
  (repeat' split) <;> simp [hs]

@[simp] theorem State.stays_pageRef (s : State) (n : Nat) (a : Acc) (x : Word) (asid : BitVec 12) (sz : Nat)
    (hs : s.mem.bytes.wf = true) :
    Stays (s.pageRef n a x asid sz) := by
  unfold State.pageRef
  dsimp only
  (repeat' split) <;> simp [hs]

@[simp] theorem State.bytes_walkDone (s : State) (d : Nat) (w : Walk) (r : Option Tlb) :
    (s.walkDone d w r).mem.bytes = s.mem.bytes := by
  unfold State.walkDone
  simp

@[simp] theorem State.bytes_walkerGoes (s : State) (d k : Nat) (w : Walk) (x : WalkStep) :
    (s.walkerGoes d k w x).mem.bytes = s.mem.bytes := by
  unfold State.walkerGoes
  split <;> simp

@[simp] theorem State.stays_walkStarts (s : State) (d k : Nat) (hs : s.mem.bytes.wf = true) :
    Stays (s.walkStarts d k) := by
  unfold State.walkStarts
  split <;> simp [hs]

@[simp] theorem ends_execTranslationWalk (d k : Nat) (s : State) (hs : s.mem.bytes.wf = true) :
    Ends (execTranslationWalk d k s) := by simp [execTranslationWalk, hs]

@[simp] theorem State.bytes_walkerReads (s : State) (d k : Nat) : (s.walkerReads d k).mem.bytes = s.mem.bytes := by
  unfold State.walkerReads
  (repeat' split) <;> simp

@[simp] theorem State.wf_combineAt (s : State) (key : BitVec 8) (pa : Nat) (op : CombOp) (x : BitVec 32)
    (hs : s.mem.bytes.wf = true) :
    (s.combineAt key pa op x).mem.bytes.wf = true := by
  simp [State.combineAt, hs]

@[simp] theorem State.wf_serveAsk (s : State) (m : Msg) (r : Acc) (hs : s.mem.bytes.wf = true) :
    (s.serveAsk m r).1.mem.bytes.wf = true := by
  unfold State.serveAsk
  dsimp only
  (repeat' split) <;> simp [hs]

@[simp] theorem State.mem_replyTo (s : State) (m : Msg) (st : Nat) (bs : List Byte) :
    (s.replyTo m st bs).mem = s.mem := rfl

@[simp] theorem State.wf_served (s : State) (src : Nat) (a : Acc) (m : Msg) (hs : s.mem.bytes.wf = true) :
    (s.served src a m).mem.bytes.wf = true := by simp [State.served, hs]

@[simp] theorem State.wf_serve (s : State) (sl src id : Nat) (hs : s.mem.bytes.wf = true) :
    (s.serve sl src id).mem.bytes.wf = true := by
  unfold State.serve
  dsimp only
  (repeat' split) <;> simp [hs, State.mem_sendReply]

@[simp] theorem State.stays_takeRequest (s : State) (sl src id : Nat) (a : Acc) (hs : s.mem.bytes.wf = true) :
    Stays (s.takeRequest sl src id a) := by
  unfold State.takeRequest
  split <;> simp [hs]

@[simp] theorem Mem.bytes_popChannel (m : Mem) (k : Nat) : (Mem.popChannel m k).bytes = m.bytes := rfl

@[simp] theorem State.stays_pointServe (s : State) (sl k : Nat) (hs : s.mem.bytes.wf = true) :
    Stays (s.pointServe sl k) := by
  unfold State.pointServe
  dsimp only
  split
  · simp
  · (repeat' split) <;> simp [hs]
  · split
    · simp [hs]
    · split
      · next e =>
        split at e
        · simp at e
        · exact (stays_some _).mpr (State.stays_takeRequest _ _ _ _ _ (by simp [hs]) _ e)
      · simp [hs]

@[simp] theorem ends_execOrderPointServe (sl k : Nat) (s : State) (hs : s.mem.bytes.wf = true) :
    Ends (execOrderPointServe sl k s) := by simp [execOrderPointServe, hs]

@[simp] theorem State.wf_serveList (s : State) (sl : Nat) (rs : List (Nat × Nat)) (hs : s.mem.bytes.wf = true) :
    (s.serveList sl rs).mem.bytes.wf = true := by
  induction rs generalizing s with
  | nil => exact hs
  | cons r rs ih =>
    obtain ⟨src, id⟩ := r
    rw [State.serveList]
    split
    · exact ih s hs
    · split
      · simp [hs]
      · exact ih _ (State.wf_serve s sl src id hs)

@[simp] theorem State.stays_fill (s : State) (sl line : Nat) (hs : s.mem.bytes.wf = true) :
    Stays (s.fill sl line) := by
  unfold State.fill
  dsimp only
  (repeat' split) <;> simp [hs]

@[simp] theorem ends_execLineFill (sl line : Nat) (s : State) (hs : s.mem.bytes.wf = true) :
    Ends (execLineFill sl line s) := by simp [execLineFill, hs]

@[simp] theorem State.stays_joinAt (s : State) (n : Nat) (a : Acc) (x : EnqCtx) (hs : s.mem.bytes.wf = true) :
    Stays (s.joinAt n a x) := by
  unfold State.joinAt
  (repeat' split) <;> simp [hs]

@[simp] theorem State.stays_update (s : State) (sl k : Nat) (hs : s.mem.bytes.wf = true) : Stays (s.update sl k) := by
  unfold State.update
  dsimp only
  (repeat' split) <;> simp [hs]

@[simp] theorem ends_execAtomicUpdate (sl k : Nat) (s : State) (hs : s.mem.bytes.wf = true) :
    Ends (execAtomicUpdate sl k s) := by simp [execAtomicUpdate, hs]

/-! ### Scheduling -/

@[simp] theorem State.stays_workArrives (s : State) (n : Nat) (a : Acc) (hs : s.mem.bytes.wf = true) :
    Stays (s.workArrives n a) := by
  unfold State.workArrives
  dsimp only
  (repeat' split) <;> simp [hs]

@[simp] theorem State.mem_settleAll (s : State) (d : Nat) : (s.settleAll d).mem = s.mem := rfl

@[simp] theorem State.stays_popServe (s : State) (n : Nat) (a : Acc) (q ts : Nat) (nb : Bool) (asid : BitVec 12)
    (hs : s.mem.bytes.wf = true) :
    Stays ((s.popServe n a q ts nb asid).map (·.1)) := by
  unfold State.popServe
  dsimp only
  (repeat' split) <;> simp [hs]

@[simp] theorem State.bytes_popAnswer (s : State) (n : Nat) (a : Acc) (d : GReg) (x : Word) :
    (s.popAnswer n a d x).mem.bytes = s.mem.bytes := by simp [State.popAnswer]

@[simp] theorem State.stays_popTimesOut (s : State) (n : Nat) (hs : s.mem.bytes.wf = true) :
    Stays (s.popTimesOut n) := by
  unfold State.popTimesOut
  refine stays_findSome _ (fun i => ?_) _
  (repeat' split) <;> simp [hs]

@[simp] theorem ends_execPopTimeout (n : Nat) (s : State) (hs : s.mem.bytes.wf = true) :
    Ends (execPopTimeout n s) := by simp [execPopTimeout, hs]

@[simp] theorem State.mem_setGang (s : State) (d k : Nat) (g : Gang) : (s.setGang d k g).mem = s.mem := rfl

@[simp] theorem State.bytes_barArrive (s : State) (n b : Nat) (q : BitVec 16) :
    (s.barArrive n b q).mem.bytes = s.mem.bytes := by
  unfold State.barArrive
  dsimp only
  (repeat' split) <;> simp

@[simp] theorem State.stays_markerGoes (s : State) (n : Nat) (sq : Bool) (hs : s.mem.bytes.wf = true) :
    Stays (s.markerGoes n sq) := by
  unfold State.markerGoes
  dsimp only
  (repeat' split) <;> simp [hs]

@[simp] theorem ends_execMarkerRemoval (n : Nat) (sq : Bool) (s : State) (hs : s.mem.bytes.wf = true) :
    Ends (execMarkerRemoval n sq s) := by simp [execMarkerRemoval, hs]

@[simp] theorem State.stays_barCompletes (s : State) (d k b : Nat) (hs : s.mem.bytes.wf = true) :
    Stays (s.barCompletes d k b) := by
  unfold State.barCompletes
  (repeat' split) <;> simp [hs]

@[simp] theorem ends_execBarrierPhaseComplete (d k b : Nat) (s : State) (hs : s.mem.bytes.wf = true) :
    Ends (execBarrierPhaseComplete d k b s) := by simp [execBarrierPhaseComplete, hs]

@[simp] theorem State.mem_setPhase (s : State) (g : Gang) (c : Option Nat) : (s.setPhase g c).mem = s.mem := by
  simp [State.setPhase]

@[simp] theorem State.mem_quietWires (s : State) (d : Nat) (g : Gang) : (s.quietWires d g).mem = s.mem := rfl

@[simp] theorem State.stays_transitStarts (s : State) (d k : Nat) (hs : s.mem.bytes.wf = true) :
    Stays (s.transitStarts d k) := by
  unfold State.transitStarts
  (repeat' split) <;> simp [hs]

@[simp] theorem ends_execTransitPhaseStart (d k : Nat) (s : State) (hs : s.mem.bytes.wf = true) :
    Ends (execTransitPhaseStart d k s) := by simp [execTransitPhaseStart, hs]

@[simp] theorem State.stays_transitEnds (s : State) (d k : Nat) (hs : s.mem.bytes.wf = true) :
    Stays (s.transitEnds d k) := by
  unfold State.transitEnds
  dsimp only
  (repeat' split) <;> simp [hs]

@[simp] theorem ends_execTransitPhaseEnd (d k : Nat) (s : State) (hs : s.mem.bytes.wf = true) :
    Ends (execTransitPhaseEnd d k s) := by simp [execTransitPhaseEnd, hs]

@[simp] theorem ends_execRouterProgramWrite (d cl k : Nat) (es : List (BitVec 16)) (s : State)
    (hs : s.mem.bytes.wf = true) :
    Ends (execRouterProgramWrite d cl k es s) := by
  unfold execRouterProgramWrite
  dsimp only
  split <;> simp [hs]

@[simp] theorem State.mem_setModes (s : State) (r : BitVec 512) (ps : List Nat) : (s.setModes r ps).mem = s.mem := by
  refine mem_foldl _ (fun s p => ?_) ps s
  split <;> rfl

@[simp] theorem State.bytes_placeRecord (s : State) (d q : Nat) (r : QRec) (g : Nat) (ps : List Nat) :
    (s.placeRecord d q r g ps).mem.bytes = s.mem.bytes := by
  unfold State.placeRecord
  (repeat' split) <;> simp

@[simp] theorem State.bytes_placeOn (s : State) (d : Nat) (c : Cand) (ps : List Nat) :
    (s.placeOn d c ps).mem.bytes = s.mem.bytes := by
  unfold State.placeOn
  (repeat' split) <;> simp

@[simp] theorem State.stays_tryPlace (s : State) (d : Nat) (c : Cand) (hs : s.mem.bytes.wf = true) :
    Stays (s.tryPlace d c) := by simp [State.tryPlace, hs]

@[simp] theorem State.bytes_reserve (s : State) (d : Nat) (c : Cand) :
    (s.reserve d c).1.mem.bytes = s.mem.bytes := by simp [State.reserve]

@[simp] theorem State.wf_reconsider (s : State) (d : Nat) (cs : List Cand) (hs : s.mem.bytes.wf = true) :
    (s.reconsider d cs).1.mem.bytes.wf = true := by
  induction cs generalizing s with
  | nil => exact hs
  | cons c cs ih =>
    rw [State.reconsider]
    split
    · next t e => exact State.stays_tryPlace s d c hs t e
    · exact ih _ (by simp [hs])

@[simp] theorem State.stays_dispatches (s : State) (d : Nat) (hs : s.mem.bytes.wf = true) : Stays (s.dispatches d) := by
  unfold State.dispatches
  dsimp only
  split
  · simp [hs]
  · exact stays_map _ _ fun c => wf_getD (State.stays_tryPlace _ _ _ hs) (by simp [hs])

@[simp] theorem ends_execDispatchPlacement (d : Nat) (s : State) (hs : s.mem.bytes.wf = true) :
    Ends (execDispatchPlacement d s) := by simp [execDispatchPlacement, hs]

@[simp] theorem State.mem_launchOne (s : State) (d k : Nat) (g : Gang) (total job rank n : Nat) :
    (s.launchOne d k g total job rank n).mem = s.mem := rfl

@[simp] theorem mem_foldl_launchOne (d k total job : Nat) (g : Gang) (xs : List (Nat × Nat)) (s : State) :
    (xs.foldl (fun s e => s.launchOne d k g total job e.2 e.1) s).mem = s.mem :=
  mem_foldl _ (fun _ _ => State.mem_launchOne ..) xs s

@[simp] theorem State.mem_addTask (s : State) (d : Nat) (asid : BitVec 12) (gen : Nat) :
    (s.addTask d asid gen).mem = s.mem := rfl

@[simp] theorem State.mem_dropTask (s : State) (d : Nat) (asid : BitVec 12) (gen : Nat) :
    (s.dropTask d asid gen).mem = s.mem := rfl

@[simp] theorem State.stays_gangStarts (s : State) (d k : Nat) (hs : s.mem.bytes.wf = true) :
    Stays (s.gangStarts d k) := by
  unfold State.gangStarts
  dsimp only
  (repeat' split) <;> simp [hs]

@[simp] theorem ends_execGangLaunch (d k : Nat) (s : State) (hs : s.mem.bytes.wf = true) :
    Ends (execGangLaunch d k s) := by simp [execGangLaunch, hs]

@[simp] theorem State.mem_idleCore (s : State) (n : Nat) : (s.idleCore n).mem = s.mem := rfl

@[simp] theorem mem_foldl_idleCore (xs : List (Nat × Nat)) (s : State) :
    (xs.foldl (fun s e => s.idleCore e.1) s).mem = s.mem := mem_foldl _ (fun _ _ => State.mem_idleCore ..) xs s

@[simp] theorem State.mem_dropGang (s : State) (d k : Nat) : (s.dropGang d k).mem = s.mem := rfl

@[simp] theorem State.stays_gangEnds (s : State) (d k : Nat) (hs : s.mem.bytes.wf = true) :
    Stays (s.gangEnds d k) := by
  unfold State.gangEnds
  dsimp only
  (repeat' split) <;> simp [hs]

@[simp] theorem ends_execGangCompletion (d k : Nat) (s : State) (hs : s.mem.bytes.wf = true) :
    Ends (execGangCompletion d k s) := by simp [execGangCompletion, hs]

@[simp] theorem State.bytes_gangLeft (s : State) (d k : Nat) : (s.gangLeft d k).mem.bytes = s.mem.bytes := by
  unfold State.gangLeft
  (repeat' split) <;> simp

@[simp] theorem State.stays_gangAbandoned (s : State) (d k : Nat) (hs : s.mem.bytes.wf = true) :
    Stays (s.gangAbandoned d k) := by
  unfold State.gangAbandoned
  dsimp only
  (repeat' split) <;> simp [hs]

@[simp] theorem State.stays_gridEnds (s : State) (d g : Nat) (hs : s.mem.bytes.wf = true) :
    Stays (s.gridEnds d g) := by
  unfold State.gridEnds
  dsimp only
  (repeat' split) <;> simp [hs]

@[simp] theorem ends_execGridCompletion (d g : Nat) (s : State) (hs : s.mem.bytes.wf = true) :
    Ends (execGridCompletion d g s) := by simp [execGridCompletion, hs]

@[simp] theorem ends_execPreemptionRequest (d k : Nat) (kind : BitVec 2) (prio : BitVec 6) (s : State)
    (hs : s.mem.bytes.wf = true) :
    Ends (execPreemptionRequest d k kind prio s) := by
  unfold execPreemptionRequest
  dsimp only
  (repeat' split) <;> simp [hs]

@[simp] theorem State.stays_preemptAgain (s : State) (d k : Nat) (hs : s.mem.bytes.wf = true) :
    Stays (s.preemptAgain d k) := by
  unfold State.preemptAgain
  dsimp only
  (repeat' split) <;> simp [hs]

@[simp] theorem ends_execPreemptionRepeat (d k : Nat) (s : State) (hs : s.mem.bytes.wf = true) :
    Ends (execPreemptionRepeat d k s) := by simp [execPreemptionRepeat, hs]

@[simp] theorem ends_execQueueDescriptorWrite (d q : Nat) (dw0 dw1 dw2 : Word) (s : State)
    (hs : s.mem.bytes.wf = true) :
    Ends (execQueueDescriptorWrite d q dw0 dw1 dw2 s) := by
  unfold execQueueDescriptorWrite
  dsimp only
  split <;> simp [hs]

@[simp] theorem ends_execDroop (d cycles : Nat) (s : State) (hs : s.mem.bytes.wf = true) :
    Ends (execDroop d cycles s) := by simp [execDroop, hs]

/-! ### Replies -/

@[simp] theorem State.mem_told (s : State) (n id : Nat) : (s.told n id).mem = s.mem := rfl

@[simp] theorem State.bytes_writeReply (s : State) (n : Nat) (a : Acc) (d : Dst) :
    (s.writeReply n a d).mem.bytes = s.mem.bytes := by simp [State.writeReply]

@[simp] theorem State.stays_xlateAnswer (s : State) (n : Nat) (a : Acc) (d : GReg) (va : Word) (acc : Access)
    (w : Walk) (user : Bool) (hs : s.mem.bytes.wf = true) :
    Stays (s.xlateAnswer n a d va acc w user) := by
  unfold State.xlateAnswer
  (repeat' split) <;> simp [hs]

@[simp] theorem State.stays_answerOf (s : State) (n : Nat) (a : Acc) (hs : s.mem.bytes.wf = true) :
    Stays (s.answerOf n a) := by
  unfold State.answerOf
  split
  · simp
  · split
    case h_5 => exact stays_map_fst (State.stays_popServe _ _ _ _ _ _ _ hs) (by simp)
    all_goals simp [hs]

@[simp] theorem State.stays_repliesNow (s : State) (n k : Nat) (hs : s.mem.bytes.wf = true) :
    Stays (s.repliesNow n k) := by
  unfold State.repliesNow
  dsimp only
  (repeat' split) <;> simp [hs]

@[simp] theorem ends_execVariableReply (n k : Nat) (s : State) (hs : s.mem.bytes.wf = true) :
    Ends (execVariableReply n k s) := by simp [execVariableReply, hs]

@[simp] theorem State.stays_tagFrees (s : State) (t) (hs : s.mem.bytes.wf = true) : Stays (s.tagFrees t) := by
  unfold State.tagFrees
  refine stays_findSome _ (fun n => stays_findSome _ (fun a => ?_) _) _
  (repeat' split) <;> simp [hs]

@[simp] theorem ends_execTagFree (t : BitVec 32) (s : State) (hs : s.mem.bytes.wf = true) :
    Ends (execTagFree t s) := by simp [execTagFree, hs]

/-! ### Control flow -/

@[simp] theorem State.mem_closeCycleOf (s : State) (pc : Word) : (s.closeCycleOf pc).mem = s.mem := rfl

@[simp] theorem State.mem_closeCycle (s : State) : (s.closeCycle).mem = s.mem := rfl

@[simp] theorem ends_execNop (count : BitVec 12) (s : State) (hs : s.mem.bytes.wf = true) :
    Ends (execNop count s) := by simp [execNop, hs]

@[simp] theorem State.bytes_completed (s : State) (t : TrapInfo) :
    (s.completed t).mem.bytes = s.mem.bytes := by simp [State.completed]

@[simp] theorem State.mem_halt (s : State) : (s.halt).mem = s.mem := rfl

/-! ### System registers -/

@[simp] theorem State.mem_segctl (s : State) (n : Nat) : (s.segctl n).mem = s.mem := by
  unfold State.segctl
  dsimp only
  split <;> simp

@[simp] theorem State.mem_lsclr (s : State) (x : Word) : (s.lsclr x).mem = s.mem := by
  unfold State.lsclr
  split <;> rfl

@[simp] theorem State.mem_endClear (s : State) (n : Nat) : (s.endClear n).mem = s.mem := by
  unfold State.endClear
  dsimp only
  (repeat' split) <;> simp

@[simp] theorem State.bytes_clearHalf (s : State) (n : Nat) (tspad : Bool) :
    (s.clearHalf n tspad).mem.bytes = s.mem.bytes := by
  unfold State.clearHalf
  dsimp only
  (repeat' split) <;> simp

@[simp] theorem ends_execLsclrClra (n : Nat) (s : State) (hs : s.mem.bytes.wf = true) :
    Ends (execLsclrClra n s) := by simp [execLsclrClra, hs]

@[simp] theorem ends_execLsclrClrt (n : Nat) (s : State) (hs : s.mem.bytes.wf = true) :
    Ends (execLsclrClrt n s) := by simp [execLsclrClrt, hs]

@[simp] theorem ends_execTraceSelect (n : Nat) (i : BitVec 12) (s : State) (hs : s.mem.bytes.wf = true) :
    Ends (execTraceSelect n i s) := by simp [execTraceSelect, hs]

@[simp] theorem ends_execTraceTrigger (n : Nat) (s : State) (hs : s.mem.bytes.wf = true) :
    Ends (execTraceTrigger n s) := by simp [execTraceTrigger, hs]

@[simp] theorem State.bytes_sysWrite (s : State) (n : Nat) (q : BitVec 12) (x : Word) :
    (s.sysWrite n q x).mem.bytes = s.mem.bytes := by
  unfold State.sysWrite
  (repeat' split) <;> simp

@[simp] theorem ends_execSegctlCommit (n : Nat) (s : State) (hs : s.mem.bytes.wf = true) :
    Ends (execSegctlCommit n s) := by simp [execSegctlCommit, hs]

@[simp] theorem ends_execCsreqBadreq (n : Nat) (s : State) (hs : s.mem.bytes.wf = true) :
    Ends (execCsreqBadreq n s) := by simp [execCsreqBadreq, hs]

/-! ### SAVE and RESTORE -/

@[simp] theorem State.wf_fillPages (s : State) (ps) (hs : s.mem.bytes.wf = true) :
    (s.fillPages ps).mem.bytes.wf = true := by
  unfold State.fillPages
  exact State.wf_foldl _ (fun s p h => Mem.wf_store _ _ _ _ h) ps s hs

@[simp] theorem State.bytes_withdraw (s : State) (n : Nat) : (s.withdraw n).mem.bytes = s.mem.bytes := by
  refine bytes_foldl _ (fun s a => ?_) _ s
  (repeat' split) <;> simp

@[simp] theorem State.mem_onGang (s : State) (n : Nat) (f : Gang → Gang) : (s.onGang n f).mem = s.mem := by
  unfold State.onGang
  split <;> rfl

@[simp] theorem State.stays_saveStep (s : State) (n : Nat) (hs : s.mem.bytes.wf = true) : Stays (s.saveStep n) := by
  unfold State.saveStep
  dsimp only
  (repeat' split) <;> simp [hs]

@[simp] theorem ends_execCsreqSave (n : Nat) (area : Word) (s : State) (hs : s.mem.bytes.wf = true) :
    Ends (execCsreqSave n area s) := by
  unfold execCsreqSave
  dsimp only
  split <;> simp [hs]

@[simp] theorem State.mem_moveClaims (s : State) (ctx seg rolls : Nat) :
    (s.moveClaims ctx seg rolls).mem = s.mem := rfl

@[simp] theorem ends_execCsreqRestore (n : Nat) (area : Word) (s : State) (hs : s.mem.bytes.wf = true) :
    Ends (execCsreqRestore n area s) := by
  unfold execCsreqRestore
  dsimp only
  (repeat' split) <;> simp [hs]

/-! ### The package -/

@[simp] theorem State.mem_setPkg (s : State) (p : Pkg) : (s.setPkg p).mem = s.mem := rfl

@[simp] theorem State.mem_logged (s : State) (code : Nat) (x : Word) : (s.logged code x).mem = s.mem := rfl

@[simp] theorem State.bytes_moduleReset (s : State) : (s.moduleReset).mem.bytes = s.mem.bytes := rfl

@[simp] theorem ends_execModuleReset (s : State) (hs : s.mem.bytes.wf = true) :
    Ends (execModuleReset s) := by simp [execModuleReset, hs]

@[simp] theorem ends_execStart (s : State) (hs : s.mem.bytes.wf = true) :
    Ends (execStart s) := by simp [execStart, hs]

@[simp] theorem ends_execHqtail (q : Nat) (x : Doorbell) (s : State) (hs : s.mem.bytes.wf = true) :
    Ends (execHqtail q x s) := by simp [execHqtail, hs]

@[simp] theorem State.stays_takeEntry (s : State) (q : Nat) (hs : s.mem.bytes.wf = true) : Stays (s.takeEntry q) := by
  unfold State.takeEntry
  dsimp only
  (repeat' split) <;> simp [hs]

@[simp] theorem ends_execHostEntryTake (q : Nat) (s : State) (hs : s.mem.bytes.wf = true) :
    Ends (execHostEntryTake q s) := by simp [execHostEntryTake, hs]

@[simp] theorem State.stays_completes (s : State) (k : Nat) (hs : s.mem.bytes.wf = true) : Stays (s.completes k) := by
  unfold State.completes
  dsimp only
  (repeat' split) <;> simp [hs]

@[simp] theorem ends_execJobCompletion (k : Nat) (s : State) (hs : s.mem.bytes.wf = true) :
    Ends (execJobCompletion k s) := by simp [execJobCompletion, hs]

@[simp] theorem State.mem_writeWindow (s : State) (x : Word) : (s.writeWindow x).mem = s.mem := by
  unfold State.writeWindow
  extract_lets base n
  split <;> rfl

@[simp] theorem State.bytes_hostAsks (s : State) (fuel pa n : Nat) (data : Option (List Byte)) :
    (s.hostAsks fuel pa n data).mem.bytes = s.mem.bytes := by
  induction fuel generalizing s pa n data with
  | zero => rfl
  | succ k ih =>
    rw [State.hostAsks]
    split
    · rfl
    · rw [ih]; rfl

@[simp] theorem State.bytes_cxl (s : State) (write : Bool) (addr n : Nat) (data : List Byte) :
    (s.cxl write addr n data).mem.bytes = s.mem.bytes := by
  unfold State.cxl
  split <;> simp

@[simp] theorem ends_execCxlMemAccess (write : Bool) (addr n : Nat) (data : List Byte) (s : State)
    (hs : s.mem.bytes.wf = true) :
    Ends (execCxlMemAccess write addr n data s) := by simp [execCxlMemAccess, hs]

@[simp] theorem ends_execAttestationRequest (nonce : BitVec 256) (s : State) (hs : s.mem.bytes.wf = true) :
    Ends (execAttestationRequest nonce s) := by simp [execAttestationRequest, hs]

@[simp] theorem ends_execFirmwareUpdate (x : FwImage) (s : State) (hs : s.mem.bytes.wf = true) :
    Ends (execFirmwareUpdate x s) := by simp [execFirmwareUpdate, hs]

@[simp] theorem State.bytes_powerLoss (s : State) : (s.powerLoss).mem.bytes = s.mem.bytes := by
  unfold State.powerLoss
  split <;> simp

@[simp] theorem ends_execPowerLossWarning (s : State) (hs : s.mem.bytes.wf = true) :
    Ends (execPowerLossWarning s) := by simp [execPowerLossWarning, hs]

@[simp] theorem State.stays_stopLate (s : State) (n : Nat) (hs : s.mem.bytes.wf = true) : Stays (s.stopLate n) := by
  unfold State.stopLate
  dsimp only
  split <;> simp [hs]

@[simp] theorem State.stays_checkpointDone (s : State) (hs : s.mem.bytes.wf = true) : Stays (s.checkpointDone) := by
  unfold State.checkpointDone
  dsimp only
  split <;> simp [hs]

@[simp] theorem State.bytes_storageStarts (s : State) : (s.storageStarts).mem.bytes = s.mem.bytes := by
  unfold State.storageStarts
  (repeat' split) <;> simp

@[simp] theorem ends_execStorageTransfer (s : State) (hs : s.mem.bytes.wf = true) :
    Ends (execStorageTransfer s) := by simp [execStorageTransfer, hs]

@[simp] theorem State.stays_unitLeaves (s : State) (hs : s.mem.bytes.wf = true) : Stays s.unitLeaves := by
  unfold State.unitLeaves
  split
  · exact stays_none
  · extract_lets u live a p t
    have kept : t.mem = s.mem := mem_foldl _ (fun _ _ => State.mem_sendOn ..) _ s
    split
    · exact stays_none
    · rw [stays_some, State.mem_setPkg, kept]
      exact hs

@[simp] theorem State.mem_refillCore (s : State) (v : Safe) (n : Nat) : (s.refillCore v n).mem = s.mem := rfl

@[simp] theorem State.wf_restored (s : State) (v : Safe) (hs : s.mem.bytes.wf = true) :
    (s.restored v).mem.bytes.wf = true := by
  have written (cs : Memory) (m : Memory) (hm : m.wf = true) :
      (cs.foldl (fun (m : Memory) c => Memory.write m c.1 c.2) m).wf = true := by
    induction cs generalizing m with
    | nil => exact hm
    | cons c cs ih => exact ih _ (Memory.write_wf _ _ hm)
  refine written _ _ (Memory.filter_wfFrom _ ?_)
  rw [bytes_foldl]
  · exact hs
  · exact fun _ _ => rfl

@[simp] theorem State.wf_checkpointRestore (s : State) (hs : s.mem.bytes.wf = true) :
    (s.checkpointRestore).mem.bytes.wf = true := by
  unfold State.checkpointRestore
  split <;> simp [hs]

@[simp] theorem ends_execCheckpointRestore (s : State) (hs : s.mem.bytes.wf = true) :
    Ends (execCheckpointRestore s) := by simp [execCheckpointRestore, hs]

/-! ### Ports and links -/

@[simp] theorem State.stays_flitLeaves (s : State) (p : Nat) (hs : s.mem.bytes.wf = true) :
    Stays (s.flitLeaves p) := by
  unfold State.flitLeaves
  dsimp only
  (repeat' split) <;> simp [hs]

@[simp] theorem ends_execCapability (p : Nat) (modnum flags : Byte) (s : State) (hs : s.mem.bytes.wf = true) :
    Ends (execCapability p modnum flags s) := by
  unfold execCapability
  split <;> simp [hs]

@[simp] theorem State.mem_portFails (s : State) (p : Nat) : (s.portFails p).mem = s.mem := rfl

@[simp] theorem ends_execPortDown (p : Nat) (s : State) (hs : s.mem.bytes.wf = true) :
    Ends (execPortDown p s) := by simp [execPortDown, hs]

@[simp] theorem State.stays_takesPort (s : State) (hs : s.mem.bytes.wf = true) : Stays (s.takesPort) := by
  unfold State.takesPort
  split <;> simp [hs]

@[simp] theorem State.bytes_retries (s : State) (p : Nat) (ack : BitVec 16) :
    (s.retries p ack).mem.bytes = s.mem.bytes := by
  unfold State.retries
  dsimp only
  (repeat' split) <;> simp

@[simp] theorem ends_execRetryRequest (p : Nat) (ack : BitVec 16) (s : State) (hs : s.mem.bytes.wf = true) :
    Ends (execRetryRequest p ack s) := by simp [execRetryRequest, hs]

@[simp] theorem ends_execLaneRetrain (p : Nat) (s : State) (hs : s.mem.bytes.wf = true) :
    Ends (execLaneRetrain p s) := by
  unfold execLaneRetrain
  dsimp only
  split <;> simp [hs]

@[simp] theorem ends_execLinkUp (p : Nat) (lanes : BitVec 2) (s : State) (hs : s.mem.bytes.wf = true) :
    Ends (execLinkUp p lanes s) := by
  unfold execLinkUp
  dsimp only
  (repeat' split) <;> simp [hs]

@[simp] theorem State.bytes_flit (s : State) (p : Nat) (bs : List Byte) : (s.flit p bs).mem.bytes = s.mem.bytes := by
  unfold State.flit
  dsimp only
  (repeat' split) <;> simp

@[simp] theorem ends_execFlitReceive (p : Nat) (bs : List Byte) (s : State) (hs : s.mem.bytes.wf = true) :
    Ends (execFlitReceive p bs s) := by simp [execFlitReceive, hs]

@[simp] theorem ends_execFabcfgWrite (x : Word) (s : State) (hs : s.mem.bytes.wf = true) :
    Ends (execFabcfgWrite x s) := by simp [execFabcfgWrite, hs]

/-! ### Messages at their destination -/

@[simp] theorem State.mem_acknowledge (s : State) (m : Msg) (cseq : Nat) : (s.acknowledge m cseq).mem = s.mem := rfl

@[simp] theorem State.stays_receive (s : State) (m : Msg) (hs : s.mem.bytes.wf = true) : Stays (s.receive m) := by
  unfold State.receive
  dsimp only
  (repeat' split) <;> simp [hs]

@[simp] theorem State.stays_delivers (s : State) (k : Nat) (hs : s.mem.bytes.wf = true) : Stays (s.delivers k) := by
  unfold State.delivers
  split
  · exact stays_none
  · extract_lets f0 f s'
    have hs' : s'.mem.bytes.wf = true := hs
    split
    · exact stays_map _ _ fun f => hs
    split
    · exact (stays_some _).mpr hs
    split
    · exact stays_none
    split
    · exact stays_map_of (State.stays_receive _ _ hs') fun t ht => by rw [State.mem_acknowledge]; exact ht
    split
    · rw [stays_some, State.mem_acknowledge]; exact hs
    · exact (stays_some _).mpr hs

@[simp] theorem ends_execMessageDelivery (k : Nat) (s : State) (hs : s.mem.bytes.wf = true) :
    Ends (execMessageDelivery k s) := by simp [execMessageDelivery, hs]

@[simp] theorem ends_execMessageForward (m : Msg) (s : State) (hs : s.mem.bytes.wf = true) :
    Ends (execMessageForward m s) := by
  unfold execMessageForward
  dsimp only
  (repeat' split) <;> simp [hs]

@[simp] theorem State.bytes_accCompletes (s : State) (n : Nat) (a : Acc) (st : Nat) (bs : List Byte) :
    (s.accCompletes n a st bs).mem.bytes = s.mem.bytes := by
  unfold State.accCompletes
  (repeat' split) <;> simp

@[simp] theorem State.bytes_answered (s : State) (r : Remote) (st : Nat) (bs : List Byte) :
    (s.answered r st bs).mem.bytes = s.mem.bytes := by
  unfold State.answered
  dsimp only
  (repeat' split) <;> simp

@[simp] theorem State.stays_remoteCompletes (s : State) (n k : Nat) (hs : s.mem.bytes.wf = true) :
    Stays (s.remoteCompletes n k) := by
  unfold State.remoteCompletes
  (repeat' split) <;> simp [hs]

@[simp] theorem ends_execRemoteCompletion (n k : Nat) (s : State) (hs : s.mem.bytes.wf = true) :
    Ends (execRemoteCompletion n k s) := by simp [execRemoteCompletion, hs]

@[simp] theorem State.stays_routeFails (s : State) (k : Nat) (hs : s.mem.bytes.wf = true) :
    Stays (s.routeFails k) := by
  unfold State.routeFails
  dsimp only
  (repeat' split) <;> simp [hs]

@[simp] theorem ends_execRouteTimeout (k : Nat) (s : State) (hs : s.mem.bytes.wf = true) :
    Ends (execRouteTimeout k s) := by simp [execRouteTimeout, hs]

/-! ### Code fetch, and the supervisor's writes -/

@[simp] theorem State.bytes_bring (s : State) (n : Nat) (t : Tlb) (pa : Nat) :
    (s.bring n t pa).1.mem.bytes = s.mem.bytes := by
  unfold State.bring
  dsimp only
  (repeat' split) <;> simp

@[simp] theorem State.stays_prefetchLine (s : State) (n : Nat) (hs : s.mem.bytes.wf = true) :
    Stays (s.prefetchLine n) := by
  unfold State.prefetchLine
  dsimp only
  (repeat' split) <;> simp [hs]

@[simp] theorem State.stays_fetchMiss (s : State) (n : Nat) (hs : s.mem.bytes.wf = true) : Stays (s.fetchMiss n) := by
  unfold State.fetchMiss
  dsimp only
  (repeat' split) <;> simp [hs]

@[simp] theorem ends_execCodeFetchMiss (n : Nat) (s : State) (hs : s.mem.bytes.wf = true) :
    Ends (execCodeFetchMiss n s) := by simp [execCodeFetchMiss, hs]

@[simp] theorem ends_execCodePageStaging (d page : Nat) (s : State) (hs : s.mem.bytes.wf = true) :
    Ends (execCodePageStaging d page s) := by simp [execCodePageStaging, hs]

@[simp] theorem ends_execStagingAreaSizing (d pages : Nat) (s : State) (hs : s.mem.bytes.wf = true) :
    Ends (execStagingAreaSizing d pages s) := by
  unfold execStagingAreaSizing
  dsimp only
  split <;> simp [hs]

@[simp] theorem ends_execSlcfgWrite (sl : Nat) (x : Word) (s : State) (hs : s.mem.bytes.wf = true) :
    Ends (execSlcfgWrite sl x s) := by
  unfold execSlcfgWrite
  dsimp only
  split <;> simp [hs]

@[simp] theorem ends_execAsteWrite (asid : BitVec 12) (dw : Bool) (x : Word) (s : State)
    (hs : s.mem.bytes.wf = true) :
    Ends (execAsteWrite asid dw x s) := by simp [execAsteWrite, hs]

@[simp] theorem ends_execGenerationSwap (asid : BitVec 12) (x : Word) (s : State) (hs : s.mem.bytes.wf = true) :
    Ends (execGenerationSwap asid x s) := by simp [execGenerationSwap, hs]

@[simp] theorem State.bytes_releasePages (s : State) (ps : List Nat) :
    (s.releasePages ps).mem.bytes = s.mem.bytes := rfl

@[simp] theorem State.stays_generationLeaves (s : State) (asid gen : BitVec 12) (hs : s.mem.bytes.wf = true) :
    Stays (s.generationLeaves asid gen) := by
  unfold State.generationLeaves
  dsimp only
  split <;> simp [hs]

@[simp] theorem ends_execGenerationRelease (asid gen : BitVec 12) (s : State) (hs : s.mem.bytes.wf = true) :
    Ends (execGenerationRelease asid gen s) := by simp [execGenerationRelease, hs]

@[simp] theorem ends_execReleaseRingWrite (dw : Nat) (x : Word) (s : State) (hs : s.mem.bytes.wf = true) :
    Ends (execReleaseRingWrite dw x s) := by
  unfold execReleaseRingWrite
  dsimp only
  (repeat' split) <;> simp [hs]

@[simp] theorem ends_execDramRefresh (d ch layer : Nat) (s : State) (hs : s.mem.bytes.wf = true) :
    Ends (execDramRefresh d ch layer s) := by
  unfold execDramRefresh
  dsimp only
  (repeat' split) <;> simp [hs]

/-! ### Weight code -/

@[simp] theorem ends_execBlockRequest (record : List Byte) (s : State) (hs : s.mem.bytes.wf = true) :
    Ends (execBlockRequest record s) := by simp [execBlockRequest, hs]

@[simp] theorem ends_execPartialWeightUpdate (asid : BitVec 12) (u : WeightUpdate) (s : State)
    (hs : s.mem.bytes.wf = true) :
    Ends (execPartialWeightUpdate asid u s) := by
  have installed (xs : List (List Bits256 × BlockUpdate)) :
      (xs.foldl (fun (m : Mem) x => m.install x.1 x.2) s.mem).bytes.wf = true :=
    Mem.wf_foldl _ (fun m x h => by rw [Mem.bytes_install]; exact Mem.wf_foldl_store _ _ _ _ _ h) _ _ hs
  unfold execPartialWeightUpdate
  dsimp only
  split
  · exact (ends_next _).mpr hs
  · split
    · exact (ends_next _).mpr (installed _)
    · exact (ends_next _).mpr hs

/-! ### A bundle at issue -/

@[simp] theorem State.bytes_gangBack (old s : State) (n : Nat) : (old.gangBack s n).mem.bytes = s.mem.bytes := by
  unfold State.gangBack
  dsimp only
  (repeat' split) <;> simp

@[simp] theorem State.mem_closeSegment (s : State) (n : Nat) (ck : Bool) : (s.closeSegment n ck).mem = s.mem := rfl

@[simp] theorem State.bytes_endSegment (s : State) (n : Nat) (ck : Bool) :
    (s.endSegment n ck).1.mem.bytes = s.mem.bytes := by
  unfold State.endSegment
  split <;> simp

@[simp] theorem State.bytes_commitAt (s : State) (n : Nat) (late : Option Bool) :
    (s.commitAt n late).mem.bytes = s.mem.bytes := by
  have h := State.bytes_endSegment s n true
  unfold State.commitAt
  split <;> simp_all

@[simp] theorem State.bytes_commitHalt (s : State) (n : Nat) : (s.commitHalt n).mem.bytes = s.mem.bytes := by
  have h := State.bytes_endSegment s n false
  unfold State.commitHalt
  (repeat' split) <;> simp_all

@[simp] theorem State.stays_commitDue (s : State) (n : Nat) (hs : s.mem.bytes.wf = true) : Stays (s.commitDue n) := by
  unfold State.commitDue
  dsimp only
  (repeat' split) <;> simp [hs]

@[simp] theorem State.stays_closesFrozen (s : State) (n : Nat) (hs : s.mem.bytes.wf = true) :
    Stays (s.closesFrozen n) := by
  unfold State.closesFrozen
  dsimp only
  (repeat' split) <;> simp [hs]

@[simp] theorem ends_execSegmentCommit (n : Nat) (s : State) (hs : s.mem.bytes.wf = true) :
    Ends (execSegmentCommit n s) :=
  (ends_next _).mpr (wf_getD (stays_or _ _ (by simp [hs]) (by simp [hs])) hs)

@[simp] theorem State.mem_resume (s : State) (n : Nat) : (s.resume n).mem = s.mem := rfl

@[simp] theorem State.bytes_halts (s : State) (n : Nat) (v : Verdict) : (s.halts n v).mem.bytes = s.mem.bytes := by
  unfold State.halts
  split <;> simp

@[simp] theorem State.stays_freezeEnds (s : State) (n : Nat) (hs : s.mem.bytes.wf = true) :
    Stays (s.freezeEnds n) := by
  unfold State.freezeEnds
  dsimp only
  (repeat' split) <;> simp [hs]

@[simp] theorem ends_execFreezeEnd (n : Nat) (s : State) (hs : s.mem.bytes.wf = true) :
    Ends (execFreezeEnd n s) := by simp [execFreezeEnd, hs]

@[simp] theorem ends_execRendezvousRelease (n : Nat) (s : State) (hs : s.mem.bytes.wf = true) :
    Ends (execRendezvousRelease n s) := by
  unfold execRendezvousRelease
  dsimp only
  split <;> simp [hs]

@[simp] theorem State.stays_watchdog (s : State) (n : Nat) (hs : s.mem.bytes.wf = true) : Stays (s.watchdog n) := by
  unfold State.watchdog
  dsimp only
  (repeat' split) <;> simp [hs]

@[simp] theorem ends_execFreezeWatchdog (n : Nat) (s : State) (hs : s.mem.bytes.wf = true) :
    Ends (execFreezeWatchdog n s) := by simp [execFreezeWatchdog, hs]

@[simp] theorem ends_execRecovery (n : Nat) (s : State) (hs : s.mem.bytes.wf = true) : Ends (execRecovery n s) := by
  unfold execRecovery
  dsimp only
  (repeat' split) <;> simp [hs]

@[simp] theorem State.stays_interrupt (s : State) (n : Nat) (hs : s.mem.bytes.wf = true) : Stays (s.interrupt n) := by
  unfold State.interrupt
  dsimp only
  (repeat' split) <;> simp [hs]

@[simp] theorem ends_execDebugRequest (n : Nat) (hold : Bool) (s : State) (hs : s.mem.bytes.wf = true) :
    Ends (execDebugRequest n hold s) := by
  unfold execDebugRequest
  dsimp only
  split <;> simp [hs]

@[simp] theorem ends_execDebuggerRelease (n : Nat) (s : State) (hs : s.mem.bytes.wf = true) :
    Ends (execDebuggerRelease n s) := by
  unfold execDebuggerRelease
  dsimp only
  split <;> simp [hs]

@[simp] theorem State.bytes_registerWrite (s : State) (r : RegTarget) (x : Word) :
    (s.registerWrite r x).mem.bytes = s.mem.bytes := by
  unfold State.registerWrite
  (repeat' split) <;> simp

@[simp] theorem ends_execRegisterWrite (r : RegTarget) (x : Word) (s : State) (hs : s.mem.bytes.wf = true) :
    Ends (execRegisterWrite r x s) := by simp [execRegisterWrite, hs]

/-! ### A core's turn -/

@[simp] theorem State.stays_nullified (s : State) (n : Nat) (hs : s.mem.bytes.wf = true) : Stays (s.nullified n) := by
  unfold State.nullified
  dsimp only
  (repeat' split) <;> simp [hs]

/-! ### Every instruction (R62 to R67, R300) -/

theorem bytes_run_atomicOp (g : Guard) (d : GReg) (a : GSrc) (srcs : List Src) (n : Nat) (sc : Scope)
    (k : State → Nat → AccKind) (bytes : State → List Byte) (c : State → Word × Word) (s : State) :
    ((atomicOp g d a srcs n sc k bytes c).run s).mem.bytes = s.mem.bytes := by
  dsimp only [atomicOp]
  split <;> rfl

/-- What a slot operation does to its core and to the queues leaves the bytes of memory as they are. -/
theorem Op.bytes_run {i : Instr} {o : Op} (s : State) (e : opOf i = some o) : (o.run s).mem.bytes = s.mem.bytes := by
  cases i <;> simp only [opOf, Option.some.injEq, reduceCtorEq] at e <;> subst e
  case ld | st | pgref | launchi | join =>
    dsimp only [opLd, opSt, opPgref, opLaunchi, opJoin]
    (repeat' split) <;> rfl
  case aadd | aand | aor | axor | amin | amax | axchg | acas | afadd | afmax => exact bytes_run_atomicOp ..
  case trd =>
    dsimp only [opTrd]
    (repeat' split) <;> simp
  case ownEngine | sysw =>
    dsimp only [opOwnEngine, opSysw]
    split <;> simp
  case tlbi | vstx | trap | brk => simp [opTlbi, opVstx, opTrap, opBrk]
  all_goals rfl

@[simp] theorem Op.bytes_exec {i : Instr} {o : Op} (s : State) (e : opOf i = some o) :
    (o.exec s).mem.bytes = s.mem.bytes := by
  unfold Op.exec Op.fire
  (repeat' split) <;> simp [Op.bytes_run _ e]

@[simp] theorem ends_exec (i : Instr) (s : State) (hs : s.mem.bytes.wf = true) : Ends (exec i s) := by
  cases e : opOf i with
  | some o =>
    rw [exec_of_op i o s e]
    simpa [Op.bytes_exec s e] using hs
  | none => cases i <;> first | (simp only [opOf, reduceCtorEq] at e; done) | simp [exec, hs]


@[simp] theorem State.wf_act (s : State) (x : Nat × Nat × Instr) (hs : s.mem.bytes.wf = true) :
    (s.act x).mem.bytes.wf = true := by
  unfold State.act
  split
  · exact hs
  · split
    · next t e => exact ends_exec _ _ (by exact hs) t e
    · exact hs

@[simp] theorem State.bytes_finish (s : State) (n : Nat) (v : View) (c0 : Core) :
    (s.finish n v c0).mem.bytes = s.mem.bytes := by
  unfold State.finish
  dsimp only
  (repeat' split) <;> simp

@[simp] theorem State.wf_runBundle (s : State) (n : Nat) (v : View) (hs : s.mem.bytes.wf = true) :
    (s.runBundle n v).mem.bytes.wf = true := by
  unfold State.runBundle
  dsimp only
  rw [State.bytes_finish]
  split
  · exact State.wf_act _ _ (by exact hs)
  · exact State.wf_foldl _ State.wf_act _ _ (by exact hs)

@[simp] theorem State.wf_replay (s : State) (n : Nat) (hs : s.mem.bytes.wf = true) :
    (s.replay n).mem.bytes.wf = true := by
  unfold State.replay
  dsimp only
  (repeat' split) <;> simp [hs]

@[simp] theorem State.bytes_haltEnds (s : State) (n : Nat) :
    (s.haltEnds n).mem.bytes = s.mem.bytes := by simp [State.haltEnds]

/-- The bytes are canonical in the state that a turn leads to. -/
def Turn.Stays : Turn → Prop
  | .rest => True
  | .now t | .cycle t => t.mem.bytes.wf = true

@[simp] theorem Turn.stays_rest : Turn.rest.Stays := trivial
@[simp] theorem Turn.stays_now (t : State) : (Turn.now t).Stays ↔ t.mem.bytes.wf = true := Iff.rfl
@[simp] theorem Turn.stays_cycle (t : State) : (Turn.cycle t).Stays ↔ t.mem.bytes.wf = true := Iff.rfl

@[simp] theorem State.turnStays_issue (s : State) (n : Nat) (v : View) (hs : s.mem.bytes.wf = true) :
    (s.issue n v).Stays := by
  have committed := State.bytes_endSegment s n true
  unfold State.issue
  dsimp only
  (repeat' split) <;> simp_all

@[simp] theorem State.turnStays_haltTurn (s : State) (n : Nat) (hs : s.mem.bytes.wf = true) : (s.haltTurn n).Stays := by
  unfold State.haltTurn
  dsimp only
  (repeat' split) <;> simp [hs]

theorem State.turnStays (s : State) (n : Nat) (hs : s.mem.bytes.wf = true) : (s.turn n).Stays := by
  have nullified := State.stays_nullified s n hs
  have interrupted := State.stays_interrupt s n hs
  unfold State.turn
  dsimp only
  (repeat' split) <;> simp_all

@[simp] theorem State.stays_coreTurn (s : State) (n : Nat) (hs : s.mem.bytes.wf = true) : Stays (s.coreTurn n) := by
  have turned := State.turnStays s n hs
  unfold State.coreTurn
  split
  · exact stays_none
  · simp_all
  · split <;> simp_all

@[simp] theorem State.stays_wakes (s : State) (n : Nat) (hs : s.mem.bytes.wf = true) : Stays (s.wakes n) := by
  unfold State.wakes
  split <;> simp [hs]

@[simp] theorem State.stays_phaseMoves (s : State) (d k : Nat) (hs : s.mem.bytes.wf = true) :
    Stays (s.phaseMoves d k) := by
  unfold State.phaseMoves
  dsimp only
  (repeat' split) <;> try simp only [stays_none, stays_some, mem_foldl_setCore, State.mem_setDie, State.mem_setGang]
  all_goals
    refine State.wf_foldl _ (fun s n h => ?_) _ _ (by simp [hs])
    split
    · next t e => simpa [e] using State.turnStays _ n h
    · exact h

/-! ### Moves -/

@[simp] theorem State.mem_pass (s : State) (dt : Nat) : (s.pass dt).mem = s.mem := rfl

@[simp] theorem State.stays_clears (s : State) (n : Nat) (tspad : Bool) (hs : s.mem.bytes.wf = true) :
    Stays (s.clears n tspad) := by
  unfold State.clears
  dsimp only
  (repeat' split) <;> simp [hs]

/-! ### Steps -/

@[simp] theorem State.mem_withFetchWord (s : State) (nbits w : Nat) : (s.withFetchWord nbits w).mem = s.mem := rfl
/-! ### Moves (R300) -/

/-- Each of a list of optional steps keeps the form. -/
def AllStay (os : List (Option State)) : Prop := ∀ o ∈ os, Stays o

section
variable {α : Type}

@[simp] theorem allStay_nil : AllStay [] := fun _ h => absurd h List.not_mem_nil

@[simp] theorem allStay_cons (o : Option State) (os : List (Option State)) :
    AllStay (o :: os) ↔ Stays o ∧ AllStay os := List.forall_mem_cons

@[simp] theorem allStay_append (os ps : List (Option State)) : AllStay (os ++ ps) ↔ AllStay os ∧ AllStay ps :=
  List.forall_mem_append

@[simp] theorem allStay_map (f : α → Option State) (h : ∀ x, Stays (f x)) (xs : List α) :
    AllStay (xs.map f) := fun _ m => by
  obtain ⟨x, -, rfl⟩ := List.mem_map.mp m
  exact h x

@[simp] theorem allStay_flatMap (f : α → List (Option State)) (h : ∀ x, AllStay (f x)) (xs : List α) :
    AllStay (xs.flatMap f) := fun _ m => by
  obtain ⟨x, -, hx⟩ := List.mem_flatMap.mp m
  exact h x _ hx

@[simp] theorem allStay_eachOf (f : Nat → Option State) (h : ∀ k, Stays (f k)) (xs : List α) : AllStay (eachOf xs f) :=
  allStay_map f h _

end

@[simp] theorem stays_always {o : Host.Outcome State Fault Refusal} (h : Ends o) : Stays (always o) := by
  cases o with
  | next t => exact (stays_some t).mpr (h t rfl)
  | fault _ => exact stays_none
  | refused _ => exact stays_none

@[simp] theorem State.allStay_coreMoves (s : State) (n : Nat) (hs : s.mem.bytes.wf = true) :
    AllStay (s.coreMoves n) := by
  unfold State.coreMoves
  dsimp only
  split
  · exact allStay_nil
  simp only [allStay_append]
  refine ⟨⟨⟨⟨⟨⟨⟨⟨?_, ?replies⟩, ?work⟩, ?tags⟩, ?copies⟩, ?engine⟩, ?increments⟩, ?sends⟩, ?remote⟩
  case tags => exact allStay_map _ (fun a => by (repeat' split) <;> simp [hs]) _
  case replies | work | engine => exact allStay_map _ (fun _ => by simp [hs]) _
  case copies | increments | sends | remote => exact allStay_eachOf _ (fun _ => by simp [hs]) _
  have staged : Stays ((s.wantedPage n).bind fun w => always (execCodePageStaging (dieOf n) w.1 s)) :=
    stays_bind _ _ fun w => stays_always (ends_execCodePageStaging _ _ s hs)
  simp [hs, staged]

@[simp] theorem State.allStay_sliceMoves (s : State) (sl : Nat) (hs : s.mem.bytes.wf = true) :
    AllStay (s.sliceMoves sl) := by
  simp [State.sliceMoves, hs]

@[simp] theorem State.allStay_gangMoves (s : State) (d k : Nat) (g : Gang) (hs : s.mem.bytes.wf = true) :
    AllStay (s.gangMoves d k g) := by
  simp [State.gangMoves, hs]

@[simp] theorem State.allStay_dieMoves (s : State) (d : Nat) (x : Die) (hs : s.mem.bytes.wf = true) :
    AllStay (s.dieMoves d x) := by
  simp [State.dieMoves, hs]

@[simp] theorem State.allStay_walkMoves (s : State) (hs : s.mem.bytes.wf = true) : AllStay s.walkMoves :=
  allStay_flatMap _ (fun d => allStay_eachOf _ (fun k => s.stays_walkStarts d k hs) _) _

@[simp] theorem State.allStay_conjMoves (s : State) (hs : s.mem.bytes.wf = true) : AllStay s.conjMoves := by
  simp [State.conjMoves, hs]

@[simp] theorem State.allStay_coolMoves (s : State) (hs : s.mem.bytes.wf = true) : AllStay s.coolMoves := by
  have zones : AllStay (s.cool.zones.map fun e =>
      if s.dryDue (e.1 / 16) (e.1 % 16) then always (execDryChannelEvacuation (e.1 / 16) (e.1 % 16) s) else none) :=
    allStay_map _ (fun e => by split <;> simp [hs]) _
  have gated : Stays (if s.slotTurns then some s.gateAll else none) := by split <;> simp [hs]
  simp [State.coolMoves, hs, zones, gated]

@[simp] theorem State.allStay_packageMoves (s : State) (hs : s.mem.bytes.wf = true) : AllStay s.packageMoves := by
  unfold State.packageMoves
  simp only [allStay_append]
  refine ⟨⟨⟨⟨⟨⟨⟨?first, ?late⟩, ?hosts⟩, ?roots⟩, ?generations⟩, ?links⟩, ?arrived⟩, ?stranded⟩
  case late | hosts | generations | links => exact allStay_map _ (fun _ => by simp [hs]) _
  case roots | arrived | stranded => exact allStay_eachOf _ (fun _ => by simp [hs]) _
  have restored : Stays (if s.pkg.state = 4 then some s.checkpointRestore else none) := by
    split
    · exact (stays_some _).mpr (s.wf_checkpointRestore hs)
    · exact stays_none
  simp only [allStay_cons, allStay_nil, and_true]
  exact ⟨s.stays_checkpointDone hs, s.stays_unitLeaves hs, restored, s.stays_takesPort hs⟩

/-- Every move of the module keeps the form. -/
theorem State.wf_of_mem_moved (s : State) (hs : s.mem.bytes.wf = true) : ∀ t ∈ s.moved_, t.mem.bytes.wf = true := by
  unfold State.moved_
  split
  · exact fun t listed => absurd listed List.not_mem_nil
  · intro t listed
    obtain ⟨o, move, found⟩ := List.mem_filterMap.mp listed
    simp only [List.mem_append] at move
    obtain (((((move | move) | move) | move) | move) | move) | move := move
    · exact allStay_flatMap _ (fun n => s.allStay_coreMoves n hs) _ o move t found
    · exact allStay_flatMap _ (fun sl => s.allStay_sliceMoves sl hs) _ o move t found
    · exact allStay_flatMap _ (fun e : Nat × Die => s.allStay_dieMoves e.1 e.2 hs) _ o move t found
    · exact s.allStay_walkMoves hs o move t found
    · exact s.allStay_conjMoves hs o move t found
    · exact s.allStay_coolMoves hs o move t found
    · exact s.allStay_packageMoves hs o move t found

theorem State.wf_choose (s : State) (ts : List State) (hs : s.mem.bytes.wf = true)
    (h : ∀ t ∈ ts, t.mem.bytes.wf = true) : (s.choose ts).mem.bytes.wf = true := by
  unfold State.choose
  split
  · exact hs
  · exact h _ (by simp)
  · next t rest _ =>
    rw [List.getD_eq_getElem?_getD]
    cases e : (t :: rest)[Config.pick s.tick % (rest.length + 1)]? with
    | none => exact h t (by simp)
    | some u => exact h u (List.mem_of_getElem? e)

/-! ### Steps -/

@[simp] theorem State.bytes_pass (s : State) (dt : Nat) : (s.pass dt).mem.bytes = s.mem.bytes := rfl

theorem State.ends_followed {o : Host.Outcome State Fault Refusal} (s : State) (h : Ends o) : Ends (s.followed o) := by
  cases o with
  | next t => exact (ends_next _).mpr (by rw [State.mem_mirror]; exact h t rfl)
  | fault _ => exact fun _ e => nomatch e
  | refused _ => exact fun _ e => nomatch e

/-- An outside event means what it means alone, and one move is taken otherwise. -/
theorem ends_step (s : State) (hs : s.mem.bytes.wf = true) : Ends (step s) := by
  unfold step
  dsimp only
  split
  · split
    · exact State.ends_followed _ (ends_exec _ _ hs)
    · exact fun _ e => nomatch e
  · rw [ends_next, State.mem_mirror]
    exact State.wf_choose _ _ hs (State.wf_of_mem_moved _ hs)

end Sys2Proof.Machine
end

section
open Sys2Proof Sys2Proof.Machine

/-- Settles O59: the canonical form is kept by every instruction and by every move of the module. -/
theorem stepKeepsCanonical : Obligations.step_keeps_canonical := fun s t canonical e => ends_step s canonical t e

/-- Settles O60: nothing is listed after reset. -/
theorem resetCanonical : Obligations.reset_canonical := rfl

end

section
/-! What the S slot asks of other units: tags, pages, queues, coolant, work and barriers (R265, R297 to R299, R326,
R328, R330, R370). Each operation is one access of the core at hand. -/

namespace Sys2Proof.Machine

/-- An operation that changes the core at hand alone does to it what that change says of the core before. -/
theorem onMe_completes {i : Instr} {o : Op} {f f' : Core → Core} {s : State} (hi : opOf i = some o)
    (changes : ∀ u, Like u s → o.run u = u.onMe f) (same : f s.me = f' s.me) : completes i s fun u => u.onMe f' :=
  completes_when hi fun u like => (changes u like).trans (like.onMe_congr same)

/-- An operation that holds or queues one access, and changes nothing else. -/
theorem enters_completes {i : Instr} {o : Op} {k : Core → AccKind} {held : Bool} {s : State} (hi : opOf i = some o)
    (enters : ∀ u, Like u s → o.run u = u.onMe fun c => c.addAcc (k c) held 0 0 0 true) :
    completes i s fun u => u.onMe fun c => c.enters (s.access (k s.me) held) :=
  onMe_completes hi enters rfl

/-- The same where its destination is left empty. -/
theorem asks_completes {i : Instr} {o : Op} {k : Core → AccKind} {held : Bool} {d : GReg} {s : State}
    (hi : opOf i = some o)
    (asks : ∀ u, Like u s → o.run u = u.onMe fun c => (c.addAcc (k c) held 0 0 0 true).emptyG d) :
    completes i s fun u => u.onMe fun c => (c.enters (s.access (k s.me) held)).emptied d := by
  simp only [Core.emptyG_eq_emptied] at asks
  exact onMe_completes hi asks rfl

/-- R328: the queue that POP names, in the top byte of its address, and where its record goes. -/
theorem popOp_run {g : Guard} {d : GReg} {a : GSrc} {nb : Bool} {u s : State} (like : Like u s) :
    (popOp g d a nb).run u = u.onMe fun c => (c.addAcc
      (.pop d ((s.gReg a).toNat / 2 ^ 56) ((s.gReg a).toNat % 262144) nb 0 c.space) false 0 0 0 true).emptyG d := by
  have top : bitsAt (s.gReg a).toNat 56 8 = (s.gReg a).toNat / 2 ^ 56 := by
    rw [bitsAt, Nat.shiftRight_eq_div_pow]
    exact Nat.mod_eq_of_lt (by have := (s.gReg a).isLt; omega)
  unfold popOp
  simp only [like.opA, top]

/-- R298: PGREF is held, for the entry that its translation came from. -/
theorem pgref_completes {g : Guard} {a : GSrc} {pa : Nat} {e : Tlb} {s : State}
    (hit : s.translate s.me .pgref (s.gReg a &&& 0x00FFFFFFFFFFFFFF) = .hit pa e) :
    completes (.pgref g a) s fun u => u.onMe fun c =>
      c.enters { s.access (.pgref (s.gReg a) e.asid e.sz) true with pa := e.ent, home := s.fab.modnum } :=
  completes_when rfl fun u like => by
    simp only [opPgref, like.opA, like.me, like.translate, hit, like.fab]
    exact like.onMe_congr rfl

/-- R326: LAUNCHI's count has the address of its translation. -/
theorem launchi_completes {g : Guard} {a b : GSrc} {pa : Nat} {e : Tlb} {s : State}
    (hit : s.translate s.me .load (s.gReg b &&& 0x00FFFFFFFFFFFFFF) = .hit pa e) :
    completes (.launchi g a b) s fun u => u.onMe fun c =>
      c.enters ((s.access (.launchi (recOf (s.readDesc (s.gReg a))) s.me.right) true).at pa e) :=
  completes_when rfl fun u like => by
    simp only [opLaunchi, low56, like.opA, like.opB, like.me, like.readDesc, like.translate, hit]
    exact like.onMe_congr rfl

/-- R326: JOIN goes to its word as an atomic does. -/
theorem join_completes {g : Guard} {a : GSrc} {pa : Nat} {e : Tlb} {s : State}
    (hit : s.translate s.me .atomic (s.gReg a) = .hit pa e) :
    completes (.join g a) s fun u => u.onMe fun c => c.enters ((s.access (.join s.me.right) true).at pa e) :=
  completes_when rfl fun u like => by
    simp only [opJoin, like.opA, like.me, like.translate, hit]
    exact like.onMe_congr rfl

end Sys2Proof.Machine
end

section
open Sys2Proof Sys2Proof.Machine

/-- Settles O12: each is one access, but for TALW, which reads what the core holds. -/
theorem requestsToOtherUnits : Obligations.requests_to_other_units := by
  intro g d a acc s A tag
  refine ⟨?taga, ?tagf, ?tagq, fun pa e hit => pgref_completes hit, ?xlate, ?flowq, ?pop, ?popNb, ?talw⟩
  case taga =>
    exact asks_completes (k := fun c => .taga d (s.readDesc (A &&& 0x3FFFF)) c.space) rfl fun u like => by
      unfold opTaga
      simp only [tagDescAt, like.opA, like.readDesc, A]
  case tagf =>
    exact enters_completes (k := fun _ => .tagf tag) rfl fun u like => by simp only [opTagf, like.opA, tag, A]
  case tagq =>
    exact asks_completes (k := fun _ => .tagq d tag) rfl fun u like => by simp only [opTagq, like.opA, tag, A]
  case xlate =>
    exact asks_completes (k := fun c => .xlate d A acc (c.walkFor A.toNat) (!c.sup)) rfl fun u like => by
      simp only [opXlate, like.opA, A]
  case flowq =>
    exact asks_completes (k := fun _ => .flowq d A) rfl fun u like => by simp only [opFlowq, like.opA, A]
  case pop =>
    exact asks_completes (k := fun c => .pop d (A.toNat / 2 ^ 56) (A.toNat % 262144) false 0 c.space) rfl
      fun u like => popOp_run like
  case popNb =>
    exact asks_completes (k := fun c => .pop d (A.toNat / 2 ^ 56) (A.toNat % 262144) true 0 c.space) rfl
      fun u like => popOp_run like
  case talw => exact delivers_of rfl rfl fun noReplay => by simp only [opTalw, State.opA_reg noReplay, A]

/-- Settles O13: what a work instruction hands over is the record at issue and the right of its context. -/
theorem workInstructions : Obligations.work_instructions := by
  intro g a b s A right record
  refine ⟨?_, ?_, fun pa e hit => launchi_completes hit, fun pa e hit => join_completes hit⟩
  · exact enters_completes (k := fun c => .pushw record c.right) rfl fun u like => by
      simp only [opPushw, workOp, like.opA, like.readDesc, recOf, record, A]
  · exact enters_completes (k := fun c => .launch record c.right) rfl fun u like => by
      simp only [opLaunch, workOp, like.opA, like.readDesc, recOf, record, A]

/-- Settles O15: BARA and BAR arrive at the phase that the context counts; BARW has no effect once it may issue. -/
theorem barriersAtIssue : Obligations.barriers_at_issue := by
  intro g n s q arrived
  refine ⟨completes_when rfl fun u like => ?bara, fun outside => completes_when rfl fun u like => ?outside,
    fun inside => completes_when rfl fun u like => ?inside, completes_when rfl fun u _ => rfl⟩
  case bara =>
    unfold opBara
    dsimp only
    exact like.onMe_congr rfl
  case outside =>
    unfold opBar
    dsimp only
    exact like.onMe_congr (if_neg (Bool.eq_false_iff.mp outside))
  case inside =>
    unfold opBar
    dsimp only
    exact like.onMe_congr (if_pos inside)

end

section
/-! Keyed memory (R285, R290): what a byte reads as under a key before and after a store. -/

namespace Sys2Proof

/-- R2: byte `i` of a little-endian number. -/
theorem leNat_byte {bs : List Byte} {i : Nat} (h : i < bs.length) : leNat bs / 256 ^ i % 256 = bs[i].toNat := by
  induction bs generalizing i with
  | nil => simp at h
  | cons b bs ih =>
    have small : b.toNat < 256 := b.isLt
    cases i with
    | zero => simp only [leNat, List.getElem_cons_zero]; omega
    | succ i =>
      have below : (b.toNat + 256 * leNat bs) / 256 = leNat bs := by omega
      simp only [List.length_cons] at h
      rw [leNat, Nat.pow_succ', ← Nat.div_div_eq_div_mul, below, ih (by omega), List.getElem_cons_succ]

@[simp] theorem length_upFrom (a n : Nat) : (upFrom a n).length = n := by simp [upFrom]

/-- A key that is taken off the list reads as the default. -/
theorem Map.getD_del_same {α : Type} (m : Map α) (k : Nat) (d : α) : Map.getD (Map.del m k) k d = d := by
  induction m with
  | nil => rfl
  | cons e m ih =>
    obtain ⟨j, w⟩ := e
    by_cases h : j = k
    · simpa [Map.del, h] using ih
    · simpa [Map.del, Map.getD, Map.find?, h] using ih

/-- Another key reads what it read before. -/
theorem Map.getD_del_other {α : Type} (m : Map α) {k l : Nat} (d : α) (h : l ≠ k) :
    Map.getD (Map.del m k) l d = Map.getD m l d := by
  induction m with
  | nil => rfl
  | cons e m ih =>
    obtain ⟨j, w⟩ := e
    by_cases gone : j = k
    · have : j ≠ l := by omega
      simpa [Map.del, Map.getD, Map.find?, gone, Ne.symm h] using ih
    · by_cases here : j = l
      · simp [Map.del, Map.getD, Map.find?, here, h]
      · simpa [Map.del, Map.getD, Map.find?, gone, here] using ih

end Sys2Proof

namespace Sys2Proof.Machine

/-! ### Bytes written at rising addresses -/

/-- Below the bytes written everything reads as before. -/
theorem Memory.read_writeBytes_below {m : Memory} {a b : Nat} (xs : List Byte) (h : m.wf = true) (below : b < a) :
    (m.writeBytes a xs).read b = m.read b := by
  induction xs generalizing m a with
  | nil => rfl
  | cons x xs ih =>
    rw [Memory.writeBytes, ih (Memory.write_wf a x h) (by omega), Memory.read_write_other x h (by omega)]

/-- Above them too. -/
theorem Memory.read_writeBytes_above {m : Memory} {a b : Nat} (xs : List Byte) (h : m.wf = true)
    (above : a + xs.length ≤ b) : (m.writeBytes a xs).read b = m.read b := by
  induction xs generalizing m a with
  | nil => rfl
  | cons x xs ih =>
    simp only [List.length_cons] at above
    rw [Memory.writeBytes, ih (Memory.write_wf a x h) (by omega), Memory.read_write_other x h (by omega)]

theorem Memory.read_writeBytes_other {m : Memory} {a b : Nat} (xs : List Byte) (h : m.wf = true)
    (out : b < a ∨ a + xs.length ≤ b) : (m.writeBytes a xs).read b = m.read b :=
  out.elim (Memory.read_writeBytes_below xs h) (Memory.read_writeBytes_above xs h)

/-- The bytes written read back. -/
theorem Memory.read_writeBytes_same {m : Memory} {a i : Nat} {xs : List Byte} (h : m.wf = true) (hi : i < xs.length) :
    (m.writeBytes a xs).read (a + i) = xs[i] := by
  induction xs generalizing m a i with
  | nil => simp at hi
  | cons x xs ih =>
    cases i with
    | zero =>
      rw [Memory.writeBytes, Nat.add_zero, Memory.read_writeBytes_below xs (Memory.write_wf a x h) (by omega)]
      exact Memory.read_write_same x h (Nat.zero_le a)
    | succ i =>
      simp only [List.length_cons] at hi
      rw [Memory.writeBytes, show a + (i + 1) = a + 1 + i by omega, ih (Memory.write_wf a x h) (by omega)]
      rfl

theorem Memory.readBytes_writeBytes {m : Memory} {a : Nat} (xs : List Byte) (h : m.wf = true) :
    (m.writeBytes a xs).readBytes a xs.length = xs := by
  refine List.ext_getElem (by simp [Memory.readBytes]) fun i _ hi => ?_
  simp only [Memory.readBytes, upFrom, List.getElem_map, List.getElem_range]
  exact Memory.read_writeBytes_same h hi

theorem Memory.readLe_writeLe {m : Memory} {a n x : Nat} (h : m.wf = true) :
    (m.writeLe a n x).readLe a n = x % 256 ^ n := by
  have back := Memory.readBytes_writeBytes (a := a) (leBytes n x) h
  rw [length_leBytes] at back
  rw [Memory.readLe, Memory.writeLe, back, leNat_leBytes]

/-- A number is read from its own bytes alone. -/
theorem Memory.readLe_congr {m m' : Memory} {a n : Nat} (same : ∀ b, a ≤ b → b < a + n → m.read b = m'.read b) :
    m.readLe a n = m'.readLe a n := by
  have : m.readBytes a n = m'.readBytes a n :=
    List.map_congr_left fun b inside => same b (mem_upFrom.mp inside).1 (mem_upFrom.mp inside).2
  rw [Memory.readLe, Memory.readLe, this]

/-! ### Units under a key (R290) -/

/-- Under its own key a unit's bytes are those stored. -/
theorem Mem.byte_own {m : Mem} {key : BitVec 8} {x : Nat} (own : Map.getD m.keys (x / 16) 0 = key) :
    m.byte key x = m.bytes.read x := by
  have inside : x % 16 < (m.bytes.readBytes (x / 16 * 16) 16).length := by
    rw [Memory.readBytes, List.length_map, length_upFrom]; omega
  have there : (m.bytes.readBytes (x / 16 * 16) 16)[x % 16] = m.bytes.read x := by
    simp only [Memory.readBytes, upFrom, List.getElem_map, List.getElem_range]
    congr 1; omega
  have digit := leNat_byte inside
  rw [there] at digit
  have scale : 2 ^ (8 * (x % 16)) = 256 ^ (x % 16) := by rw [Nat.pow_mul]
  refine BitVec.eq_of_toNat_eq ?_
  have room : leNat (m.bytes.readBytes (x / 16 * 16) 16) % 2 ^ 128 / 256 ^ (x % 16) % 256
      = leNat (m.bytes.readBytes (x / 16 * 16) 16) / 256 ^ (x % 16) % 256 := by
    obtain ⟨k, hk⟩ : ∃ k, 2 ^ 128 = 256 ^ (x % 16) * (256 * k) :=
      ⟨256 ^ (15 - x % 16), by
        rw [← Nat.pow_succ', ← Nat.pow_add, show x % 16 + (15 - x % 16 + 1) = 16 by omega,
          show 256 = 2 ^ 8 from rfl, ← Nat.pow_mul]⟩
    rw [hk, Nat.mod_mul_right_div_self, Nat.mod_mul_right_mod]
  rw [← digit, ← room]
  simp only [Mem.byte, Mem.unit, own, if_true, Memory.readLe, BitVec.extractLsb'_toNat, BitVec.toNat_ofNat,
    Nat.shiftRight_eq_div_pow, scale]

/-- A unit reads by its own bytes and its own key. -/
theorem Mem.unit_congr {m m' : Mem} {u : Nat} (key : BitVec 8)
    (bytes : ∀ b, u * 16 ≤ b → b < u * 16 + 16 → m.bytes.read b = m'.bytes.read b)
    (keys : Map.getD m.keys u 0 = Map.getD m'.keys u 0) : m.unit u key = m'.unit u key := by
  simp only [Mem.unit, keys, Memory.readLe_congr bytes]

/-- A unit that is brought under a key has it; the others keep theirs. -/
theorem Mem.key_rekey (m : Mem) (u v : Nat) (key : BitVec 8) :
    Map.getD (m.rekey u key).keys v 0 = if v = u then key else Map.getD m.keys v 0 := by
  unfold Mem.rekey
  split
  next already =>
    split
    next here => rw [here, already]
    next => rfl
  next =>
    dsimp only
    split
    next zero =>
      split
      next here => rw [here, Map.getD_del_same, zero]
      next other => exact Map.getD_del_other _ _ other
    next => exact Map.getD_put ..

/-- A change of key changes no other unit, and what the unit itself reads as only under other keys. -/
theorem Mem.unit_rekey {m : Mem} {u v : Nat} {key k : BitVec 8} (h : m.bytes.wf = true) (spared : v ≠ u ∨ k = key) :
    (m.rekey u key).unit v k = m.unit v k := by
  by_cases here : v = u
  · obtain rfl : k = key := spared.resolve_left (not_not_intro here)
    subst here
    by_cases already : Map.getD m.keys v 0 = k
    · rw [Mem.rekey, if_pos already]
    · have own := m.key_rekey v v k
      rw [if_pos rfl] at own
      rw [Mem.unit, own, if_pos rfl, Mem.rekey, if_neg already]
      dsimp only
      rw [Memory.readLe_writeLe h, show 256 ^ 16 = 2 ^ 128 by rw [show 256 = 2 ^ 8 from rfl, ← Nat.pow_mul],
        Nat.mod_eq_of_lt (m.unit v k).isLt, BitVec.ofNat_toNat, BitVec.setWidth_eq]
  · refine Mem.unit_congr k (fun b lo hi => ?_) (by rw [Mem.key_rekey, if_neg here])
    unfold Mem.rekey
    split
    next => rfl
    next => exact Memory.read_writeBytes_other _ h (by rw [length_leBytes]; omega)

/-- The memory with some units brought under a key. -/
def Mem.rekeys (m : Mem) (us : List Nat) (key : BitVec 8) : Mem := us.foldl (fun m u => m.rekey u key) m

theorem Mem.wf_rekeys {m : Mem} (us : List Nat) (key : BitVec 8) (h : m.bytes.wf = true) :
    (m.rekeys us key).bytes.wf = true := by
  induction us generalizing m with
  | nil => exact h
  | cons u us ih => exact ih (m.wf_rekey u key h)

theorem Mem.key_rekeys (m : Mem) (us : List Nat) (key : BitVec 8) (v : Nat) :
    Map.getD (m.rekeys us key).keys v 0 = if v ∈ us then key else Map.getD m.keys v 0 := by
  induction us generalizing m with
  | nil => rfl
  | cons u us ih =>
    rw [Mem.rekeys, List.foldl_cons, ← Mem.rekeys, ih, Mem.key_rekey]
    by_cases later : v ∈ us <;> by_cases here : v = u <;> simp [later, here]

theorem Mem.unit_rekeys {m : Mem} {us : List Nat} {v : Nat} {key k : BitVec 8} (h : m.bytes.wf = true)
    (spared : v ∉ us ∨ k = key) : (m.rekeys us key).unit v k = m.unit v k := by
  induction us generalizing m with
  | nil => rfl
  | cons u us ih =>
    have here : v ≠ u ∨ k = key := spared.imp_left fun out => (List.mem_cons.not.mp out <| Or.inl ·)
    have later : v ∉ us ∨ k = key := spared.imp_left fun out => (List.mem_cons.not.mp out <| Or.inr ·)
    exact (ih (m.wf_rekey u key h) later).trans (Mem.unit_rekey h here)

/-! ### Stores -/

/-- The units that a store touches. -/
def unitsOf (a n : Nat) : List Nat := ((upFrom a n).map (· / 16)).dedup

theorem mem_unitsOf {a n v : Nat} : v ∈ unitsOf a n ↔ ∃ y, (a ≤ y ∧ y < a + n) ∧ y / 16 = v := by
  simp [unitsOf, mem_upFrom]

/-- A store brings its units under the key and writes its bytes. -/
theorem Mem.bytes_store (m : Mem) (key : BitVec 8) (a : Nat) (bs : List Byte) :
    (m.store key a bs).bytes = (m.rekeys (unitsOf a bs.length) key).bytes.writeBytes a bs := rfl

theorem Mem.keys_store (m : Mem) (key : BitVec 8) (a : Nat) (bs : List Byte) :
    (m.store key a bs).keys = (m.rekeys (unitsOf a bs.length) key).keys := rfl

section
variable {m : Mem} {key : BitVec 8} {a : Nat} {bs : List Byte} (h : m.bytes.wf = true)
include h

/-- R290: a byte stored under a key reads back under it. -/
theorem Mem.byte_store_same {i : Nat} (hi : i < bs.length) : (m.store key a bs).byte key (a + i) = bs[i] := by
  have touched : (a + i) / 16 ∈ unitsOf a bs.length := mem_unitsOf.mpr ⟨a + i, by omega, rfl⟩
  rw [Mem.byte_own (by rw [Mem.keys_store, Mem.key_rekeys, if_pos touched]), Mem.bytes_store]
  exact Memory.read_writeBytes_same (Mem.wf_rekeys _ key h) hi

/-- R285: a unit that the store does not touch reads as before under any key. -/
theorem Mem.byte_store_untouched {x : Nat} (k : BitVec 8) (out : x / 16 ∉ unitsOf a bs.length) :
    (m.store key a bs).byte k x = m.byte k x := by
  have unit : (m.store key a bs).unit (x / 16) k = (m.rekeys (unitsOf a bs.length) key).unit (x / 16) k := by
    refine Mem.unit_congr k (fun b lo hi => ?_) (by rw [Mem.keys_store])
    refine Memory.read_writeBytes_other bs (Mem.wf_rekeys _ key h) (by_contra fun inside => out ?_)
    exact mem_unitsOf.mpr ⟨b, by omega, by omega⟩
  rw [Mem.byte, Mem.byte, unit, Mem.unit_rekeys h (Or.inl out)]

/-- R290: every other byte reads under the store's key as before. -/
theorem Mem.byte_store_other {x : Nat} (out : x < a ∨ a + bs.length ≤ x) :
    (m.store key a bs).byte key x = m.byte key x := by
  by_cases touched : x / 16 ∈ unitsOf a bs.length
  · have own : Map.getD (m.rekeys (unitsOf a bs.length) key).keys (x / 16) 0 = key := by
      rw [Mem.key_rekeys, if_pos touched]
    have before : (m.rekeys (unitsOf a bs.length) key).byte key x = m.byte key x := by
      rw [Mem.byte, Mem.byte, Mem.unit_rekeys h (Or.inr rfl)]
    rw [Mem.byte_own (by rw [Mem.keys_store, own]), Mem.bytes_store,
      Memory.read_writeBytes_other bs (Mem.wf_rekeys _ key h) out, ← Mem.byte_own own, before]
  · exact Mem.byte_store_untouched h key touched

end

end Sys2Proof.Machine
end

section
open Sys2Proof Sys2Proof.Machine

/-- Settles O36: the touched units come under the key and read under it as they did, and then the bytes are written. -/
theorem keyedMemory : Obligations.keyed_memory := by
  intro m key a bs h
  refine ⟨?_, fun x out => Mem.byte_store_other h out, fun k x out => Mem.byte_store_untouched h k fun touched => ?_,
    m.wf_store key a bs h⟩
  · refine List.ext_getElem (by simp [Mem.load]) fun i _ hi => ?_
    simp only [Mem.load, upFrom, List.getElem_map, List.getElem_range]
    exact Mem.byte_store_same h hi
  · obtain ⟨y, inside, same⟩ := mem_unitsOf.mp touched
    exact out y inside.1 inside.2 same

end

section
/-! Departures and markers (R305 to R309, R330): what becomes of the access at the head of its queue. -/

namespace Sys2Proof.Machine

section
variable (s : State) (n : Nat)

theorem State.core_setAcc (id : Nat) (f : Acc → Acc) : (s.setAcc n id f).core n =
    { s.core n with accs := (s.core n).accs.map fun b => if b.id == id then f b else b } := State.core_setCore_same ..

theorem State.core_enter (src id pa m : Nat) :
    ({ s with mem := s.mem.enter src id pa } : State).core m = s.core m := rfl

/-- The access as it departs; of a POP the time is noted (R328). -/
def Acc.leaves (time : Nat) (a : Acc) : Acc :=
  { a with departed := true, kind := match a.kind with | .pop d q ts nb _ x => .pop d q ts nb time x | k => k }

theorem State.depart_apart {a : Acc} (apart : a.kind.isMem = false) :
    s.depart n a = some (s.setAcc n a.id (Acc.leaves s.time)) := by
  rw [State.depart, apart]; rfl

theorem State.depart_home {a : Acc} (memory : a.kind.isMem = true) (home : s.remote a.home = false) :
    s.depart n a = some { s.setAcc n a.id (Acc.leaves s.time) with
      mem := (s.setAcc n a.id (Acc.leaves s.time)).mem.enter n a.id a.pa } := by
  rw [State.depart, memory, home]; rfl

end

/-- R309: a departure that nothing delays. -/
theorem departs {i : Instr} {n : Nat} {a : Acc} {s : State} (home : a.kind.isMem = true → s.remote a.home = false)
    (ends : exec i s = .next ((s.depart n a).getD s)) : leads i s fun t =>
      (t.core n).accs = (s.core n).accs.map (fun b => if b.id == a.id then b.leaves s.time else b)
      ∧ (t.core n).ctx = (s.core n).ctx ∧ t.mem.bytes = s.mem.bytes
      ∧ (if a.kind.isMem = true then t.mem.channels = Map.put s.mem.channels (inbound n (s.mem.shape.homeSlice a.pa))
          (Map.getD s.mem.channels (inbound n (s.mem.shape.homeSlice a.pa)) [] ++ [a.id])
        else t.mem = s.mem) := by
  cases memory : a.kind.isMem with
  | true =>
    rw [State.depart_home s n memory (home memory)] at ends
    refine ⟨_, ends, ?_, ?_, rfl, by rw [if_pos rfl]; rfl⟩
    · rw [Option.getD_some, State.core_enter, State.core_setAcc]
    · rw [Option.getD_some, State.core_enter, State.core_setAcc]
  | false =>
    rw [State.depart_apart s n memory] at ends
    refine ⟨_, ends, ?_, ?_, rfl, by rw [if_neg (by decide)]; rfl⟩
    · rw [Option.getD_some, State.core_setAcc]
    · rw [Option.getD_some, State.core_setAcc]

/-! ### Markers -/

/-- The queue whose head a marker removal takes. -/
def Core.markHead (c : Core) (sq : Bool) : Option Acc := if sq then c.sqHead else c.lqHead

section
variable {n : Nat} {s : State} {a : Acc} {sq : Bool} (head : (s.core n).markHead sq = some a)
  (free : s.markerFree (s.core n).accs a sq = true)
include head free

/-- R308: a marker leaves its queue, and is gone once it has left both. -/
theorem State.markerGoes_marker (mark : a.kind.isMark = true) (plain : ∀ b p, a.kind ≠ .barrier b p) :
    s.markerGoes n sq = some (if (if sq then a.departed else a.performed) then s.dropAcc n a.id
      else s.setAcc n a.id fun b => if sq then { b with performed := true } else { b with departed := true }) := by
  unfold Core.markHead at head
  simp only [State.markerGoes, head, mark, free, Bool.not_true, Bool.or_self, Bool.false_eq_true, if_false]
  cases kind : a.kind with
  | barrier b p => exact absurd kind (plain b p)
  | _ => exact (apply_ite some ..).symm

/-- R330: a barrier's marker arrives as it is removed. -/
theorem State.markerGoes_barrier {b : BitVec 10} {p : BitVec 16} (barrier : a.kind = .barrier b p) :
    s.markerGoes n sq = some ((s.dropAcc n a.id).barArrive n b.toNat p) := by
  unfold Core.markHead at head
  simp only [State.markerGoes, head, free, barrier]
  rfl

end

theorem leads_marker {n : Nat} {s : State} {a : Acc} {sq : Bool} (core : n < 1024)
    (head : (s.core n).markHead sq = some a) (mark : a.kind.isMark = true) (plain : ∀ b p, a.kind ≠ .barrier b p)
    (free : s.markerFree (s.core n).accs a sq = true) : leads (.markerRemoval n sq) s fun t =>
      (t.core n).accs = (if (if sq then a.departed else a.performed) then (s.core n).accs.filter fun b => b.id != a.id
        else (s.core n).accs.map fun b =>
          if b.id == a.id then (if sq then { b with performed := true } else { b with departed := true }) else b)
      ∧ (t.core n).ctx = (s.core n).ctx ∧ t.mem = s.mem := by
  refine ⟨(s.markerGoes n sq).getD s, rfl, ?_⟩
  rw [State.markerGoes_marker head free mark plain, Option.getD_some]
  beta_reduce
  by_cases gone : (if sq then a.departed else a.performed) = true
  · rw [if_pos gone, if_pos gone, State.core_dropAcc s a.id core, State.mem_dropAcc s a.id core]
    exact ⟨rfl, rfl, rfl⟩
  · rw [if_neg gone, if_neg gone, State.core_setAcc, State.mem_setAcc]
    exact ⟨rfl, rfl, rfl⟩

/-! ### Arrivals at a barrier (R330) -/

theorem State.gangOf_congr {s t : State} {n : Nat} (dies : t.dies = s.dies)
    (gang : (t.core n).regs.gang = (s.core n).regs.gang) : t.gangOf n = s.gangOf n := by
  rw [State.gangOf, State.gangOf, dies, gang]

theorem State.gangOf_setGang (s : State) (n : Nat) (g : Gang) :
    (s.setGang (dieOf n) (s.core n).gangId g).gangOf n = some g := by
  have core : (s.setGang (dieOf n) (s.core n).gangId g).core n = s.core n := rfl
  have die : (s.setGang (dieOf n) (s.core n).gangId g).dies = Map.put s.dies (dieOf n)
      { s.die (dieOf n) with gangs := Map.put (s.die (dieOf n)).gangs (s.core n).gangId g } := rfl
  rw [State.gangOf, die, core, Map.find_put_same]
  exact Map.find_put_same ..

theorem State.barArrive_gang {s : State} {n b : Nat} {q : BitVec 16} {g : Gang} (member : s.gangOf n = some g) :
    (s.barArrive n b q).gangOf n = some (if (g.bar b).has (s.core n).rank q then g else
      { g with bars := Map.put g.bars b { g.bar b with at_ := Map.put (g.bar b).at_ (s.core n).rank (q + 1) } })
    ∧ (s.barArrive n b q).core n = s.core n ∧ (s.barArrive n b q).mem = s.mem := by
  simp only [State.barArrive, member]
  split
  next => exact ⟨member, rfl, rfl⟩
  next => exact ⟨State.gangOf_setGang s n _, rfl, rfl⟩

end Sys2Proof.Machine
end

section
open Sys2Proof Sys2Proof.Machine

/-- Settles O37: the queue's head is the access named, so the one change is to it; what is home goes into its channel. -/
theorem departures : Obligations.departures := by
  intro n a s c moved left dropped departing marker core home
  refine ⟨fun head may => ?load, fun head may => ?store,
    fun plain mark => ⟨fun head free => ?lq, fun head free => ?sq⟩,
    fun b p g barrier head free member => ?barrier⟩
  case load =>
    have goes : s.loadDeparts n = s.depart n a := by
      simp only [State.loadDeparts, ← show c = s.core n from rfl, head, may, if_true]
    exact departs home (by rw [← goes]; rfl)
  case store =>
    have goes : s.storeDeparts n = s.depart n a := by
      simp only [State.storeDeparts, ← show c = s.core n from rfl, head, may, if_true]
    exact departs home (by rw [← goes]; rfl)
  case lq => exact leads_marker (sq := false) core head mark plain free
  case sq => exact leads_marker (sq := true) core head mark plain free
  case barrier =>
    refine ⟨_, rfl, ?_⟩
    have kept : (s.dropAcc n a.id).gangOf n = some g :=
      (State.gangOf_congr (State.dies_dropAcc s n a.id) (by rw [State.core_dropAcc s a.id core])).trans member
    obtain ⟨gang, same, memory⟩ := State.barArrive_gang (b := b.toNat) (q := p) kept
    rw [State.markerGoes_barrier (sq := true) head free barrier, Option.getD_some]
    beta_reduce
    rw [memory, same, gang, State.core_dropAcc s a.id core, State.mem_dropAcc s a.id core]
    exact ⟨rfl, rfl, rfl⟩

end

section
/-! Events that are posted to contexts, and pre-emption requests: what they change and what they leave (R329, R366). -/

namespace Sys2Proof

theorem Map.mem_keys_put {α : Type} {m : Map α} {l : Nat} (k : Nat) (v : α) (h : l ∈ m.map (·.1)) :
    l ∈ (Map.put m k v).map (·.1) := by
  induction m with
  | nil => simp at h
  | cons e m ih =>
    obtain ⟨j, w⟩ := e
    rw [List.map_cons, List.mem_cons] at h
    unfold Map.put
    split
    next => exact List.mem_cons_of_mem _ (List.mem_cons.mpr h)
    next =>
      split
      next same => exact List.mem_cons.mpr (h.imp_left (·.trans same.symm))
      next => exact List.mem_cons.mpr (h.imp_right ih)

end Sys2Proof

namespace Sys2Proof.Machine

/-- A core with more events pending. -/
def Core.noting (c : Core) (es : List BEvent) : Core := { c with pending := c.pending ++ es }

theorem Core.noting_nil (c : Core) : c.noting [] = c := by simp [Core.noting]
theorem Core.noting_noting (c : Core) (es fs : List BEvent) : (c.noting es).noting fs = c.noting (es ++ fs) := by
  simp [Core.noting]

/-- `t` is `s`, but for events that its cores have been posted, and for what stands of its gangs. -/
structure State.Noticed (s t : State) : Prop where
  core : ∀ n, ∃ es, t.core n = (s.core n).noting es
  listed : ∀ n ∈ s.listed, n ∈ t.listed
  pairs : t.pairs = s.pairs
  mem : t.mem = s.mem
  conj : t.conj = s.conj
  cool : t.cool = s.cool
  pkg : t.pkg = s.pkg
  fab : t.fab = s.fab
  saves : t.saves = s.saves
  reports : t.reports = s.reports
  iss : t.iss = s.iss
  time : t.time = s.time

namespace State.Noticed

variable {s t u : State}

theorem refl (s : State) : s.Noticed s :=
  ⟨fun _ => ⟨[], (Core.noting_nil _).symm⟩, fun _ h => h, rfl, rfl, rfl, rfl, rfl, rfl, rfl, rfl, rfl, rfl⟩

theorem trans (h : s.Noticed t) (k : t.Noticed u) : s.Noticed u where
  core n := by
    obtain ⟨es, e⟩ := h.core n
    obtain ⟨fs, f⟩ := k.core n
    exact ⟨es ++ fs, by rw [f, e, Core.noting_noting]⟩
  listed _ listed := k.listed _ (h.listed _ listed)
  pairs := k.pairs.trans h.pairs
  mem := k.mem.trans h.mem
  conj := k.conj.trans h.conj
  cool := k.cool.trans h.cool
  pkg := k.pkg.trans h.pkg
  fab := k.fab.trans h.fab
  saves := k.saves.trans h.saves
  reports := k.reports.trans h.reports
  iss := k.iss.trans h.iss
  time := k.time.trans h.time

theorem post (s : State) (n : Nat) (e : BEvent) : s.Noticed (s.post n e) where
  core m := by
    by_cases same : m = n
    · exact ⟨[e], by rw [same, State.post, State.core_setCore_same]; rfl⟩
    · exact ⟨[], by rw [Core.noting_nil, State.post, State.core_setCore_other _ _ same]⟩
  listed m h := Map.mem_keys_put n _ h
  pairs := rfl
  mem := rfl
  conj := rfl
  cool := rfl
  pkg := rfl
  fab := rfl
  saves := rfl
  reports := rfl
  iss := rfl
  time := rfl

/-- A change to the dies alone. -/
theorem ofDies (s : State) (dies : Map Die) : s.Noticed { s with dies := dies } :=
  ⟨fun _ => ⟨[], (Core.noting_nil _).symm⟩, fun _ h => h, rfl, rfl, rfl, rfl, rfl, rfl, rfl, rfl, rfl, rfl⟩

theorem foldl {α : Type} {f : State → α → State} (h : ∀ (s : State) x, s.Noticed (f s x)) (xs : List α)
    (s : State) : s.Noticed (xs.foldl f s) := by
  induction xs generalizing s with
  | nil => exact refl s
  | cons x xs ih => exact (h s x).trans (ih _)

theorem regs (h : s.Noticed t) (n : Nat) : (t.core n).regs = (s.core n).regs := by
  obtain ⟨es, e⟩ := h.core n; rw [e]; rfl
theorem ctx (h : s.Noticed t) (n : Nat) : (t.core n).ctx = (s.core n).ctx := by
  obtain ⟨es, e⟩ := h.core n; rw [e]; rfl
theorem run (h : s.Noticed t) (n : Nat) : (t.core n).run = (s.core n).run := by
  obtain ⟨es, e⟩ := h.core n; rw [e]; rfl
theorem pending (h : s.Noticed t) {n : Nat} {e : BEvent} (posted : e ∈ (s.core n).pending) :
    e ∈ (t.core n).pending := by
  obtain ⟨es, k⟩ := h.core n
  rw [k]
  exact List.mem_append_left es posted

/-- An event that one of the steps of a fold posts stands at its end. -/
theorem foldl_pending {α : Type} {f : State → α → State} (h : ∀ (s : State) x, s.Noticed (f s x)) {xs : List α}
    {s : State} {n : Nat} {e : BEvent} (posts : ∃ x ∈ xs, ∀ u, s.Noticed u → e ∈ ((f u x).core n).pending) :
    e ∈ ((xs.foldl f s).core n).pending := by
  obtain ⟨x, here, post⟩ := posts
  obtain ⟨before, after, rfl⟩ := List.append_of_mem here
  rw [List.foldl_append, List.foldl_cons]
  exact (foldl h after _).pending (post _ (foldl h before s))

end State.Noticed

theorem State.pending_post (s : State) (n : Nat) (e : BEvent) : e ∈ ((s.post n e).core n).pending := by
  rw [State.post, State.core_setCore_same]
  exact List.mem_append_right _ (List.mem_singleton_self e)

/-! ### Pre-emption requests (R329) -/

/-- A request is noted in its gang and posted to contexts of it. -/
theorem State.noticed_preempt (s : State) (d gang kind prio : Nat) : s.Noticed (s.preempt d gang kind prio) := by
  unfold State.preempt
  split
  next => exact .refl s
  next =>
    split
    next => exact .refl s
    next => exact (State.Noticed.ofDies s _).trans (.foldl (fun _ _ => .post ..) _ _)

theorem State.dies_foldl {α : Type} (f : State → α → State) (h : ∀ s x, (f s x).dies = s.dies) (xs : List α)
    (s : State) : (xs.foldl f s).dies = s.dies := get_foldl State.dies h xs s

/-- What a request does to the gangs. -/
theorem State.gang_preempt (s : State) (d k d' k' kind prio : Nat) :
    (s.preempt d k kind prio).gang d' k' = if d' = d ∧ k' = k then
      (s.gang d k).map fun g => { g with preempt := some (preemptWord k kind prio, s.time) } else s.gang d' k' := by
  unfold State.preempt
  split
  next none =>
    have absent : s.gang d k = Option.none := by rw [State.gang, State.die, Map.getD, none]; rfl
    split
    next same => rw [same.1, same.2, absent]; rfl
    next => rfl
  next x die =>
    have here : s.die d = x := by rw [State.die, Map.getD, die]; rfl
    split
    next none =>
      have absent : s.gang d k = Option.none := by rw [State.gang, here, none]
      split
      next same => rw [same.1, same.2, absent]; rfl
      next => rfl
    next g gang =>
      have old : s.gang d k = some g := by rw [State.gang, here, gang]
      dsimp only
      rw [State.gang, State.die, State.dies_foldl _ fun _ _ => State.dies_post ..]
      dsimp only
      by_cases die' : d' = d
      · subst die'
        rw [Map.getD_put_same]
        by_cases gang' : k' = k
        · subst gang'
          rw [if_pos ⟨rfl, rfl⟩, old, Map.find_put_same]; rfl
        · rw [if_neg fun same => gang' same.2, Map.find_put_other _ _ gang', State.gang, here]
      · rw [if_neg fun same => die' same.1, Map.getD_put_other _ _ _ die']; rfl

/-- Requests to several gangs of a die leave each asked once and the same. -/
theorem State.gang_foldl_preempt {s : State} {d k kind prio : Nat} {g : Gang} {ks : List Nat} (here : k ∈ ks)
    (gang : s.gang d k = some g) : (ks.foldl (fun (s : State) k => s.preempt d k kind prio) s).gang d k =
      some { g with preempt := some (preemptWord k kind prio, s.time) } := by
  have later (ks : List Nat) {u : State}
      (asked : u.gang d k = some { g with preempt := some (preemptWord k kind prio, u.time) }) :
      (ks.foldl (fun (s : State) k => s.preempt d k kind prio) u).gang d k =
        some { g with preempt := some (preemptWord k kind prio, u.time) } := by
    induction ks generalizing u with
    | nil => exact asked
    | cons j ks ih =>
      have time : (u.preempt d j kind prio).time = u.time := (u.noticed_preempt d j kind prio).time
      rw [List.foldl_cons, ← time]
      refine ih ?_
      rw [State.gang_preempt, time]
      split
      next same => rw [← same.2, asked]; rfl
      next => exact asked
  induction ks generalizing s with
  | nil => simp at here
  | cons j ks ih =>
    have time : (s.preempt d j kind prio).time = s.time := (s.noticed_preempt d j kind prio).time
    rw [List.foldl_cons, ← time]
    by_cases first : k = j
    · subst first
      exact later ks (by rw [State.gang_preempt, if_pos ⟨rfl, rfl⟩, gang, time]; rfl)
    · refine ih ((List.mem_cons.mp here).resolve_left first) ?_
      rw [State.gang_preempt, if_neg fun same => first same.2, gang]

end Sys2Proof.Machine
end

section
/-! The coolant (R359 to R371): commits and the arbiter, samples of the sensors, and the evacuation of a dry zone. -/

namespace Sys2Proof

/-- The place of an element in a list with its indices: every other pair has another index. -/
theorem zipIdx_split {α : Type} {xs : List α} {i : Nat} {x : α} (h : xs[i]? = some x) :
    ∃ before after, xs.zipIdx = before ++ (x, i) :: after ∧ ∀ e ∈ before ++ after, e.2 ≠ i ∧ e.2 < xs.length := by
  obtain ⟨small, rfl⟩ := List.getElem?_eq_some_iff.mp h
  have here : i < xs.zipIdx.length := by rw [List.length_zipIdx]; exact small
  have index (j : Nat) (hj : j < xs.zipIdx.length) : (xs.zipIdx[j]).2 = j := by
    rw [List.getElem_zipIdx]; exact Nat.zero_add j
  refine ⟨xs.zipIdx.take i, xs.zipIdx.drop (i + 1), ?_, fun e he => ?_⟩
  · conv_lhs => rw [← List.take_append_drop i xs.zipIdx, List.drop_eq_getElem_cons here, List.getElem_zipIdx, Nat.zero_add]
  · rcases List.mem_append.mp he with low | high
    · obtain ⟨j, hj, rfl⟩ := List.mem_iff_getElem.mp low
      rw [List.length_take] at hj
      rw [List.getElem_take, index]
      omega
    · obtain ⟨j, hj, rfl⟩ := List.mem_iff_getElem.mp high
      rw [List.length_drop, List.length_zipIdx] at hj
      rw [List.getElem_drop, index]
      omega

end Sys2Proof

namespace Sys2Proof.Machine

/-! ### Positions of the zones (R360) -/

/-- The number whose digits in base 16 are the positions below `n`. -/
def digits (p : Nat → Nat) (n : Nat) : Nat := ((List.range n).map fun z => p z * 16 ^ z).sum

theorem digits_succ (p : Nat → Nat) (n : Nat) : digits p (n + 1) = digits p n + p n * 16 ^ n := by
  simp [digits, List.range_succ]

section
variable {p : Nat → Nat} (small : ∀ z, p z < 16)
include small

theorem digits_lt (n : Nat) : digits p n < 16 ^ n := by
  induction n with
  | zero => simp [digits]
  | succ n ih =>
    have digit : (p n + 1) * 16 ^ n ≤ 16 * 16 ^ n := Nat.mul_le_mul_right _ (small n)
    rw [Nat.add_mul] at digit
    rw [digits_succ, Nat.pow_succ']
    omega

theorem digits_at {n z : Nat} (h : z < n) : digits p n / 16 ^ z % 16 = p z := by
  induction n with
  | zero => omega
  | succ n ih =>
    rw [digits_succ]
    rcases Nat.lt_succ_iff_lt_or_eq.mp h with below | rfl
    · obtain ⟨k, rfl⟩ : ∃ k, n = z + 1 + k := ⟨n - (z + 1), by omega⟩
      have above : p (z + 1 + k) * 16 ^ (z + 1 + k) = 16 ^ z * (16 * (p (z + 1 + k) * 16 ^ k)) := by
        rw [Nat.pow_add, Nat.pow_succ]; ring
      rw [above, Nat.add_mul_div_left _ _ (by positivity), Nat.add_mul_mod_self_left, ih below]
    · rw [Nat.add_mul_div_right _ _ (by positivity), Nat.div_eq_of_lt (digits_lt small z), Nat.zero_add,
        Nat.mod_eq_of_lt (small z)]

end

theorem posIn_eq (w : Word) (z : Nat) : posIn w z = w.toNat / 16 ^ z % 16 := by
  rw [posIn, bitsAt, Nat.shiftRight_eq_div_pow, Nat.pow_mul]; rfl

/-- R363: a commit changes the zones of its mask. -/
theorem posIn_mergePos {mask : BitVec 16} {new old : Word} {z : Nat} (h : z < 16) :
    posIn (mergePos mask new old) z = if mask.getLsbD z then posIn new z else posIn old z := by
  have small (z : Nat) : (if mask.getLsbD z then posIn new z else posIn old z) < 16 := by
    split <;> exact Nat.mod_lt _ (by decide)
  have room : digits (fun z => if mask.getLsbD z then posIn new z else posIn old z) 16 < 2 ^ 64 := digits_lt small 16
  rw [posIn_eq, mergePos, BitVec.toNat_ofNat]
  exact (congrArg (· / 16 ^ z % 16) (Nat.mod_eq_of_lt room)).trans (digits_at small h)

/-! ### Commits (R363, R364) -/

/-- A word of a commit goes into its entry. -/
def Cool.applyOne (c : Commit) (x : Cool) (e : Nat × Word) : Cool :=
  { x with eph := Map.put x.eph (c.die * 256 + e.1) (mergePos c.mask e.2 (x.entry c.die e.1)) }

theorem Cool.apply_eq (x : Cool) (c : Commit) : x.apply c = c.slots.foldl (Cool.applyOne c) x := rfl

theorem Cool.entry_applyOne (c : Commit) (x : Cool) (e : Nat × Word) (slot : Nat) :
    (x.applyOne c e).entry c.die slot =
      if slot = e.1 then mergePos c.mask e.2 (x.entry c.die e.1) else x.entry c.die slot := by
  rw [Cool.applyOne, Cool.entry, Map.getD_put]
  simp only [Nat.add_left_cancel_iff]
  rfl

theorem Cool.entry_foldl_other {c : Commit} {es : List (Nat × Word)} {slot : Nat} (other : ∀ e ∈ es, slot ≠ e.1)
    (x : Cool) : (es.foldl (Cool.applyOne c) x).entry c.die slot = x.entry c.die slot := by
  induction es generalizing x with
  | nil => rfl
  | cons e es ih =>
    rw [List.foldl_cons, ih fun e h => other e (List.mem_cons_of_mem _ h), Cool.entry_applyOne,
      if_neg (other e List.mem_cons_self)]

/-- R363: each word of a commit merges into the entry of its slot. -/
theorem Cool.entry_apply {c : Commit} {i : Nat} {w : Word} (x : Cool) (short : c.words.length ≤ 256)
    (word : c.words[i]? = some w) : (x.apply c).entry c.die ((c.first + i) % 256) =
      mergePos c.mask w (x.entry c.die ((c.first + i) % 256)) := by
  have small : i < c.words.length := (List.getElem?_eq_some_iff.mp word).1
  obtain ⟨before, after, split, others⟩ := zipIdx_split word
  have apart : ∀ e ∈ before ++ after, (c.first + i) % 256 ≠ (c.first + e.2) % 256 := fun e he => by
    obtain ⟨ne, lt⟩ := others e he
    omega
  have apartMap (es : List (Word × Nat)) (sub : ∀ e ∈ es, e ∈ before ++ after) :
      ∀ e ∈ es.map (fun x => ((c.first + x.2) % 256, x.1)), (c.first + i) % 256 ≠ e.1 := fun e he => by
    obtain ⟨y, hy, rfl⟩ := List.mem_map.mp he
    exact apart y (sub y hy)
  rw [Cool.apply_eq, Commit.slots, split, List.map_append, List.map_cons, List.foldl_append, List.foldl_cons,
    Cool.entry_foldl_other (apartMap after fun e h => List.mem_append_right _ h), Cool.entry_applyOne, if_pos rfl,
    Cool.entry_foldl_other (apartMap before fun e h => List.mem_append_left _ h)]

/-- The requests that wait in the arbiter play no part in a commit. -/
theorem Cool.apply_reqs (x : Cool) (reqs : List EphReq) (c : Commit) :
    ({ x with reqs := reqs } : Cool).apply c = { x.apply c with reqs := reqs } := by
  rw [Cool.apply_eq, Cool.apply_eq]
  generalize c.slots = es
  induction es generalizing x with
  | nil => rfl
  | cons e es ih => exact ih (x.applyOne c e)

/-- The state with other requests in the arbiter. -/
def State.withReqs (s : State) (reqs : List EphReq) : State := { s with cool := { s.cool with reqs := reqs } }

theorem State.checkCommit_withReqs (s : State) (reqs : List EphReq) (c : Commit) :
    (s.withReqs reqs).checkCommit c = s.checkCommit c := by
  have cool : (s.withReqs reqs).cool.apply c = { s.cool.apply c with reqs := reqs } := s.cool.apply_reqs reqs c
  rw [State.checkCommit, State.checkCommit, cool]
  rfl

theorem State.ephstat_setEphstat (s : State) (n : Nat) (x : Word) : ((s.setEphstat n x).core n).regs.ephstat = x := by
  rw [State.setEphstat, State.core_setCore_same]

/-! ### The arbiter (R359, R363) -/

theorem State.arbitrates_commit {s : State} {n : Nat} {addr : Word} {rest : List EphReq}
    (first : s.cool.reqs = .commit n addr :: rest) (free : s.commitHeld n addr = false) :
    s.arbitrates = some ((s.withReqs rest).serveCommit n addr) := by
  rw [State.arbitrates, first]
  exact if_neg (Bool.eq_false_iff.mp free)

theorem State.serveCommit_unread {s : State} {n : Nat} {addr : Word} (unread : s.readCommit n addr = none) :
    s.serveCommit n addr = s.setEphstat n 1 := by rw [State.serveCommit, unread]

theorem State.serveCommit_refused {s : State} {n : Nat} {addr : Word} {c : Commit} (read : s.readCommit n addr = some c)
    (refused : (s.checkCommit c).1 ≠ 0) : s.serveCommit n addr =
      s.setEphstat n (BitVec.ofNat 64 ((s.checkCommit c).2 * 256 + (s.checkCommit c).1)) := by
  rw [State.serveCommit, read]
  exact if_pos refused

/-- The gangs that a commit asks to leave. -/
def State.losers (s : State) (c : Commit) : List Nat := if c.wd then s.lowered c else []

theorem State.serveCommit_taken {s : State} {n : Nat} {addr : Word} {c : Commit} (read : s.readCommit n addr = some c)
    (taken : (s.checkCommit c).1 = 0) : s.serveCommit n addr =
      ((s.losers c).foldl (fun (s : State) g => s.preempt c.die g 2 0) { s with
        cool := s.cool.apply c }).setEphstat n 0 := by
  rw [State.serveCommit, read]
  exact if_neg (not_not_intro taken)

theorem State.arbitrates_flow {s : State} {w : Word} {rest : List EphReq} (first : s.cool.reqs = .flow w :: rest) :
    s.arbitrates = some ((s.withReqs rest).serveFlow w) := by
  rw [State.arbitrates, first]; rfl

/-- R359: what the arbiter does with a write of MODFLOW. -/
def State.flowTaken (s : State) (w : Word) : Prop := w.toNat % 256 ≤ 240 ∧ ∀ k < 256, s.sum k ≤ w.toNat % 256

theorem State.serveFlow_eq (s : State) (w : Word) :
    s.serveFlow w = if 240 < w.toNat % 256 || (List.range 256).any (fun k => decide (w.toNat % 256 < s.sum k)) then s
      else { s with cool := { s.cool with modflow := w.toNat % 256 } } := rfl

theorem State.flowTaken_iff (s : State) (w : Word) : ¬ s.flowTaken w ↔
    (240 < w.toNat % 256 || (List.range 256).any (fun k => decide (w.toNat % 256 < s.sum k))) = true := by
  simp only [State.flowTaken, not_and_or, Nat.not_le, not_forall, Bool.or_eq_true, decide_eq_true_eq, List.any_eq_true,
    List.mem_range, exists_prop]

theorem State.serveFlow_taken {s : State} {w : Word} {rest : List EphReq} (taken : s.flowTaken w) :
    ((s.withReqs rest).serveFlow w).cool = { s.cool with reqs := rest, modflow := w.toNat % 256 } := by
  rw [State.serveFlow_eq, if_neg (mt ((s.withReqs rest).flowTaken_iff w).mpr (not_not_intro taken))]
  rfl

theorem State.serveFlow_ignored {s : State} {w : Word} {rest : List EphReq} (ignored : ¬ s.flowTaken w) :
    ((s.withReqs rest).serveFlow w).cool = { s.cool with reqs := rest } := by
  rw [State.serveFlow_eq, if_pos (((s.withReqs rest).flowTaken_iff w).mp ignored)]
  rfl

/-- R344, R359: a write of MODFLOW goes to the arbiter where the expert set is active. -/
theorem State.writeModflow_eq (s : State) (w : Word) :
    if s.expert 10 then s.writeModflow w = s.withReqs (s.cool.reqs ++ [.flow w])
    else s.writeModflow w = { s with pkg := { s.pkg with log := s.pkg.log ++ [(0x418, w)] } } := by
  unfold State.writeModflow
  cases s.expert 10 <;> rfl

/-- R363, R364: a commit that passes every check. -/
theorem State.commit_taken {s : State} {n : Nat} {c : Commit} {rest : List EphReq} {k z : Nat} {g : Gang}
    (taken : (s.checkCommit c).1 = 0) (t : State)
    (is : t = (((s.withReqs rest).losers c).foldl (fun (s : State) g => s.preempt c.die g 2 0)
      { s.withReqs rest with cool := (s.withReqs rest).cool.apply c }).setEphstat n 0) :
    (t.core n).regs.ephstat = BitVec.ofNat 64 (if (s.checkCommit c).1 = 0 then 0
      else (s.checkCommit c).2 * 256 + (s.checkCommit c).1)
    ∧ t.cool.reqs = rest ∧ t.mem = s.mem
    ∧ ((s.checkCommit c).1 ≠ 0 → t.cool.eph = s.cool.eph)
    ∧ ((s.checkCommit c).1 = 0 → ∀ i x, c.words.length ≤ 256 → c.words[i]? = some x → z < 16 →
        posIn (t.cool.entry c.die ((c.first + i) % 256)) z =
          if c.mask.getLsbD z then posIn x z else posIn (s.cool.entry c.die ((c.first + i) % 256)) z)
    ∧ ((s.checkCommit c).1 = 0 → c.wd = true → k ∈ s.lowered c → s.gang c.die k = some g →
        t.gang c.die k = some { g with preempt := some (preemptWord k 2 0, s.time) }) := by
  have asked (u : State) : u.Noticed (((s.withReqs rest).losers c).foldl (fun (s : State) g => s.preempt c.die g 2 0) u) :=
    .foldl (fun s g => s.noticed_preempt c.die g 2 0) _ u
  have cool : t.cool = { s.cool.apply c with reqs := rest } := by
    rw [is]
    exact (asked _).cool.trans (s.cool.apply_reqs rest c)
  refine ⟨by rw [is, State.ephstat_setEphstat, if_pos taken]; rfl, by rw [cool], by rw [is]; exact (asked _).mem,
    fun refused => absurd taken refused, fun _ i x short word zone => ?_, fun _ wd lowered gang => ?_⟩
  · have entry (slot : Nat) : t.cool.entry c.die slot = (s.cool.apply c).entry c.die slot := by rw [cool]; rfl
    rw [entry, Cool.entry_apply _ short word, posIn_mergePos zone]
  · have lost : k ∈ (s.withReqs rest).losers c := by rw [State.losers, if_pos wd]; exact lowered
    rw [is]
    exact State.gang_foldl_preempt lost gang

/-! ### Slots (R361) -/

theorem State.core_gateAll (s : State) (n : Nat) : s.gateAll.core n = (s.core n).gate (s.gatedCore n) := by
  have entry (m : Map Core) : Map.find? (m.map fun e => (e.1, e.2.gate (s.gatedCore e.1))) n =
      (Map.find? m n).map fun c => c.gate (s.gatedCore n) := by
    induction m with
    | nil => rfl
    | cons e m ih =>
      obtain ⟨j, c⟩ := e
      by_cases here : j = n
      · subst here; simp [Map.find?]
      · simpa [Map.find?, here] using ih
  rw [State.core, State.gateAll, Map.getD, entry, State.core, Map.getD]
  cases Map.find? s.cores n with
  | none => rfl
  | some c => rfl

theorem Core.ctx_gate (c : Core) (b : Bool) : (c.gate b).ctx = c.ctx := by
  unfold Core.gate
  split
  case h_1 => exact (apply_ite Core.ctx ..).trans (ite_self _)
  case h_2 => exact (apply_ite Core.ctx ..).trans (ite_self _)
  case h_3 => exact (apply_ite Core.ctx ..).trans (ite_self _)
  case h_4 => rfl

section
variable {c : Core}

theorem Core.gate_frozen {f : Freeze} (run : c.run = .frozen f) : (c.gate true).run = .stopped (.gated (some f)) := by
  rw [Core.gate, run]; rfl
theorem Core.gate_run (run : c.run = .run) : (c.gate true).run = .stopped (.gated none) := by
  rw [Core.gate, run]; rfl
/-- A core whose zone opens goes on as it stood. -/
theorem Core.open_gated {f : Option Freeze} (run : c.run = .stopped (.gated f)) :
    (c.gate false).run = f.elim .run .frozen := by
  simp only [Core.gate, run]
  cases f <;> rfl

end

/-! ### Samples (R365 to R370) -/

/-- One layer's reading sets its own bit alone. -/
def layerBit (p : Nat → Bool) (b : BitVec 8) (e : Nat × Nat) : BitVec 8 := if p e.1 then b ||| 1#8 <<< e.2 else b

theorem getLsbD_layerBit (p : Nat → Bool) (b : BitVec 8) (e : Nat × Nat) {l : Nat} (small : l < 8) :
    (layerBit p b e).getLsbD l = (b.getLsbD l || decide (e.2 = l) && p e.1) := by
  have unit : (1#8 <<< e.2).getLsbD l = decide (e.2 = l) := by
    rw [BitVec.getLsbD_shiftLeft, BitVec.getLsbD_one, Bool.eq_iff_iff]
    simp only [Bool.and_eq_true, Bool.not_eq_true', decide_eq_true_eq, decide_eq_false_iff_not]
    omega
  unfold layerBit
  split
  next meets => rw [BitVec.getLsbD_or, unit, meets, Bool.and_true]
  next fails => rw [Bool.eq_false_iff.mpr fails, Bool.and_false, Bool.or_false]

theorem getLsbD_foldl_layerBit (p : Nat → Bool) {es : List (Nat × Nat)} {l : Nat} (small : l < 8)
    (others : ∀ e ∈ es, e.2 ≠ l) (b : BitVec 8) : (es.foldl (layerBit p) b).getLsbD l = b.getLsbD l := by
  induction es generalizing b with
  | nil => rfl
  | cons e es ih =>
    rw [List.foldl_cons, ih fun e h => others e (List.mem_cons_of_mem _ h), getLsbD_layerBit p b e small,
      decide_eq_false (others e List.mem_cons_self), Bool.false_and, Bool.or_false]

/-- R286: a bit of a zone's layers is the condition on that layer's reading. -/
theorem getLsbD_layerBits {v : ZoneSample} {p : Nat → Bool} {l r : Nat} (small : l < 8) (reading : v.layers[l]? = some r) :
    (layerBits v p).getLsbD l = p r := by
  obtain ⟨before, after, split, others⟩ := zipIdx_split reading
  have scan : layerBits v p = v.layers.zipIdx.foldl (layerBit p) 0 := rfl
  rw [scan, split, List.foldl_append, List.foldl_cons,
    getLsbD_foldl_layerBit p small fun e h => (others e (List.mem_append_right _ h)).1, getLsbD_layerBit p _ _ small,
    getLsbD_foldl_layerBit p small fun e h => (others e (List.mem_append_left _ h)).1]
  simp

/-! ### The next record of a zone -/

/-- What a sample measures, before it changes the zone's state. -/
def Zone.measure (x : Zone) (v : ZoneSample) (plant press : Bool) (pos bypass : Nat) : Zone :=
  { x with
    tj := v.tj, td := highestLayer v, meas := v.meas
    throtJ := decide (420 < v.tj) || ((x.throtJ || x.throtD) && x.throtJ && !decide (v.tj ≤ 400 ∧ highestLayer v ≤ 368))
    throtD := decide (380 < highestLayer v)
      || ((x.throtJ || x.throtD) && x.throtD && !decide (v.tj ≤ 400 ∧ highestLayer v ≤ 368))
    ref2x := (x.ref2x ||| layerBits v fun r => decide (340 < r)) &&& ~~~(layerBits v fun r => decide (r ≤ 328))
    low := if 0 < pos && decide (v.meas < 2 * pos) then x.low + 1 else 0
    press := if press then x.press + 1 else 0
    plant := if plant then x.plant + 1 else 0
    good := if 36 * min 15 (pos + bypass) ≤ 10 * v.meas then x.good + 1 else 0 }

/-- Its change of the zone's state (R370, R371). -/
def Zone.settle (x : Zone) (tj pos time : Nat) : Zone :=
  match x.state with
  | .normal => if 3 ≤ x.low || (3 ≤ x.press && 0 < pos) then { x with state := .dry time, good := 0 } else x
  | .primed => if tj ≤ 240 then { x with state := .normal, low := 0, press := 0 } else x
  | _ => x

theorem Zone.sample_eq (x : Zone) (v : ZoneSample) (plant press : Bool) (pos bypass time : Nat) :
    x.sample v plant press pos bypass time = (x.measure v plant press pos bypass).settle v.tj pos time := rfl

/-- What is measured stays. -/
theorem Zone.settle_measures (x : Zone) (tj pos time : Nat) : (x.settle tj pos time).tj = x.tj
    ∧ (x.settle tj pos time).td = x.td ∧ (x.settle tj pos time).meas = x.meas
    ∧ (x.settle tj pos time).throtJ = x.throtJ ∧ (x.settle tj pos time).throtD = x.throtD
    ∧ (x.settle tj pos time).ref2x = x.ref2x ∧ (x.settle tj pos time).plant = x.plant := by
  unfold Zone.settle
  split
  case h_1 => split <;> exact ⟨rfl, rfl, rfl, rfl, rfl, rfl, rfl⟩
  case h_2 => split <;> exact ⟨rfl, rfl, rfl, rfl, rfl, rfl, rfl⟩
  case h_3 => exact ⟨rfl, rfl, rfl, rfl, rfl, rfl, rfl⟩

/-- R370, R371: samples with low flow or low pressure in a row make a zone that is normal dry. -/
theorem Zone.settle_normal {x : Zone} (tj pos time : Nat) (normal : x.state = .normal) :
    (x.settle tj pos time).press = x.press ∧ (x.settle tj pos time).low = x.low
    ∧ (x.settle tj pos time).state = if 3 ≤ x.low ∨ 3 ≤ x.press ∧ 0 < pos then .dry time else .normal := by
  unfold Zone.settle
  rw [normal]
  dsimp only
  split
  next dry => exact ⟨rfl, rfl, (if_pos (by simpa using dry)).symm⟩
  next calm => exact ⟨rfl, rfl, normal.trans (if_neg (by simpa using calm)).symm⟩

/-! ### What a sample leaves (R365 to R370) -/

/-- `t` is `s`, but for the zones' records, the requests in the arbiter, the refresh rates, and events that its cores have
been posted. -/
structure State.Senses (s t : State) : Prop where
  core : ∀ n, ∃ es, t.core n = (s.core n).noting es
  listed : ∀ n ∈ s.listed, n ∈ t.listed
  pairs : t.pairs = s.pairs
  time : t.time = s.time
  eph : t.cool.eph = s.cool.eph
  modflow : t.cool.modflow = s.cool.modflow
  mem : t.mem = { s.mem with refresh := t.mem.refresh }

theorem State.Noticed.senses {s t : State} (h : s.Noticed t) : s.Senses t :=
  ⟨h.core, h.listed, h.pairs, h.time, by rw [h.cool], by rw [h.cool], by rw [h.mem]⟩

namespace State.Senses

variable {s t u : State}

theorem trans (h : s.Senses t) (k : t.Senses u) : s.Senses u where
  core n := by
    obtain ⟨es, e⟩ := h.core n
    obtain ⟨fs, f⟩ := k.core n
    exact ⟨es ++ fs, by rw [f, e, Core.noting_noting]⟩
  listed _ listed := k.listed _ (h.listed _ listed)
  pairs := k.pairs.trans h.pairs
  time := k.time.trans h.time
  eph := k.eph.trans h.eph
  modflow := k.modflow.trans h.modflow
  mem := by rw [k.mem, h.mem]

theorem foldl {α : Type} {f : State → α → State} (h : ∀ (s : State) x, s.Senses (f s x)) (xs : List α) (s : State) :
    s.Senses (xs.foldl f s) := by
  induction xs generalizing s with
  | nil => exact (Noticed.refl s).senses
  | cons x xs ih => exact (h s x).trans (ih _)

theorem ctx (h : s.Senses t) (n : Nat) : (t.core n).ctx = (s.core n).ctx := by
  obtain ⟨es, e⟩ := h.core n; rw [e]; rfl
theorem run (h : s.Senses t) (n : Nat) : (t.core n).run = (s.core n).run := by
  obtain ⟨es, e⟩ := h.core n; rw [e]; rfl
theorem regs (h : s.Senses t) (n : Nat) : (t.core n).regs = (s.core n).regs := by
  obtain ⟨es, e⟩ := h.core n; rw [e]; rfl
theorem pending (h : s.Senses t) {n : Nat} {e : BEvent} (posted : e ∈ (s.core n).pending) : e ∈ (t.core n).pending := by
  obtain ⟨es, k⟩ := h.core n
  rw [k]
  exact List.mem_append_left es posted
theorem bytes (h : s.Senses t) : t.mem.bytes = s.mem.bytes := by rw [h.mem]
theorem shape (h : s.Senses t) : t.mem.shape = s.mem.shape := by rw [h.mem]
theorem cur (h : s.Senses t) : t.cur = s.cur := by rw [State.cur, State.cur, h.time]
theorem entry (h : s.Senses t) (d k : Nat) : t.cool.entry d k = s.cool.entry d k := by
  rw [Cool.entry, Cool.entry, h.eph]
theorem pos (h : s.Senses t) (d z : Nat) : t.pos d z = s.pos d z := by
  rw [State.pos, State.pos, h.cur, h.entry]
theorem sum (h : s.Senses t) (k : Nat) : t.sum k = s.sum k := by
  simp only [State.sum, Cool.sum, h.shape, h.entry]
theorem residents (h : s.Senses t) {d z n : Nat} (resident : n ∈ s.residents d z) : n ∈ t.residents d z := by
  have mode : t.protected_ n = s.protected_ n := by rw [State.protected_, State.pair, h.pairs]; rfl
  have leader : t.leader n = s.leader n := by rw [State.leader, State.leader, mode]
  have core : (t.core n).resident = (s.core n).resident := by rw [Core.resident, Core.resident, h.run]
  simp only [State.residents, List.mem_filter, State.zoneOf, h.shape, leader, core] at resident ⊢
  exact ⟨h.listed n resident.1, resident.2⟩

/-- The word of a zone (Table CLT-7) is that of its record. -/
theorem talwWord (h : s.Senses t) {d z : Nat} (zone : t.cool.zone d z = s.cool.zone d z) :
    t.talwWord d z = s.talwWord d z := by
  simp only [State.talwWord, State.gated, zone, h.pos, h.cur]

end State.Senses

/-! ### One zone's sample -/

section
variable (s : State) (inlet : Inlet) (kpa d z : Nat) (v : ZoneSample)

/-- The zone's next record. -/
def State.newZone : Zone :=
  (s.cool.zone d z).sample v (inletBad inlet (s.sum s.cur)) (decide (kpa < 50)) (s.pos d z)
    (s.cool.modflow - s.sum s.cur) s.time

/-- The zone with another record. -/
def State.zoned (x : Zone) : State := { s with cool := s.cool.setZone d z x }

/-- The thermal events of a core. -/
def State.warn (old new : Zone) (word : Word) (n : Nat) : State :=
  (thermalSubs old new (s.core n).regs.thctl).foldl (fun s k => s.post n ⟨14, k, word⟩) s

/-- The events of a zone that has become dry (R370). -/
def State.tellDry (old new : Zone) (info : Word) (ns : List Nat) : State :=
  if !old.dry && new.dry then ns.foldl (fun s n => s.post n ⟨15, if 3 ≤ new.low then 1 else 2, info⟩) s else s

/-- The layers' refresh rates (R286). -/
def State.refreshed (bits : BitVec 8) : State :=
  { s with mem := { s.mem with
      refresh := (List.range 8).foldl (fun r l => Map.put r ((d * 16 + z) * 8 + l) (0, bits.getLsbD l)) s.mem.refresh } }

theorem State.sampleZone_eq : s.sampleZone inlet kpa d z v =
    let old := s.cool.zone d z
    let new := s.newZone inlet kpa d z v
    let u := s.zoned d z new
    let warned := (u.residents d z).foldl (fun s n => s.warn old new (u.talwWord d z) n) u
    ((warned.tellDry old new (BitVec.ofNat 64 (z + new.meas % 256 * 256 + s.pos d z * 65536))
      (u.residents d z)).refreshed d z new.ref2x) := rfl

theorem State.noticed_warn (old new : Zone) (word : Word) (n : Nat) : s.Noticed (s.warn old new word n) :=
  .foldl (fun _ _ => .post ..) _ _

theorem State.noticed_tellDry (old new : Zone) (info : Word) (ns : List Nat) : s.Noticed (s.tellDry old new info ns) := by
  unfold State.tellDry
  split
  next => exact .foldl (fun _ _ => .post ..) _ _
  next => exact .refl s

theorem State.senses_zoned (x : Zone) : s.Senses (s.zoned d z x) :=
  ⟨(State.Noticed.refl s).core, fun _ h => h, rfl, rfl, rfl, rfl, rfl⟩

theorem State.senses_refreshed (bits : BitVec 8) : s.Senses (s.refreshed d z bits) :=
  ⟨(State.Noticed.refl s).core, fun _ h => h, rfl, rfl, rfl, rfl, rfl⟩

theorem State.zoned_senses :
    (s.zoned d z (s.newZone inlet kpa d z v)).Senses (s.sampleZone inlet kpa d z v) := by
  rw [State.sampleZone_eq]
  exact (State.Noticed.foldl (fun s n => s.noticed_warn _ _ _ n) _ _).senses.trans <|
    (State.noticed_tellDry ..).senses.trans (State.senses_refreshed ..)

theorem State.senses_sampleZone : s.Senses (s.sampleZone inlet kpa d z v) :=
  (s.senses_zoned d z _).trans (s.zoned_senses inlet kpa d z v)

theorem State.cool_sampleZone : (s.sampleZone inlet kpa d z v).cool = s.cool.setZone d z (s.newZone inlet kpa d z v) := by
  rw [State.sampleZone_eq]
  exact (State.noticed_tellDry ..).cool.trans (State.Noticed.foldl (fun s n => s.noticed_warn _ _ _ n) _ _).cool

theorem State.zone_sampleZone (d' z' : Nat) : (s.sampleZone inlet kpa d z v).cool.zone d' z' =
    if d' * 16 + z' = d * 16 + z then s.newZone inlet kpa d z v else s.cool.zone d' z' := by
  rw [State.cool_sampleZone, Cool.zone, Cool.setZone, Map.getD_put]; rfl

end

/-- Values put at rising keys. -/
theorem Map.find_foldl_put {α : Type} (m : Map α) (b n : Nat) (f : Nat → α) (k : Nat) :
    Map.find? ((List.range n).foldl (fun r l => Map.put r (b + l) (f l)) m) k =
      if b ≤ k ∧ k < b + n then some (f (k - b)) else Map.find? m k := by
  induction n with
  | zero => rw [if_neg (by omega)]; rfl
  | succ n ih =>
    rw [List.range_succ, List.foldl_append, List.foldl_cons, List.foldl_nil]
    by_cases here : k = b + n
    · subst here
      rw [Map.find_put_same, if_pos (by omega), Nat.add_sub_cancel_left]
    · rw [Map.find_put_other _ _ here, ih]
      exact if_congr (by omega) rfl rfl

section
variable {s : State} (inlet : Inlet) (kpa d z : Nat) (v : ZoneSample)

theorem State.refresh_sampleZone (k : Nat) : Map.find? (s.sampleZone inlet kpa d z v).mem.refresh k =
    if (d * 16 + z) * 8 ≤ k ∧ k < (d * 16 + z) * 8 + 8
    then some (0, (s.newZone inlet kpa d z v).ref2x.getLsbD (k - (d * 16 + z) * 8)) else Map.find? s.mem.refresh k := by
  rw [State.sampleZone_eq, State.refreshed, Map.find_foldl_put]
  rw [(State.noticed_tellDry ..).mem, (State.Noticed.foldl (fun s n => s.noticed_warn _ _ _ n) _ _).mem]
  rfl

/-- A thermal event whose condition has become true is posted to every context of the zone whose THCTL enables it. -/
theorem State.posts_thermal {n sub : Nat} (resident : n ∈ s.residents d z)
    (true_ : sub ∈ thermalSubs (s.cool.zone d z) (s.newZone inlet kpa d z v) (s.core n).regs.thctl) :
    ⟨14, sub, (s.zoned d z (s.newZone inlet kpa d z v)).talwWord d z⟩ ∈
      ((s.sampleZone inlet kpa d z v).core n).pending := by
  have zoned := s.senses_zoned d z (s.newZone inlet kpa d z v)
  rw [State.sampleZone_eq]
  refine (State.senses_refreshed ..).pending ((State.noticed_tellDry ..).pending ?_)
  refine State.Noticed.foldl_pending (fun s n => s.noticed_warn _ _ _ n) ⟨n, zoned.residents resident, fun u h => ?_⟩
  refine State.Noticed.foldl_pending (fun _ _ => .post ..) ⟨sub, ?_, fun w _ => State.pending_post w n _⟩
  rw [h.regs, zoned.regs]
  exact true_

/-- R370: contexts of a zone that has become dry are told. -/
theorem State.posts_dry {n : Nat} (resident : n ∈ s.residents d z) (before : (s.cool.zone d z).dry = false)
    (dry : (s.newZone inlet kpa d z v).dry = true) :
    ⟨15, if 3 ≤ (s.newZone inlet kpa d z v).low then 1 else 2, BitVec.ofNat 64
      (z + (s.newZone inlet kpa d z v).meas % 256 * 256 + s.pos d z * 65536)⟩ ∈
      ((s.sampleZone inlet kpa d z v).core n).pending := by
  have zoned := s.senses_zoned d z (s.newZone inlet kpa d z v)
  rw [State.sampleZone_eq]
  refine (State.senses_refreshed ..).pending ?_
  rw [State.tellDry, before, dry]
  exact State.Noticed.foldl_pending (fun _ _ => .post ..) ⟨n, zoned.residents resident, fun w _ => State.pending_post w n _⟩

end

/-! ### All sensors are sampled -/

/-- One entry of the samples. -/
def State.sampleOne (inlet : Inlet) (kpa : Nat) (s : State) (e : ZoneSample × Nat) : State :=
  s.sampleZone inlet kpa (e.2 / 16) (e.2 % 16) e.1

/-- Samples of other zones leave a zone's record and its layers' refresh rates. -/
theorem State.others_sample {inlet : Inlet} {kpa d z : Nat} {es : List (ZoneSample × Nat)} (s : State)
    (others : ∀ e ∈ es, e.2 ≠ d * 16 + z) :
    s.Senses (es.foldl (State.sampleOne inlet kpa) s)
    ∧ (es.foldl (State.sampleOne inlet kpa) s).cool.zone d z = s.cool.zone d z
    ∧ ∀ l < 8, Map.find? (es.foldl (State.sampleOne inlet kpa) s).mem.refresh ((d * 16 + z) * 8 + l) =
        Map.find? s.mem.refresh ((d * 16 + z) * 8 + l) := by
  induction es generalizing s with
  | nil => exact ⟨(State.Noticed.refl s).senses, rfl, fun _ _ => rfl⟩
  | cons e es ih =>
    obtain ⟨senses, zone, refresh⟩ := ih (s.sampleOne inlet kpa e) fun e h => others e (List.mem_cons_of_mem _ h)
    have other : e.2 ≠ d * 16 + z := others e List.mem_cons_self
    refine ⟨(s.senses_sampleZone ..).trans senses, zone.trans ?_, fun l small => (refresh l small).trans ?_⟩
    · rw [State.sampleOne, State.zone_sampleZone, if_neg (by omega)]
    · rw [State.sampleOne, State.refresh_sampleZone, if_neg (by omega)]

/-- Samples of other zones leave what a zone's next record is made of. -/
theorem State.newZone_congr {s u : State} {inlet : Inlet} {kpa d z : Nat} {v : ZoneSample} (senses : s.Senses u)
    (record : u.cool.zone d z = s.cool.zone d z) : u.newZone inlet kpa d z v = s.newZone inlet kpa d z v := by
  rw [State.newZone, State.newZone, record, senses.sum, senses.cur, senses.pos, senses.modflow, senses.time]

/-- What the sample measures of the zone. -/
def State.measured (s : State) (inlet : Inlet) (kpa d z : Nat) (v : ZoneSample) : Zone :=
  (s.cool.zone d z).measure v (inletBad inlet (s.sum s.cur)) (decide (kpa < 50)) (s.pos d z)
    (s.cool.modflow - s.sum s.cur)

theorem State.newZone_eq (s : State) (inlet : Inlet) (kpa d z : Nat) (v : ZoneSample) :
    s.newZone inlet kpa d z v = (s.measured inlet kpa d z v).settle v.tj (s.pos d z) s.time := rfl

section
variable {s : State} {inlet : Inlet} {kpa d z : Nat} {v : ZoneSample}

theorem State.newZone_measures : (s.newZone inlet kpa d z v).tj = v.tj
    ∧ (s.newZone inlet kpa d z v).td = highestLayer v ∧ (s.newZone inlet kpa d z v).meas = v.meas :=
  have ⟨tj, td, meas, _⟩ := Zone.settle_measures ..
  ⟨tj, td, meas⟩

/-- R366: when a zone is throttled, and when no longer. -/
theorem State.newZone_throttled : ((s.newZone inlet kpa d z v).throtJ = true ↔
      420 < v.tj ∨ ((s.cool.zone d z).throtJ = true ∨ (s.cool.zone d z).throtD = true) ∧ (s.cool.zone d z).throtJ = true
        ∧ ¬(v.tj ≤ 400 ∧ highestLayer v ≤ 368))
    ∧ ((s.newZone inlet kpa d z v).throtD = true ↔
      380 < highestLayer v ∨ ((s.cool.zone d z).throtJ = true ∨ (s.cool.zone d z).throtD = true)
        ∧ (s.cool.zone d z).throtD = true ∧ ¬(v.tj ≤ 400 ∧ highestLayer v ≤ 368)) := by
  obtain ⟨-, -, -, throtJ, throtD, -⟩ := Zone.settle_measures (s.measured inlet kpa d z v) v.tj (s.pos d z) s.time
  rw [State.newZone_eq, throtJ, throtD, State.measured, Zone.measure]
  simp only [Bool.or_eq_true, Bool.and_eq_true, Bool.not_eq_true', decide_eq_true_eq, decide_eq_false_iff_not, and_assoc,
    and_self]

/-- R286: a layer's refresh is doubled above 85 °C, until 82 °C. -/
theorem State.newZone_refresh {l r : Nat} (small : l < 8) (reading : v.layers[l]? = some r) :
    (s.newZone inlet kpa d z v).ref2x.getLsbD l = true ↔
      ((s.cool.zone d z).ref2x.getLsbD l = true ∨ 340 < r) ∧ 328 < r := by
  obtain ⟨-, -, -, -, -, ref2x, -⟩ := Zone.settle_measures (s.measured inlet kpa d z v) v.tj (s.pos d z) s.time
  rw [State.newZone_eq, ref2x, State.measured, Zone.measure]
  simp only [BitVec.getLsbD_and, BitVec.getLsbD_or, BitVec.getLsbD_not, getLsbD_layerBits small reading, small,
    decide_true, Bool.true_and, Bool.and_eq_true, Bool.or_eq_true, Bool.not_eq_true', decide_eq_true_eq,
    decide_eq_false_iff_not, Nat.not_le]

theorem State.newZone_plant : (s.newZone inlet kpa d z v).plant =
    if 140 < inlet.temp ∨ inlet.flow < 4 * s.sum s.cur then (s.cool.zone d z).plant + 1 else 0 := by
  obtain ⟨-, -, -, -, -, -, plant⟩ := Zone.settle_measures (s.measured inlet kpa d z v) v.tj (s.pos d z) s.time
  rw [State.newZone_eq, plant, State.measured, Zone.measure]
  exact if_congr decide_eq_true_iff rfl rfl

/-- R370, R371: the counts of a zone that was normal, and whether it is dry. -/
theorem State.newZone_normal (normal : (s.cool.zone d z).state = .normal) :
    (s.newZone inlet kpa d z v).press = (if kpa < 50 then (s.cool.zone d z).press + 1 else 0)
    ∧ (s.newZone inlet kpa d z v).low =
      (if 0 < s.pos d z ∧ v.meas < 2 * s.pos d z then (s.cool.zone d z).low + 1 else 0)
    ∧ (s.newZone inlet kpa d z v).state = if 3 ≤ (s.newZone inlet kpa d z v).low
        ∨ 3 ≤ (s.newZone inlet kpa d z v).press ∧ 0 < s.pos d z then .dry s.time else .normal := by
  obtain ⟨press, low, state⟩ := Zone.settle_normal (x := s.measured inlet kpa d z v) v.tj (s.pos d z) s.time normal
  rw [State.newZone_eq, state, press, low, State.measured, Zone.measure]
  simp only [Bool.and_eq_true, decide_eq_true_eq, and_self]

/-- R366: becoming throttled is an event of every core that asks for it. -/
theorem State.newZone_sub4 {c : Word} (asked : c.getLsbD 4 = true) (before : (s.cool.zone d z).throtJ = false)
    (now : (s.newZone inlet kpa d z v).throtJ = true) :
    4 ∈ thermalSubs (s.cool.zone d z) (s.newZone inlet kpa d z v) c := by
  simp [thermalSubs, asked, before, now]

/-- R369: so is the hundredth sample in a row with a bad inlet. -/
theorem State.newZone_sub5 {c : Word} (asked : c.getLsbD 5 = true) (now : (s.newZone inlet kpa d z v).plant = 100) :
    5 ∈ thermalSubs (s.cool.zone d z) (s.newZone inlet kpa d z v) c := by
  simp [thermalSubs, asked, now]

end

/-- The count of the samples. -/
def State.counted (s : State) (k : Nat) : State := { s with cool := { s.cool with sampled := k } }

theorem State.senses_counted (s : State) (k : Nat) : s.Senses (s.counted k) :=
  ⟨(State.Noticed.refl s).core, fun _ h => h, rfl, rfl, rfl, rfl, rfl⟩

/-- The sample of one zone among all: the samples before it and after it are of other zones. -/
theorem State.sample_split {inlet : Inlet} {kpa d z : Nat} {v : ZoneSample} {zones : List ZoneSample} {s : State}
    (due : s.cool.sampled ≤ s.time / 1000) (die : d < s.mem.shape.nd) (zone : z < 16)
    (here : zones[d * 16 + z]? = some v) :
    ∃ u t : State, s.Senses u ∧ u.cool.zone d z = s.cool.zone d z ∧ (u.sampleZone inlet kpa d z v).Senses t
      ∧ t.cool.zone d z = s.newZone inlet kpa d z v ∧ u.newZone inlet kpa d z v = s.newZone inlet kpa d z v
      ∧ (∀ l < 8, Map.find? t.mem.refresh ((d * 16 + z) * 8 + l) =
          some (0, (s.newZone inlet kpa d z v).ref2x.getLsbD l))
      ∧ t.cool.sampled = s.time / 1000 + 1 ∧ exec (.sensorSample zones inlet kpa) s = .next t := by
  obtain ⟨before, after, split, others⟩ := zipIdx_split here
  have presented : decide ((d * 16 + z) / 16 < s.mem.shape.nd) = true := decide_eq_true (by omega)
  have earlier := State.others_sample (inlet := inlet) (kpa := kpa) s
    (es := before.filter fun e => decide (e.2 / 16 < s.mem.shape.nd))
    fun e h => (others e (List.mem_append_left _ (List.mem_filter.mp h).1)).1
  have later (u : State) := State.others_sample (inlet := inlet) (kpa := kpa) u
    (es := after.filter fun e => decide (e.2 / 16 < s.mem.shape.nd))
    fun e h => (others e (List.mem_append_right _ (List.mem_filter.mp h).1)).1
  obtain ⟨senses, record, -⟩ := earlier
  have same := State.newZone_congr (inlet := inlet) (kpa := kpa) (v := v) senses record
  obtain ⟨senses', record', refresh⟩ := later (((before.filter fun e => decide (e.2 / 16 < s.mem.shape.nd)).foldl
    (State.sampleOne inlet kpa) s).sampleZone inlet kpa d z v)
  refine ⟨_, _, senses, record, senses'.trans (State.senses_counted _ (s.time / 1000 + 1)), record'.trans ?_, same,
    fun l small => (refresh l small).trans ?_, rfl, (if_neg (by omega)).trans ?_⟩
  · rw [State.zone_sampleZone, if_pos rfl, same]
  · rw [State.refresh_sampleZone, if_pos (by omega), Nat.add_sub_cancel_left, same]
  · rw [split, List.filter_append, List.filter_cons_of_pos (by exact presented), List.foldl_append, List.foldl_cons]
    rw [show (d * 16 + z) / 16 = d by omega, show (d * 16 + z) % 16 = z by omega]
    rfl

/-! ### Evacuation of a dry zone (R371) -/

/-- A lost context is stopped and reported. -/
def State.stopLost (s : State) (n : Nat) : State :=
  { s.setCore n { s.core n with run := .stopped .lost } with reports := s.reports ++ [Report.stopped n] }

theorem State.core_stopLost (s : State) (n m : Nat) :
    (s.stopLost n).core m = if m = n then { s.core m with run := .stopped .lost } else s.core m := by
  have core : (s.stopLost n).core m = (s.setCore n { s.core n with run := .stopped .lost }).core m := rfl
  rw [core]
  split
  next same => rw [same, State.core_setCore_same]
  next other => exact State.core_setCore_other _ _ other

/-- Its gang is asked to leave. -/
theorem State.noticed_lose (s : State) (n : Nat) : (s.stopLost n).Noticed (s.lose n) :=
  State.noticed_preempt (s.stopLost n) (dieOf n) (bitsAt (s.core n).regs.gang.toNat 48 16) 2 0

theorem State.core_lose (s : State) (n m : Nat) : ((s.lose n).core m).ctx = (s.core m).ctx
    ∧ ((s.lose n).core m).run = if m = n then .stopped .lost else (s.core m).run := by
  rw [(s.noticed_lose n).ctx, (s.noticed_lose n).run, State.core_stopLost]
  exact ⟨(apply_ite Core.ctx ..).trans (ite_self _), apply_ite Core.run ..⟩

theorem State.lose_leaves (s : State) (n : Nat) : (s.lose n).mem = s.mem ∧ (s.lose n).cool = s.cool
    ∧ (s.lose n).reports = s.reports ++ [Report.stopped n] :=
  ⟨(s.noticed_lose n).mem, (s.noticed_lose n).cool, (s.noticed_lose n).reports⟩

theorem State.foldl_lose (ns : List Nat) (s : State) (m : Nat) :
    (ns.foldl State.lose s).mem = s.mem ∧ (ns.foldl State.lose s).cool = s.cool
    ∧ ((ns.foldl State.lose s).core m).ctx = (s.core m).ctx
    ∧ (m ∈ ns ∨ (s.core m).run = .stopped .lost → ((ns.foldl State.lose s).core m).run = .stopped .lost)
    ∧ (m ∈ ns ∨ Report.stopped m ∈ s.reports → Report.stopped m ∈ (ns.foldl State.lose s).reports) := by
  induction ns generalizing s with
  | nil => exact ⟨rfl, rfl, rfl, fun h => h.resolve_left (List.not_mem_nil), fun h => h.resolve_left (List.not_mem_nil)⟩
  | cons n ns ih =>
    obtain ⟨mem, cool, ctx, run, report⟩ := ih (s.lose n)
    obtain ⟨ctx', run'⟩ := s.core_lose n m
    obtain ⟨mem', cool', report'⟩ := s.lose_leaves n
    refine ⟨mem.trans mem', cool.trans cool', ctx.trans ctx', fun h => run ?_, fun h => report ?_⟩
    · rw [run', List.mem_cons] at *
      by_cases here : m = n
      · exact Or.inr (if_pos here)
      · rw [if_neg here]
        exact h.imp_left (·.resolve_left here)
    · rw [report', List.mem_append, List.mem_singleton, Report.stopped.injEq]
      rw [List.mem_cons] at h
      tauto

/-- The zone's next state of Table CLT-9. -/
def State.stepZone (s : State) (d z : Nat) (y : ZoneState) : State :=
  s.zoned d z { s.cool.zone d z with state := y, good := 0 }

section
variable {s : State} {d z t0 : Nat}

theorem State.evacuates (dry : (s.cool.zone d z).state = .dry t0) (late : t0 + 50500 ≤ s.time) :
    exec (.dryChannelEvacuation d z) s = .next (((s.residents d z).foldl State.lose s).zoned d z
      { s.cool.zone d z with state := .gatedDry t0, good := 0 }) := by
  simp only [exec, execDryChannelEvacuation, dry, late, if_true]; rfl

theorem State.primes (gated : (s.cool.zone d z).state = .gatedDry t0) (good : 100 ≤ (s.cool.zone d z).good) :
    exec (.dryChannelEvacuation d z) s = .next (s.stepZone d z .primed) := by
  simp only [exec, execDryChannelEvacuation, gated, good, if_true]; rfl

theorem State.fails (gated : (s.cool.zone d z).state = .gatedDry t0) (few : (s.cool.zone d z).good < 100)
    (late : t0 + 651000 ≤ s.time) : exec (.dryChannelEvacuation d z) s = .next (s.stepZone d z .failed) := by
  simp only [exec, execDryChannelEvacuation, gated, Nat.not_le.mpr few, late, if_false, if_true]; rfl

end

theorem State.zone_stepZone (s : State) (d z : Nat) (y : ZoneState) :
    (s.stepZone d z y).cool.zone d z = { s.cool.zone d z with state := y, good := 0 } := Map.getD_put_same ..

end Sys2Proof.Machine
end

section
open Sys2Proof Sys2Proof.Machine

/-- Settles O46: a commit merges word by word, a sample of all sensors is one of this zone between those of others, and the
contexts of a dry zone are lost one by one. -/
theorem coolantSteps : Obligations.coolant_steps := by
  intro n k d z w addr g rest c zones inlet kpa v t0 s y o pos stay calm stands
  refine ⟨fun first free unread => ?unread, fun first free read => ?commit, fun first => ?flow, ?modflow, ?slot,
    fun early => ?early, fun due die zone here => ?sample, fun dry late => ?evacuate, fun gated good => ?primed,
    fun gated few late => ?failed⟩
  case unread =>
    refine ⟨_, rfl, ?_⟩
    rw [if_pos rfl, State.arbitrates_commit first free, Option.getD_some,
      State.serveCommit_unread (s := s.withReqs rest) unread]
    exact ⟨State.ephstat_setEphstat .., rfl⟩
  case commit =>
    refine ⟨_, rfl, ?_⟩
    rw [if_pos rfl, State.arbitrates_commit first free, Option.getD_some]
    have read' : (s.withReqs rest).readCommit n addr = some c := read
    have check := s.checkCommit_withReqs rest c
    by_cases taken : (s.checkCommit c).1 = 0
    · rw [State.serveCommit_taken read' (by rw [check]; exact taken)]
      exact State.commit_taken taken _ rfl
    · rw [State.serveCommit_refused read' (by rw [check]; exact taken), check]
      exact ⟨(State.ephstat_setEphstat ..).trans (congrArg (BitVec.ofNat 64) (if_neg taken).symm), rfl, rfl,
        fun _ => rfl, fun h => absurd h taken, fun h => absurd h taken⟩
  case flow =>
    refine ⟨_, rfl, ?_⟩
    rw [if_pos rfl, State.arbitrates_flow first, Option.getD_some]
    exact ⟨State.mem_serveFlow .., fun taken => State.serveFlow_taken taken, fun ignored => State.serveFlow_ignored ignored⟩
  case modflow => exact ⟨_, rfl, s.writeModflow_eq w⟩
  case slot =>
    refine ⟨_, rfl, rfl, ?_, fun gated => ⟨fun f run => ?_, fun run => ?_⟩, fun open_ => ⟨fun f run => ?_, fun run => ?_⟩⟩
    · rw [State.core_gateAll, Core.ctx_gate]
    · rw [State.core_gateAll, State.gatedCore, gated]; exact Core.gate_frozen run
    · rw [State.core_gateAll, State.gatedCore, gated]; exact Core.gate_run run
    · rw [State.core_gateAll, State.gatedCore, open_]; exact Core.open_gated run
    · rw [State.core_gateAll, State.gatedCore, open_]; exact Core.open_gated run
  case early => exact ⟨s, by simp only [exec, execSensorSample, early, if_true], rfl⟩
  case sample =>
    obtain ⟨u, t, before, record, after, new, same, refresh, sampled, ends⟩ :=
      State.sample_split (inlet := inlet) (kpa := kpa) due die zone here
    have whole : s.Senses t := before.trans ((u.senses_sampleZone ..).trans after)
    have word : t.talwWord d z = (u.zoned d z (u.newZone inlet kpa d z v)).talwWord d z :=
      ((u.zoned_senses ..).trans after).talwWord (new.trans (same.symm.trans (Map.getD_put_same ..).symm))
    obtain ⟨tj, td, meas⟩ := State.newZone_measures (s := s) (inlet := inlet) (kpa := kpa) (d := d) (z := z) (v := v)
    obtain ⟨throtJ, throtD⟩ := State.newZone_throttled (s := s) (inlet := inlet) (kpa := kpa) (d := d) (z := z) (v := v)
    have normal := State.newZone_normal (s := s) (inlet := inlet) (kpa := kpa) (d := d) (z := z) (v := v)
    have posts {sub : Nat} (resident : n ∈ s.residents d z)
        (now : sub ∈ thermalSubs (s.cool.zone d z) (s.newZone inlet kpa d z v) (s.core n).regs.thctl) :
        ⟨14, sub, t.talwWord d z⟩ ∈ (t.core n).pending := by
      rw [← record, ← same, ← before.regs] at now
      rw [word]
      exact after.pending (State.posts_thermal inlet kpa d z v (before.residents resident) now)
    refine ⟨t, ends, ?_⟩
    beta_reduce
    rw [new]
    refine ⟨tj, td, meas, throtJ, throtD, fun l r small reading => ⟨State.newZone_refresh small reading, refresh l small⟩,
      State.newZone_plant, fun h => (normal h).1, fun h => (normal h).2.1, fun h => ?dry, sampled, whole.bytes, whole.ctx n,
      whole.run n, fun resident => ⟨fun h low => ?low,
      fun asked calm hot => posts resident (State.newZone_sub4 asked calm hot),
      fun asked bad => posts resident (State.newZone_sub5 asked bad)⟩⟩
    case dry =>
      rw [(normal h).2.2]
      exact Ne.ite_eq_left_iff nofun
    case low =>
      have dry : (s.newZone inlet kpa d z v).dry = true := by
        rw [Zone.dry, (normal h).2.2, if_pos (Or.inl low)]
      have told := State.posts_dry inlet kpa d z v (before.residents resident) (by rw [record, Zone.dry, h])
        (by rw [same, dry])
      rw [same, if_pos low, meas, before.pos] at told
      exact after.pending told
  case evacuate =>
    obtain ⟨mem, cool, ctx, run, report⟩ := State.foldl_lose (s.residents d z) s n
    refine ⟨((s.residents d z).foldl State.lose s).zoned d z _, State.evacuates dry late, ⟨Map.getD_put_same .., mem⟩, ctx,
      fun resident => ⟨run (Or.inl resident), report (Or.inl resident)⟩⟩
  case primed => exact ⟨_, State.primes gated good, s.zone_stepZone .., rfl⟩
  case failed => exact ⟨_, State.fails gated few late, s.zone_stepZone .., rfl⟩

end

section
/-! Control of slices, address spaces, code generations, the release ring and staging (R279 to R298). -/

namespace Sys2Proof

/-- Keys that a filter keeps read as before, the others as unlisted. -/
theorem Map.find_filter {α : Type} (m : Map α) (p : Nat → Bool) (k : Nat) :
    Map.find? (List.filter (fun e : Nat × α => p e.1) m) k = if p k then Map.find? m k else none := by
  induction m with
  | nil => exact (ite_self _).symm
  | cons e m ih =>
    obtain ⟨j, w⟩ := e
    by_cases here : j = k
    · subst here
      cases keep : p j with
      | true => simp [Map.find?, keep]
      | false => simpa [keep] using ih
    · cases keep : p j with
      | true => simpa [Map.find?, keep, here] using ih
      | false => simpa [Map.find?, keep, here] using ih

end Sys2Proof

namespace Sys2Proof.Machine

/-! ### Slices and address spaces (R279, R287, R298) -/

theorem State.slice_setSlice_other (s : State) {k l : Nat} (x : Slice) (h : l ≠ k) : (s.setSlice k x).slice l = s.slice l :=
  Map.getD_put_other _ _ _ h

/-- R279: a write of SLCFG within its limits, to a slice without overflow entries that no STG uses. -/
theorem slcfgWrite_next {sl : Nat} {x : Word} {s : State}
    (room : x.toNat / 2 ^ 0 % 2 ^ 5 + x.toNat / 2 ^ 8 % 2 ^ 4 ≤ 16) (few : x.toNat / 2 ^ 8 % 2 ^ 4 ≤ 8)
    (empty : s.entries sl true = 0) (still : s.stgFlies sl = false) :
    exec (.slcfgWrite sl x) s = .next (s.setSlice sl { s.slice sl with
      slcfg := x &&& 0xF1F
      present := (s.slice sl).present.filter fun e =>
        decide (x.toNat / 2 ^ 0 % 2 ^ 5 ≤ e.2 ∧ e.2 + x.toNat / 2 ^ 8 % 2 ^ 4 < 16)
      window := (s.slice sl).window.filter fun c => decide (c.1 < x.toNat / 2 ^ 0 % 2 ^ 5 * 2 ^ 18) }) := by
  have allowed : ¬((decide (16 < bitsAt x.toNat 0 5 + bitsAt x.toNat 8 4) || decide (8 < bitsAt x.toNat 8 4)
      || s.entries sl true != 0 || s.stgFlies sl) = true) := by
    rw [bitsAt_eq, bitsAt_eq, empty, still]
    simp only [Bool.or_eq_true, decide_eq_true_eq, Bool.or_false, bne_self_eq_false]
    omega
  refine (if_neg allowed).trans ?_
  rw [bitsAt_eq, bitsAt_eq]
  rfl

/-- The state with another entry of the address-space table. -/
def State.setAste (s : State) (asid : BitVec 12) (e : Aste) : State :=
  { s with mem := { s.mem with astes := Map.put s.mem.astes asid.toNat e } }

/-- One entry is written, and nothing else changes. -/
theorem State.setAste_writes (s : State) (asid : BitVec 12) (e : Aste) :
    (s.setAste asid e).mem.aste asid = e ∧ (∀ b, b ≠ asid → (s.setAste asid e).mem.aste b = s.mem.aste b)
    ∧ (s.setAste asid e).cores = s.cores ∧ (s.setAste asid e).dies = s.dies
    ∧ (s.setAste asid e).mem.bytes = s.mem.bytes :=
  ⟨Map.getD_put_same .., fun _ other => Map.getD_put_other _ _ _ fun same => other (BitVec.eq_of_toNat_eq same),
    rfl, rfl, rfl⟩

section
variable {asid : BitVec 12} {x : Word} {s : State}

/-- R287: doubleword 0 within its limits. -/
theorem asteWrite_dw0 (clean : x.toNat / 2 ^ 52 % 2 ^ 6 = 0) (few : x.toNat / 2 ^ 58 % 2 ^ 5 ≤ 17)
    (aligned : x.toNat / 2 ^ 0 % 2 ^ 52 % (16 * 2 ^ (x.toNat / 2 ^ 58 % 2 ^ 5)) = 0) :
    exec (.asteWrite asid false x) s = .next (s.setAste asid { s.mem.aste asid with dw0 := x }) := by
  have ok : (bitsAt x.toNat 52 6 == 0
      && decide (bitsAt x.toNat 58 5 ≤ 17 ∧ bitsAt x.toNat 0 52 % (16 * 2 ^ bitsAt x.toNat 58 5) = 0)) = true := by
    simp only [bitsAt_eq, clean, few, aligned, beq_self_eq_true, and_self, decide_true, Bool.and_true]
  simp only [exec, execAsteWrite, ok, if_true]
  rfl

/-- Doubleword 1 within its limits. -/
theorem asteWrite_dw1 (clean : x.toNat / 2 ^ 17 % 2 ^ 46 = 0)
    (inside : x.getLsbD 63 = true → x.toNat / 2 ^ 0 % 2 ^ 17 < 2 ^ ((s.mem.aste asid).dw0.toNat / 2 ^ 58 % 32)) :
    exec (.asteWrite asid true x) s = .next (s.setAste asid { s.mem.aste asid with dw1 := x }) := by
  have ok : (bitsAt x.toNat 17 46 == 0
      && (!x.getLsbD 63 || decide (bitsAt x.toNat 0 17 < 2 ^ bitsAt (s.mem.aste asid).dw0.toNat 58 5))) = true := by
    rw [Bool.and_eq_true, beq_iff_eq, Bool.or_eq_true, Bool.not_eq_true', decide_eq_true_eq, bitsAt_eq, bitsAt_eq,
      bitsAt_eq]
    exact ⟨clean, (Bool.eq_false_or_eq_true (x.getLsbD 63)).symm.imp_right inside⟩
  simp only [exec, execAsteWrite, ok, if_true]
  rfl

end

/-! ### The release of a generation (R98, R191) -/

theorem inPages_of_page {p : Nat} {ps : List Nat} {a : Nat} (h : p ∈ ps) (inside : a / 65536 = p) :
    inPages (ps.map fun p => (p * 65536, 65536)) a = true :=
  List.any_eq_true.mpr ⟨_, List.mem_map_of_mem h, decide_eq_true (by dsimp only; omega)⟩

theorem State.core_releasePages (s : State) (ps : List Nat) (n : Nat) : (s.releasePages ps).core n =
    { s.core n with fetch := (s.core n).fetch.dropPages (ps.map fun p => (p * 65536, 65536)) } := by
  rw [State.core, State.releasePages, Map.getD, Map.find_map s.cores fun c =>
    { c with fetch := c.fetch.dropPages (ps.map fun p => (p * 65536, 65536)) }, State.core, Map.getD]
  cases Map.find? s.cores n with
  | none => rfl
  | some c => rfl

theorem Pkg.mem_lastPages {k : Pkg} {g p : Nat} :
    p ∈ k.lastPages g ↔ p ∈ Map.getD k.gens g [] ∧ ∀ e ∈ k.gens, e.1 ≠ g → p ∉ e.2 := by
  simp [Pkg.lastPages]

/-- A generation that leaves. -/
def State.releaseGen (s : State) (asid gen : BitVec 12) : State :=
  let t := s.releasePages (s.pkg.lastPages (asid.toNat * 4096 + gen.toNat))
  { t with pkg := { t.pkg with
      gens := Map.del t.pkg.gens (asid.toNat * 4096 + gen.toNat)
      released := t.pkg.released ++ [(asid.toNat, gen.toNat)] } }

theorem State.generationLeaves_free {s : State} {asid gen : BitVec 12}
    (unbound : ∀ e ∈ s.dies, Map.getD e.2.tasks (asid.toNat * 4096 + gen.toNat) 0 = 0)
    (old : (s.mem.aste asid).dw2.toNat / 2 ^ 52 ≠ gen.toNat) (held : (asid.toNat, gen.toNat) ∉ s.pkg.released) :
    s.generationLeaves asid gen = some (s.releaseGen asid gen) := by
  have top : (s.mem.aste asid).dw2.toNat < 2 ^ 64 := (s.mem.aste asid).dw2.isLt
  have current : bitsAt (s.mem.aste asid).dw2.toNat 52 12 = (s.mem.aste asid).dw2.toNat / 2 ^ 52 := by
    rw [bitsAt_eq]; exact Nat.mod_eq_of_lt (by omega)
  refine if_neg ?_
  simp only [Bool.or_eq_true, List.any_eq_true, bne_iff_ne, beq_iff_eq, List.contains_iff_mem, current]
  rintro ((⟨e, there, bound⟩ | same) | gone)
  · exact bound (unbound e there)
  · exact old same
  · exact held gone

section
variable {s : State} {asid gen : BitVec 12} {p : Nat}

/-- The pages that no other generation has leave memory, the staging areas and the cores. -/
theorem State.releaseGen_last (last : p ∈ s.pkg.lastPages (asid.toNat * 4096 + gen.toNat)) :
    Map.find? (s.releaseGen asid gen).mem.images p = none ∧ (∀ y ∈ (s.releaseGen asid gen).mem.staged, y.page ≠ p)
    ∧ ∀ n, ∀ l ∈ ((s.releaseGen asid gen).core n).fetch.lines, l.pa / 65536 ≠ p := by
  refine ⟨?images, fun y there same => ?staged, fun n l there same => ?lines⟩
  case images =>
    exact (Map.find_filter s.mem.images (fun k => !(s.pkg.lastPages _).contains k) p).trans
      (if_neg (by simpa using last))
  case staged =>
    have kept := (List.mem_filter.mp there).2
    subst same
    simp [last] at kept
  case lines =>
    have core : (s.releaseGen asid gen).core n = (s.releasePages (s.pkg.lastPages _)).core n := rfl
    rw [core, State.core_releasePages] at there
    have kept := (List.mem_filter.mp there).2
    rw [inPages_of_page last same] at kept
    exact absurd kept (by decide)

theorem State.images_releaseGen_other (other : p ∉ s.pkg.lastPages (asid.toNat * 4096 + gen.toNat)) :
    Map.find? (s.releaseGen asid gen).mem.images p = Map.find? s.mem.images p :=
  (Map.find_filter s.mem.images (fun k => !(s.pkg.lastPages _).contains k) p).trans (if_pos (by simpa using other))

end

/-! ### The release ring (R298) -/

/-- Records of the ring wait to be taken. -/
def Mem.ringBusy (m : Mem) : Bool := m.ring0.getLsbD 63 && m.tail != m.head

theorem Mem.ringBusy_iff (m : Mem) : m.ringBusy = true ↔ m.ring0.getLsbD 63 = true ∧ m.tail ≠ m.head := by
  simp [Mem.ringBusy]

section
variable {x : Word} {s : State}

theorem ringWrite_free (free : s.mem.ringBusy = false) (few : 4 ≤ x.toNat / 2 ^ 58 % 2 ^ 5)
    (many : x.toNat / 2 ^ 58 % 2 ^ 5 ≤ 20)
    (aligned : x.toNat / 2 ^ 4 % 2 ^ 52 * 16 % (16 * 2 ^ (x.toNat / 2 ^ 58 % 2 ^ 5)) = 0) :
    exec (.releaseRingWrite 0 x) s = .next { s with mem := { s.mem with ring0 := x &&& 0xFCFFFFFFFFFFFFF0 } } := by
  have bad : ¬(bitsAt x.toNat 58 5 < 4 ∨ 20 < bitsAt x.toNat 58 5
      ∨ bitsAt x.toNat 4 52 * 16 % (16 * 2 ^ bitsAt x.toNat 58 5) ≠ 0) := by
    rw [bitsAt_eq, bitsAt_eq]
    omega
  have busy : ¬((s.mem.ring0.getLsbD 63 && s.mem.tail != s.mem.head) = true) := Bool.eq_false_iff.mp free
  exact (if_neg busy).trans (if_neg (by simpa [and_assoc] using bad))

theorem ringWrite_busy (busy : s.mem.ringBusy = true)
    (fixed : x &&& 0x7CFFFFFFFFFFFFF0 = s.mem.ring0 &&& 0x7CFFFFFFFFFFFFF0) :
    exec (.releaseRingWrite 0 x) s = .next { s with mem := { s.mem with
      ring0 := (s.mem.ring0 &&& 0x7CFFFFFFFFFFFFF0) ||| (x &&& 0x8000000000000000) } } :=
  (if_pos (show (s.mem.ring0.getLsbD 63 && s.mem.tail != s.mem.head) = true from busy)).trans (if_pos fixed)

theorem ringWrite_space (kept : s.mem.ringBusy = true → x.extractLsb' 52 12 = s.mem.ring1.extractLsb' 52 12) :
    exec (.releaseRingWrite 1 x) s = .next { s with mem := { s.mem with ring1 := x &&& 0xFFF0000000000000 } } := by
  refine if_neg ?_
  rw [Bool.and_eq_true, bne_iff_ne]
  exact fun ⟨busy, changed⟩ => changed (kept busy)

theorem ringWrite_head (taken : (x.setWidth 32 - s.mem.head).toNat ≤ (s.mem.tail - s.mem.head).toNat) :
    exec (.releaseRingWrite 2 x) s = .next { s with mem := { s.mem with head := x.setWidth 32 } } := by
  have low : x.extractLsb' 0 32 = x.setWidth 32 := by
    simp [BitVec.extractLsb', BitVec.ofNat_toNat]
  exact (if_neg (by rw [low]; omega)).trans (by rw [low])

end

/-! ### Staging (R294, R295) -/

/-- A copy that stays longer than one staged after it. -/
def Staged.before (x y : Staged) : Bool :=
  decide (evictRank x.cls < evictRank y.cls) || (evictRank y.cls == evictRank x.cls && decide (x.used ≤ y.used))

/-- Copies of one die in the order in which they stay. -/
def stayOrder (xs : List Staged) (x : Staged) : List Staged := xs.takeWhile x.before ++ x :: xs.dropWhile x.before

theorem stayOrder_nil (x : Staged) : stayOrder [] x = [x] := rfl

theorem stayOrder_cons (y : Staged) (ys : List Staged) (x : Staged) :
    stayOrder (y :: ys) x = if x.before y then y :: stayOrder ys x else x :: y :: ys := by
  cases here : x.before y <;> simp [stayOrder, here]

theorem mem_stayOrder {xs : List Staged} {x y : Staged} : y ∈ stayOrder xs x ↔ y = x ∨ y ∈ xs := by
  rw [stayOrder, List.mem_append, List.mem_cons, or_left_comm, ← List.mem_append, List.takeWhile_append_dropWhile]

theorem length_stayOrder (xs : List Staged) (x : Staged) : (stayOrder xs x).length = xs.length + 1 := by
  rw [stayOrder, List.length_append, List.length_cons, ← Nat.add_assoc, ← List.length_append,
    List.takeWhile_append_dropWhile]

def Staged.isPinned (x : Staged) : Bool := x.cls == .pinned

theorem Staged.isPinned_iff {x : Staged} : x.isPinned = true ↔ evictRank x.cls = 3 := by
  rw [Staged.isPinned]; cases x.cls <;> decide

theorem evictRank_le (r : Residency) : evictRank r ≤ 3 := by cases r <;> decide

/-- A pinned copy stays longer than every other. -/
theorem Staged.before_pinned {x y : Staged} (pinned : y.isPinned = true) (other : x.isPinned = false) :
    x.before y = true ∧ y.before x = false := by
  have top := Staged.isPinned_iff.mp pinned
  have below : evictRank x.cls < 3 :=
    lt_of_le_of_ne (evictRank_le x.cls) fun same => by rw [Staged.isPinned_iff.mpr same] at other; cases other
  simp only [Staged.before, top]
  constructor
  · simp [below]
  · simp; omega

/-- A pinned copy goes among the pinned ones, which stand first. -/
theorem stayOrder_pinned {qs : List Staged} {x : Staged} (pinned : x.isPinned = true)
    (others : ∀ y ∈ qs, y.isPinned = false) (ps : List Staged) : stayOrder (ps ++ qs) x = stayOrder ps x ++ qs := by
  induction ps with
  | nil =>
    cases qs with
    | nil => rfl
    | cons q qs =>
      rw [List.nil_append, stayOrder_cons, (Staged.before_pinned pinned (others q List.mem_cons_self)).2]
      rfl
  | cons p ps ih =>
    rw [List.cons_append, stayOrder_cons, stayOrder_cons, ih]
    split <;> rfl

/-- Another copy goes behind them. -/
theorem stayOrder_other {ps : List Staged} {x : Staged} (other : x.isPinned = false)
    (pinned : ∀ y ∈ ps, y.isPinned = true) (qs : List Staged) : stayOrder (ps ++ qs) x = ps ++ stayOrder qs x := by
  induction ps with
  | nil => rfl
  | cons p ps ih =>
    rw [List.cons_append, stayOrder_cons, (Staged.before_pinned (pinned p List.mem_cons_self) other).1, if_pos rfl,
      ih fun y h => pinned y (List.mem_cons_of_mem _ h)]
    rfl

/-- R295: the copies that stay longest begin with all that are pinned. -/
theorem foldl_stayOrder {ps qs : List Staged} (pinned : ∀ y ∈ ps, y.isPinned = true)
    (others : ∀ y ∈ qs, y.isPinned = false) (xs : List Staged) :
    ∃ ps' qs', xs.foldl stayOrder (ps ++ qs) = ps' ++ qs'
      ∧ ps'.length = ps.length + (xs.filter Staged.isPinned).length
      ∧ ∀ y, y.isPinned = true → y ∈ ps ∨ y ∈ xs → y ∈ ps' := by
  induction xs generalizing ps qs with
  | nil => exact ⟨ps, qs, rfl, rfl, fun y _ h => h.resolve_right List.not_mem_nil⟩
  | cons x xs ih =>
    cases kind : x.isPinned with
    | true =>
      obtain ⟨ps', qs', order, count, all⟩ := ih (ps := stayOrder ps x) (qs := qs)
        (fun y h => (mem_stayOrder.mp h).elim (· ▸ kind) (pinned y)) others
      refine ⟨ps', qs', by rw [List.foldl_cons, stayOrder_pinned kind others, order], ?_, fun y pin h => all y pin ?_⟩
      · rw [count, length_stayOrder, List.filter_cons_of_pos kind, List.length_cons]; omega
      · rw [mem_stayOrder]; rw [List.mem_cons] at h; tauto
    | false =>
      obtain ⟨ps', qs', order, count, all⟩ := ih (ps := ps) (qs := stayOrder qs x) pinned
        fun y h => (mem_stayOrder.mp h).elim (· ▸ kind) (others y)
      refine ⟨ps', qs', by rw [List.foldl_cons, stayOrder_other kind pinned, order], ?_, fun y pin h => all y pin ?_⟩
      · rw [count, List.filter_cons_of_neg (by simp [kind])]
      · refine h.imp_right fun there => (List.mem_cons.mp there).resolve_left fun same => ?_
        rw [same, kind] at pin; cases pin

/-- The copies of a die. -/
def Mem.stagedOf (m : Mem) (d : Nat) : List Staged := m.staged.filter fun x => x.die == d

/-- The staging area of a die with room for `pages` copies. -/
def State.sized (s : State) (d pages : Nat) : State :=
  { s with mem := { s.mem with
      areas := Map.put s.mem.areas d pages
      staged := s.mem.staged.filter fun x =>
        x.die != d || (((s.mem.stagedOf d).foldl stayOrder []).take pages).contains x } }

theorem stagingAreaSizing_next {s : State} {d pages : Nat}
    (fit : ((s.mem.stagedOf d).filter Staged.isPinned).length ≤ pages) :
    exec (.stagingAreaSizing d pages) s = .next (s.sized d pages) := if_neg (Nat.not_lt.mpr fit)

/-- R295: the copies that are pinned stay, and those of other dies. -/
theorem State.staged_sized {s : State} {d pages : Nat} {y : Staged} (there : y ∈ s.mem.staged)
    (fit : ((s.mem.stagedOf d).filter Staged.isPinned).length ≤ pages) (stays : y.die ≠ d ∨ y.cls = .pinned) :
    y ∈ (s.sized d pages).mem.staged := by
  refine List.mem_filter.mpr ⟨there, ?_⟩
  rw [Bool.or_eq_true, bne_iff_ne, List.contains_iff_mem]
  by_cases own : y.die = d
  · have pinned : y.isPinned = true := beq_iff_eq.mpr (stays.resolve_left (not_not_intro own))
    obtain ⟨ps, qs, order, count, all⟩ := foldl_stayOrder (ps := []) (qs := []) nofun nofun (s.mem.stagedOf d)
    have first : y ∈ ps := all y pinned (Or.inr (List.mem_filter.mpr ⟨there, beq_iff_eq.mpr own⟩))
    rw [List.nil_append] at order
    rw [order, List.take_append, List.take_of_length_le (by rw [count, List.length_nil]; omega)]
    exact Or.inr (List.mem_append_left _ first)
  · exact Or.inl own

/-! ### A code page is staged anew (R294) -/

/-- The state without a die's copy of a page. -/
def State.unstaged (s : State) (d page : Nat) : State :=
  { s with mem := { s.mem with staged := s.mem.staged.filter fun x => !(x.die == d && x.page == page) } }

/-- R294: a page that is not staged is staged behind the others where there is room. -/
theorem State.stagePage_room {s : State} {d page : Nat} (cls : Residency) (give : Bool)
    (absent : s.stagedPage d page = none) (room : (s.mem.stagedOf d).length < Map.getD s.mem.areas d 1024) :
    s.stagePage d page cls give =
      { s with mem := { s.mem with staged := s.mem.staged ++ [s.stagedCopy d page cls] } } := by
  have none : (s.mem.staged.find? fun x => x.die == d && x.page == page) = none := absent
  have room' : (s.mem.staged.filter fun x => x.die == d).length < Map.getD s.mem.areas d 1024 := room
  unfold State.stagePage
  simp only [none, room', if_true]

theorem State.stagedPage_unstaged (s : State) (d page : Nat) : (s.unstaged d page).stagedPage d page = none := by
  refine List.find?_eq_none.mpr fun y there hit => ?_
  have kept := (List.mem_filter.mp there).2
  rw [hit] at kept
  cases kept

/-- What counts against the room is what the die holds of other pages. -/
theorem State.stagedOf_unstaged (s : State) (d page : Nat) : (s.unstaged d page).mem.stagedOf d =
    (s.mem.stagedOf d).filter fun y => y.page != page := by
  refine (List.filter_filter ..).trans (Eq.trans ?_ (List.filter_filter ..).symm)
  refine List.filter_congr fun y _ => ?_
  cases y.die == d <;> simp [bne]

/-- The class in which a page is staged anew. -/
def State.classFor (s : State) (d page : Nat) : Residency :=
  match s.stagedPage d page with
  | some x => x.cls
  | none => ((s.listed.filter fun n => dieOf n == d).findSome? fun n =>
      (s.wantedPage n).bind fun w => if w.1 = page then some w.2 else none).getD .cold

theorem codePageStaging_next (s : State) (d page : Nat) : exec (.codePageStaging d page) s =
    .next ((s.unstaged d page).stagePage d page (s.classFor d page) false) := rfl

theorem State.classFor_staged {s : State} {d page : Nat} {y : Staged} (staged : s.stagedPage d page = some y) :
    s.classFor d page = y.cls := by rw [State.classFor, staged]

/-- R294: when a page of this module's memory is GOOD. -/
theorem State.pageGood_iff {s : State} {page : Nat} (here : page < 2 ^ 36) : s.pageGood page = true ↔
    (∀ u ∈ s.mem.ecc, u / 2048 ≠ page) ∧ ((Map.find? s.mem.images page).isSome = true
      ∨ digest (Memory.readBytes s.mem.bytes (page * 65536) 65536) = Config.pageDigest page) := by
  simp only [State.pageGood, here, if_true, Bool.and_eq_true, Bool.not_eq_true', Bool.or_eq_true, beq_iff_eq,
    List.any_eq_false, Memory.readBytes, ne_eq]

end Sys2Proof.Machine
end

section
open Sys2Proof Sys2Proof.Machine

/-- Settles O35: each write within its limits is the one change; pages that are pinned are first to stay. -/
theorem memoryControl : Obligations.memory_control := by
  intro sl d ch layer pages page asid gen x s m f others busy held
  have busyIff : m.ringBusy = true ↔ busy := m.ringBusy_iff
  refine ⟨fun room few empty still => ?slcfg, fun clean few aligned => ?dw0, fun clean inside => ?dw1, ?swap,
    fun unbound old gone => ?release, fun free few many aligned => ?ring, fun b fixed => ?ringBusy, fun kept => ?space,
    fun taken => ?head, fun due => ?refresh, fun fit => ?sizing, fun here room => ?staging⟩
  case slcfg => exact ⟨_, slcfgWrite_next room few empty still, State.slice_setSlice .., fun k other =>
      State.slice_setSlice_other s _ other, rfl, rfl, rfl⟩
  case dw0 =>
    obtain ⟨own, other, rest⟩ := s.setAste_writes asid { m.aste asid with dw0 := x }
    exact ⟨_, asteWrite_dw0 clean few aligned, own, other, rest⟩
  case dw1 =>
    obtain ⟨own, other, rest⟩ := s.setAste_writes asid { m.aste asid with dw1 := x }
    exact ⟨_, asteWrite_dw1 clean inside, own, other, rest⟩
  case swap =>
    obtain ⟨own, other, rest⟩ := s.setAste_writes asid { m.aste asid with dw2 := x &&& ~~~0x1FFF }
    exact ⟨_, rfl, own, other, rest⟩
  case release =>
    refine ⟨s.releaseGen asid gen, ?_, rfl, rfl, rfl, fun n => ?ctx,
      fun p last => State.releaseGen_last (Pkg.mem_lastPages.mpr last),
      fun p other => State.images_releaseGen_other (mt Pkg.mem_lastPages.mp other)⟩
    case ctx =>
      have core : (s.releaseGen asid gen).core n = (s.releasePages (s.pkg.lastPages _)).core n := rfl
      rw [core, State.core_releasePages]
    · exact congrArg (fun t => Host.Outcome.next (Option.getD t s)) (State.generationLeaves_free unbound old gone)
  case ring => exact ⟨_, ringWrite_free (Bool.eq_false_iff.mpr (mt busyIff.mp free)) few many aligned, rfl⟩
  case ringBusy => exact ⟨_, ringWrite_busy (busyIff.mpr b) fixed, rfl⟩
  case space => exact ⟨_, ringWrite_space fun b => kept (busyIff.mp b), rfl⟩
  case head => exact ⟨_, ringWrite_head taken, rfl⟩
  case refresh => exact ⟨_, if_pos (by simpa using due), rfl, rfl⟩
  case sizing =>
    exact ⟨_, stagingAreaSizing_next fit, Map.getD_put_same .., fun y there => (List.mem_filter.mp there).1,
      fun y there stays => State.staged_sized there fit stays, rfl, rfl, rfl⟩
  case staging =>
    have fits : ((s.unstaged d page).mem.stagedOf d).length < Map.getD m.areas d 1024 := by
      rw [State.stagedOf_unstaged]; exact room
    refine ⟨_, codePageStaging_next s d page, s.classFor d page, s.pageGood page, ?_, State.pageGood_iff here,
      fun y staged => State.classFor_staged staged, fun y there other => ?_, ?_⟩
    all_goals rw [State.stagePage_room _ _ (s.stagedPage_unstaged d page) fits]
    · have absent : (s.unstaged d page).mem.staged.find? (fun y => y.die == d && y.page == page) = none :=
        s.stagedPage_unstaged d page
      have itself : ([(s.unstaged d page).stagedCopy d page (s.classFor d page)].find?
          fun y => y.die == d && y.page == page) = some ((s.unstaged d page).stagedCopy d page (s.classFor d page)) :=
        List.find?_cons_of_pos (by simp [State.stagedCopy])
      rw [State.stagedPage, List.find?_append, absent, itself]
      rfl
    · exact List.mem_append_left _ (List.mem_filter.mpr ⟨there, by simpa [not_and_or] using other⟩)
    · exact ⟨rfl, rfl, rfl⟩

end

section
/-! Dies (R319 to R331): what a change to a die's queues, grids, gangs or tasks leaves of the rest, records that join a
queue, and grids that are released. -/

namespace Sys2Proof

theorem Map.find_del_same {α : Type} (m : Map α) (k : Nat) : Map.find? (Map.del m k) k = none := by
  rw [Map.del, Map.find_filter m (· != k), if_neg (by simp)]

theorem Map.find_del_other {α : Type} (m : Map α) {k l : Nat} (h : l ≠ k) : Map.find? (Map.del m k) l = Map.find? m l := by
  rw [Map.del, Map.find_filter m (· != k), if_pos (by simpa using h)]

end Sys2Proof

namespace Sys2Proof.Machine

/-! ### A die with one part changed -/

section
variable (s : State) (d q : Nat)

theorem State.die_setQueue (x : Queue) :
    (s.setQueue d q x).die d = { s.die d with queues := Map.put (s.die d).queues q x } := State.die_setDie_same ..
theorem State.die_setGrid (x : Grid) :
    (s.setGrid d q x).die d = { s.die d with grids := Map.put (s.die d).grids q x } := State.die_setDie_same ..
theorem State.die_setGang (x : Gang) :
    (s.setGang d q x).die d = { s.die d with gangs := Map.put (s.die d).gangs q x } := State.die_setDie_same ..
theorem State.die_dropGang :
    (s.dropGang d q).die d = { s.die d with gangs := Map.del (s.die d).gangs q } := State.die_setDie_same ..

theorem State.grid_setGrid (x : Grid) : (s.setGrid d q x).grid d q = some x := by
  rw [State.grid, State.die_setGrid]; exact Map.find_put_same ..
theorem State.gang_setGang (x : Gang) : (s.setGang d q x).gang d q = some x := by
  rw [State.gang, State.die_setGang]; exact Map.find_put_same ..

theorem State.grid_setQueue (x : Queue) (g : Nat) : (s.setQueue d q x).grid d g = s.grid d g := by
  rw [State.grid, State.die_setQueue]; rfl
theorem State.queue_setGrid (x : Grid) (m : Nat) : (s.setGrid d q x).queue d m = s.queue d m := by
  rw [State.queue, State.die_setGrid]; rfl

end

/-! ### Messages and requests that a die sends -/

/-- `t` is `s`, but for what has gone out into memory's channels and the fabric. -/
def State.Sent (s t : State) : Prop := t = { s with mem := t.mem, fab := t.fab }

theorem State.Sent.refl (s : State) : s.Sent s := rfl

theorem State.Sent.trans {s t u : State} (h : s.Sent t) (k : t.Sent u) : s.Sent u := by
  rw [State.Sent] at h k ⊢
  rw [k, h]

theorem State.sent_postBytes (s : State) (agent : Nat) (asid : BitVec 12) (gen : Word) (fuel va : Nat) (bs : List Byte) :
    s.Sent (s.postBytes agent asid gen fuel va bs).1 := by
  induction fuel generalizing s va bs with
  | zero => rw [State.postBytes]; exact .refl s
  | succ k ih =>
    cases bs with
    | nil =>
      have done : s.postBytes agent asid gen (k + 1) va [] = (s, false) := by simp [State.postBytes]
      rw [done]
      exact .refl s
    | cons b bs =>
      rw [State.postBytes]
      · dsimp only
        split
        next => exact ih ..
        next =>
          split
          next => exact ih ..
          next =>
            split
            next => exact ih ..
            next =>
              split
              next => exact State.Sent.trans (show s.Sent (s.sendMsg ..) from rfl) (ih ..)
              next => exact State.Sent.trans (show s.Sent (s.push ..) from rfl) (ih ..)
      · simp

/-! ### A record joins its queue (R320, R321) -/

/-- A record takes its place in the ring, or waits in the die. -/
def Queue.Gains (a q : Queue) (time : Nat) (b : BitVec 512) (pr : Nat) (o : Option Nat) : Prop :=
  if a.full then q.recs = a.recs ∧ q.waiting = a.waiting ++ [⟨b, 0, 0, pr, o, none, false⟩]
  else q.next = (a.next + 1) % 2 ^ 48 ∧ ∃ slot, (slot = none ∨ slot = some a.freeSlot)
    ∧ q.recs = a.recs ++ [⟨b, a.next, time, pr, o, slot, false⟩]

theorem State.queueIn_eq (s : State) (d m : Nat) (r : QRec) : ∃ u q, s.Sent u ∧ s.queueIn d m r = u.setQueue d m q
    ∧ (if (s.queue d m).full then q = { s.queue d m with waiting := (s.queue d m).waiting ++ [r] }
      else ∃ slot, (slot = none ∨ slot = some (s.queue d m).freeSlot) ∧ q = (s.queue d m).append r slot s.time) := by
  unfold State.queueIn
  dsimp only
  split
  next => exact ⟨s, _, .refl s, rfl, rfl⟩
  next =>
    refine ⟨_, _, s.sent_postBytes .., rfl, _, ?_, rfl⟩
    exact ite_eq_or_eq ..

section
variable (s : State) (d m : Nat) (b : BitVec 512) (pr : Nat) (o : Option Nat)

theorem State.queueIn_gains :
    (s.queue d m).Gains ((s.queueIn d m ⟨b, 0, 0, pr, o, none, false⟩).queue d m) s.time b pr o
    ∧ ((s.queueIn d m ⟨b, 0, 0, pr, o, none, false⟩).queue d m).drop = (s.queue d m).drop := by
  obtain ⟨u, q, -, is, entry⟩ := s.queueIn_eq d m ⟨b, 0, 0, pr, o, none, false⟩
  rw [is, State.queue_setQueue, Queue.Gains]
  split at entry
  next full => rw [if_pos full, entry]; exact ⟨⟨rfl, rfl⟩, rfl⟩
  next room =>
    obtain ⟨slot, place, rfl⟩ := entry
    rw [if_neg room]
    exact ⟨⟨rfl, slot, place, rfl⟩, rfl⟩

end

/-- What a record that joins a queue leaves of its die and of the rest. -/
theorem State.queueIn_leaves (s : State) (d m : Nat) (r : QRec) :
    (∃ q, (s.queueIn d m r).die d = { s.die d with queues := Map.put (s.die d).queues m q })
    ∧ (s.queueIn d m r).cores = s.cores ∧ (s.queueIn d m r).pairs = s.pairs ∧ (s.queueIn d m r).time = s.time := by
  obtain ⟨u, q, sent, is, -⟩ := s.queueIn_eq d m r
  have die : u.die d = s.die d := by rw [sent]; rfl
  refine ⟨⟨q, by rw [is, State.die_setQueue, die]⟩, ?_⟩
  rw [is, sent]
  exact ⟨rfl, rfl, rfl⟩

theorem State.grid_queueIn (s : State) (d m g : Nat) (r : QRec) : (s.queueIn d m r).grid d g = s.grid d g := by
  obtain ⟨⟨q, die⟩, -⟩ := s.queueIn_leaves d m r
  rw [State.grid, die]
  rfl

/-! ### A grid is released (R325, R327) -/

/-- The count of a grid, and the log, are all that reading the count concerns. -/
theorem State.countOf_leaves (s : State) (x : Grid) (d : Nat) : (s.countOf x).2.die d = s.die d
    ∧ (s.countOf x).2.cores = s.cores ∧ (s.countOf x).2.time = s.time := by
  unfold State.countOf
  dsimp only
  split
  next => exact ⟨rfl, rfl, rfl⟩
  next =>
    generalize leNat _ = count
    split <;> exact ⟨rfl, rfl, rfl⟩

/-- A released grid, and its record in its queue where it has an instance. -/
structure State.Joins (s t : State) (d : Nat) (u : Grid) (key : Nat) : Prop where
  grid : t.grid d key = some { u with waiting := none, released := true }
  none : u.total = 0 → t.queue d u.queue = s.queue d u.queue
  some : u.total ≠ 0 → (s.queue d u.queue).Gains (t.queue d u.queue) s.time u.record u.prio (some key)

theorem State.joins_releaseGrid {s : State} {d g : Nat} {x : Grid} (here : s.grid d g = some x) :
    s.Joins (s.releaseGrid d g) d { x with total := (s.countOf x).1 } g ∧ (s.releaseGrid d g).cores = s.cores := by
  obtain ⟨die, cores, time⟩ := s.countOf_leaves x d
  have queue (m : Nat) (y : Grid) : ((s.countOf x).2.setGrid d g y).queue d m = s.queue d m := by
    rw [State.queue_setGrid, State.queue, die]; rfl
  by_cases few : (s.countOf x).1 = 0
  · have is : s.releaseGrid d g =
        (s.countOf x).2.setGrid d g { x with total := (s.countOf x).1, waiting := none, released := true } := by
      rw [State.releaseGrid, here]; exact if_pos few
    rw [is]
    exact ⟨⟨State.grid_setGrid .., fun _ => queue .., fun some => absurd few some⟩, cores⟩
  · have is : s.releaseGrid d g =
        ((s.countOf x).2.setGrid d g { x with total := (s.countOf x).1, waiting := none, released := true }).queueIn d
          x.queue ⟨x.record, 0, 0, x.prio, some g, none, false⟩ := by
      rw [State.releaseGrid, here]; exact if_neg few
    have gains := (((s.countOf x).2.setGrid d g { x with total := (s.countOf x).1, waiting := none, released := true
      }).queueIn_gains d x.queue x.record x.prio (some g)).1
    rw [queue] at gains
    rw [is]
    refine ⟨⟨by rw [State.grid_queueIn, State.grid_setGrid], fun none => absurd none few, fun _ => ?_⟩, ?_⟩
    · rw [← time]; exact gains
    · exact (State.queueIn_leaves ..).2.1.trans cores

end Sys2Proof.Machine
end

section
/-! Enqueue and the release of grids (R321, R325, R327): by what the record and its queue say. -/

namespace Sys2Proof.Machine

/-- The address space of a record: a user-mode issuer's, or its own. -/
def recSpace (r : BitVec 512) (ctx : EnqCtx) : BitVec 12 := if ctx.user then ctx.asid else recAsid r
/-- Its priority, capped by the issuer's. -/
def recLevel (r : BitVec 512) (ctx : EnqCtx) : Nat :=
  if ctx.user then min (recPrio r) ctx.cprio.toNat else recPrio r
/-- A queue takes records of an address space. -/
def Queue.lets (q : Queue) (asid : BitVec 12) : Prop := q.en = true ∧ q.asid = asid ∧ q.closed = false
/-- Records of LAUNCH and LAUNCHI are grids of many instances. -/
def makesMany (src : EnqSource) : Bool := src == .launch || src == .launchi

theorem makesMany_iff {src : EnqSource} : makesMany src = true ↔ src = .launch ∨ src = .launchi := by
  cases src <;> decide

theorem Queue.lets_iff {q : Queue} {asid : BitVec 12} :
    q.lets asid ↔ ¬((!q.en || q.asid != asid || q.closed) = true) := by
  simp only [Queue.lets, Bool.or_eq_true, Bool.not_eq_true', bne_iff_ne, not_or, Bool.not_eq_false, ne_eq, not_not,
    Bool.not_eq_true, and_assoc]

/-- The grid that a record becomes. -/
def newGrid (r : BitVec 512) (ctx : EnqCtx) (total : Nat) (idx : Option (Nat × BitVec 8)) : Grid :=
  { record := recWith r (recSpace r ctx) (recLevel r ctx), queue := recQueue r, prio := recLevel r ctx, total := total
    placed := 0, finished := 0, idx := idx, waiting := none, released := false, job := ctx.job }

/-- The state with a grid of the next number. -/
def State.addGrid (s : State) (d : Nat) (x : Grid) : State :=
  (s.setGrid d (s.die d).nextGrid x).setDie d
    { (s.setGrid d (s.die d).nextGrid x).die d with nextGrid := (s.die d).nextGrid + 1 }

theorem State.addGrid_spec (s : State) (d : Nat) (x : Grid) : (s.addGrid d x).grid d (s.die d).nextGrid = some x
    ∧ (∀ m, (s.addGrid d x).queue d m = s.queue d m) ∧ (s.addGrid d x).cores = s.cores
    ∧ (∀ g, g ≠ (s.die d).nextGrid → (s.addGrid d x).grid d g = s.grid d g) := by
  have die : (s.addGrid d x).die d = { s.die d with
      grids := Map.put (s.die d).grids (s.die d).nextGrid x, nextGrid := (s.die d).nextGrid + 1 } := by
    rw [State.addGrid, State.die_setDie_same, State.die_setGrid]
  refine ⟨?_, fun m => ?_, rfl, fun g other => ?_⟩
  · rw [State.grid, die]; exact Map.find_put_same ..
  · rw [State.queue, die]; rfl
  · rw [State.grid, die]; exact Map.find_put_other _ _ other

section
variable {s : State} {d : Nat} {r : BitVec 512} {src : EnqSource} {ctx : EnqCtx} {idx : Option (Nat × BitVec 8)}

theorem State.enqueue_barred (barred : ¬(s.queue d (recQueue r)).lets (recSpace r ctx)) :
    s.enqueue d r src ctx idx = s.discard d (recQueue r) := if_pos (not_not.mp (mt Queue.lets_iff.mpr barred))

section
variable (lets : (s.queue d (recQueue r)).lets (recSpace r ctx))
include lets

theorem State.enqueue_close (close : recClose r = true) : s.enqueue d r src ctx idx =
    s.setQueue d (recQueue r) { s.queue d (recQueue r) with
      dw0 := (s.queue d (recQueue r)).dw0 ||| 0x2000000000000000 } :=
  (if_neg (Queue.lets_iff.mp lets)).trans (if_pos close)

variable (open_ : recClose r = false)
include open_

theorem State.enqueue_pop (pops : (s.queue d (recQueue r)).isPop = true) : s.enqueue d r src ctx idx =
    if src = .pushw then s.queueIn d (recQueue r) ⟨recPut r (recLevel r ctx), 0, 0, recLevel r ctx, none, none, false⟩
    else s.discard d (recQueue r) :=
  (if_neg (Queue.lets_iff.mp lets)).trans <| (if_neg (Bool.eq_false_iff.mp open_)).trans <| (if_pos pops).trans <|
    if_congr beq_iff_eq rfl rfl

variable (dispatches : (s.queue d (recQueue r)).isPop = false)
include dispatches

theorem State.enqueue_bad (bad : recOk r src = false) : s.enqueue d r src ctx idx = s.discard d (recQueue r) :=
  (if_neg (Queue.lets_iff.mp lets)).trans <| (if_neg (Bool.eq_false_iff.mp open_)).trans <|
    (if_neg (Bool.eq_false_iff.mp dispatches)).trans <| if_pos (by rw [bad]; rfl)

/-- The instances that a record asks for. -/
def recTotal (r : BitVec 512) (src : EnqSource) : Nat := if makesMany src then recField r 6 0 25 else 1
/-- The address of the word that it depends on; 0 where there is none. -/
def recDep (r : BitVec 512) (src : EnqSource) : Nat := if makesMany src then recAddr r 7 else 0

variable (ok : recOk r src = true)
include ok

/-- R321, R325: a well-formed record becomes a grid, which is released at once, or waits for its dependence word. -/
theorem State.enqueue_ok : s.enqueue d r src ctx idx =
    if recDep r src = 0 then (s.addGrid d (newGrid r ctx (recTotal r src) idx)).releaseGrid d (s.die d).nextGrid
    else match s.dieLeaf (recSpace r ctx) (recDep r src), s.dieRead (recSpace r ctx) (recDep r src) 4 with
      | some t, some bs =>
        if leNat bs = 0 then (s.addGrid d (newGrid r ctx (recTotal r src) idx)).releaseGrid d (s.die d).nextGrid
        else s.addGrid d { newGrid r ctx (recTotal r src) idx with
          waiting := some (wordKey (leafHome t) (t.pa (recDep r src))) }
      | _, _ => s.discard d (recQueue r) :=
  (if_neg (Queue.lets_iff.mp lets)).trans <| (if_neg (Bool.eq_false_iff.mp open_)).trans <|
    (if_neg (Bool.eq_false_iff.mp dispatches)).trans <| if_neg (by rw [ok]; decide)

/-- R321: a record without a dependence word is released. -/
theorem State.enqueue_free (free : recDep r src = 0) : s.enqueue d r src ctx idx =
    (s.addGrid d (newGrid r ctx (recTotal r src) idx)).releaseGrid d (s.die d).nextGrid := by
  rw [State.enqueue_ok lets open_ dispatches ok, if_pos free]

section
variable (dep : recDep r src ≠ 0)
include dep

theorem State.enqueue_read {t : Tlb} {bs : List Byte} (leaf : s.dieLeaf (recSpace r ctx) (recDep r src) = some t)
    (read : s.dieRead (recSpace r ctx) (recDep r src) 4 = some bs) : s.enqueue d r src ctx idx =
    if leNat bs = 0 then (s.addGrid d (newGrid r ctx (recTotal r src) idx)).releaseGrid d (s.die d).nextGrid
    else s.addGrid d { newGrid r ctx (recTotal r src) idx with
      waiting := some (wordKey (leafHome t) (t.pa (recDep r src))) } := by
  rw [State.enqueue_ok lets open_ dispatches ok, if_neg dep, leaf, read]

theorem State.enqueue_unread (unread : s.dieRead (recSpace r ctx) (recDep r src) 4 = none) :
    s.enqueue d r src ctx idx = s.discard d (recQueue r) := by
  rw [State.enqueue_ok lets open_ dispatches ok, if_neg dep, unread]
  cases s.dieLeaf (recSpace r ctx) (recDep r src) <;> rfl

end

end

end

/-! ### What becomes of a record -/

theorem drop_saturates (x : BitVec 16) :
    (if x = 0xFFFF then x else x + 1) = BitVec.ofNat 16 (min 65535 (x.toNat + 1)) := by
  have small : x.toNat < 65536 := x.isLt
  refine BitVec.eq_of_toNat_eq ?_
  rw [BitVec.toNat_ofNat]
  split
  next top => rw [top]; decide
  next below =>
    have : x.toNat ≠ 65535 := fun top => below (BitVec.eq_of_toNat_eq top)
    rw [BitVec.toNat_add]
    change (x.toNat + 1) % 65536 = min 65535 (x.toNat + 1) % 65536
    omega

/-- A discard is counted and reported, and the grids stay. -/
theorem State.discard_drops (s : State) (d m : Nat) : (s.discard d m).queue d m =
      { s.queue d m with drop := BitVec.ofNat 16 (min 65535 ((s.queue d m).drop.toNat + 1)) }
    ∧ (s.discard d m).reports = s.reports ++ [.discarded d m] ∧ ((s.discard d m).die d).grids = (s.die d).grids
    ∧ (s.discard d m).cores = s.cores ∧ (s.discard d m).mem.bytes = s.mem.bytes := by
  have die : (s.discard d m).die d = (s.setQueue d m { s.queue d m with
      drop := if (s.queue d m).drop = 0xFFFF then (s.queue d m).drop else (s.queue d m).drop + 1 }).die d := rfl
  have queue : (s.discard d m).queue d m = _ := (congrArg (fun x : Die => Map.getD x.queues m Queue.reset) die).trans
    (State.queue_setQueue ..)
  refine ⟨by rw [queue, drop_saturates], rfl, by rw [die, State.die_setQueue], rfl, rfl⟩

/-- R325: a record that depends on nothing is released at once. -/
theorem State.joins_addGrid (s : State) (d : Nat) (r : BitVec 512) (ctx : EnqCtx) (n : Nat) :
    s.Joins ((s.addGrid d (newGrid r ctx n none)).releaseGrid d (s.die d).nextGrid) d (newGrid r ctx n none)
      (s.die d).nextGrid
    ∧ ((s.addGrid d (newGrid r ctx n none)).releaseGrid d (s.die d).nextGrid).cores = s.cores := by
  obtain ⟨here, queues, cores, -⟩ := s.addGrid_spec d (newGrid r ctx n none)
  obtain ⟨⟨grid, none, some⟩, cores'⟩ := State.joins_releaseGrid here
  dsimp only at none some
  rw [queues] at none some
  exact ⟨⟨grid, none, some⟩, cores'.trans cores⟩

end Sys2Proof.Machine
end

section
/-! Placement (R322, R323, R329): the pairs of a record, their modes, and what is set aside. -/

namespace Sys2Proof.Machine

/-! ### The pairs of a record -/

section
variable {s : State} {d : Nat} {r : BitVec 512} {reserved free ps : List Nat}

/-- R323: the pairs are eligible, and lie as the record asks. -/
theorem State.placement_some (placed : s.placement d r reserved free = some ps) :
    (∀ p ∈ ps, s.eligible d r free p = true) ∧ (recRect r = true → ps ∈ s.rects d r)
    ∧ (recRect r = false → ps.length = recField r 3 0 7 + 1) := by
  have eligible {p : Nat} (open_ : p ∈ s.openPairs d r reserved free) : s.eligible d r free p = true := by
    have both := (List.mem_filter.mp open_).2
    rw [Bool.and_eq_true] at both
    exact both.2
  unfold State.placement at placed
  cases rect : recRect r with
  | true =>
    rw [rect] at placed
    have here := List.find?_some placed
    rw [List.all_eq_true] at here
    exact ⟨fun p there => eligible (List.contains_iff_mem.mp (here p there)), fun _ => List.mem_of_find?_eq_some placed,
      nofun⟩
  | false =>
    rw [rect] at placed
    obtain ⟨size, same⟩ := Option.ite_none_right_eq_some.mp placed
    obtain rfl := Option.some.inj same
    exact ⟨fun p there => eligible (List.mem_of_mem_take there), nofun, fun _ => size⟩

/-- What makes a pair fit for a record that is placed now. -/
def State.Fits (s : State) (d : Nat) (r : BitVec 512) (p : Nat) : Prop :=
  (s.core (2 * p)).run = .idle ∧ (s.core (2 * p + 1)).run = .idle
    ∧ (s.core (2 * p)).regs.lpart = (recPart r).setWidth 64 ∧ s.gated d (s.zoneOf (2 * p)) = false
    ∧ (s.pair p).mode ≠ 0 ∧ ∀ x ∈ (s.die d).gangs, p ∉ x.2.pairs

theorem State.fits_of_eligible {p : Nat} (eligible : s.eligible d r [] p = true) : s.Fits d r p := by
  simp only [State.eligible, List.contains_nil, Bool.false_or, Bool.and_eq_true, beq_iff_eq, Bool.not_eq_true', bne_iff_ne,
    and_assoc] at eligible
  obtain ⟨idle, idle', apart, -, part, -, online, -, open_, -⟩ := eligible
  refine ⟨idle, idle', part, open_, online, fun x there held => ?_⟩
  have taken : p ∈ (s.die d).taken := List.mem_flatMap.mpr ⟨x, there, held⟩
  rw [List.contains_iff_mem.mpr taken] at apart
  cases apart

end

/-! ### The modes of the pairs (R240, R323) -/

/-- One pair's mode is written where it differs. -/
def State.setMode (r : BitVec 512) (s : State) (p : Nat) : State :=
  if !(s.pair p).differs r then s
  else
    let clear (n : Nat) (s : State) : State := s.setCore n { s.core n with arr := Arr.zero, backs := [] }
    let s := clear (2 * p + 1) (clear (2 * p) s)
    { s with pairs := Map.put s.pairs p { s.pair p with mode := recMode r, win := recWin r } }

theorem State.setModes_eq (s : State) (r : BitVec 512) (ps : List Nat) :
    s.setModes r ps = ps.foldl (State.setMode r) s := rfl

/-- A core, but for its array. -/
def Core.Kept (c c' : Core) : Prop := c' = { c with arr := c'.arr, backs := c'.backs }

theorem Core.Kept.trans {c c' c'' : Core} (h : c.Kept c') (k : c'.Kept c'') : c.Kept c'' := by
  rw [Core.Kept] at h k ⊢
  rw [k, h]

/-- `t` is `s`, but for the modes of pairs and the arrays of cores. -/
structure State.Moded (s t : State) : Prop where
  is : t = { s with cores := t.cores, pairs := t.pairs }
  core : ∀ n, (s.core n).Kept (t.core n)

theorem State.Moded.refl (s : State) : s.Moded s := ⟨rfl, fun _ => rfl⟩
theorem State.Moded.trans {s t u : State} (h : s.Moded t) (k : t.Moded u) : s.Moded u :=
  ⟨by rw [k.is, h.is], fun n => (h.core n).trans (k.core n)⟩

/-- The array of a core is emptied. -/
def State.clearArr (s : State) (n : Nat) : State := s.setCore n { s.core n with arr := Arr.zero, backs := [] }

theorem State.moded_clearArr (s : State) (n : Nat) : s.Moded (s.clearArr n) := by
  refine ⟨rfl, fun m => ?_⟩
  by_cases same : m = n
  · rw [same, State.clearArr, State.core_setCore_same]; rfl
  · rw [State.clearArr, State.core_setCore_other _ _ same]; rfl

theorem State.setMode_eq (s : State) (r : BitVec 512) (p : Nat) : s.setMode r p =
    if (s.pair p).differs r then { (s.clearArr (2 * p)).clearArr (2 * p + 1) with
      pairs := Map.put s.pairs p { s.pair p with mode := recMode r, win := recWin r } } else s := by
  unfold State.setMode
  cases (s.pair p).differs r <;> rfl

theorem State.moded_setMode (s : State) (r : BitVec 512) (p : Nat) : s.Moded (s.setMode r p) := by
  rw [State.setMode_eq]
  split
  next =>
    have cleared := (s.moded_clearArr (2 * p)).trans ((s.clearArr (2 * p)).moded_clearArr (2 * p + 1))
    exact ⟨rfl, cleared.core⟩
  next => exact .refl s

theorem State.mode_setMode (s : State) (r : BitVec 512) (p q : Nat) :
    ((s.setMode r p).pair q).mode = if q = p then recMode r else (s.pair q).mode := by
  rw [State.setMode_eq]
  split
  next =>
    rw [State.pair, Map.getD_put]
    exact apply_ite Pair.mode ..
  next same =>
    split
    next here =>
      subst here
      simp only [Pair.differs, Bool.or_eq_true, not_or, bne_iff_ne, ne_eq, not_not] at same
      exact same.1
    next => rfl

theorem State.moded_setModes (s : State) (r : BitVec 512) (ps : List Nat) : s.Moded (s.setModes r ps) := by
  rw [State.setModes_eq]
  induction ps generalizing s with
  | nil => exact .refl s
  | cons p ps ih => exact (s.moded_setMode r p).trans (ih _)

/-- R323: every pair of the record has the mode that it asks for. -/
theorem State.mode_setModes {r : BitVec 512} {ps : List Nat} {q : Nat} (s : State)
    (h : q ∈ ps ∨ (s.pair q).mode = recMode r) : ((s.setModes r ps).pair q).mode = recMode r := by
  rw [State.setModes_eq]
  induction ps generalizing s with
  | nil => exact h.resolve_left List.not_mem_nil
  | cons p ps ih =>
    refine ih (s.setMode r p) ?_
    rw [State.mode_setMode]
    by_cases here : q = p
    · exact Or.inr (if_pos here)
    · rw [if_neg here]
      exact h.imp_left fun there => (List.mem_cons.mp there).resolve_left here

/-! ### A record leaves its queue -/

theorem State.takeRec_alone {s : State} {d m seq : Nat} (alone : (s.queue d m).waiting = []) : s.takeRec d m seq =
    s.setQueue d m { s.queue d m with recs := (s.queue d m).recs.filter fun r => r.seq != seq } := by
  unfold State.takeRec
  dsimp only
  rw [alone]

theorem State.takeRec_leaves (s : State) (d m seq : Nat) :
    (∃ qs, (s.takeRec d m seq).die d = { s.die d with queues := qs }) ∧ (s.takeRec d m seq).pairs = s.pairs
    ∧ (s.takeRec d m seq).time = s.time := by
  unfold State.takeRec
  dsimp only
  split
  next r rest waiting =>
    split
    next => exact ⟨⟨_, State.die_setQueue ..⟩, rfl, rfl⟩
    next =>
      obtain ⟨⟨q, die⟩, -, pairs, time⟩ := State.queueIn_leaves (s.setQueue d m { s.queue d m with
        recs := (s.queue d m).recs.filter fun r => r.seq != seq, waiting := rest }) d m r
      rw [State.die_setQueue] at die
      exact ⟨⟨_, die⟩, pairs, time⟩
  next => exact ⟨⟨_, State.die_setQueue ..⟩, rfl, rfl⟩

/-! ### An instance of a grid is placed -/

/-- The gang that an instance becomes. -/
def Grid.gang (y : Grid) (g time now : Nat) (ps : List Nat) : Gang :=
  { record := y.record, grid := g, inst := y.placed, pairs := ps, cores := coresFor y.record ps, launched := false
    bars := [], transit := none, slot := slotAt now, holds := true, preempt := none, saved := []
    gen := 0, time := time, left := [], done := [] }

/-- The instance is counted; the record leaves its queue with its last instance. -/
def State.countPlaced (s : State) (d q g : Nat) (e : QRec) (y : Grid) : State :=
  if y.placed + 1 < y.total then s.setGrid d g { y with placed := y.placed + 1 }
  else (s.setGrid d g { y with placed := y.placed + 1 }).takeRec d q e.seq

section
variable {s : State} {d q g : Nat} {e : QRec} {y : Grid}

theorem State.countPlaced_leaves : (∃ qs, (s.countPlaced d q g e y).die d =
      { s.die d with queues := qs, grids := Map.put (s.die d).grids g { y with placed := y.placed + 1 } })
    ∧ (s.countPlaced d q g e y).pairs = s.pairs ∧ (s.countPlaced d q g e y).time = s.time := by
  unfold State.countPlaced
  split
  next => exact ⟨⟨_, State.die_setGrid ..⟩, rfl, rfl⟩
  next =>
    obtain ⟨⟨qs, die⟩, pairs, time⟩ :=
      State.takeRec_leaves (s.setGrid d g { y with placed := y.placed + 1 }) d q e.seq
    rw [State.die_setGrid] at die
    exact ⟨⟨qs, die⟩, pairs, time⟩

theorem State.queue_countPlaced : (y.placed + 1 < y.total → (s.countPlaced d q g e y).queue d q = s.queue d q)
    ∧ (y.total ≤ y.placed + 1 → (s.queue d q).waiting = [] → (s.countPlaced d q g e y).queue d q =
        { s.queue d q with recs := (s.queue d q).recs.filter fun x => x.seq != e.seq }) := by
  refine ⟨fun more => ?_, fun last alone => ?_⟩
  · rw [State.countPlaced, if_pos more, State.queue_setGrid]
  · have same := s.queue_setGrid d g { y with placed := y.placed + 1 } q
    rw [State.countPlaced, if_neg (Nat.not_lt.mpr last), State.takeRec_alone (by rw [same, alone]),
      State.queue_setQueue, same]

theorem State.placeRecord_spec (ps : List Nat) (here : s.grid d g = some y) :
    (s.placeRecord d q e g ps).gang d (s.die d).nextGang = some (y.gang g e.time s.time ps)
    ∧ (s.placeRecord d q e g ps).grid d g = some { y with placed := y.placed + 1 }
    ∧ (y.placed + 1 < y.total → (s.placeRecord d q e g ps).queue d q = s.queue d q)
    ∧ (y.total ≤ y.placed + 1 → (s.queue d q).waiting = [] → (s.placeRecord d q e g ps).queue d q =
        { s.queue d q with recs := (s.queue d q).recs.filter fun x => x.seq != e.seq })
    ∧ (s.placeRecord d q e g ps).pairs = s.pairs := by
  obtain ⟨⟨qs, die⟩, pairs, time⟩ := s.countPlaced_leaves (d := d) (q := q) (g := g) (e := e) (y := y)
  obtain ⟨more, last⟩ := s.queue_countPlaced (d := d) (q := q) (g := g) (e := e) (y := y)
  have is : s.placeRecord d q e g ps = (s.countPlaced d q g e y).setDie d { (s.countPlaced d q g e y).die d with
      robin := Map.put ((s.countPlaced d q g e y).die d).robin
        (effPrio e.prio e.time (s.countPlaced d q g e y).time) q
      gangs := Map.put ((s.countPlaced d q g e y).die d).gangs ((s.countPlaced d q g e y).die d).nextGang
        (y.gang g e.time (s.countPlaced d q g e y).time ps)
      nextGang := if ((s.countPlaced d q g e y).die d).nextGang = 65535 then 1
        else ((s.countPlaced d q g e y).die d).nextGang + 1 } := by
    rw [State.placeRecord, here]
    rfl
  rw [time] at is
  have die' := congrArg (State.die · d) is
  dsimp only at die'
  rw [State.die_setDie_same] at die'
  have queue : (s.placeRecord d q e g ps).queue d q = (s.countPlaced d q g e y).queue d q := by
    rw [State.queue, die']; rfl
  refine ⟨?_, ?_, fun h => queue.trans (more h), fun h alone => queue.trans (last h alone), by rw [is]; exact pairs⟩
  · rw [State.gang, die', die]; exact Map.find_put_same ..
  · rw [State.grid, die', die]; exact Map.find_put_same ..

end

end Sys2Proof.Machine
end

section
/-! The dispatcher (R322, R323, R329) and the launch of gangs (R324). -/

namespace Sys2Proof.Machine

/-! ### What the dispatcher takes first -/

section
variable {s : State} {d : Nat} {c : Cand}

/-- The best candidate of a die on which nothing is set aside. -/
def State.Best (s : State) (d : Nat) (c : Cand) : Prop :=
  (s.die d).aside = [] ∧ lowest ((s.die d).order s.time) (s.die d).cands = some c

theorem Die.isAside_none {x : Die} (none : x.aside = []) (c : Cand) : x.isAside c = false := by
  rw [Die.isAside, none]; rfl
theorem Die.reservedBut_none {x : Die} (none : x.aside = []) (c : Cand) : x.reservedBut c = [] := by
  rw [Die.reservedBut, none]; rfl
theorem Die.reservedFor_none {x : Die} (none : x.aside = []) (c : Cand) : x.reservedFor c = [] := by
  rw [Die.reservedFor, none]; rfl

theorem State.dispatches_best (best : s.Best d c) : s.dispatches d = some ((s.tryPlace d c).getD (s.reserve d c).1) := by
  obtain ⟨none, first⟩ := best
  have aside : (s.die d).cands.filter (s.die d).isAside = [] :=
    List.filter_eq_nil_iff.mpr fun c _ => by rw [Die.isAside_none none]; decide
  have fresh : (s.die d).cands.filter (fun c => !(s.die d).isAside c) = (s.die d).cands :=
    List.filter_eq_self.mpr fun c _ => by rw [Die.isAside_none none]; rfl
  unfold State.dispatches
  dsimp only
  rw [aside, fresh, first]
  rfl

theorem State.dispatches_placed (best : s.Best d c) {ps : List Nat} (placed : s.placement d c.bits [] [] = some ps) :
    s.dispatches d = some (s.placeOn d c ps) := by
  rw [State.dispatches_best best, State.tryPlace, Die.reservedBut_none best.1, placed]
  rfl

theorem State.dispatches_aside (best : s.Best d c) (unplaced : s.placement d c.bits [] [] = none) :
    s.dispatches d = some (s.reserve d c).1 := by
  rw [State.dispatches_best best, State.tryPlace, Die.reservedBut_none best.1, unplaced]
  rfl

end

/-! ### Placing a candidate -/

/-- The pairs have their modes, and the candidate is no longer set aside. -/
def State.cleared (s : State) (d : Nat) (c : Cand) (ps : List Nat) : State :=
  (s.setModes c.bits ps).setDie d ((s.setModes c.bits ps).die d |>.unset c)

theorem State.die_cleared (s : State) (d : Nat) (c : Cand) (ps : List Nat) :
    (s.cleared d c ps).die d = (s.die d).unset c := by
  have die : (s.setModes c.bits ps).die d = s.die d := by rw [(s.moded_setModes c.bits ps).is]; rfl
  rw [State.cleared, State.die_setDie_same, die]

theorem State.placeOn_record (s : State) {d q g : Nat} {e : QRec} (ps : List Nat) (grid : e.grid = some g) :
    s.placeOn d (.record q e) ps = (s.cleared d (.record q e) ps).placeRecord d q e g ps := by
  simp only [State.placeOn, grid]
  rfl

theorem State.placeOn_saved (s : State) (d k : Nat) (G : Gang) (ps : List Nat) : s.placeOn d (.saved k G) ps =
    (s.cleared d (.saved k G) ps).setGang d k { G with
      pairs := ps, cores := coresFor G.record ps, slot := slotAt s.time, holds := true } := by
  have time : (s.cleared d (.saved k G) ps).time = s.time := by
    rw [State.cleared, (s.moded_setModes _ ps).is]; rfl
  rw [← time]
  rfl

/-! ### What cannot be placed is set aside (R323) -/

/-- A pre-emption request changes of its die the gangs alone. -/
theorem State.die_preempt (s : State) (d k kind prio : Nat) :
    ∃ gs, (s.preempt d k kind prio).die d = { s.die d with gangs := gs } := by
  unfold State.preempt
  split
  next => exact ⟨_, rfl⟩
  next x die =>
    have here : s.die d = x := by rw [State.die, Map.getD, die]; rfl
    split
    next => exact ⟨_, rfl⟩
    next =>
      dsimp only
      rw [State.die, State.dies_foldl _ fun _ _ => State.dies_post .., here]
      exact ⟨_, Map.getD_put_same ..⟩

theorem State.die_foldl_preempt (d kind prio : Nat) (ks : List Nat) (s : State) :
    ∃ gs, (ks.foldl (fun (s : State) k => s.preempt d k kind prio) s).die d = { s.die d with gangs := gs } := by
  induction ks generalizing s with
  | nil => exact ⟨_, rfl⟩
  | cons k ks ih =>
    obtain ⟨gs, die⟩ := s.die_preempt d k kind prio
    obtain ⟨gs', die'⟩ := ih (s.preempt d k kind prio)
    rw [die] at die'
    exact ⟨gs', die'⟩

/-- Two folds agree where their steps agree on what every step keeps. -/
theorem foldl_congr_kept {α β : Type} {f g : β → α → β} {kept : β → Prop} (same : ∀ b x, kept b → f b x = g b x)
    (keeps : ∀ b x, kept b → kept (g b x)) (xs : List α) {b : β} (h : kept b) : xs.foldl f b = xs.foldl g b := by
  induction xs generalizing b with
  | nil => rfl
  | cons x xs ih => rw [List.foldl_cons, List.foldl_cons, same b x h, ih (keeps b x h)]

/-- No time passes while gangs are asked. -/
theorem State.foldl_preempt_level {d time : Nat} {c : Cand} {s : State} (now : s.time = time) (ks : List Nat) :
    ks.foldl (fun (u : State) k => u.preempt d k 0 (c.level u.time)) s =
      ks.foldl (fun (u : State) k => u.preempt d k 0 (c.level time)) s :=
  foldl_congr_kept (kept := fun u => u.time = time) (fun u k h => congrArg (fun t => u.preempt d k 0 (c.level t)) h)
    (fun u k h => (u.noticed_preempt d k 0 (c.level time)).time.trans h) ks now

/-- The gangs in the way of a candidate that have not been asked yet. -/
def State.unasked (s : State) (d : Nat) (c : Cand) : List Nat :=
  (s.victims d c).filter fun k => match s.gang d k with | some y => y.preempt.isNone | none => false

/-- The candidate alone is set aside, with the pairs that it reserves. -/
def State.setAside (s : State) (d : Nat) (c : Cand) : State :=
  s.setDie d { s.die d with aside := [⟨c.name.1.getD 0, c.name.2, s.reservation d c.bits [] []⟩] }

theorem State.reserve_eq {s : State} {d : Nat} {c : Cand} (empty : (s.die d).aside = []) : (s.reserve d c).1 =
    (s.unasked d c).foldl (fun (s : State) k => s.preempt d k 0 (c.level s.time)) (s.setAside d c) := by
  unfold State.reserve
  dsimp only
  rw [Die.isAside_none empty, empty, Die.reservedBut_none empty, Die.reservedFor_none empty]
  rfl

/-- R323: the best candidate reserves pairs, and the gangs in its way are asked to make room. -/
theorem State.reserve_best {s : State} {d : Nat} {c : Cand} (empty : (s.die d).aside = []) :
    ((s.reserve d c).1.die d).aside = [⟨c.name.1.getD 0, c.name.2, s.reservation d c.bits [] []⟩]
    ∧ (∀ m, (s.reserve d c).1.queue d m = s.queue d m) ∧ (s.reserve d c).1.mem = s.mem
    ∧ ∀ k G, k ∈ s.victims d c → s.gang d k = some G → G.preempt = none → (s.reserve d c).1.gang d k =
        some { G with preempt := some (preemptWord k 0 (c.level s.time), s.time) } := by
  have level : (s.reserve d c).1 = (s.unasked d c).foldl
      (fun (u : State) k => u.preempt d k 0 (c.level s.time)) (s.setAside d c) :=
    (State.reserve_eq empty).trans (State.foldl_preempt_level rfl _)
  obtain ⟨gs, die⟩ := State.die_foldl_preempt d 0 (c.level s.time) (s.unasked d c) (s.setAside d c)
  have die' : (s.setAside d c).die d = _ := State.die_setDie_same ..
  rw [← level, die'] at die
  refine ⟨by rw [die], fun m => by rw [State.queue, die]; rfl, ?_, fun k G victim gang free => ?_⟩
  · rw [level]
    exact (State.Noticed.foldl (fun s k => s.noticed_preempt d k 0 _) _ _).mem
  · have asked : k ∈ s.unasked d c := List.mem_filter.mpr ⟨victim, by rw [gang]; exact Option.isNone_iff_eq_none.mpr free⟩
    have gang' : (s.setAside d c).gang d k = some G := by rw [State.gang, die']; exact gang
    rw [level]
    exact State.gang_foldl_preempt asked gang'

/-! ### Launch (R324) -/

/-- A register after a write to another than G0. -/
theorem Regs.gCell_writeG (r : Regs) {d : GReg} (e : GReg) (x : GCell) (h : d ≠ 0) :
    (r.writeG d x).gCell e = if e = d then x else r.gCell e := by
  rw [Regs.writeG, if_neg h]
  split
  next same => rw [same, Regs.gCell_setG_same]
  next other => exact Regs.gCell_setG_other r x other

/-- The registers of a launched context. -/
theorem gCell_launchRegs (r : BitVec 512) (rank size inst total : Nat) (x : GReg) :
    (launchRegs r rank size inst total).gCell x =
      if x = 7 then ⟨BitVec.ofNat 64 total, true, false⟩ else if x = 6 then ⟨BitVec.ofNat 64 inst, true, false⟩
      else if x = 5 then ⟨BitVec.ofNat 64 size, true, false⟩ else if x = 4 then ⟨BitVec.ofNat 64 rank, true, false⟩
      else if x = 3 then ⟨recDw r 5, true, false⟩ else if x = 2 then ⟨recDw r 4, true, false⟩
      else if x = 1 then ⟨recDw r 1, true, false⟩ else GCell.zero := by
  unfold launchRegs
  dsimp only
  iterate 7 rw [Regs.gCell_writeG _ x _ (by decide)]
  rw [Regs.gCell_regsZero]

/-- What a launch gives a context. -/
def State.launchCtx (s : State) (d : Nat) (g : Gang) (total rank n : Nat) : Ctx :=
  { Ctx.reset n with
    pc := BitVec.ofNat 64 (recField g.record 0 5 51 * 32)
    regs := launchRegs g.record rank g.cores.length g.inst total
    thermal := some (s.thermal d), priv := false }
/-- And its core's registers. -/
def State.launchCore (s : State) (k : Nat) (g : Gang) (job rank ctxId : Nat) (old : CoreRegs) : CoreRegs :=
  { old with
    part := recPart g.record, asid := recAsid g.record, cprio := BitVec.ofNat 6 (recPrio g.record)
    genroot := s.mem.genOf (recAsid g.record), gang := gangWord k g.cores.length rank, ctxId := ctxId, thctl := 0, job := job }

/-- `t` is `s`, but for its cores and the numbers of contexts. -/
def State.Starting (s t : State) : Prop := t = { s with cores := t.cores, nextCtx := t.nextCtx }

theorem State.Starting.trans {s t u : State} (h : s.Starting t) (k : t.Starting u) : s.Starting u := by
  rw [State.Starting] at h k ⊢
  rw [k, h]

section
variable (s : State) (d k : Nat) (g : Gang) (total job : Nat)

theorem State.starting_launchOne (rank n : Nat) : s.Starting (s.launchOne d k g total job rank n) := rfl

theorem State.core_launchOne (rank n m : Nat) : (s.launchOne d k g total job rank n).core m =
    if m = n then (s.core n).launch (s.launchCtx d g total rank n)
      (s.launchCore k g job rank s.nextCtx (s.core n).regs) else s.core m := by
  split
  next same => subst same; exact State.core_setCore_same ..
  next other => exact State.core_setCore_other _ _ other

/-- The contexts of a gang, by rank. -/
def State.launchAll (es : List (Nat × Nat)) : State := es.foldl (fun s e => s.launchOne d k g total job e.2 e.1) s

theorem State.launchAll_other {es : List (Nat × Nat)} {n : Nat} (other : ∀ e ∈ es, e.1 ≠ n) :
    s.Starting (s.launchAll d k g total job es) ∧ (s.launchAll d k g total job es).core n = s.core n := by
  induction es generalizing s with
  | nil => exact ⟨rfl, rfl⟩
  | cons e es ih =>
    obtain ⟨starting, core⟩ := ih (s.launchOne d k g total job e.2 e.1) fun e h => other e (List.mem_cons_of_mem _ h)
    refine ⟨State.Starting.trans (s.starting_launchOne d k g total job e.2 e.1) starting, core.trans ?_⟩
    rw [State.core_launchOne, if_neg (other e List.mem_cons_self).symm]

/-- R324: each context of a gang starts once, from what its core was before. -/
theorem State.launchAll_core {i n : Nat} (distinct : g.cores.Nodup) (here : g.cores[i]? = some n) :
    s.Starting (s.launchAll d k g total job g.cores.zipIdx) ∧ ∃ ctxId,
      (s.launchAll d k g total job g.cores.zipIdx).core n = (s.core n).launch (s.launchCtx d g total i n)
        (s.launchCore k g job i ctxId (s.core n).regs) := by
  obtain ⟨before, after, split, others⟩ := zipIdx_split here
  have apart : ∀ e ∈ before ++ after, e.1 ≠ n := fun e there same => by
    have listed : e ∈ g.cores.zipIdx := by
      rw [split, List.mem_append, List.mem_cons]
      rw [List.mem_append] at there
      tauto
    obtain ⟨small, is⟩ := List.getElem?_eq_some_iff.mp (List.mem_zipIdx_iff_getElem?.mp listed)
    obtain ⟨small', is'⟩ := List.getElem?_eq_some_iff.mp here
    exact (others e there).1 ((distinct.getElem_inj_iff (hi := small) (hj := small')).mp (by rw [is, is', same]))
  obtain ⟨starting, core⟩ := s.launchAll_other d k g total job fun e h => apart e (List.mem_append_left _ h)
  obtain ⟨starting', core'⟩ := ((s.launchAll d k g total job before).launchOne d k g total job i n).launchAll_other d k g
    total job fun e h => apart e (List.mem_append_right _ h)
  have is : s.launchAll d k g total job g.cores.zipIdx =
      ((s.launchAll d k g total job before).launchOne d k g total job i n).launchAll d k g total job after := by
    rw [split, State.launchAll, List.foldl_append]; rfl
  rw [is]
  refine ⟨starting.trans (State.Starting.trans (State.starting_launchOne ..) starting'),
    (s.launchAll d k g total job before).nextCtx, ?_⟩
  rw [core', State.core_launchOne, if_pos rfl, core]
  have ctx : (s.launchAll d k g total job before).launchCtx d g total i n = s.launchCtx d g total i n := by
    rw [starting]; rfl
  have regs (x : Nat) : (s.launchAll d k g total job before).launchCore k g job i x = s.launchCore k g job i x := by
    rw [starting]; rfl
  rw [ctx, regs]

end

end Sys2Proof.Machine
end

section
/-! GANG_LAUNCH as a whole, and the statement about records and placement. -/

namespace Sys2Proof.Machine

/-- R325: LAUNCHI's count, read at this module, is taken as 2^24 at most. -/
theorem State.countOf_read {s : State} {x : Grid} {pa : Nat} {key : BitVec 8} (idx : x.idx = some (pa, key))
    (near : pa < 2 ^ 56) : (s.countOf x).1 = min (leNat (s.mem.load key pa 4)) (2 ^ 24) := by
  unfold State.countOf
  rw [idx]
  dsimp only
  rw [if_pos near]
  generalize leNat (s.mem.load key pa 4) = n
  split
  next few => exact (Nat.min_eq_left few).symm
  next many => exact (Nat.min_eq_right (Nat.le_of_not_le many)).symm

theorem State.countOf_total {s : State} {x : Grid} (idx : x.idx = none) : (s.countOf x).1 = x.total := by
  rw [State.countOf, idx]

/-- R327: a grid whose dependence word has been released, and whose count can be read. -/
theorem State.gridReleases_next {s : State} {d g : Nat} {y : Grid} (here : s.grid d g = some y)
    (waits : y.waiting.isSome = true) (released : y.released = true)
    (free : ∀ pa key, y.idx = some (pa, key) → s.runHeld (pa, 4) = false) :
    s.gridReleases d g = some (s.releaseGrid d g) := by
  unfold State.gridReleases
  simp only [here, waits, released, Bool.true_or, Bool.true_and]
  cases idx : y.idx with
  | none => rfl
  | some e => simp only [free e.1 e.2 idx, Bool.and_false, Bool.not_false, if_true]

section
variable {s : State} {d k : Nat} {G : Gang}

/-- The instances and the job that a launch tells a gang's contexts. -/
def State.gridTold (s : State) (d : Nat) (G : Gang) : Nat × Nat :=
  match s.grid d G.grid with | some x => (x.total, x.job) | none => (1, 0)

/-- The generation that a launch binds. -/
def State.genNow (s : State) (G : Gang) : Nat := bitsAt (s.mem.genOf (recAsid G.record)).toNat 52 12

/-- The die as the launch leaves it: modes written, the task counted, the gang marked. -/
def State.launching (s : State) (d k : Nat) (G : Gang) : State :=
  ((s.setModes G.record G.pairs).addTask d (recAsid G.record) (s.genNow G)).setGang d k
    { G with launched := true, gen := s.genNow G }

theorem State.die_launching : (s.launching d k G).die d = { s.die d with
    tasks := Map.put (s.die d).tasks (taskKey (recAsid G.record) (s.genNow G))
      (Map.getD (s.die d).tasks (taskKey (recAsid G.record) (s.genNow G)) 0 + 1)
    gangs := Map.put (s.die d).gangs k { G with launched := true, gen := s.genNow G } } := by
  have die : (s.setModes G.record G.pairs).die d = s.die d := by rw [(s.moded_setModes _ _).is]; rfl
  rw [State.launching, State.die_setGang, State.addTask, State.die_setDie_same, die]

/-- The launch changes nothing but cores, pairs and the die. -/
theorem State.launching_eq : s.launching d k G = { s with
    cores := (s.launching d k G).cores, pairs := (s.setModes G.record G.pairs).pairs
    dies := (s.launching d k G).dies } :=
  congrArg (fun u : State => { u with dies := (s.launching d k G).dies }) (s.moded_setModes G.record G.pairs).is

theorem State.launchCtx_launching (g : Gang) (total rank n : Nat) :
    (s.launching d k G).launchCtx d g total rank n = s.launchCtx d g total rank n := by
  rw [State.launching_eq]; rfl

theorem State.launchCore_launching (j : Nat) (g : Gang) (job rank ctxId : Nat) (old : CoreRegs) :
    (s.launching d k G).launchCore j g job rank ctxId old = s.launchCore j g job rank ctxId old := by
  rw [State.launching_eq]; rfl

/-- R324: a gang that has not been launched starts on pairs that are idle, at rest and online. -/
theorem State.gangStarts_ready (gang : s.gang d k = some G) (fresh : G.launched = false)
    (ready : ∀ p ∈ G.pairs, (s.pair p).mode ≠ 0
      ∧ (recSplit G.record = true → (s.pair p).q0 = false ∧ (s.pair p).q1 = false)
      ∧ ∀ j ∈ [2 * p, 2 * p + 1], (s.core j).run = .idle ∧ (s.core j).arr.queue = []) :
    s.gangStarts d k = some ((s.launching d k G).launchAll d k G (s.gridTold d G).1 (s.gridTold d G).2 G.cores.zipIdx) := by
  have fit : (G.pairs.all fun p => (s.core (2 * p)).quiet && (s.core (2 * p + 1)).quiet && (s.pair p).mode != 0
      && !(recSplit G.record && ((s.pair p).q0 || (s.pair p).q1))) = true := by
    refine List.all_eq_true.mpr fun p there => ?_
    obtain ⟨online, working, idle⟩ := ready p there
    have quiet (j : Nat) (h : j ∈ [2 * p, 2 * p + 1]) : (s.core j).quiet = true := by
      obtain ⟨run, rest⟩ := idle j h
      rw [Core.quiet, run, rest]; rfl
    have halves : (recSplit G.record && ((s.pair p).q0 || (s.pair p).q1)) = false := by
      cases split : recSplit G.record with
      | false => rfl
      | true => rw [(working split).1, (working split).2]; rfl
    rw [quiet _ (by simp), quiet _ (by simp), halves, bne_iff_ne.mpr online]
    rfl
  unfold State.gangStarts
  simp only [gang, fresh, fit, Bool.not_true, Bool.or_self, Bool.false_eq_true, if_false]
  rfl

end

end Sys2Proof.Machine
end

section
open Sys2Proof Sys2Proof.Machine

/-- Settles O48: a record that its queue lets in becomes a grid, released now or later; the best candidate is placed on
eligible pairs or set aside; each context of a gang starts once. -/
theorem recordsAndPlacement : Obligations.records_and_placement := by
  intro d k g n i qn' r src ctx e y G ps s qn asid prio q fresh many enqueued drops lets work grid gains joins best fits
  have discards (is : s.enqueue d r src ctx none = s.discard d (recQueue r)) : enqueued drops := by
    obtain ⟨queue, reports, grids, cores, bytes⟩ := s.discard_drops d qn
    exact ⟨_, rfl, by rw [is]; exact cores, by rw [is]; exact bytes, by rw [is]; exact ⟨queue, reports, grids⟩⟩
  have released (total : Nat) (is : s.enqueue d r src ctx none =
      (s.addGrid d (newGrid r ctx total none)).releaseGrid d (s.die d).nextGrid) :
      enqueued fun t => joins t (grid total) fresh := by
    obtain ⟨⟨grid, none, some⟩, cores⟩ := s.joins_addGrid d r ctx total
    exact ⟨_, rfl, by rw [is]; exact cores, State.bytes_enqueue .., by rw [is]; exact ⟨grid, none, some⟩⟩
  refine ⟨fun barred => ?barred, fun l close => ?close, fun l o pops src => ?popOther, fun l o pops src => ?popPush,
    fun l o disp bad => ?bad, fun w few => ?one, fun w many free => ?free,
    fun lf bs leaf read w many dep => ⟨fun zero => ?met, fun more => ?waits⟩, fun w many dep unread => ?unread,
    fun here waits rel idx => ?release, fun pa key here waits rel idx near held => ?releaseCount,
    fun b grid here => ⟨fun placed => ?place, fun unplaced => ?aside⟩, fun b placed => ?saved,
    fun gang new ready distinct core => ?launch⟩
  case barred => exact discards (State.enqueue_barred barred)
  case close =>
    refine ⟨_, rfl, ?_⟩
    rw [State.enqueue_close l close]
    exact ⟨rfl, rfl, State.queue_setQueue ..⟩
  case popOther => exact discards ((State.enqueue_pop l o pops).trans (if_neg src))
  case popPush =>
    subst src
    obtain ⟨gain, drop⟩ := s.queueIn_gains d qn (recPut r prio) prio none
    refine ⟨_, rfl, ?_⟩
    rw [State.enqueue_pop l o pops, if_pos rfl]
    exact ⟨(State.queueIn_leaves ..).2.1, State.bytes_queueIn .., drop, gain⟩
  case bad => exact discards (State.enqueue_bad l o disp bad)
  case one =>
    obtain ⟨l, o, disp, ok⟩ := w
    have alone : ¬ makesMany src = true := mt makesMany_iff.mp few
    have is := State.enqueue_free (idx := none) l o disp ok (if_neg alone)
    exact released 1 (by rw [is, recTotal, if_neg alone])
  case free =>
    obtain ⟨l, o, disp, ok⟩ := w
    have several := makesMany_iff.mpr many
    have is := State.enqueue_free (idx := none) l o disp ok ((if_pos several).trans free)
    exact released _ (by rw [is, recTotal, if_pos several])
  case met =>
    obtain ⟨l, o, disp, ok⟩ := w
    have several := makesMany_iff.mpr many
    have at_ : recDep r src = recAddr r 7 := if_pos several
    have is := State.enqueue_read (idx := none) l o disp ok (by rw [at_]; exact dep) (by rw [at_]; exact leaf)
      (by rw [at_]; exact read)
    exact released _ (by rw [is, if_pos zero, recTotal, if_pos several])
  case waits =>
    obtain ⟨l, o, disp, ok⟩ := w
    have several := makesMany_iff.mpr many
    have at_ : recDep r src = recAddr r 7 := if_pos several
    have is := State.enqueue_read (idx := none) l o disp ok (by rw [at_]; exact dep) (by rw [at_]; exact leaf)
      (by rw [at_]; exact read)
    rw [if_neg more, recTotal, if_pos several, at_] at is
    obtain ⟨here, queues, cores, -⟩ := s.addGrid_spec d { newGrid r ctx (recField r 6 0 25) none with
      waiting := some (wordKey (leafHome lf) (lf.pa (recAddr r 7))) }
    refine ⟨_, rfl, ?_⟩
    rw [is]
    exact ⟨cores, rfl, queues _, here⟩
  case unread =>
    obtain ⟨l, o, disp, ok⟩ := w
    have at_ : recDep r src = recAddr r 7 := if_pos (makesMany_iff.mpr many)
    exact discards (State.enqueue_unread l o disp ok (by rw [at_]; exact dep) (by rw [at_]; exact unread))
  case release =>
    obtain ⟨⟨grid, none, some⟩, cores⟩ := State.joins_releaseGrid here
    rw [State.countOf_total idx] at grid none some
    refine ⟨(s.gridReleases d g).getD s, rfl, ?_⟩
    rw [State.gridReleases_next here waits rel fun pa key has => by rw [idx] at has; cases has]
    exact ⟨⟨grid, none, some⟩, cores, State.bytes_releaseGrid ..⟩
  case releaseCount =>
    obtain ⟨⟨grid, none, some⟩, cores⟩ := State.joins_releaseGrid here
    rw [State.countOf_read idx near] at grid none some
    refine ⟨(s.gridReleases d g).getD s, rfl, ?_⟩
    rw [State.gridReleases_next here waits rel fun pa' key' has => by
      obtain rfl := congrArg Prod.fst (Option.some.inj (has.symm.trans idx)); exact held]
    exact ⟨⟨grid, none, some⟩, cores, State.bytes_releaseGrid ..⟩
  case place =>
    obtain ⟨eligible, rect, count⟩ := State.placement_some placed
    have die := s.die_cleared d (.record qn' e) ps
    have here' : (s.cleared d (.record qn' e) ps).grid d g = some y := by rw [State.grid, die]; exact here
    obtain ⟨gang, grids, more, last, pairs⟩ := State.placeRecord_spec (q := qn') (e := e) ps here'
    have queue : (s.cleared d (.record qn' e) ps).queue d qn' = s.queue d qn' := by rw [State.queue, die]; rfl
    rw [queue] at more last
    rw [die] at gang
    refine ⟨(s.dispatches d).getD s, rfl, ?_⟩
    rw [State.dispatches_placed b placed, Option.getD_some]
    have bytes := s.bytes_placeOn d (.record qn' e) ps
    rw [State.placeOn_record s ps grid] at bytes ⊢
    refine ⟨⟨_, gang, rfl, rfl, rfl, rfl, rfl⟩, grids, more, last, bytes,
      fun p there => State.fits_of_eligible (eligible p there), fun p there => ?_, rect, count⟩
    rw [State.pair, pairs]
    exact s.mode_setModes (Or.inl there)
  case aside =>
    obtain ⟨aside, queues, mem, asked⟩ := State.reserve_best (c := .record qn' e) b.1
    refine ⟨(s.dispatches d).getD s, rfl, ?_⟩
    rw [State.dispatches_aside b unplaced, Option.getD_some]
    refine ⟨by rw [aside]; simp only [Cand.name, grid]; rfl, queues qn', mem, asked k G⟩
  case saved =>
    obtain ⟨eligible, -⟩ := State.placement_some placed
    refine ⟨(s.dispatches d).getD s, rfl, ?_⟩
    rw [State.dispatches_placed b placed, Option.getD_some, State.placeOn_saved]
    exact ⟨State.gang_setGang .., State.mem_setModes .., fun p there => State.fits_of_eligible (eligible p there)⟩
  case launch =>
    obtain ⟨starting, ctxId, is⟩ := (s.launching d k G).launchAll_core d k G (s.gridTold d G).1 (s.gridTold d G).2
      distinct core
    refine ⟨(s.gangStarts d k).getD s, rfl, ?_⟩
    rw [State.gangStarts_ready gang new ready, Option.getD_some]
    generalize (s.launching d k G).launchAll d k G _ _ G.cores.zipIdx = t at starting is ⊢
    have started : t = { s.launching d k G with cores := t.cores, nextCtx := t.nextCtx } := starting
    have die : t.die d = (s.launching d k G).die d := (congrArg (State.die · d) started).trans rfl
    have pairs : t.pairs = (s.setModes G.record G.pairs).pairs := (congrArg State.pairs started).trans rfl
    rw [State.die_launching] at die
    rw [is, State.launchCtx_launching, State.launchCore_launching]
    refine ⟨rfl, rfl, rfl, rfl, rfl, rfl, rfl, rfl, rfl, fun x there => ?regs, fun y here => ⟨?instances, ?ofJob⟩,
      fun x high => ?zero, rfl, rfl, rfl, rfl, rfl, rfl, rfl, rfl, ?gang, fun p there => ?mode, ?tasks, ?mem⟩
    case regs =>
      simp only [List.mem_cons, List.not_mem_nil, or_false] at there
      rcases there with rfl | rfl | rfl | rfl | rfl | rfl <;> exact gCell_launchRegs ..
    case instances =>
      have told : s.gridTold d G = (y.total, y.job) := by rw [State.gridTold, here]
      rw [told]
      exact gCell_launchRegs ..
    case ofJob =>
      have told : s.gridTold d G = (y.total, y.job) := by rw [State.gridTold, here]
      rw [told]
      rfl
    case zero =>
      have other (j : GReg) (low : j.toNat ≤ 7) : x ≠ j := fun same => by rw [same] at high; omega
      refine (gCell_launchRegs ..).trans ?_
      rw [if_neg (other 7 (by decide)), if_neg (other 6 (by decide)), if_neg (other 5 (by decide)),
        if_neg (other 4 (by decide)), if_neg (other 3 (by decide)), if_neg (other 2 (by decide)),
        if_neg (other 1 (by decide))]
    case gang =>
      rw [State.gang, die]
      exact (Map.find_put_same ..).trans (by rw [State.genNow, bitsAt_eq])
    case mode =>
      rw [State.pair, pairs]
      exact s.mode_setModes (Or.inl there)
    case tasks =>
      have gen : s.genNow G = (s.mem.genOf (recAsid G.record)).toNat / 2 ^ 52 % 2 ^ 12 := bitsAt_eq ..
      rw [die, ← gen]
      exact Map.getD_put_same ..
    case mem => exact (congrArg State.mem started).trans (State.mem_setModes s G.record G.pairs)

end

section
/-! Gangs and grids at their end (R325, R327), pre-emption (R329), barriers and transit phases (R330, R331). -/

namespace Sys2Proof.Machine

/-! ### Completion of a gang (R325) -/

/-- Cores that become idle again. -/
def State.idleAll (s : State) (es : List (Nat × Nat)) : State := es.foldl (fun s e => s.idleCore e.1) s

theorem State.idleAll_eq (s : State) (es : List (Nat × Nat)) : s.idleAll es = { s with cores := (s.idleAll es).cores } := by
  unfold State.idleAll
  induction es generalizing s with
  | nil => rfl
  | cons e es ih => exact (ih (s.idleCore e.1)).trans rfl

theorem State.core_idleAll (s : State) (es : List (Nat × Nat)) (n : Nat) : (s.idleAll es).core n =
    if n ∈ es.map (·.1) then { s.core n with run := .idle } else s.core n := by
  unfold State.idleAll
  induction es generalizing s with
  | nil => rfl
  | cons e es ih =>
    rw [List.foldl_cons, ih, List.map_cons]
    by_cases here : n = e.1
    · subst here
      rw [State.idleCore, State.core_setCore_same, if_pos List.mem_cons_self]
      exact ite_self _
    · rw [State.idleCore, State.core_setCore_other _ _ here]
      exact if_congr (by simp [here]) rfl rfl

section
variable {s : State} {d k : Nat} {G : Gang}

/-- The gang and its task are gone. -/
def State.gangGone (s : State) (d k : Nat) (G : Gang) : State :=
  ((s.idleAll G.standing).dropTask d (recAsid G.record) G.gen).dropGang d k

theorem State.die_gangGone : (s.gangGone d k G).die d = { s.die d with
    tasks := Map.put (s.die d).tasks (taskKey (recAsid G.record) G.gen)
      (Map.getD (s.die d).tasks (taskKey (recAsid G.record) G.gen) 0 - 1)
    gangs := Map.del (s.die d).gangs k } := by
  have die : (s.idleAll G.standing).die d = s.die d := by rw [State.idleAll_eq]; rfl
  rw [State.gangGone, State.die_dropGang, State.dropTask, State.die_setDie_same, die]

/-- Its grid counts it. -/
def State.gangClosed (s : State) (d k : Nat) (G : Gang) : State :=
  match s.grid d G.grid with
  | none => s.gangGone d k G
  | some x => (s.gangGone d k G).setGrid d G.grid { x with finished := x.finished + 1 }

theorem State.grid_gangGone (g : Nat) : (s.gangGone d k G).grid d g = s.grid d g := by
  rw [State.grid, State.die_gangGone]; rfl

/-- R325: a gang whose contexts have halted, and whose stores are all performed, completes. -/
theorem State.gangEnds_ready (gang : s.gang d k = some G) (launched : G.launched = true) (kept : G.saved = [])
    (ended : ∀ n ∈ G.standing.map (·.1), (s.core n).run = .stopped .halted
      ∧ ∀ a ∈ (s.core n).accs, a.kind.isWrite = true → s.accDone a .module = true)
    (left : ∀ x ∈ G.left, ∀ a, s.acc x.1 x.2 = some a → a.kind.isWrite = true → s.accDone a .module = true) :
    s.gangEnds d k = some (s.gangClosed d k G) := by
  have done (a : Acc) (h : a.kind.isWrite = true → s.accDone a .module = true) :
      (!a.kind.isWrite || s.accDone a .module) = true := by
    cases write : a.kind.isWrite with
    | false => rfl
    | true => rw [h write]; rfl
  have all : (G.standing.all fun e => s.ended e.1) = true := List.all_eq_true.mpr fun e there => by
    obtain ⟨halted, writes⟩ := ended e.1 (List.mem_map_of_mem there)
    rw [State.ended, halted, List.all_eq_true.mpr fun a h => done a (writes a h)]
    rfl
  have gone : G.left.all s.leftDone = true := List.all_eq_true.mpr fun e there => by
    unfold State.leftDone
    cases acc : s.acc e.1 e.2 with
    | none => rfl
    | some a => exact done a (left e there a acc)
  have grid := s.grid_gangGone (d := d) (k := k) (G := G) G.grid
  unfold State.gangGone State.idleAll at grid
  unfold State.gangEnds State.gangClosed
  simp only [gang, launched, kept, all, gone, Bool.not_true, List.isEmpty_nil, Bool.or_self, Bool.false_eq_true, if_false,
    grid]
  cases s.grid d G.grid <;> rfl

theorem State.gangClosed_spec : (s.gangClosed d k G).gang d k = none ∧ (s.gangClosed d k G).mem = s.mem
    ∧ (s.gangClosed d k G).cores = (s.idleAll G.standing).cores
    ∧ (∀ y, s.grid d G.grid = some y → (s.gangClosed d k G).grid d G.grid = some { y with finished := y.finished + 1 })
    ∧ ((s.gangClosed d k G).die d).tasks = ((s.gangGone d k G).die d).tasks := by
  have gone : (s.gangGone d k G).gang d k = none := by rw [State.gang, State.die_gangGone]; exact Map.find_del_same ..
  have mem : (s.gangGone d k G).mem = s.mem := (congrArg State.mem (s.idleAll_eq G.standing)).trans rfl
  unfold State.gangClosed
  cases here : s.grid d G.grid with
  | none => exact ⟨gone, mem, rfl, (fun _ absent => absurd absent.symm (Option.some_ne_none _)), rfl⟩
  | some x =>
    refine ⟨by rw [State.gang, State.die_setGrid]; exact gone, mem, rfl, fun y same => ?_, by rw [State.die_setGrid]⟩
    obtain rfl := Option.some.inj same
    exact State.grid_setGrid ..

end

/-! ### Completion of a grid (R325, R327) -/

/-- The grid is gone. -/
def State.dropGrid (s : State) (d g : Nat) : State :=
  s.setDie d { s.die d with grids := Map.del (s.die d).grids g }

theorem State.die_dropGrid (s : State) (d g : Nat) :
    (s.dropGrid d g).die d = { s.die d with grids := Map.del (s.die d).grids g } := State.die_setDie_same ..

section
variable {s : State} {d i : Nat} {y : Grid} (here : s.grid d i = some y) (released : y.released = true)
  (waiting : y.waiting = none) (finished : y.total ≤ y.finished)
include here released waiting finished

theorem State.gridEnds_alone (alone : recAddr y.record 2 = 0) : s.gridEnds d i = some (s.dropGrid d i) := by
  unfold State.gridEnds
  simp only [here, released, waiting, alone, Nat.not_lt.mpr finished, Bool.not_true, Option.isSome_none, Bool.or_self,
    decide_false, Bool.false_eq_true, if_false, if_true]
  rfl

/-- The right in which a grid joins. -/
def Grid.right (y : Grid) : EnqCtx := ⟨true, recAsid y.record, BitVec.ofNat 6 y.prio, y.job⟩

theorem State.gridEnds_joins {lf : Tlb} (joins : recAddr y.record 2 ≠ 0)
    (leaf : s.dieLeaf (recAsid y.record) (recAddr y.record 2) = some lf) (home : s.remote (leafHome lf) = false)
    (allowed : s.mem.checkLeaf .atomic true (recAsid y.record) lf.lo lf.hi (lf.pa (recAddr y.record 2)) = none)
    (free : s.dieHeld (recAsid y.record) (recAddr y.record 2) 16 = false)
    (read : s.joinHeld (lf.pa (recAddr y.record 2)) (pteKey lf.hi) (recAsid y.record) = false) :
    s.gridEnds d i = some ((s.dropGrid d i).joinWord d (lf.pa (recAddr y.record 2)) (pteKey lf.hi) y.right) := by
  have dies : (s.dropGrid d i).dieJoin d (recAddr y.record 2) y.right =
      (s.dropGrid d i).joinWord d (lf.pa (recAddr y.record 2)) (pteKey lf.hi) y.right := by
    have leaf' : (s.dropGrid d i).dieLeaf y.right.asid (recAddr y.record 2) = some lf := leaf
    have home' : (s.dropGrid d i).remote (leafHome lf) = false := home
    have allowed' : (s.dropGrid d i).mem.checkLeaf .atomic true y.right.asid lf.lo lf.hi (lf.pa (recAddr y.record 2)) =
        none := allowed
    unfold State.dieJoin
    simp only [leaf', home', allowed', Option.isSome_none, Bool.false_eq_true, if_false]
  rw [← dies]
  unfold State.gridEnds
  simp only [here, released, waiting, joins, Nat.not_lt.mpr finished, leaf, home, free, read, Bool.not_true,
    Option.isSome_none, Bool.or_self, decide_false, Bool.false_eq_true, if_false]
  rfl

end

/-! ### What a record leaves of the other grids -/

/-- No core changes, and no grid of a die but the one of the next number. -/
structure State.Adds (s t : State) (d : Nat) : Prop where
  cores : t.cores = s.cores
  grid : ∀ g, g ≠ (s.die d).nextGrid → t.grid d g = s.grid d g

theorem State.adds_discard (s : State) (d m : Nat) : s.Adds (s.discard d m) d := by
  obtain ⟨-, -, grids, cores, -⟩ := s.discard_drops d m
  exact ⟨cores, fun g _ => by rw [State.grid, grids]; rfl⟩

theorem State.adds_queueIn (s : State) (d m : Nat) (r : QRec) : s.Adds (s.queueIn d m r) d :=
  ⟨(s.queueIn_leaves d m r).2.1, fun g _ => s.grid_queueIn d m g r⟩

theorem State.adds_addGrid (s : State) (d : Nat) (x : Grid) : s.Adds (s.addGrid d x) d :=
  have ⟨_, _, cores, others⟩ := s.addGrid_spec d x
  ⟨cores, others⟩

theorem State.grid_releaseGrid_other {s : State} {d g h : Nat} (other : h ≠ g) :
    (s.releaseGrid d g).grid d h = s.grid d h := by
  unfold State.releaseGrid
  split
  next => rfl
  next x here =>
    obtain ⟨die, -⟩ := s.countOf_leaves x d
    generalize s.countOf x = counted at die
    obtain ⟨n, u⟩ := counted
    have grid (y : Grid) : (u.setGrid d g y).grid d h = s.grid d h := by
      rw [State.grid, State.die_setGrid, die]; exact Map.find_put_other _ _ other
    dsimp only
    split
    next => exact grid _
    next => rw [State.grid_queueIn]; exact grid _

theorem State.adds_release (s : State) (d : Nat) (x : Grid) :
    s.Adds ((s.addGrid d x).releaseGrid d (s.die d).nextGrid) d := by
  obtain ⟨here, -, cores, others⟩ := s.addGrid_spec d x
  exact ⟨(State.joins_releaseGrid here).2.trans cores,
    fun g other => (State.grid_releaseGrid_other other).trans (others g other)⟩

theorem State.adds_enqueue (s : State) (d : Nat) (r : BitVec 512) (src : EnqSource) (ctx : EnqCtx)
    (idx : Option (Nat × BitVec 8)) : s.Adds (s.enqueue d r src ctx idx) d := by
  by_cases lets : (s.queue d (recQueue r)).lets (recSpace r ctx)
  case neg => rw [State.enqueue_barred lets]; exact s.adds_discard d _
  cases open_ : recClose r
  case true =>
    rw [State.enqueue_close lets open_]
    exact ⟨rfl, fun g _ => s.grid_setQueue d _ _ g⟩
  cases pops : (s.queue d (recQueue r)).isPop
  case true =>
    rw [State.enqueue_pop lets open_ pops]
    split
    next => exact s.adds_queueIn ..
    next => exact s.adds_discard d _
  cases ok : recOk r src
  case false => rw [State.enqueue_bad lets open_ pops ok]; exact s.adds_discard d _
  rw [State.enqueue_ok lets open_ pops ok]
  split
  next => exact s.adds_release d _
  next =>
    split
    next =>
      split
      next => exact s.adds_release d _
      next => exact s.adds_addGrid d _
    next => exact s.adds_discard d _

/-! ### Join words (R327) -/

/-- A grid that waits for a word is released. -/
def Grid.freed (w : Nat) (x : Grid) : Grid := if x.waiting = some w then { x with released := true } else x

/-- The grids of a die with those that wait for a word released. -/
def Die.freed (w : Nat) (x : Die) : Die :=
  { x with grids := x.grids.map fun g => if g.2.waiting == some w then (g.1, { g.2 with released := true }) else g }

theorem Die.grids_freed (w : Nat) (x : Die) : (x.freed w).grids = x.grids.map fun g => (g.1, g.2.freed w) := by
  refine List.map_congr_left fun g _ => ?_
  rw [Grid.freed]
  by_cases waits : g.2.waiting = some w <;> simp [waits]

theorem State.die_releasePending (s : State) (w d : Nat) : (s.releasePending w).die d = (s.die d).freed w := by
  have is : (s.releasePending w).dies = s.dies.map fun e => (e.1, e.2.freed w) := rfl
  rw [State.die, Map.getD, is, Map.find_map, State.die, Map.getD]
  cases Map.find? s.dies d with
  | none => rfl
  | some x => rfl

theorem State.grid_releasePending (s : State) (w d g : Nat) :
    (s.releasePending w).grid d g = (s.grid d g).map (Grid.freed w) := by
  rw [State.grid, State.die_releasePending, Die.grids_freed]
  exact Map.find_map ..

/-- What a join writes of its word: one more has joined, or the count says that none may. -/
def joined (lo : Word) : Word := if lo.toNat % 2 ^ 32 = 0 then lo ||| 0x8000000000000000 else lo - 1

section
variable {s : State} {d pa : Nat} {key : BitVec 8} {ctx : EnqCtx}

/-- The two doublewords of a join word. -/
def Mem.joinLow (m : Mem) (pa : Nat) (key : BitVec 8) : Word := BitVec.ofNat 64 (leNat (m.load key pa 8))
def Mem.joinHigh (m : Mem) (pa : Nat) (key : BitVec 8) : Nat := leNat (m.load key (pa + 8) 8)

/-- The word is written. -/
def State.joinPut (s : State) (pa : Nat) (key : BitVec 8) (x : Word) : State :=
  { s with mem := s.mem.store key pa (leBytes 8 x.toNat) }

theorem State.joinPut_leaves (s : State) (pa : Nat) (key : BitVec 8) (x : Word) (d : Nat) :
    (s.joinPut pa key x).cores = s.cores ∧ (s.joinPut pa key x).die d = s.die d ∧ (s.joinPut pa key x).fab = s.fab
    ∧ (s.joinPut pa key x).mem = s.mem.store key pa (leBytes 8 x.toNat) := by
  simp only [State.die, State.joinPut, and_self]

/-- R327: the last to join releases the grids that wait for the word, and its continuation is enqueued. -/
def State.joinLast (s : State) (d pa hi : Nat) (err : Bool) (ctx : EnqCtx) : State :=
  let u := (s.releasePending (wordKey s.fab.modnum pa)).rootDone pa err
  if bitsAt hi 6 50 * 64 = 0 then u
  else match u.dieRead ctx.asid (bitsAt hi 6 50 * 64) 64 with
    | some bs => u.enqueue d (BitVec.ofNat 512 (leNat bs)) .join ctx none
    | none => { u with reports := u.reports ++ [Report.discarded d 256] }

theorem State.joinWord_eq (whole : s.mem.bad pa 16 = false) (clean : (s.mem.joinLow pa key).toNat / 2 ^ 32 % 2 ^ 31 = 0)
    (top : s.mem.joinHigh pa key / 2 ^ 56 % 2 ^ 8 = 0) (aligned : s.mem.joinHigh pa key % 64 = 0) :
    s.joinWord d pa key ctx = if (s.mem.joinLow pa key).toNat % 2 ^ 32 = 1
      then (s.joinPut pa key (joined (s.mem.joinLow pa key))).joinLast d pa (s.mem.joinHigh pa key)
        ((s.mem.joinLow pa key).getLsbD 63) ctx
      else s.joinPut pa key (joined (s.mem.joinLow pa key)) := by
  have count : bitsAt (s.mem.joinLow pa key).toNat 0 32 = (s.mem.joinLow pa key).toNat % 2 ^ 32 := by
    rw [bitsAt_eq, pow_zero, Nat.div_one]
  have zero : bitsAt (s.mem.joinLow pa key).toNat 32 31 = 0 := (bitsAt_eq ..).trans clean
  have zero' : bitsAt (s.mem.joinHigh pa key) 56 8 = 0 := (bitsAt_eq ..).trans top
  have zero'' : bitsAt (s.mem.joinHigh pa key) 0 6 = 0 := by rw [bitsAt_eq, pow_zero, Nat.div_one]; exact aligned
  have full : (decide (bitsAt (s.mem.joinLow pa key).toNat 0 32 = 0)
      || decide (bitsAt (s.mem.joinLow pa key).toNat 32 31 ≠ 0) || decide (bitsAt (s.mem.joinHigh pa key) 56 8 ≠ 0)
      || decide (bitsAt (s.mem.joinHigh pa key) 0 6 ≠ 0)) = true ↔ (s.mem.joinLow pa key).toNat % 2 ^ 32 = 0 := by
    rw [zero, zero', zero'', count]
    simp
  refine (if_neg (Bool.eq_false_iff.mp whole)).trans ?_
  by_cases none : (s.mem.joinLow pa key).toNat % 2 ^ 32 = 0
  · refine (if_pos (full.mpr none)).trans ?_
    rw [if_neg (by rw [none]; decide), joined, if_pos none]
    rfl
  · refine (if_neg (mt full.mp none)).trans ?_
    rw [joined, if_neg none]
    by_cases last : (s.mem.joinLow pa key).toNat % 2 ^ 32 = 1
    · rw [if_pos last]
      exact if_neg (not_not_intro (count.trans last))
    · rw [if_neg last]
      exact if_pos fun h => last (count.symm.trans h)

theorem State.joinLast_spec (hi : Nat) (err : Bool) : (s.joinLast d pa hi err ctx).cores = s.cores
    ∧ (s.joinLast d pa hi err ctx).mem.bytes = s.mem.bytes
    ∧ (∀ g, g ≠ (s.die d).nextGrid ∨ hi = 0 → (s.joinLast d pa hi err ctx).grid d g =
        (s.grid d g).map (Grid.freed (wordKey s.fab.modnum pa))) := by
  have grid (g : Nat) : ((s.releasePending (wordKey s.fab.modnum pa)).rootDone pa err).grid d g =
      (s.grid d g).map (Grid.freed (wordKey s.fab.modnum pa)) := s.grid_releasePending _ d g
  have next : (((s.releasePending (wordKey s.fab.modnum pa)).rootDone pa err).die d).nextGrid = (s.die d).nextGrid :=
    (congrArg Die.nextGrid (s.die_releasePending (wordKey s.fab.modnum pa) d) :)
  unfold State.joinLast
  dsimp only
  split
  next => exact ⟨rfl, rfl, fun g _ => grid g⟩
  next continues =>
    have some : hi ≠ 0 := fun zero => continues (by rw [zero]; rfl)
    split
    next bs read =>
      have adds := ((s.releasePending (wordKey s.fab.modnum pa)).rootDone pa err).adds_enqueue d
        (BitVec.ofNat 512 (leNat bs)) .join ctx none
      refine ⟨adds.cores, State.bytes_enqueue .., fun g other => ?_⟩
      exact (adds.grid g (by rw [next]; exact other.resolve_right some)).trans (grid g)
    next => exact ⟨rfl, rfl, fun g _ => grid g⟩

/-- R327: a join writes its word; the last one releases the grids that wait for it. -/
theorem State.joinWord_spec (whole : s.mem.bad pa 16 = false)
    (clean : (s.mem.joinLow pa key).toNat / 2 ^ 32 % 2 ^ 31 = 0) (top : s.mem.joinHigh pa key / 2 ^ 56 % 2 ^ 8 = 0)
    (aligned : s.mem.joinHigh pa key % 64 = 0) : (s.joinWord d pa key ctx).cores = s.cores
    ∧ (s.joinWord d pa key ctx).mem.bytes =
      (s.mem.store key pa (leBytes 8 (joined (s.mem.joinLow pa key)).toNat)).bytes
    ∧ (∀ g, s.grid d g = none → g ≠ (s.die d).nextGrid → (s.joinWord d pa key ctx).grid d g = none)
    ∧ ((s.mem.joinLow pa key).toNat % 2 ^ 32 = 1 → s.mem.joinHigh pa key = 0 → ∀ g,
        (s.joinWord d pa key ctx).grid d g = (s.grid d g).map (Grid.freed (wordKey s.fab.modnum pa))) := by
  rw [State.joinWord_eq whole clean top aligned]
  generalize s.mem.joinHigh pa key = hi
  generalize joined (s.mem.joinLow pa key) = x
  obtain ⟨cores, die, fab, mem⟩ := s.joinPut_leaves pa key x d
  generalize s.joinPut pa key x = u at cores die fab mem ⊢
  have grid (g : Nat) : u.grid d g = s.grid d g := by rw [State.grid, die, State.grid]
  split
  next last =>
    obtain ⟨cores', bytes, grids⟩ := u.joinLast_spec (d := d) (pa := pa) (ctx := ctx) hi ((s.mem.joinLow pa key).getLsbD 63)
    rw [die, fab] at grids
    exact ⟨cores'.trans cores, by rw [bytes, mem], fun g absent other => by rw [grids g (Or.inl other), grid, absent]; rfl,
      fun _ none g => by rw [grids g (Or.inr none), grid]⟩
  next more =>
    exact ⟨cores, by rw [mem], fun g absent _ => (grid g).trans absent, fun last => absurd last more⟩

end

/-! ### Barriers and transit phases (R330, R331) -/

theorem Gang.bar_nextPhase (G : Gang) (b u : Nat) : (G.nextPhase b).bar u =
    if u = b then { G.bar b with done := (G.bar b).done + 1 } else G.bar u := Map.getD_put ..

theorem Gang.phaseDone_all {G : Gang} {b : Nat} (launched : G.launched = true)
    (arrived : ∀ i < G.cores.length, (Map.getD (G.bar b).at_ i 0 - 1 - ((G.bar b).done + 1)).toNat < 2 ^ 15) :
    G.phaseDone b = true := by
  rw [Gang.phaseDone, launched, Bool.true_and]
  exact List.all_eq_true.mpr fun i there => decide_eq_true (arrived i (List.mem_range.mp there))

/-- A phase's count of a gang's cores changes nothing else of them. -/
theorem State.setPhase_spec (s : State) (G : Gang) (c : Option Nat) :
    s.setPhase G c = { s with cores := (s.setPhase G c).cores }
    ∧ ∀ n, ((s.setPhase G c).core n).ctx = (s.core n).ctx
      ∧ (n ∈ G.cores ∨ (s.core n).btw.phase = c → ((s.setPhase G c).core n).btw.phase = c) := by
  unfold State.setPhase
  generalize G.cores = ns
  induction ns generalizing s with
  | nil => exact ⟨rfl, fun n => ⟨rfl, fun h => h.resolve_left List.not_mem_nil⟩⟩
  | cons m ns ih =>
    obtain ⟨rest, cores⟩ := ih (s.setCore m { s.core m with btw := { (s.core m).btw with phase := c } })
    refine ⟨rest.trans rfl, fun n => ⟨(cores n).1.trans ?_, fun h => (cores n).2 ?_⟩⟩
    · by_cases here : n = m
      · rw [here, State.core_setCore_same]
      · rw [State.core_setCore_other _ _ here]
    · by_cases here : n = m
      · rw [here, State.core_setCore_same]; exact Or.inr rfl
      · rw [State.core_setCore_other _ _ here]
        exact h.imp_left fun there => (List.mem_cons.mp there).resolve_left here

theorem State.die_quietWires (s : State) (d : Nat) (G : Gang) : (s.quietWires d G).die d =
    { s.die d with wires := Map.keep (s.die d).wires fun k _ => !G.clusters.contains (k / 8) } := State.die_setDie_same ..

/-- The wires of a gang's routers are at rest. -/
theorem State.wires_quietWires (s : State) (d : Nat) {G : Gang} {x o : Nat} (here : x ∈ G.clusters) (out : o < 8) :
    Map.find? ((s.quietWires d G).die d).wires (x * 8 + o) = none := by
  rw [State.die_quietWires]
  refine (Map.find_filter (s.die d).wires (fun k => !G.clusters.contains (k / 8)) _).trans (if_neg ?_)
  rw [show (x * 8 + o) / 8 = x by omega, List.contains_iff_mem.mpr here]
  decide

/-- A gang with its phase changed, its cores told and its wires at rest. -/
def State.enterPhase (s : State) (d k : Nat) (G : Gang) (c : Option Nat) : State :=
  ((s.setGang d k G).setPhase G c).quietWires d G

theorem State.enterPhase_spec (s : State) (d k : Nat) (G : Gang) (c : Option Nat) :
    (s.enterPhase d k G c).gang d k = some G ∧ (s.enterPhase d k G c).mem = s.mem
    ∧ (∀ n, ((s.enterPhase d k G c).core n).ctx = (s.core n).ctx
      ∧ (n ∈ G.cores → ((s.enterPhase d k G c).core n).btw.phase = c))
    ∧ ∀ x ∈ G.clusters, ∀ o < 8, Map.find? ((s.enterPhase d k G c).die d).wires (x * 8 + o) = none := by
  obtain ⟨is, cores⟩ := (s.setGang d k G).setPhase_spec G c
  refine ⟨?_, ?_, fun n => ⟨(cores n).1, fun there => (cores n).2 (Or.inl there)⟩, fun x here o out =>
    State.wires_quietWires _ d here out⟩
  · rw [State.gang, State.enterPhase, State.die_quietWires, is]
    exact (congrArg (fun x : Die => Map.find? x.gangs k) (s.die_setGang d k G)).trans (Map.find_put_same ..)
  · exact (congrArg State.mem is).trans rfl

section
variable {s : State} {d k b : Nat} {G : Gang} (gang : s.gang d k = some G)
include gang

/-- R331: the first phase whose barrier is complete begins. -/
theorem State.transitStarts_first (still : G.transit = none) (small : b < 4) (complete : G.phaseDone (1020 + b) = true)
    (first : ∀ u < b, G.phaseDone (1020 + u) = false) : s.transitStarts d k =
      some (s.enterPhase d k { G.nextPhase (1020 + b) with transit := some (b, 0) } (some 0)) := by
  have found : ((List.range 4).find? fun j => G.phaseDone (1020 + j)) = some b := by
    have split : List.range 4 = List.range b ++ b :: (List.range 4).drop (b + 1) := by interval_cases b <;> rfl
    refine List.find?_eq_some_iff_append.mpr ⟨complete, _, _, split, fun u there => ?_⟩
    rw [first u (List.mem_range.mp there)]
    rfl
  unfold State.transitStarts
  simp only [gang, still, found, Option.isSome_none, Bool.false_eq_true, if_false]
  rfl

/-- It ends when every router of it has played its program. -/
theorem State.transitEnds_all {c : Nat} (phase : G.transit = some (b, c))
    (played : ∀ x ∈ G.clusters, ((s.die d).program x b).xlen ≤ c) :
    s.transitEnds d k = some (s.enterPhase d k { G with transit := none } none) := by
  have longest (xs : List Nat) (m : Nat) (below : m ≤ c) (all : ∀ x ∈ xs, ((s.die d).program x b).xlen ≤ c) :
      xs.foldl (fun m cl => max m ((s.die d).program cl b).xlen) m ≤ c := by
    induction xs generalizing m with
    | nil => exact below
    | cons x xs ih =>
      exact ih _ (Nat.max_le.mpr ⟨below, all x List.mem_cons_self⟩) fun y h => all y (List.mem_cons_of_mem _ h)
  unfold State.transitEnds
  simp only [gang, phase]
  exact if_neg (Nat.not_lt.mpr (longest G.clusters 0 (Nat.zero_le c) played))

end

/-! ### Pre-emption (R329) -/

section
variable {s : State} {d k : Nat} {G : Gang} (gang : s.gang d k = some G)
include gang

/-- A gang stands in a die that is listed. -/
theorem State.gang_listed : ∃ x, Map.find? s.dies d = some x ∧ Map.find? x.gangs k = some G := by
  rw [State.gang, State.die, Map.getD] at gang
  cases die : Map.find? s.dies d with
  | none => rw [die] at gang; cases gang
  | some x => rw [die] at gang; exact ⟨x, rfl, gang⟩

/-- A request is noted in the gang and posted to every context of it that has not given up its core. -/
theorem State.preempt_asks (kind prio n i : Nat) :
    (s.preempt d k kind prio).gang d k = some { G with preempt := some (preemptWord k kind prio, s.time) }
    ∧ (s.preempt d k kind prio).mem = s.mem ∧ ((s.preempt d k kind prio).core n).ctx = (s.core n).ctx
    ∧ (G.launched = true → G.cores[i]? = some n → i ∉ G.saved → i ∉ G.done → (s.core n).run ≠ .stopped .halted →
        ⟨19, 0, preemptWord k kind prio⟩ ∈ ((s.preempt d k kind prio).core n).pending) := by
  have noticed := s.noticed_preempt d k kind prio
  refine ⟨by rw [State.gang_preempt, if_pos ⟨rfl, rfl⟩, gang]; rfl, noticed.mem, noticed.ctx n,
    fun launched here kept left runs => ?_⟩
  have there : n ∈ ((if G.launched then G.cores.zipIdx.filter fun n =>
      (s.core n.1).run != .stopped .halted && !G.saved.contains n.2 && !G.done.contains n.2 else []).map (·.1)) := by
    refine List.mem_map.mpr ⟨(n, i), ?_, rfl⟩
    rw [if_pos launched]
    refine List.mem_filter.mpr ⟨List.mem_zipIdx_iff_getElem?.mpr here, ?_⟩
    simp only [bne_iff_ne.mpr runs, List.contains_eq_mem, kept, left, decide_false, Bool.not_false, Bool.and_self]
  obtain ⟨x, die, member⟩ := State.gang_listed gang
  unfold State.preempt
  simp only [die, member]
  exact State.Noticed.foldl_pending (fun _ _ => .post ..) ⟨n, there, fun u _ => State.pending_post u n _⟩

/-- A request that contexts have declined is repeated to them. -/
theorem State.preemptAgain_asks {w : Word} {t0 n : Nat} (asked : G.preempt = some (w, t0)) (late : t0 + 4096 ≤ s.time)
    (stands : n ∈ G.standing.map (·.1)) (declined : (s.core n).declined = true) : ∃ t, s.preemptAgain d k = some t
      ∧ t.gang d k = some { G with preempt := some (w, s.time) } ∧ t.mem = s.mem
      ∧ (t.core n).ctx = (s.core n).ctx ∧ ⟨19, 0, w⟩ ∈ (t.core n).pending := by
  have there : n ∈ (G.standing.map (·.1)).filter fun n => (s.core n).declined := List.mem_filter.mpr ⟨stands, declined⟩
  have some_ : ((G.standing.map (·.1)).filter fun n => (s.core n).declined).isEmpty = false :=
    List.isEmpty_eq_false_iff.mpr (List.ne_nil_of_mem there)
  have posted : (s.setGang d k { G with preempt := some (w, s.time) }).Noticed
      (((G.standing.map (·.1)).filter fun n => (s.core n).declined).foldl (fun (s : State) n => s.post n ⟨19, 0, w⟩)
        (s.setGang d k { G with preempt := some (w, s.time) })) := .foldl (fun _ _ => .post ..) _ _
  refine ⟨_, ?_, ?_, posted.mem, posted.ctx n, State.Noticed.foldl_pending (fun _ _ => .post ..)
    ⟨n, there, fun u _ => State.pending_post u n _⟩⟩
  · unfold State.preemptAgain
    simp only [gang, asked, some_, Nat.not_lt.mpr late, decide_false, Bool.or_self, Bool.false_eq_true, if_false]
  · rw [State.gang, State.die, State.dies_foldl _ fun _ _ => State.dies_post ..]
    exact State.gang_setGang ..

end

end Sys2Proof.Machine
end

section
open Sys2Proof Sys2Proof.Machine

/-- Settles O49: a gang leaves with its task and its cores, a grid with its join; a request goes to every context that is
still on its core; a phase is a gang's change with its cores and wires. -/
theorem gangsAndBarriers : Obligations.gangs_and_barriers := by
  intro d k b i n kind prio G y lf e w t0 c s asked stand
  refine ⟨fun gang launched kept ended left => ?gang, fun here released waiting finished => ⟨fun alone => ?alone,
    fun joins leaf home allowed whole free read => ?joins⟩, fun gang => ⟨fun outside => ?outside,
    fun cand aside level victim => ?own, fun preempt late stands declined => ?again,
    fun few launched arrived => ?barrier, fun still small complete first => ?starts, fun phase played => ?ends⟩⟩
  case gang =>
    obtain ⟨gone, mem, cores, grid, tasks⟩ := s.gangClosed_spec (d := d) (k := k) (G := G)
    have core : (s.gangClosed d k G).core n = (s.idleAll G.standing).core n := by rw [State.core, cores]; rfl
    rw [State.core_idleAll] at core
    refine ⟨(s.gangEnds d k).getD s, rfl, ?_⟩
    rw [State.gangEnds_ready gang launched kept ended left, Option.getD_some]
    refine ⟨gone, fun stands => core.trans (if_pos stands), mem, fun away => core.trans (if_neg away), grid, ?_⟩
    rw [tasks, State.die_gangGone]
    exact Map.getD_put_same ..
  case alone =>
    refine ⟨(s.gridEnds d i).getD s, rfl, ?_⟩
    rw [State.gridEnds_alone here released waiting finished alone, Option.getD_some]
    exact ⟨by rw [State.grid, State.die_dropGrid]; exact Map.find_del_same .., rfl, rfl, rfl⟩
  case joins =>
    intro lo hi put clean top aligned
    refine ⟨(s.gridEnds d i).getD s, rfl, ?_⟩
    rw [State.gridEnds_joins here released waiting finished joins leaf home allowed free read, Option.getD_some]
    have gone : (s.dropGrid d i).grid d i = none := by
      rw [State.grid, State.die_dropGrid]; exact Map.find_del_same ..
    have kept (g : Nat) (other : g ≠ i) : (s.dropGrid d i).grid d g = s.grid d g := by
      rw [State.grid, State.die_dropGrid]; exact Map.find_del_other _ other
    have next : ((s.dropGrid d i).die d).nextGrid = (s.die d).nextGrid := by rw [State.die_dropGrid]
    obtain ⟨cores, bytes, absent, last⟩ := State.joinWord_spec (s := s.dropGrid d i) (d := d) (ctx := y.right)
      whole clean top aligned
    rw [next] at absent
    exact ⟨absent i gone, cores, bytes, fun one none other => (last one none n).trans (by rw [kept n other]; rfl)⟩
  case outside =>
    refine ⟨s.preempt d k kind.toNat 0, ?_, State.preempt_asks gang kind.toNat 0 n i⟩
    exact if_neg outside
  case own =>
    have asks : (((s.die d).cands.filter (s.die d).isAside).any fun c =>
        c.level s.time == prio.toNat && (s.victims d c).contains k) = true :=
      List.any_eq_true.mpr ⟨e, List.mem_filter.mpr ⟨cand, aside⟩, by
        rw [level, beq_self_eq_true, List.contains_iff_mem.mpr victim]; rfl⟩
    refine ⟨s.preempt d k 0 prio.toNat, ?_, State.preempt_asks gang 0 prio.toNat n i⟩
    exact congrArg Host.Outcome.next (if_pos asks)
  case again =>
    obtain ⟨t, is, rest⟩ := State.preemptAgain_asks gang preempt late stands declined
    exact ⟨t, congrArg (fun u => Host.Outcome.next (Option.getD u s)) is, rest⟩
  case barrier =>
    have is : s.barCompletes d k b = some (s.setGang d k (G.nextPhase b)) := by
      simp only [State.barCompletes, gang, few, Gang.phaseDone_all launched arrived, decide_true, Bool.and_self, if_true]
    refine ⟨_, congrArg (fun u => Host.Outcome.next (Option.getD u s)) is,
      ⟨_, State.gang_setGang .., ?_, ?_, fun u other => ?_⟩, rfl, rfl⟩
    · rw [Gang.bar_nextPhase, if_pos rfl]
    · rw [Gang.bar_nextPhase, if_pos rfl]
    · rw [Gang.bar_nextPhase, if_neg other]
  case starts =>
    obtain ⟨gang', mem, cores, wires⟩ :=
      s.enterPhase_spec d k { G.nextPhase (1020 + b) with transit := some (b, 0) } (some 0)
    refine ⟨(s.transitStarts d k).getD s, rfl, ?_⟩
    rw [State.transitStarts_first gang still small complete first, Option.getD_some]
    refine ⟨⟨_, gang', rfl, ?_⟩, (cores n).2, (cores n).1, mem, wires⟩
    exact (congrArg Barrier.done (G.bar_nextPhase (1020 + b) (1020 + b))).trans (by rw [if_pos rfl])
  case ends =>
    obtain ⟨gang', mem, cores, wires⟩ := s.enterPhase_spec d k { G with transit := none } none
    refine ⟨(s.transitEnds d k).getD s, rfl, ?_⟩
    rw [State.transitEnds_all gang phase played, Option.getD_some]
    exact ⟨gang', (cores n).2, (cores n).1, mem, wires⟩

end

section
/-! The state of a fabric port: what its status word says, what passes from its retry buffer, and which port a message
takes when its own is gone. -/

namespace Sys2Proof.Machine

/-! ### The status word (R373, R376, Table FAB-3) -/

@[simp] theorem Fabric.status_setStatus (f : Fabric) (p : Nat) (x : Word) : (f.setStatus p x).status p = x :=
  Map.getD_put_same ..
@[simp] theorem Fabric.status_setLink (f : Fabric) (p q : Nat) (l : Link) : (f.setLink p l).status q = f.status q := rfl
@[simp] theorem Fabric.link_setStatus (f : Fabric) (p q : Nat) (x : Word) : (f.setStatus p x).link q = f.link q := rfl
theorem Fabric.width_eq (f : Fabric) (p : Nat) : f.width p = ((f.status p).extractLsb' 62 2).toNat := by
  rw [Fabric.width, BitVec.extractLsb'_toNat, bitsAt]; rfl

theorem width_withWidth (x : Word) {n : Nat} (h : n = 1 ∨ n = 2) : ((withWidth x n).extractLsb' 62 2).toNat = n := by
  have closed : (0x3FFFFFFFFFFFFFFF : Word).extractLsb' 62 2 = 0#2 := by decide
  rw [withWidth, BitVec.extractLsb'_or, BitVec.extractLsb'_and, closed, BitVec.and_zero, BitVec.zero_or]
  obtain rfl | rfl := h <;> decide
theorem low_withWidth (x : Word) {n : Nat} (h : n = 1 ∨ n = 2) :
    withWidth x n &&& 0x3FFFFFFFFFFFFFFF = x &&& 0x3FFFFFFFFFFFFFFF := by
  have apart : BitVec.ofNat 64 (n % 4 * 2 ^ 62) &&& 0x3FFFFFFFFFFFFFFF = 0#64 := by obtain rfl | rfl := h <;> decide
  rw [withWidth, BitVec.and_or_distrib_right, apart, BitVec.or_zero, BitVec.and_assoc, BitVec.and_self]
theorem width_cleared (x : Word) : ((x &&& 0xFFFFFFFF).extractLsb' 62 2).toNat = 0 := by
  have closed : (0xFFFFFFFF : Word).extractLsb' 62 2 = 0#2 := by decide
  rw [BitVec.extractLsb'_and, closed, BitVec.and_zero]; rfl

/-- What a neighbour advertises, as it stands in the status word. -/
def advertisedWord (m flags : Byte) : Word :=
  let b (i k : Nat) : Nat := if flags.getLsbD i then 2 ^ k else 0
  BitVec.ofNat 64 (b 0 61 + b 1 60 + b 2 59 + m.toNat * 2 ^ 48)
theorem Fabric.advertised_eq (f : Fabric) (p : Nat) (m flags : Byte) :
    f.advertised p m flags = f.setStatus p ((f.status p &&& 0xC0000000FFFFFFFF) ||| advertisedWord m flags) := rfl
/-- It as a number: three bits above the byte. -/
theorem toNat_advertisedWord (m flags : Byte) : (advertisedWord m flags).toNat =
    ((flags.getLsbD 0).toNat * 2 ^ 13 + (flags.getLsbD 1).toNat * 2 ^ 12 + (flags.getLsbD 2).toNat * 2 ^ 11 + m.toNat)
      * 2 ^ 48 := by
  have byte := m.isLt
  unfold advertisedWord
  dsimp only
  generalize flags.getLsbD 0 = b0
  generalize flags.getLsbD 1 = b1
  generalize flags.getLsbD 2 = b2
  rw [BitVec.toNat_ofNat]
  cases b0 <;> cases b1 <;> cases b2 <;>
    simp only [Bool.toNat_true, Bool.toNat_false, Bool.false_eq_true, if_true, if_false] <;> omega
theorem advertisedWord_bit (m flags : Byte) (i : Nat) : (advertisedWord m flags).getLsbD i =
    decide ((advertisedWord m flags).toNat / 2 ^ i % 2 = 1) := by
  rw [← BitVec.testBit_toNat, Nat.testBit_eq_decide_div_mod_eq]
theorem advertisedWord_fields (m flags : Byte) : (advertisedWord m flags).extractLsb' 0 32 = 0#32
    ∧ (advertisedWord m flags).extractLsb' 48 8 = m ∧ (advertisedWord m flags).extractLsb' 62 2 = 0#2
    ∧ (advertisedWord m flags).getLsbD 61 = flags.getLsbD 0 ∧ (advertisedWord m flags).getLsbD 60 = flags.getLsbD 1
    ∧ (advertisedWord m flags).getLsbD 59 = flags.getLsbD 2 := by
  have byte := m.isLt
  have field (lo n : Nat) : ((advertisedWord m flags).extractLsb' lo n).toNat =
      (advertisedWord m flags).toNat / 2 ^ lo % 2 ^ n := by
    rw [BitVec.extractLsb'_toNat, Nat.shiftRight_eq_div_pow]
  have bit (b : Bool) : b = decide (b.toNat = 1) := by cases b <;> rfl
  have b0 := (flags.getLsbD 0).toNat_le
  have b1 := (flags.getLsbD 1).toNat_le
  have b2 := (flags.getLsbD 2).toNat_le
  refine ⟨BitVec.eq_of_toNat_eq ?_, BitVec.eq_of_toNat_eq ?_, BitVec.eq_of_toNat_eq ?_, ?_, ?_, ?_⟩
  · rw [field, toNat_advertisedWord]; change _ = 0; omega
  · rw [field, toNat_advertisedWord]; omega
  · rw [field, toNat_advertisedWord]; change _ = 0; omega
  all_goals
    rw [advertisedWord_bit, toNat_advertisedWord]
    refine (decide_eq_decide.2 ?_).trans (bit _).symm
    omega

/-! ### The retry buffer (R375) -/

/-- The flits from the named one on. -/
def Link.from_ (l : Link) (ack : BitVec 16) : List (BitVec 16 × List Byte) :=
  l.retry.filter fun e => decide ((e.1 - ack).toNat < 2 ^ 15)
theorem Link.acked_eq (l : Link) (ack : BitVec 16) : l.acked ack = { l with
    retry := l.from_ ack
    retries := if (l.from_ ack).length = l.retry.length then l.retries else 0
    carry := (l.acked ack).carry } := by
  by_cases all : (l.from_ ack).length = l.retry.length
  · have keeps : l.acked ack = l := if_pos all
    have same : l.from_ ack = l.retry := List.filter_eq_self.2 (List.length_filter_eq_length_iff.1 all)
    rw [keeps, if_pos all, same]
  · have passes : l.acked ack = { l with
        retry := l.from_ ack, retries := 0
        carry := if (l.from_ ack).isEmpty && l.units.isEmpty then [] else l.carry } := if_neg all
    rw [passes, if_neg all]
theorem Link.again_eq (l : Link) (ack : BitVec 16) : l.again ack = { l with
    retry := l.from_ ack
    resend := (l.from_ ack).map (·.2)
    retries := (if (l.from_ ack).length = l.retry.length then l.retries else 0) + if l.from_ ack = [] then 0 else 1
    carry := (l.acked ack).carry } := by
  rw [Link.again, Link.acked_eq]
  cases l.from_ ack <;> rfl

/-! ### Messages that are given to a port (R379) -/

/-- Some links of `g` have further units to send than those of `f`; no port that is down has. -/
structure Fabric.Loaded (f g : Fabric) : Prop where
  only : g = { f with links := g.links }
  link : ∀ p, g.link p = { f.link p with units := (g.link p).units }
  down : ∀ p, f.width p = 0 → g.link p = f.link p

variable {f g h : Fabric}

theorem Fabric.Loaded.refl (f : Fabric) : f.Loaded f := ⟨rfl, fun _ => rfl, fun _ _ => rfl⟩
theorem Fabric.Loaded.width (fg : f.Loaded g) (p : Nat) : g.width p = f.width p := by rw [fg.only]; rfl
theorem Fabric.Loaded.portFor (fg : f.Loaded g) (dst tick : Nat) : g.portFor dst tick = f.portFor dst tick := by
  rw [fg.only]; rfl
theorem Fabric.Loaded.out (fg : f.Loaded g) : g.out = f.out := by rw [fg.only]
theorem Fabric.Loaded.trans (fg : f.Loaded g) (gh : g.Loaded h) : f.Loaded h where
  only := by rw [gh.only, fg.only]
  link p := by rw [gh.link, fg.link]
  down p closed := (gh.down p ((fg.width p).trans closed)).trans (fg.down p closed)

/-- The port of a message is one of its route's live ports, or none. -/
theorem Fabric.portFor_mem (f : Fabric) (dst tick : Nat) :
    f.portFor dst tick = noPort ∨ f.portFor dst tick ∈ f.livePorts dst := by
  unfold Fabric.portFor
  cases f.livePorts dst with
  | nil => exact .inl rfl
  | cons p ps =>
    have inside : Config.spread tick % (p :: ps).length < (p :: ps).length := Nat.mod_lt _ (Nat.succ_pos _)
    right
    dsimp only
    rw [List.getD_eq_getElem _ _ inside]
    exact List.getElem_mem inside
theorem Fabric.width_of_livePorts {f : Fabric} {dst p : Nat} (live : p ∈ f.livePorts dst) : f.width p ≠ 0 := by
  unfold Fabric.livePorts at live
  dsimp only at live
  split at live
  · simpa using (List.mem_filter.1 live).2
  · cases live
theorem Fabric.portFor_ne {f : Fabric} {p : Nat} (down : f.width p = 0) (port : p ≠ noPort) (dst tick : Nat) :
    f.portFor dst tick ≠ p := by
  rintro rfl
  exact (f.portFor_mem dst tick).elim port fun live => Fabric.width_of_livePorts live down

theorem Fabric.load_noPort (f : Fabric) (m : Msg) : f.load noPort m = f := if_pos rfl
theorem Fabric.load_port {p : Nat} (f : Fabric) (m : Msg) (port : p ≠ noPort) :
    f.load p m = f.setLink p { f.link p with units := (f.link p).units ++ msgUnits m } := if_neg port
theorem Fabric.loaded_load (f : Fabric) (m : Msg) (dst tick : Nat) : f.Loaded (f.load (f.portFor dst tick) m) := by
  obtain none_ | live := f.portFor_mem dst tick
  · rw [none_, Fabric.load_noPort]; exact .refl f
  by_cases port : f.portFor dst tick = noPort
  · rw [port, Fabric.load_noPort]; exact .refl f
  rw [Fabric.load_port f m port]
  refine ⟨rfl, fun p => ?_, fun p down => Fabric.link_setLink_other _ _ ?_⟩
  · by_cases same : p = f.portFor dst tick
    · rw [same, Fabric.link_setLink_same]
    · rw [Fabric.link_setLink_other _ _ same]
  · rintro rfl
    exact Fabric.width_of_livePorts live down

/-! ### Messages whose port is gone -/

/-- An unacknowledged message with its port and since when, once a port that is gone has been replaced. -/
def Fabric.replaced (f : Fabric) (gone : Nat → Bool) (tick time : Nat) (u : Msg × Nat × Nat) : Msg × Nat × Nat :=
  if gone u.2.1 then
    let p := f.portFor u.1.dst tick
    (u.1, p, if u.2.1 = noPort && p = noPort then u.2.2 else time)
  else u
/-- One message takes its new port. -/
def takePort (gone : Nat → Bool) (tick time : Nat) (x : Fabric × List (Msg × Nat × Nat)) (u : Msg × Nat × Nat) :
    Fabric × List (Msg × Nat × Nat) :=
  if gone u.2.1 then
    let p := x.1.portFor u.1.dst tick
    (x.1.load p u.1, x.2 ++ [(u.1, p, if u.2.1 = noPort && p = noPort then u.2.2 else time)])
  else (x.1, x.2 ++ [u])
/-- The messages of one channel do. -/
def Fabric.rerouteKey (f : Fabric) (gone : Nat → Bool) (tick time key : Nat) : Fabric :=
  let c := Map.getD f.out key Chan.reset
  let y := c.unacked.foldl (takePort gone tick time) (f, [])
  { y.1 with out := Map.put y.1.out key { c with unacked := y.2 } }
theorem Fabric.reroute_eq (f : Fabric) (gone : Nat → Bool) (tick time : Nat) : f.reroute gone tick time =
    (f.out.map (·.1)).foldl (fun f key => f.rerouteKey gone tick time key) f := by
  rw [List.foldl_map]; rfl

variable (gone : Nat → Bool) (tick time : Nat)

theorem takePort_spec (us : List (Msg × Nat × Nat)) (x : Fabric × List (Msg × Nat × Nat)) :
    x.1.Loaded (us.foldl (takePort gone tick time) x).1
      ∧ (us.foldl (takePort gone tick time) x).2 = x.2 ++ us.map (x.1.replaced gone tick time) := by
  induction us generalizing x with
  | nil => exact ⟨.refl _, (List.append_nil _).symm⟩
  | cons u us ih =>
    have one : x.1.Loaded (takePort gone tick time x u).1
        ∧ (takePort gone tick time x u).2 = x.2 ++ [x.1.replaced gone tick time u] := by
      unfold takePort Fabric.replaced
      split
      · exact ⟨x.1.loaded_load _ _ _, rfl⟩
      · exact ⟨.refl _, rfl⟩
    obtain ⟨loaded, listed⟩ := ih (takePort gone tick time x u)
    have same : (takePort gone tick time x u).1.replaced gone tick time = x.1.replaced gone tick time := by
      funext v; unfold Fabric.replaced; rw [one.1.portFor]
    exact ⟨one.1.trans loaded, by rw [List.foldl_cons, listed, one.2, same, List.append_assoc]; rfl⟩

/-- `g` is `f` with some messages on other ports: none that is down has been given any, and every channel keeps its
messages. -/
structure Fabric.Rerouted (f g : Fabric) : Prop where
  only : g = { f with links := g.links, out := g.out }
  link : ∀ p, g.link p = { f.link p with units := (g.link p).units }
  down : ∀ p, f.width p = 0 → g.link p = f.link p
  msgs : ∀ key, (Map.getD g.out key Chan.reset).unacked.map (·.1) = (Map.getD f.out key Chan.reset).unacked.map (·.1)

theorem Fabric.Rerouted.refl (f : Fabric) : f.Rerouted f := ⟨rfl, fun _ => rfl, fun _ _ => rfl, fun _ => rfl⟩
theorem Fabric.Rerouted.status (fg : f.Rerouted g) (p : Nat) : g.status p = f.status p := by rw [fg.only]; rfl
theorem Fabric.Rerouted.width (fg : f.Rerouted g) (p : Nat) : g.width p = f.width p := by rw [fg.only]; rfl
theorem Fabric.Rerouted.trans (fg : f.Rerouted g) (gh : g.Rerouted h) : f.Rerouted h where
  only := by rw [gh.only, fg.only]
  link p := by rw [gh.link, fg.link]
  down p closed := (gh.down p ((fg.width p).trans closed)).trans (fg.down p closed)
  msgs key := (gh.msgs key).trans (fg.msgs key)

theorem Fabric.replaced_msg (f : Fabric) (u : Msg × Nat × Nat) : (f.replaced gone tick time u).1 = u.1 := by
  unfold Fabric.replaced; split <;> rfl

/-- What a channel's turn does to its messages, and to another channel's. -/
theorem Fabric.unacked_rerouteKey (f : Fabric) (key k : Nat) :
    (Map.getD (f.rerouteKey gone tick time key).out k Chan.reset).unacked = if k = key then
      (Map.getD f.out key Chan.reset).unacked.map (f.replaced gone tick time)
    else (Map.getD f.out k Chan.reset).unacked := by
  obtain ⟨loaded, listed⟩ := takePort_spec gone tick time (Map.getD f.out key Chan.reset).unacked (f, [])
  unfold Fabric.rerouteKey
  dsimp only
  split
  next same => rw [same, Map.getD_put_same, listed, List.nil_append]
  next other => rw [Map.getD_put_other _ _ _ other, loaded.out]
theorem Fabric.rerouted_rerouteKey (f : Fabric) (key : Nat) : f.Rerouted (f.rerouteKey gone tick time key) := by
  obtain ⟨loaded, listed⟩ := takePort_spec gone tick time (Map.getD f.out key Chan.reset).unacked (f, [])
  refine ⟨?_, loaded.link, loaded.down, fun k => ?_⟩
  · unfold Fabric.rerouteKey
    dsimp only
    rw [loaded.only]
  · rw [Fabric.unacked_rerouteKey]
    split
    next same =>
      rw [same, List.map_map]
      exact List.map_congr_left fun u _ => f.replaced_msg gone tick time u
    next => rfl
theorem Fabric.rerouted_foldl (ks : List Nat) (f : Fabric) :
    f.Rerouted (ks.foldl (fun f key => f.rerouteKey gone tick time key) f) := by
  induction ks generalizing f with
  | nil => exact .refl f
  | cons key ks ih => exact (f.rerouted_rerouteKey gone tick time key).trans (ih _)
theorem Fabric.rerouted_reroute (f : Fabric) : f.Rerouted (f.reroute gone tick time) := by
  rw [Fabric.reroute_eq]; exact Fabric.rerouted_foldl ..

/-- No message of a channel stands on a port. -/
def Fabric.Leaves (f : Fabric) (p key : Nat) : Prop := ∀ u ∈ (Map.getD f.out key Chan.reset).unacked, u.2.1 ≠ p

variable {p key : Nat}

theorem Fabric.replaced_port {f : Fabric} (down : f.width p = 0) (port : p ≠ noPort) (u : Msg × Nat × Nat) :
    (f.replaced (· == p) tick time u).2.1 ≠ p := by
  unfold Fabric.replaced
  split
  next => exact Fabric.portFor_ne down port u.1.dst tick
  next here => simpa using here
theorem Fabric.Leaves.rerouteKey {f : Fabric} (down : f.width p = 0) (port : p ≠ noPort) (k : Nat)
    (left : f.Leaves p key ∨ key = k) : (f.rerouteKey (· == p) tick time k).Leaves p key := by
  intro u
  rw [Fabric.unacked_rerouteKey]
  split
  next => 
    rw [List.mem_map]
    rintro ⟨v, -, rfl⟩
    exact Fabric.replaced_port tick time down port v
  next other => exact (left.resolve_right other) u
theorem Fabric.leaves_foldl {f : Fabric} (down : f.width p = 0) (port : p ≠ noPort) (ks : List Nat)
    (left : f.Leaves p key ∨ key ∈ ks) :
    (ks.foldl (fun f key => f.rerouteKey (· == p) tick time key) f).Leaves p key := by
  induction ks generalizing f with
  | nil => exact left.resolve_right List.not_mem_nil
  | cons k ks ih =>
    refine ih (((f.rerouted_rerouteKey _ tick time k).width p).trans down) ?_
    obtain before | here := left
    · exact .inl (Fabric.Leaves.rerouteKey tick time down port k (.inl before))
    · obtain same | later := List.mem_cons.1 here
      · exact .inl (Fabric.Leaves.rerouteKey tick time down port k (.inr same))
      · exact .inr later
/-- R379: no channel keeps a message on a port that has gone down. -/
theorem Fabric.leaves_reroute {f : Fabric} (down : f.width p = 0) (port : p ≠ noPort) (key : Nat) :
    (f.reroute (· == p) tick time).Leaves p key := by
  rw [Fabric.reroute_eq]
  refine Fabric.leaves_foldl tick time down port _ ?_
  cases listed : Map.find? f.out key with
  | none => 
    left
    intro u hu
    rw [Map.getD, listed] at hu
    cases hu
  | some c => exact .inr (List.mem_map_of_mem (f := (·.1)) (Map.mem_of_find listed))

end Sys2Proof.Machine
end

section
/-! What befalls a fabric port: it goes down or comes up, is asked to send again, and receives a flit. -/

namespace Sys2Proof.Machine

variable {s : State} {p : Nat}

/-! ### A port goes down (R375, R379) -/

/-- In `t` the port is down and its link anew; the messages that it carried have arrived again, and no channel keeps one
of its messages on it. -/
def State.LostPort (s : State) (p key : Nat) (t : State) : Prop :=
  (t.cores = s.cores ∧ t.mem = s.mem) ∧ t.fab.width p = 0
    ∧ t.fab.link p = { Link.reset with wire := (s.fab.link p).wire }
    ∧ t.fab.arrived = s.fab.arrived ++ (s.fab.link p).carry.map (fun m => { m with hops := m.hops - 1 })
    ∧ (Map.getD t.fab.out key Chan.reset).unacked.map (·.1) = (Map.getD s.fab.out key Chan.reset).unacked.map (·.1)
    ∧ (p ≠ noPort → t.fab.Leaves p key)

/-- The port's link and status once it is down. -/
def Fabric.shut (f : Fabric) (p : Nat) : Fabric :=
  (f.setLink p { Link.reset with wire := (f.link p).wire }).setStatus p (f.status p &&& 0xFFFFFFFF)
theorem Fabric.width_shut (f : Fabric) (p : Nat) : (f.shut p).width p = 0 := by
  rw [Fabric.width_eq, Fabric.shut, Fabric.status_setStatus, width_cleared]
theorem State.fab_portFails (s : State) (p : Nat) : s.portFails p = { s with
    fab := { (s.fab.shut p).reroute (· == p) s.tick s.time with
      arrived := ((s.fab.shut p).reroute (· == p) s.tick s.time).arrived
        ++ (s.fab.link p).carry.map fun m => { m with hops := m.hops - 1 } } } := rfl
theorem State.lostPort_portFails (s : State) (p key : Nat) : s.LostPort p key (s.portFails p) := by
  have routed := (s.fab.shut p).rerouted_reroute (· == p) s.tick s.time
  have down := s.fab.width_shut p
  rw [State.fab_portFails]
  refine ⟨⟨rfl, rfl⟩, (routed.width p).trans down, (routed.down p down).trans (Fabric.link_setLink_same ..), ?_,
    routed.msgs key, fun port => Fabric.leaves_reroute s.tick s.time down port key⟩
  have kept : ((s.fab.shut p).reroute (· == p) s.tick s.time).arrived = s.fab.arrived := by rw [routed.only]; rfl
  rw [kept]

/-! ### Retries, retraining, link-up (R374 to R376) -/

theorem State.retries_few {ack : BitVec 16} (up : s.fab.width p ≠ 0) (few : ((s.fab.link p).again ack).retries < 16) :
    s.retries p ack = { s with
      fab := (s.fab.setLink p ((s.fab.link p).again ack)).setStatus p (countUp (s.fab.status p) 16) } := by
  unfold State.retries
  dsimp only
  rw [if_neg up, if_neg (Nat.not_le.2 few)]
theorem State.retries_many {ack : BitVec 16} (up : s.fab.width p ≠ 0) (many : 16 ≤ ((s.fab.link p).again ack).retries) :
    s.retries p ack = s.portFails p := by
  unfold State.retries
  dsimp only
  rw [if_neg up, if_pos many]

theorem execLaneRetrain_two (width : s.fab.width p = 2) : execLaneRetrain p s =
    .next { s with fab := s.fab.setLink p { s.fab.link p with training := true } } := by
  unfold execLaneRetrain
  simp only [width]
theorem execLaneRetrain_one (width : s.fab.width p = 1) : execLaneRetrain p s = .next (s.portFails p) := by
  unfold execLaneRetrain
  simp only [width]

/-- Training ends: a port that has lost a lane goes on with one. -/
def Fabric.narrowed (f : Fabric) (p : Nat) : Fabric :=
  (f.setLink p { f.link p with training := false, cap := true }).setStatus p (withWidth (f.status p) 1)
/-- Another port comes up anew. -/
def Fabric.raised (f : Fabric) (p n : Nat) : Fabric :=
  (f.setLink p { Link.reset with cap := true, wire := (f.link p).wire }).setStatus p (withWidth (f.status p) n)

theorem Fabric.narrowed_spec (f : Fabric) (p : Nat) : (f.narrowed p).width p = 1
    ∧ (f.narrowed p).status p &&& 0x3FFFFFFFFFFFFFFF = f.status p &&& 0x3FFFFFFFFFFFFFFF
    ∧ (f.narrowed p).link p = { f.link p with training := false, cap := true } := by
  have status : (f.narrowed p).status p = withWidth (f.status p) 1 := Fabric.status_setStatus ..
  rw [Fabric.width_eq, status]
  exact ⟨width_withWidth _ (.inl rfl), low_withWidth _ (.inl rfl), Fabric.link_setLink_same ..⟩
theorem Fabric.raised_spec (f : Fabric) (tick time p key : Nat) {n : Nat} (lanes : n = 1 ∨ n = 2) :
    let g := (f.raised p n).reroute (· == noPort) tick time
    let l := g.link p
    g.width p = n ∧ g.status p &&& 0x3FFFFFFFFFFFFFFF = f.status p &&& 0x3FFFFFFFFFFFFFFF
      ∧ l.cap = true ∧ l.next = 0 ∧ l.expect = 0 ∧ l.retry = [] ∧ l.used = []
      ∧ (Map.getD g.out key Chan.reset).unacked.map (·.1) = (Map.getD f.out key Chan.reset).unacked.map (·.1) := by
  intro g l
  have routed := (f.raised p n).rerouted_reroute (· == noPort) tick time
  have status : g.status p = withWidth (f.status p) n := (routed.status p).trans (Fabric.status_setStatus ..)
  have link : (f.raised p n).link p = { Link.reset with cap := true, wire := (f.link p).wire } :=
    Fabric.link_setLink_same ..
  have anew : l = { (f.raised p n).link p with units := l.units } := routed.link p
  rw [link] at anew
  rw [Fabric.width_eq, status, anew]
  exact ⟨width_withWidth _ lanes, low_withWidth _ lanes, rfl, rfl, rfl, rfl, rfl, routed.msgs key⟩

section
variable {lanes : BitVec 2}
theorem execLinkUp_absent (absent : s.pkg.record.portMap.getLsbD p = false) : execLinkUp p lanes s = .next s := by
  unfold execLinkUp
  dsimp only
  rw [absent, Bool.not_false, Bool.or_true, Bool.true_or, Bool.true_or, if_pos rfl]
/-- LINK_UP is taken where the port is presented and some lane has come up. -/
theorem linkUp_taken (en : s.fab.en = true) (present : s.pkg.record.portMap.getLsbD p = true)
    (some_ : lanes = 1 ∨ lanes = 2) :
    ¬ (!s.fab.en || !s.pkg.record.portMap.getLsbD p || lanes = 0 || lanes = 3) = true := by
  rw [en, present]
  obtain rfl | rfl := some_ <;> decide
theorem execLinkUp_training (taken : ¬ (!s.fab.en || !s.pkg.record.portMap.getLsbD p || lanes = 0 || lanes = 3) = true)
    (training : (s.fab.link p).training = true) : execLinkUp p lanes s = .next { s with fab := s.fab.narrowed p } := by
  unfold execLinkUp
  dsimp only
  rw [if_neg taken, if_pos training]
  rfl
theorem execLinkUp_anew (taken : ¬ (!s.fab.en || !s.pkg.record.portMap.getLsbD p || lanes = 0 || lanes = 3) = true)
    (trained : (s.fab.link p).training = false) (down : s.fab.width p = 0) : execLinkUp p lanes s =
    .next { s with fab := (s.fab.raised p lanes.toNat).reroute (· == noPort) s.tick s.time } := by
  unfold execLinkUp
  dsimp only
  rw [if_neg taken, trained, if_neg Bool.false_ne_true, if_neg (not_not.2 down)]
  rfl
end

/-- A retry request that does not bring the port down. -/
theorem State.retries_spec {ack : BitVec 16} (up : s.fab.width p ≠ 0) (few : (s.fab.link p).retries < 15) :
    let l := s.fab.link p
    let t := s.retries p ack
    (t.cores = s.cores ∧ t.mem = s.mem) ∧ (t.fab.link p).retry = l.from_ ack
      ∧ (t.fab.link p).resend = (l.from_ ack).map (·.2) ∧ t.fab.status p = countUp (s.fab.status p) 16
      ∧ (t.fab.link p).expect = l.expect
      ∧ (t.fab.link p).retries = (if (l.from_ ack).length = l.retry.length then l.retries else 0)
        + (if l.from_ ack = [] then 0 else 1) := by
  intro l t
  have room : (l.again ack).retries < 16 := by
    rw [Link.again_eq]
    have few : l.retries < 15 := few
    dsimp only
    split <;> split <;> omega
  have eq : t = _ := State.retries_few up room
  have link : t.fab.link p = l.again ack := by rw [eq]; exact Fabric.link_setLink_same ..
  have status : t.fab.status p = countUp (s.fab.status p) 16 := by rw [eq]; exact Fabric.status_setStatus ..
  rw [link, Link.again_eq]
  exact ⟨by rw [eq]; exact ⟨rfl, rfl⟩, rfl, rfl, status, rfl, rfl⟩

/-- What a neighbour's advertisement says, and what it leaves. -/
theorem Fabric.advertised_spec (f : Fabric) (p : Nat) (m flags : Byte) :
    let g := f.advertised p m flags
    let y := g.status p
    g.width p = f.width p ∧ y.extractLsb' 0 32 = (f.status p).extractLsb' 0 32 ∧ y.extractLsb' 48 8 = m
      ∧ y.getLsbD 61 = flags.getLsbD 0 ∧ y.getLsbD 60 = flags.getLsbD 1 ∧ y.getLsbD 59 = flags.getLsbD 2
      ∧ g.links = f.links := by
  intro g y
  obtain ⟨low, byte, width, f0, f1, f2⟩ := advertisedWord_fields m flags
  have eq : y = (f.status p &&& 0xC0000000FFFFFFFF) ||| advertisedWord m flags := Fabric.status_setStatus ..
  have keptLow : (0xC0000000FFFFFFFF : Word).extractLsb' 0 32 = BitVec.allOnes 32 := by decide
  have keptWidth : (0xC0000000FFFFFFFF : Word).extractLsb' 62 2 = BitVec.allOnes 2 := by decide
  have cleared : (0xC0000000FFFFFFFF : Word).extractLsb' 48 8 = 0#8 := by decide
  rw [Fabric.width_eq, Fabric.width_eq, show g.status p = y from rfl, eq]
  refine ⟨?_, ?_, ?_, ?_, ?_, ?_, rfl⟩
  · rw [BitVec.extractLsb'_or, BitVec.extractLsb'_and, keptWidth, width, BitVec.and_allOnes, BitVec.or_zero]
  · rw [BitVec.extractLsb'_or, BitVec.extractLsb'_and, keptLow, low, BitVec.and_allOnes, BitVec.or_zero]
  · rw [BitVec.extractLsb'_or, BitVec.extractLsb'_and, cleared, byte, BitVec.and_zero, BitVec.zero_or]
  all_goals rw [BitVec.getLsbD_or, BitVec.getLsbD_and]
  · rw [f0, show (0xC0000000FFFFFFFF : Word).getLsbD 61 = false from by decide, Bool.and_false, Bool.false_or]
  · rw [f1, show (0xC0000000FFFFFFFF : Word).getLsbD 60 = false from by decide, Bool.and_false, Bool.false_or]
  · rw [f2, show (0xC0000000FFFFFFFF : Word).getLsbD 59 = false from by decide, Bool.and_false, Bool.false_or]

/-! ### A flit is received (R375, R378) -/

/-- A retry request is due. -/
def Fabric.asks (f : Fabric) (p : Nat) : Fabric := f.setLink p { f.link p with nak := true }
/-- FECC counts a flit that has been corrected. -/
def Fabric.corrected (f : Fabric) (p fixed : Nat) : Fabric :=
  if fixed = 0 then f else f.setStatus p (countUp (f.status p) 0)
/-- The link after a numbered flit in sequence: the acknowledgement and the credits that it brings. -/
def Link.took (l : Link) (x : Flit) : Link :=
  { (l.acked x.ack).returned x.cvc x.cred with
    expect := ((l.acked x.ack).returned x.cvc x.cred).expect + 1, ackDue := true }
/-- A slot's unit. -/
def Fabric.slot (p : Nat) (f : Fabric) (u : Option (Nat × List Byte)) : Fabric :=
  match u with | some u => f.unit p u | none => f

section
variable {bs out : List Byte} {fixed : Nat}

/-- A port that is up and trained takes flits. -/
theorem State.takesFlits (up : s.fab.width p ≠ 0) (trained : (s.fab.link p).training = false) :
    ¬ (decide (s.fab.width p = 0) || (s.fab.link p).training) = true := by
  rw [trained, Bool.or_false, decide_eq_true_eq]; exact up
theorem State.flit_bad (open_ : ¬ (decide (s.fab.width p = 0) || (s.fab.link p).training) = true)
    (bad : flitCheck bs = none) : s.flit p bs = { s with fab := s.fab.asks p } := by
  unfold State.flit
  dsimp only
  rw [if_neg open_, bad]
  rfl
theorem State.flit_gap (open_ : ¬ (decide (s.fab.width p = 0) || (s.fab.link p).training) = true)
    (good : flitCheck bs = some (out, 0)) (kind : (flitOf out).kind = 0 ∨ (flitOf out).kind = 1 ∨ (flitOf out).kind = 3)
    (gap : (flitOf out).seq ≠ (s.fab.link p).expect) : s.flit p bs = { s with fab := s.fab.asks p } := by
  have data : (flitOf out).kind ≠ 2 := by omega
  have known : ¬ 4 ≤ (flitOf out).kind := by omega
  unfold State.flit
  dsimp only
  rw [if_neg open_, good]
  dsimp only
  rw [if_neg data, if_neg known, if_pos gap, if_pos rfl]
  rfl
theorem State.flit_retry (open_ : ¬ (decide (s.fab.width p = 0) || (s.fab.link p).training) = true)
    (good : flitCheck bs = some (out, 0)) (kind : (flitOf out).kind = 2) : s.flit p bs = s.retries p (flitOf out).ack := by
  unfold State.flit
  dsimp only
  rw [if_neg open_, good]
  dsimp only
  rw [if_pos kind, if_pos rfl]
theorem State.flit_data (open_ : ¬ (decide (s.fab.width p = 0) || (s.fab.link p).training) = true)
    (good : flitCheck bs = some (out, fixed)) (kind : (flitOf out).kind = 1)
    (next : (flitOf out).seq = (s.fab.link p).expect) : s.flit p bs = { s with
      fab := (flitOf out).slots.foldl (Fabric.slot p)
        ((s.fab.corrected p fixed).setLink p ((s.fab.link p).took (flitOf out))) } := by
  have data : (flitOf out).kind ≠ 2 := by omega
  have known : ¬ 4 ≤ (flitOf out).kind := by omega
  have numbered : (flitOf out).kind ≠ 0 := by omega
  unfold State.flit
  dsimp only
  rw [if_neg open_, good]
  dsimp only
  rw [if_neg data, if_neg known, if_neg (not_not.2 next), if_neg numbered, kind]
  rfl
end

/-- What the units of a flit leave of the fabric and of their port's link. -/
structure Fabric.Received (p : Nat) (f g : Fabric) : Prop where
  only : g = { f with links := g.links, arrived := g.arrived }
  link : g.link p = { f.link p with rx := (g.link p).rx, owed := (g.link p).owed }

variable {f g h : Fabric}

theorem Fabric.Received.refl (f : Fabric) : f.Received p f := ⟨rfl, rfl⟩
theorem Fabric.Received.trans (fg : Fabric.Received p f g) (gh : Fabric.Received p g h) : Fabric.Received p f h where
  only := by rw [gh.only, fg.only]
  link := by rw [gh.link, fg.link]
theorem Fabric.Received.status (fg : Fabric.Received p f g) (q : Nat) : g.status q = f.status q := by rw [fg.only]; rfl
theorem Fabric.link_arriving (f : Fabric) (ms : List Msg) (q : Nat) :
    Fabric.link { f with arrived := ms } q = f.link q := rfl
theorem Fabric.received_unit (f : Fabric) (p : Nat) (u : Nat × List Byte) : Fabric.Received p f (f.unit p u) := by
  unfold Fabric.unit
  dsimp only
  split
  · exact ⟨rfl, by rw [Fabric.link_setLink_same]⟩
  · refine ⟨rfl, ?_⟩
    rw [Fabric.link_arriving, Fabric.link_setLink_same]
theorem Fabric.received_slots (us : List (Option (Nat × List Byte))) (f : Fabric) (p : Nat) :
    Fabric.Received p f (us.foldl (Fabric.slot p) f) := by
  induction us generalizing f with
  | nil => exact .refl f
  | cons u us ih =>
    have one : Fabric.Received p f (Fabric.slot p f u) := by
      cases u with
      | none => exact .refl f
      | some u => exact f.received_unit p u
    exact one.trans (ih _)
/-- A message of one unit has arrived with it. -/
theorem Fabric.unit_whole {vc : Nat} {ub : List Byte} (first : Map.find? (f.link p).rx vc = none) (whole : ub.length = 64)
    (one : leNat (ub.take 8) / 2 ^ 27 % 2 ^ 6 = 0) : (f.unit p (vc, ub)).arrived = f.arrived ++ [msgOf ub]
      ∧ Map.getD ((f.unit p (vc, ub)).link p).owed vc 0 = Map.getD (f.link p).owed vc 0 + 1 := by
  have joined : Map.getD (f.link p).rx vc [] ++ ub = ub := by rw [Map.getD, first]; rfl
  have all : ¬ ub.length < 64 * (bitsAt (leNat (ub.take 8)) 27 6 + 1) := by rw [bitsAt_eq, one, whole]; decide
  unfold Fabric.unit
  dsimp only
  rw [joined, if_neg all]
  refine ⟨rfl, ?_⟩
  rw [Fabric.link_arriving, Fabric.link_setLink_same, Map.getD_put_same]

/-- What the link's other fields are. -/
theorem Fabric.Received.fields {l : Link} (fg : Fabric.Received p f g) (link : f.link p = l) :
    (g.link p).expect = l.expect ∧ (g.link p).ackDue = l.ackDue ∧ (g.link p).nak = l.nak
      ∧ (g.link p).retry = l.retry := by
  rw [fg.link, link]
  exact ⟨rfl, rfl, rfl, rfl⟩

theorem Link.took_fields (l : Link) (x : Flit) : (l.took x).expect = l.expect + 1 ∧ (l.took x).ackDue = true
    ∧ (l.took x).nak = l.nak ∧ (l.took x).retry = l.from_ x.ack ∧ (l.took x).rx = l.rx ∧ (l.took x).owed = l.owed := by
  rw [Link.took, Link.returned, Link.acked_eq]
  exact ⟨rfl, rfl, rfl, rfl, rfl, rfl⟩

theorem Fabric.link_corrected (f : Fabric) (p fixed : Nat) : (f.corrected p fixed).link p = f.link p := by
  unfold Fabric.corrected; split <;> rfl
theorem Fabric.arrived_corrected (f : Fabric) (p fixed : Nat) : (f.corrected p fixed).arrived = f.arrived := by
  unfold Fabric.corrected; split <;> rfl
theorem Fabric.status_corrected (f : Fabric) (p fixed : Nat) : (f.corrected p fixed).status p =
    if fixed = 0 then f.status p else countUp (f.status p) 0 := by
  unfold Fabric.corrected
  split
  · rfl
  · exact Fabric.status_setStatus ..

/-- What a flit in sequence does to its port. -/
theorem State.flit_data_spec {bs out : List Byte} {fixed : Nat}
    (open_ : ¬ (decide (s.fab.width p = 0) || (s.fab.link p).training) = true)
    (good : flitCheck bs = some (out, fixed)) (kind : (flitOf out).kind = 1)
    (next : (flitOf out).seq = (s.fab.link p).expect) :
    let l := s.fab.link p
    let t := s.flit p bs
    (t.cores = s.cores ∧ t.mem = s.mem) ∧ (t.fab.link p).expect = l.expect + 1 ∧ (t.fab.link p).ackDue = true
      ∧ (t.fab.link p).nak = l.nak
      ∧ t.fab.status p = (if fixed = 0 then s.fab.status p else countUp (s.fab.status p) 0)
      ∧ (t.fab.link p).retry = l.from_ (flitOf out).ack := by
  intro l t
  have link : ((s.fab.corrected p fixed).setLink p (l.took (flitOf out))).link p = l.took (flitOf out) :=
    Fabric.link_setLink_same ..
  have received := Fabric.received_slots (flitOf out).slots
    ((s.fab.corrected p fixed).setLink p (l.took (flitOf out))) p
  obtain ⟨expect, due, nak, retry⟩ := received.fields link
  obtain ⟨expect', due', nak', retry', -, -⟩ := l.took_fields (flitOf out)
  have eq : t = _ := State.flit_data open_ good kind next
  rw [eq]
  refine ⟨⟨rfl, rfl⟩, expect.trans expect', due.trans due', nak.trans nak', (received.status p).trans ?_,
    retry.trans retry'⟩
  rw [Fabric.status_setLink, Fabric.status_corrected]
/-- A flit that brings a whole message. -/
theorem State.flit_message {bs out ub : List Byte} {fixed vc : Nat}
    (open_ : ¬ (decide (s.fab.width p = 0) || (s.fab.link p).training) = true)
    (good : flitCheck bs = some (out, fixed)) (kind : (flitOf out).kind = 1)
    (next : (flitOf out).seq = (s.fab.link p).expect) (slots : (flitOf out).slots = [some (vc, ub), none, none])
    (first : Map.find? (s.fab.link p).rx vc = none) (whole : ub.length = 64)
    (one : leNat (ub.take 8) / 2 ^ 27 % 2 ^ 6 = 0) : (s.flit p bs).fab.arrived = s.fab.arrived ++ [msgOf ub]
      ∧ Map.getD ((s.flit p bs).fab.link p).owed vc 0 = Map.getD (s.fab.link p).owed vc 0 + 1 := by
  have link : ((s.fab.corrected p fixed).setLink p ((s.fab.link p).took (flitOf out))).link p =
    (s.fab.link p).took (flitOf out) := Fabric.link_setLink_same ..
  obtain ⟨-, -, -, -, rx, owing⟩ := (s.fab.link p).took_fields (flitOf out)
  have empty :
      Map.find? (((s.fab.corrected p fixed).setLink p ((s.fab.link p).took (flitOf out))).link p).rx vc = none := by
    rw [link, rx]; exact first
  obtain ⟨arrived, owed⟩ := Fabric.unit_whole empty whole one
  rw [State.flit_data open_ good kind next, slots]
  refine ⟨arrived.trans ?_, owed.trans ?_⟩
  · rw [show ((s.fab.corrected p fixed).setLink p ((s.fab.link p).took (flitOf out))).arrived = s.fab.arrived from
      s.fab.arrived_corrected p fixed]
  · rw [link, owing]

end Sys2Proof.Machine
end

section
open Sys2Proof Sys2Proof.Machine

/-- Settles O52: what a port does to the fabric is a change of its link and its status; a port that goes down or comes up
also has the messages that lost their port take another, of which each channel loses none. -/
theorem ports : Obligations.ports := by
  intro p key fixed vc bs out ub ack lanes m flags s f l x low local_ kept downed open_
  refine ⟨fun o bad => ?_, fun o good kind gap => ?_, fun o good kind next => ?_, fun o good kind => ?_, fun up few => ?_,
    fun up many some_ all => ?_, ⟨_, rfl, s.lostPort_portFails p key⟩, fun width => ?_, fun width => ?_,
    fun en present some_ training => ?_, fun absent => ?_, fun en present some_ trained down => ?_, fun up => ?_⟩
  · exact ⟨_, rfl, by rw [State.flit_bad (State.takesFlits o.1 o.2) bad]; exact ⟨⟨rfl, rfl⟩, rfl⟩⟩
  · exact ⟨_, rfl, by rw [State.flit_gap (State.takesFlits o.1 o.2) good kind gap]; exact ⟨⟨rfl, rfl⟩, rfl⟩⟩
  · have takes := State.takesFlits o.1 o.2
    obtain ⟨stays, expect, due, nak, status, retry⟩ := State.flit_data_spec takes good kind next
    exact ⟨_, rfl, stays, expect, due, nak, status, retry, State.flit_message takes good kind next⟩
  · exact ⟨_, rfl, by rw [State.flit_retry (State.takesFlits o.1 o.2) good kind]; rfl⟩
  · exact ⟨_, rfl, State.retries_spec up few⟩
  · have all_ : l.from_ ack = l.retry := all
    have asked : 16 ≤ (l.again ack).retries := by
      rw [Link.again_eq, all_, if_pos rfl, if_neg some_]; exact Nat.succ_le_succ many
    refine ⟨_, rfl, ?_⟩
    rw [State.retries_many up asked]
    exact s.lostPort_portFails p key
  · exact ⟨_, execLaneRetrain_two width, ⟨rfl, rfl⟩, rfl⟩
  · exact ⟨_, execLaneRetrain_one width, s.lostPort_portFails p key⟩
  · exact ⟨_, execLinkUp_training (linkUp_taken en present some_) training, ⟨rfl, rfl⟩, f.narrowed_spec p⟩
  · exact ⟨_, execLinkUp_absent absent, rfl⟩
  · have lanes_ : lanes.toNat = 1 ∨ lanes.toNat = 2 := some_.imp (congrArg _) (congrArg _)
    exact ⟨_, execLinkUp_anew (linkUp_taken en present some_) trained down, ⟨rfl, rfl⟩,
      f.raised_spec s.tick s.time p key lanes_⟩
  · exact ⟨_, congrArg Host.Outcome.next (if_neg up), ⟨rfl, rfl⟩, f.advertised_spec p m flags⟩

end

section
/-! ROUTE_TIMEOUT of a request whose core number names no core: at numbers from 1024 on the requests are those of the
memory's list, and to end one there takes it off that list. -/

namespace Sys2Proof.Machine

/-- A store of the memory's list. -/
def listedStore : Acc := agentReq (.store 0 [] false .module) 0 0 false false 0
/-- A message for module 5 that has had no port since time 0. -/
def strandedMsg : Msg := ⟨5, 0, 0, 0, 0, 0, []⟩
/-- What waits for its completion: request 0 of source 1024. -/
def strandedRemote : Remote := ⟨1024, false, 0, 0, 0, true, 5, 0, 0, 0⟩
/-- FABCFG.TMO has passed for it. -/
def strandedRequest : State := { State.reset with
  mem := { Mem.reset with reqs := [(0, listedStore)] }
  fab := { Fabric.reset with
    out := [(chanKey 0 5 0, { Chan.reset with unacked := [(strandedMsg, noPort, 0)] })], waiting := [strandedRemote] }
  time := 0x186A0 }

/-- The message has waited long enough. -/
theorem strandedRequest_late : strandedRequest.fab.stranded[0]? = some (chanKey 0 5 0, strandedMsg, 0)
    ∧ 0 + strandedRequest.fab.tmo ≤ strandedRequest.time := by decide +kernel
/-- The request has left the memory's list. -/
theorem strandedRequest_dropped : exec (.routeTimeout 0) strandedRequest =
      .next ((strandedRequest.routeFails 0).getD strandedRequest)
    ∧ ((strandedRequest.routeFails 0).getD strandedRequest).mem.reqs = [] := ⟨rfl, by decide +kernel⟩

end Sys2Proof.Machine
end

section
open Sys2Proof Sys2Proof.Machine

/-- Refutes O53: its clause on ROUTE_TIMEOUT has the memory stay in every state. Where what waits for the stranded message
names a source from 1024 on, which no core has, its request is one of the memory's list, and the failure takes it off. -/
theorem not_messages : ¬ Obligations.messages := by
  intro h
  obtain ⟨-, -, -, -, -, timeout, -, -⟩ :=
    h 0 0 0 (chanKey 0 5 0) 0 0 strandedMsg strandedRemote listedStore stoppedCopy ⟨0, 0, none, none⟩ [] strandedRequest
  obtain ⟨found, late⟩ := strandedRequest_late
  obtain ⟨t, step, -, kept, -⟩ := timeout found late
  obtain ⟨taken, dropped⟩ := strandedRequest_dropped
  obtain rfl : _ = t := Host.Outcome.next.inj (taken.symm.trans step)
  rw [kept] at dropped
  exact absurd dropped (by decide)

end

section
/-! Reset, start, firmware, attestation and power loss: what each reads back, over lists that need not be in order. -/

namespace Sys2Proof.Machine

/-! ### Lists of entries -/

/-- What a list by key that is made from a list of keys reads as. -/
theorem Map.find_filterMap {α : Type} (ks : List Nat) (c : Nat → Bool) (v : Nat → α) (k : Nat) :
    Map.find? (ks.filterMap fun k => if c k then some (k, v k) else none) k =
      if k ∈ ks ∧ c k then some (v k) else none := by
  induction ks with
  | nil => simp
  | cons j ks ih =>
    rw [List.filterMap_cons]
    by_cases listed : c j = true
    · rw [if_pos listed]
      by_cases same : j = k
      · subst same
        simp [Map.find?, listed]
      · have other : k ≠ j := Ne.symm same
        rw [Map.find?, if_neg same, ih]
        simp [other]
    · rw [if_neg listed]
      by_cases same : k = j
      · subst same
        simp [ih, listed]
      · simp [ih, same]

/-- An entry that is kept is found, or another of its key. -/
theorem Map.isSome_keep {α : Type} {m : Map α} {p : Nat → α → Bool} {k : Nat} {x : α} (listed : Map.find? m k = some x)
    (kept : p k x = true) : (Map.find? (Map.keep m p) k).isSome = true := by
  induction m with
  | nil => cases listed
  | cons e m ih =>
    obtain ⟨j, y⟩ := e
    rw [Map.find?] at listed
    rw [Map.keep, List.filter_cons]
    by_cases same : j = k
    · rw [if_pos same, Option.some.injEq] at listed
      subst same listed
      rw [if_pos kept, Map.find?, if_pos rfl]; rfl
    · rw [if_neg same] at listed
      split
      · rw [Map.find?, if_neg same]; exact ih listed
      · exact ih listed
/-- An entry that is found among those kept is one that is kept. -/
theorem Map.kept_of_find {α : Type} {m : Map α} {p : Nat → α → Bool} {k : Nat} {x : α}
    (found : Map.find? (Map.keep m p) k = some x) : p k x = true :=
  (List.mem_filter.1 (Map.mem_of_find found)).2

/-- The cells of some addresses are kept. -/
theorem Memory.read_filter {m : Memory} {lo : Nat} (q : Nat → Bool) (a : Nat) (h : m.wfFrom lo = true) :
    Memory.read (m.filter fun c => q c.1) a = if q a then m.read a else Memory.unlisted := by
  induction m generalizing lo with
  | nil => exact (ite_self _).symm
  | cons c m ih =>
    obtain ⟨b, x⟩ := c
    simp only [Memory.wfFrom, Bool.and_eq_true] at h
    have rest := ih h.2
    have below (before : a < b) : Memory.read m a = Memory.unlisted :=
      Memory.read_below h.2 (Nat.lt_succ_of_lt before)
    rw [List.filter_cons]
    by_cases same : b = a
    · subst same
      cases kept : q b <;> simp_all [Memory.read]
    · by_cases before : a < b
      · cases kept : q b <;> simp [Memory.read, same, before, rest, below before]
      · cases kept : q b <;> simp [Memory.read, same, before, rest]

/-- A memory is written over another: what it lists is read. -/
theorem Memory.read_foldl_write {cs m : Memory} {lo : Nat} (a : Nat) (listed : cs.wfFrom lo = true) (h : m.wf = true) :
    Memory.read (cs.foldl (fun (m : Memory) c => Memory.write m c.1 c.2) m) a =
      if cs.read a = Memory.unlisted then m.read a else cs.read a := by
  induction cs generalizing m lo with
  | nil => rfl
  | cons c cs ih =>
    obtain ⟨b, x⟩ := c
    simp only [Memory.wfFrom, Bool.and_eq_true, bne_iff_ne] at listed
    obtain ⟨⟨-, value⟩, later⟩ := listed
    rw [List.foldl_cons, ih later (Memory.write_wf b x h), Memory.read]
    rcases Nat.lt_trichotomy a b with before | rfl | after
    · rw [Memory.read_below later (Nat.lt_succ_of_lt before), Memory.read_write_other x h before.ne, if_neg before.ne',
        if_pos before]
    · rw [Memory.read_below later (Nat.lt_succ_self a), Memory.read_write_same x h (Nat.zero_le a), if_pos rfl, if_pos rfl,
        if_neg value]
    · rw [Memory.read_write_other x h after.ne', if_neg after.ne, if_neg after.asymm]

/-! ### Reset (R341, R342, R355) -/

/-- What an image must be to run. -/
theorem Pkg.imageOk_iff (p : Pkg) (x : FwImage) : p.imageOk x = true ↔
    Config.verifies (Machine.digest (signedPart x)) x.signature = true ∧ x.length = x.body.length
      ∧ ((p.record.fwMin.find? fun e => e.1 == x.kind).map (·.2)).getD 0 ≤ x.version := by
  rw [Pkg.imageOk, Bool.and_eq_true, Bool.and_eq_true, beq_iff_eq, decide_eq_true_eq, and_assoc]

/-- The images that stand ready for a reset, and those of them that may run. -/
def Pkg.images (p : Pkg) : Map FwImage := p.pendingFw.foldl (fun m e => Map.put m e.1 e.2) p.running
def Pkg.runnable (p : Pkg) : Map FwImage := Map.keep p.images fun _ x => p.imageOk x
theorem State.state_moduleReset (s : State) : s.moduleReset.pkg.state =
    if s.pkg.recordOk && (List.range 3).all fun k => (Map.find? s.pkg.runnable k).isSome then 1 else 5 := rfl
/-- R341: where the record and an image of each kind verify the module comes up. -/
theorem State.moduleReset_good {s : State} (record : s.pkg.recordOk = true)
    (images : ∀ k < 3, ∃ y, Map.find? s.pkg.images k = some y ∧ s.pkg.imageOk y = true) : s.moduleReset.pkg.state = 1 := by
  rw [State.state_moduleReset, record, Bool.true_and, if_pos]
  refine List.all_eq_true.2 fun k hk => ?_
  obtain ⟨y, listed, ok⟩ := images k (List.mem_range.1 hk)
  exact Map.isSome_keep (p := fun _ x => s.pkg.imageOk x) listed ok
/-- Where no image verifies it does not. -/
theorem State.moduleReset_failed {s : State} (h : ∀ x, s.pkg.recordOk = true → s.pkg.imageOk x = false) :
    s.moduleReset.pkg.state = 5 := by
  rw [State.state_moduleReset, if_neg]
  rw [Bool.and_eq_true]
  rintro ⟨record, images⟩
  obtain ⟨x, found⟩ := Option.isSome_iff_exists.1 (List.all_eq_true.1 images 0 (by decide))
  exact Bool.false_ne_true ((h x record).symm.trans (Map.kept_of_find (p := fun _ x => s.pkg.imageOk x) found))

/-- The quarantine bits of a presented pair. -/
def Pkg.annex (p : Pkg) (x : Shape) (k : Nat) : BitVec 3 :=
  ((p.record.pairQ.find? fun e => e.1 == x.physPair k).map (·.2)).getD 0 ||| Map.getD p.qannex (x.physPair k) 0
theorem Pkg.find_quarantined {p : Pkg} {x : Shape} {k : Nat} (small : k < 512) (die : k / 128 < x.nd)
    (cluster : k / 4 % 32 < x.ncl (k / 128)) : Map.getD (p.quarantined x) k Pair.reset = pairOfAnnex (p.annex x k) := by
  have eq : p.quarantined x = (List.range 512).filterMap fun k =>
      if decide (k / 128 < x.nd) && decide (k / 4 % 32 < x.ncl (k / 128)) && p.annex x k != 0 then
        some (k, pairOfAnnex (p.annex x k)) else none := rfl
  rw [Map.getD, eq, Map.find_filterMap]
  by_cases clear : p.annex x k = 0
  · simp [clear, pairOfAnnex, Pair.reset]
  · have set : (p.annex x k != 0) = true := bne_iff_ne.2 clear
    rw [if_pos ⟨List.mem_range.2 small, by rw [set, decide_eq_true die, decide_eq_true cluster]; rfl⟩, Option.getD_some]

theorem State.pair_moduleReset {s : State} {k : Nat} (small : k < 512) (die : k / 128 < (shapeOf s.pkg.record).nd)
    (cluster : k / 4 % 32 < (shapeOf s.pkg.record).ncl (k / 128)) :
    s.moduleReset.pair k = pairOfAnnex (s.pkg.annex (shapeOf s.pkg.record) k) := by
  unfold State.pair State.moduleReset
  dsimp only
  rw [Pkg.find_quarantined small die cluster]

/-! ### Firmware and attestation (R353, R355, R356) -/

theorem Pkg.update_refused {p : Pkg} {x : FwImage} (bad : p.imageOk x = false) : p.update x = p := by
  rw [Pkg.update, bad]; rfl
theorem Pkg.update_taken {p : Pkg} {x : FwImage} (ok : p.imageOk x = true) : p.update x =
    if x.errata = p.errata then { p with pendingFw := Map.put p.pendingFw x.kind x }
    else Pkg.newErrata { p with pendingFw := Map.put p.pendingFw x.kind x } x.errata := by
  rw [Pkg.update, ok]; rfl
theorem Pkg.running_update (p : Pkg) (x : FwImage) : (p.update x).running = p.running := by
  cases ok : p.imageOk x with
  | false => rw [Pkg.update_refused ok]
  | true => rw [Pkg.update_taken ok]; split <;> rfl
/-- An image that is taken waits for the reset; its errata mask acts at once. -/
theorem Pkg.update_spec {p : Pkg} {x : FwImage} (ok : p.imageOk x = true) :
    Map.find? (p.update x).pendingFw x.kind = some x ∧ (p.update x).errata = x.errata
      ∧ ∀ e ∈ (p.update x).owc, p.record.sealedCache = false → x.errata ≠ p.errata →
        e.errata = x.errata ∧ (p.errata ^^^ x.errata) &&& e.relmask = 0 := by
  rw [Pkg.update_taken ok]
  split
  next same => exact ⟨Map.find_put_same .., same.symm, fun _ _ _ other => absurd same other⟩
  next =>
    refine ⟨Map.find_put_same .., rfl, fun e he open_ _ => ?_⟩
    simp only [Pkg.newErrata, open_, Bool.false_eq_true, if_false, List.mem_map, List.mem_filter, decide_eq_true_eq] at he
    obtain ⟨y, ⟨-, kept⟩, rfl⟩ := he
    exact ⟨rfl, kept⟩

/-- START acts in CONFIG alone, where no checkpoint waits. -/
theorem Pkg.start_eq (p : Pkg) : p.start = if p.state = 1 ∧ p.safe.isNone then
    { p with state := 2, featact := (p.featsel &&& p.record.featMask &&& featMask) ||| 1, started := true } else p := by
  rw [Pkg.start]
  simp only [Bool.and_eq_true, decide_eq_true_eq, Pkg.featCap, BitVec.and_assoc]
/-- What an attestation report covers. -/
def Pkg.attested (p : Pkg) (nonce : BitVec 256) : List Byte :=
  leBytes 32 nonce.toNat ++ p.record.serial ++ p.digest 0 ++ p.digest 1 ++ p.digest 2
    ++ Machine.digest (Config.annexedBytes p.record p.annexBytes) ++ leBytes 32 p.featact.toNat
    ++ leBytes 8 p.record.errata.toNat
theorem Pkg.report_eq (p : Pkg) (nonce : BitVec 256) :
    p.report nonce = p.attested nonce ++ Config.attestation (p.attested nonce) := by
  have digests : [0, 1, 2].flatMap p.digest = p.digest 0 ++ p.digest 1 ++ p.digest 2 := by
    simp only [List.flatMap_cons, List.flatMap_nil, List.append_nil, List.append_assoc]
  rw [Pkg.report, digests, Pkg.attested]
  simp only [List.append_assoc]

/-! ### Power loss (R357) -/

/-- A pre-emption of several gangs of the module asks each once and the same. -/
theorem State.gang_preemptAll {s : State} {d k kind prio : Nat} {g : Gang} {gs : List (Nat × Nat)} (here : (d, k) ∈ gs)
    (gang : s.gang d k = some g) : (gs.foldl (fun (s : State) e => s.preempt e.1 e.2 kind prio) s).gang d k =
      some { g with preempt := some (preemptWord k kind prio, s.time) } := by
  have later (gs : List (Nat × Nat)) {u : State}
      (asked : u.gang d k = some { g with preempt := some (preemptWord k kind prio, u.time) }) :
      (gs.foldl (fun (s : State) e => s.preempt e.1 e.2 kind prio) u).gang d k =
        some { g with preempt := some (preemptWord k kind prio, u.time) } := by
    induction gs generalizing u with
    | nil => exact asked
    | cons e gs ih =>
      have time : (u.preempt e.1 e.2 kind prio).time = u.time := (u.noticed_preempt ..).time
      rw [List.foldl_cons, ← time]
      refine ih ?_
      rw [State.gang_preempt, time]
      split
      next same => rw [← same.1, ← same.2, asked]; rfl
      next => exact asked
  induction gs generalizing s with
  | nil => cases here
  | cons e gs ih =>
    have time : (s.preempt e.1 e.2 kind prio).time = s.time := (s.noticed_preempt ..).time
    rw [List.foldl_cons, ← time]
    by_cases first : d = e.1 ∧ k = e.2
    · refine later gs ?_
      rw [State.gang_preempt, if_pos first, ← first.1, ← first.2, gang, first.1, first.2, time]; rfl
    · refine ih ((List.mem_cons.1 here).resolve_left fun same => first (Prod.ext_iff.1 same)) ?_
      rw [State.gang_preempt, if_neg first, gang]
theorem State.mem_gangs {s : State} {d k : Nat} {g : Gang} (gang : s.gang d k = some g) : (d, k) ∈ s.gangs := by
  obtain ⟨x, die, listed⟩ := State.gang_listed gang
  exact List.mem_flatMap.2 ⟨_, Map.mem_of_find die, List.mem_map.2 ⟨_, Map.mem_of_find listed, rfl⟩⟩
/-- POWER_LOSS_WARNING outside bring-up and failure, and the first one. -/
theorem State.powerLoss_spec {s : State} {d k n : Nat} {g : Gang} (off : s.pkg.state ≠ 0) (first : s.pkg.state ≠ 3)
    (failed : s.pkg.state ≠ 5) (gang : s.gang d k = some g) :
    s.powerLoss.pkg = { s.pkg with state := 3, warned := some s.time } ∧ s.powerLoss.mem = s.mem
      ∧ s.powerLoss.gang d k = some { g with preempt := some (preemptWord k 1 0, s.time) }
      ∧ (s.powerLoss.core n).ctx = (s.core n).ctx := by
  have eq : s.powerLoss = s.gangs.foldl (fun (s : State) g => s.preempt g.1 g.2 1 0)
      (s.setPkg { s.pkg with state := 3, warned := some s.time }) := by
    rw [State.powerLoss, if_neg]
    · rfl
    · simp [off, first, failed]
  have noticed : (s.setPkg { s.pkg with state := 3, warned := some s.time }).Noticed s.powerLoss := by
    rw [eq]; exact .foldl (fun s e => s.noticed_preempt ..) _ _
  refine ⟨noticed.pkg, noticed.mem, ?_, noticed.ctx n⟩
  rw [eq]
  exact State.gang_preemptAll (s := s.setPkg _) (State.mem_gangs gang) gang

/-! ### The storage transfer and the restore (R357, R383) -/

theorem State.storageStarts_eq {s : State} {v : Safe} {p : Nat} {ps : List Nat} (warned : s.pkg.state = 3)
    (safe : s.pkg.safe = some v) (done : s.pkg.warned = none) (idle : s.pkg.storage = none)
    (ports : s.fab.storePorts = p :: ps) : s.storageStarts = s.setPkg { s.pkg with
      storage := some (s.fab.peer p, (p :: ps).filter fun q => s.fab.peer q == s.fab.peer p)
      unsent := 0, sent := [] } := by
  unfold State.storageStarts
  rw [warned, safe, done, idle, ports]
  rfl

theorem State.checkpointRestore_found {s : State} {v : Safe} (config : s.pkg.state = 1) (safe : s.pkg.safe = some v) :
    s.checkpointRestore = { s with pkg := { s.pkg with state := 4 } } := by
  unfold State.checkpointRestore
  simp only [config, safe]
  rfl
theorem State.checkpointRestore_done {s : State} {v : Safe} (restore : s.pkg.state = 4) (safe : s.pkg.safe = some v) :
    s.checkpointRestore = s.restored v := by
  unfold State.checkpointRestore
  simp only [restore, safe]

/-- A core's storage, which the record lists, comes from it. -/
theorem State.abuf_refillCore (s : State) (v : Safe) (n m : Nat) : ((s.refillCore v n).core m).loc.abuf =
    if m = n then (Map.find? v.abufs n).getD (s.core n).loc.abuf else (s.core m).loc.abuf := by
  rw [State.refillCore]
  split
  next same => rw [same, State.core_setCore_same]
  next other => rw [State.core_setCore_other _ _ other]
theorem State.abuf_refill (v : Safe) (n : Nat) (ns : List Nat) (s : State) :
    ((ns.foldl (fun (s : State) n => s.refillCore v n) s).core n).loc.abuf =
      if n ∈ ns then (Map.find? v.abufs n).getD (s.core n).loc.abuf else (s.core n).loc.abuf := by
  induction ns generalizing s with
  | nil => rfl
  | cons m ns ih =>
    rw [List.foldl_cons, ih, State.abuf_refillCore]
    by_cases here : n = m
    · rw [if_pos here, if_pos (List.mem_cons.2 (.inl here)), here]
      cases Map.find? v.abufs m <;> exact ite_self _
    · simp only [List.mem_cons, here, false_or, if_false]
/-- The cores' storage once the record has been restored. -/
theorem State.abuf_refillAll (v : Safe) (n : Nat) (s : State) :
    (((v.abufs.map (·.1)).foldl (fun (s : State) n => s.refillCore v n) s).core n).loc.abuf =
      (Map.find? v.abufs n).getD (s.core n).loc.abuf := by
  rw [State.abuf_refill]
  split
  next => rfl
  next unlisted =>
    cases found : Map.find? v.abufs n with
    | none => rfl
    | some m => exact absurd (List.mem_map_of_mem (f := (·.1)) (Map.mem_of_find found)) unlisted

/-- The stacks' bytes come from the record, the others stay. -/
theorem Memory.read_restored {m cs : Memory} {q : Nat → Bool} (a : Nat) (h : m.wf = true) (listed : cs.wf = true)
    (within : ∀ c ∈ cs, q c.1 = true) :
    Memory.read (cs.foldl (fun (m : Memory) c => Memory.write m c.1 c.2) (m.filter fun c => !q c.1)) a =
      if q a then cs.read a else m.read a := by
  rw [Memory.read_foldl_write a listed (Memory.filter_wfFrom _ h), Memory.read_filter (fun b => !q b) a h]
  by_cases inside : q a = true
  · rw [if_pos inside, inside]
    split
    next unlisted => exact unlisted.symm
    next => rfl
  · have outside : cs.read a = Memory.unlisted := by
      refine Memory.read_of_not_mem fun member => inside ?_
      obtain ⟨c, listed, rfl⟩ := List.mem_map.1 member
      exact within c listed
    rw [if_pos outside, if_neg inside, Bool.eq_false_iff.2 inside]; rfl
/-- CHECKPOINT_RESTORE in RESTORE. -/
theorem State.restored_spec {s : State} {v : Safe} {a n : Nat} (canonical : s.Canonical) (listed : v.bytes.wf = true)
    (within : ∀ c ∈ v.bytes, s.mem.shape.inStack c.1 = true) : let t := s.restored v
    t.mem.bytes.read a = (if s.mem.shape.inStack a then v.bytes.read a else s.mem.bytes.read a)
      ∧ (t.core n).loc.abuf = (Map.find? v.abufs n).getD (s.core n).loc.abuf ∧ t.dies = v.dies ∧ t.saves = v.saves
      ∧ t.pkg = { s.pkg with hqs := v.hqs, roots := v.roots, safe := none, state := 1 } := by
  intro t
  have mem := get_foldl State.mem (f := fun (s : State) n => s.refillCore v n) (fun _ _ => rfl) (v.abufs.map (·.1)) s
  have pkg := get_foldl State.pkg (f := fun (s : State) n => s.refillCore v n) (fun _ _ => rfl) (v.abufs.map (·.1)) s
  refine ⟨?_, s.abuf_refillAll v n, rfl, rfl, ?_⟩
  · unfold t State.restored
    dsimp only
    rw [mem]
    exact Memory.read_restored a canonical listed within
  · unfold t State.restored
    dsimp only
    rw [pkg]

end Sys2Proof.Machine
end

section
/-! What O44 turns on. `Map` says that its keys rise, but a state is plain data, and one may list an image twice: the reset
drops the images that may not run, and so brings forth one that is listed behind such an image. Whether an image verifies
is a free value, of which nothing can be proved. So neither O44 nor its negation can be: O44 holds exactly where no record
and image verify together. -/

namespace Sys2Proof.Machine

/-- An image whose length is not its header's. -/
def unsoundImage : FwImage := { kind := 0, version := 0, length := 1, errata := 0, body := [], signature := [] }
theorem Pkg.imageOk_unsoundImage (p : Pkg) : p.imageOk unsoundImage = false := by
  rw [Pkg.imageOk, show (unsoundImage.length == unsoundImage.body.length) = false from rfl, Bool.and_false, Bool.false_and]

/-- An image under each kind, of the first kind behind one that may not run. -/
def shadowed (x : FwImage) : Map FwImage := [(0, unsoundImage), (0, x), (1, x), (2, x)]
def Pkg.shadowing (p : Pkg) (x : FwImage) : State :=
  { State.reset with pkg := { p with running := shadowed x, pendingFw := [] } }
/-- The reset finds three images that may run. -/
theorem Pkg.moduleReset_shadowing {p : Pkg} {x : FwImage} (record : p.recordOk = true) (sound : p.imageOk x = true) :
    (p.shadowing x).moduleReset.pkg.state = 1 := by
  have kept : (p.shadowing x).pkg.runnable = [(0, x), (1, x), (2, x)] := by
    change Map.keep (shadowed x) (fun _ y => p.imageOk y) = _
    simp [Map.keep, shadowed, p.imageOk_unsoundImage, sound]
  rw [State.state_moduleReset, kept, show (p.shadowing x).pkg.recordOk = true from record]
  rfl

theorem not_bringUpAndPower_of_verifying {p : Pkg} {x : FwImage} (record : p.recordOk = true) (sound : p.imageOk x = true) :
    ¬ Obligations.bring_up_and_power := by
  intro h
  obtain ⟨⟨t, step, -, -, -, -, -, -, -, -, -, -, -, failed, -⟩, -⟩ :=
    h 0 0 0 0 0 ⟨0, 0, 0, [], [], false, [], none, 0, false, none, [], 0, 0, [], []⟩ 0 unsoundImage
      ⟨[], [], [], [], [], [], [], [], []⟩ [] (p.shadowing x)
  have runs := Pkg.moduleReset_shadowing record sound
  obtain rfl : _ = t := Host.Outcome.next.inj step
  rw [failed ?_] at runs
  · exact absurd runs (by decide)
  rintro ⟨-, images⟩
  obtain ⟨y, listed, -, length, -⟩ := images 0 (by decide)
  obtain rfl : unsoundImage = y := Option.some.inj listed
  exact absurd length (by decide)

theorem bringUpAndPower_of_not_verifying (none_ : ∀ (p : Pkg) x, p.recordOk = true → p.imageOk x = false) :
    Obligations.bring_up_and_power := by
  intro n d k p a g nonce x v ps s rec_ images sound good shape phys q
  have imageOk (y : FwImage) : s.pkg.imageOk y = true ↔ sound y := s.pkg.imageOk_iff y
  refine ⟨⟨_, rfl, rfl, rfl, rfl, rfl, rfl, rfl, rfl, rfl, rfl, rfl, ?_, ?_, rfl, rfl, rfl, rfl, rfl, rfl, rfl, rfl, ?_⟩,
    ?_, ⟨_, rfl, ?_, rfl⟩, ⟨_, rfl, rfl, s.pkg.running_update x, ?_, ?_⟩, fun off first failed gang => ⟨_, rfl, ?_⟩,
    fun warned safe done idle ports => ⟨_, rfl, ?_⟩, fun config safe => ⟨_, rfl, ?_⟩,
    fun restore safe canonical listed within => ⟨_, rfl, ?_⟩⟩
  · rintro ⟨record, listed⟩
    refine State.moduleReset_good record fun k hk => ?_
    obtain ⟨y, found, ok⟩ := listed k hk
    exact ⟨y, found, (imageOk y).2 ok⟩
  · exact fun _ => State.moduleReset_failed (none_ s.pkg)
  · intro small die cluster
    rw [State.pair_moduleReset small die cluster]
    refine ⟨rfl, rfl, rfl, ?_⟩
    simp only [pairOfAnnex, Bool.and_eq_true]
    rfl
  · exact ⟨_, rfl, rfl, rfl, s.pkg.start_eq⟩
  · exact congrArg (fun r => { s.pkg with out := s.pkg.out ++ [r] }) (s.pkg.report_eq nonce)
  · exact fun ok => Pkg.update_spec ((imageOk x).2 ok)
  · exact fun bad => Pkg.update_refused (Bool.eq_false_iff.2 (mt (imageOk x).1 bad))
  · exact State.powerLoss_spec off first failed gang
  · rw [State.storageStarts_eq warned safe done idle ports]; exact ⟨rfl, rfl, rfl⟩
  · exact State.checkpointRestore_found config safe
  · rw [State.checkpointRestore_done restore safe]
    exact State.restored_spec canonical listed within

/-- O44 holds exactly where no record and image verify together. -/
theorem bringUpAndPower_iff : Obligations.bring_up_and_power ↔ ∀ (p : Pkg) x, p.recordOk = true → p.imageOk x = false :=
  ⟨fun h _ _ record => Bool.eq_false_iff.2 fun sound => not_bringUpAndPower_of_verifying record sound h,
    bringUpAndPower_of_not_verifying⟩

/-- The two readings of the free value between which nothing decides: if no signature verifies O44 holds, and if each
does it fails. -/
theorem bringUpAndPower_of_none_verifies (h : ∀ d sig, Config.verifies d sig = false) : Obligations.bring_up_and_power :=
  bringUpAndPower_of_not_verifying fun p _ record => absurd record (Bool.eq_false_iff.1 (h _ p.record.sig))
theorem not_bringUpAndPower_of_all_verify (h : ∀ d sig, Config.verifies d sig = true) :
    ¬ Obligations.bring_up_and_power := by
  let p : Pkg := { Pkg.reset with record := { ConfigRecord.part with fwMin := [] } }
  let x : FwImage := { kind := 0, version := 0, length := 0, errata := 0, body := [], signature := [] }
  exact not_bringUpAndPower_of_verifying (p := p) (x := x) (h _ _) ((p.imageOk_iff x).2 ⟨h _ _, rfl, Nat.le_refl 0⟩)

end Sys2Proof.Machine
end
